-- ==== Sys2Proof/Word.lean ====
section
/-!
DEFINITION. The word types of the KV16 (00 R1, 01 R7).
-/

namespace Sys2Proof

/-- One byte of memory. -/
abbrev Byte := BitVec 8

/-- A scalar register, a CSR, a virtual address or a program counter (R7, R183). -/
abbrev Word := BitVec 64

/-- A vector register or an inbox entry (R7, R149). -/
abbrev VWord := BitVec 512

/-- The 96-bit cell of one instruction (R29). -/
abbrev CellWord := BitVec 96

/-- The index of a register field (R29). -/
abbrev RegIx := BitVec 6

end Sys2Proof
end

