-- ==== Sys2Proof/Config.lean ====
section
/-!
DEFINITION. What the spec leaves open: free values. Each is a constant without a body, so no proof can see its value
(log 6); a fresh one is drawn by applying it to the state's plain counter.
-/

namespace Sys2Proof.Config

/-- TICK counts that pass in a step (log 2): `TICK` advances by this much. -/
opaque freeTicks : Nat → BitVec 64

/-- Which of several allowed outcomes happens, as a number to be reduced to their count (log 6). -/
opaque freePick : Nat → Nat

/-- On which of its two far-tier dies a module keeps the parity block of a row (R375, log 6). -/
opaque parityDie : Nat → Nat → Nat

/-- A byte whose content the spec leaves unspecified, by draw and position (log 6). -/
opaque freeByte : Nat → Nat → BitVec 8

/-- The number of links that the link counter grid counts (R325): on-die mesh links are not counted by the spec (log 6). -/
opaque linkCount : Nat

end Sys2Proof.Config
end

