-- ==== Sys2Proof/Syntax.lean ====
section
/-!
DEFINITION. The instructions and machine events of the KV16: the five field layouts of R32-R37 and the one inductive
`Instr` with a constructor for every row of the opcode table.
-/

namespace Sys2Proof

/-- The sixteen TYPE codes of R32, in code order. -/
inductive Ty where
  | s8 | s16 | s32 | s64 | z8 | z16 | z32 | z64 | f16 | bf16 | f32 | f64 | e4m3 | e5m2 | g8 | g4
deriving DecidableEq, Repr

/-- Guard and switch marker of a cell (R29, R30): `pn` negates the guard, `pg` is its predicate, `sw` is bit 95. -/
structure Guard where
  pn : Bool
  pg : BitVec 3
  sw : Bool
deriving DecidableEq, Repr

/-- Scalar register form (R32, R33). -/
structure RForm where
  ty : Ty
  i : Bool
  sub : BitVec 3
  d : RegIx
  a : RegIx
  b : RegIx
  c : RegIx
  imm : BitVec 48
deriving DecidableEq, Repr

/-- Vector register form (R32, R33): IMM[46] is reserved. -/
structure VForm where
  ty : Ty
  i : Bool
  sub : BitVec 3
  d : RegIx
  a : RegIx
  b : RegIx
  c : RegIx
  zm : Bool
  mask : BitVec 3
  vimm : BitVec 43
deriving DecidableEq, Repr

/-- Memory form (R35, R221): `ext` is IMM[39:32], which R221 assigns to some instructions. -/
structure MForm where
  ty : Ty
  scale : BitVec 2
  idx : Bool
  d : RegIx
  a : RegIx
  b : RegIx
  c : RegIx
  zm : Bool
  mask : BitVec 3
  scope : BitVec 3
  ext : BitVec 8
  off : BitVec 32
deriving DecidableEq, Repr

/-- Branch form (R36). -/
structure BForm where
  d : RegIx
  a : RegIx
  b : RegIx
  c : RegIx
  disp : BitVec 45
  cell : BitVec 3
deriving DecidableEq, Repr

/-- Engine form (R37). -/
structure EForm where
  ty : Ty
  g : Bool
  sub : BitVec 3
  d : RegIx
  a : RegIx
  b : RegIx
  c : RegIx
  epa : BitVec 32
deriving DecidableEq, Repr

/-- A core: module, logical die, logical core number within the die (R133, R141). -/
structure CoreRef where
  m : Nat
  d : Nat
  c : Nat
deriving DecidableEq, Repr

/-- A task slot of a core (R135). -/
structure SlotRef where
  m : Nat
  d : Nat
  c : Nat
  k : Nat
deriving DecidableEq, Repr

/-- A hamlet: module, logical die, logical hamlet 0-47 (R133). -/
structure HamRef where
  m : Nat
  d : Nat
  h : Nat
deriving DecidableEq, Repr

/-- A launch: module, queue, sequence number in the queue (R159). -/
structure LaunchRef where
  m : Nat
  q : Nat
  s : Nat
deriving DecidableEq, Repr

/-- A page of 64 KiB by module, tag (an ASID, or 65536 for the global tag, R185) and page number VA[55:16]. -/
structure PageRef where
  m : Nat
  tag : Nat
  pn : Nat
deriving DecidableEq, Repr

/-- A 128-byte line by module, tag and line number VA / 128 (R185). -/
structure LineRef where
  m : Nat
  tag : Nat
  ln : Nat
deriving DecidableEq, Repr

/-- An access that has issued and not finished: an outstanding result of a slot, the head of a core's store buffer,
or an entry of its far store queue (R194, R208). -/
inductive AccRef where
  | out (w : SlotRef) (i : Nat)
  | near (c : CoreRef)
  | far (c : CoreRef) (i : Nat)
deriving DecidableEq, Repr

/-- The fields of a lease entry as firmware grants it (R369); `host` marks the WINDOW lease of an outbound host
window, whose lender is the host (R382). -/
structure LeaseArg where
  id : Nat
  borrower : Nat
  window : Bool
  size : Nat
  pbase : Nat
  lva : Word
  expiry : Word
  host : Bool
deriving DecidableEq, Repr

/-- A request from a host on one port, from queue pair `qp` (R379-R381). -/
structure HostReq where
  m : Nat
  port : Nat
  qp : Nat
  rkey : BitVec 32
  va : Word
  len : Nat
deriving DecidableEq, Repr

/-- A host window entry as firmware writes it (R380). -/
structure HostWinArg where
  base : Word
  len : Nat
  rkey : BitVec 32
  rights : BitVec 8
  ports : BitVec 8
deriving DecidableEq, Repr

/-- The link counter grid of module `m`, and its period 2^k as firmware has set it (R325, R383). -/
structure SnapArg where
  m : Nat
  k : Nat
deriving DecidableEq, Repr

/-- What a host request that the device does not support uses (R379). -/
inductive UnsupportedKind where
  | transport | operation | immediateData | memoryWindow | misalignedAtomic
deriving DecidableEq, Repr

/-- The firmware requests that a capability fault can abandon (R384). -/
inductive FwRequest where
  | lease | hostWindow
  | record (w : CoreRef)
  | recovery (byB : Bool)
deriving DecidableEq, Repr

/-- Where a bit flips of itself (R391): an ECC word of a local store or of memory, a register result under residue
checking, an accumulator entry, a weight in a plane of a mill (R257), or the next product of a weight row and column (R256). -/
inductive FlipAt where
  | localWord (c : CoreRef) (word : Nat) (bit : Nat)
  | memWord (m : Nat) (word : Nat) (bit : Nat)
  | result (w : SlotRef) (bit : Nat)
  | accEntry (h : HamRef) (row : Nat) (col : Nat) (bit : Nat)
  | planeWeight (h : HamRef) (plane : Nat) (k : Nat) (j : Nat) (bit : Nat)
  | product (h : HamRef) (k : Nat) (j : Nat) (bit : Nat)
deriving DecidableEq, Repr

/-- One constructor per row of the opcode table: the 192 instructions of R40 with their guard and their form's
fields, then the 121 machine events of the table with the choice each one leaves open as operands. -/
inductive Instr where
  /-- NOP (R89): Does nothing, though it may carry a guard and the switch marker. -/
  | nop (g : Guard) (f : RForm)
  /-- ADD (R84): Integer addition that wraps, or saturates with .sat. -/
  | add (g : Guard) (f : RForm)
  /-- SUB (R84): Integer subtraction that wraps, or saturates with .sat. -/
  | sub (g : Guard) (f : RForm)
  /-- MUL (R84): Integer multiplication that keeps the low n bits, or saturates. -/
  | mul (g : Guard) (f : RForm)
  /-- MULH (R84): Writes the high n bits of the 2n-bit product. -/
  | mulh (g : Guard) (f : RForm)
  /-- MADD (R84): Computes a*b+c with one wrap or clamp at the end. -/
  | madd (g : Guard) (f : RForm)
  /-- DIV (R85): Deferred integer division that truncates toward zero, with fixed results for division by zero. -/
  | div (g : Guard) (f : RForm)
  /-- REM (R85): Deferred remainder that takes the sign of the dividend. -/
  | rem (g : Guard) (f : RForm)
  /-- ABS (R84): Absolute value of an integer, optionally saturating. -/
  | abs (g : Guard) (f : RForm)
  /-- MIN (R84): The smaller of two integers, compared by signedness. -/
  | min (g : Guard) (f : RForm)
  /-- MAX (R84): The larger of two integers, compared by signedness. -/
  | max (g : Guard) (f : RForm)
  /-- AND (R86): Bitwise AND of n-bit patterns. -/
  | and (g : Guard) (f : RForm)
  /-- OR (R86): Bitwise OR of n-bit patterns. -/
  | or (g : Guard) (f : RForm)
  /-- XOR (R86): Bitwise XOR of n-bit patterns. -/
  | xor (g : Guard) (f : RForm)
  /-- ANDN (R86): Computes u AND NOT ub. -/
  | andn (g : Guard) (f : RForm)
  /-- ORN (R86): Computes u OR NOT ub. -/
  | orn (g : Guard) (f : RForm)
  /-- SHL (R86): Shifts left by the amount mod n. -/
  | shl (g : Guard) (f : RForm)
  /-- SHR (R86): Logical right shift by the amount mod n. -/
  | shr (g : Guard) (f : RForm)
  /-- SAR (R86): Arithmetic right shift by the amount mod n. -/
  | sar (g : Guard) (f : RForm)
  /-- ROT (R86): Rotates the n-bit pattern left or right. -/
  | rot (g : Guard) (f : RForm)
  /-- CLZ (R86): Counts leading zeros. -/
  | clz (g : Guard) (f : RForm)
  /-- CTZ (R86): Counts trailing zeros. -/
  | ctz (g : Guard) (f : RForm)
  /-- POPC (R86): Counts the ones in the pattern. -/
  | popc (g : Guard) (f : RForm)
  /-- BREV (R86): Reverses the bit order. -/
  | brev (g : Guard) (f : RForm)
  /-- BSWAP (R86): Reverses the byte order. -/
  | bswap (g : Guard) (f : RForm)
  /-- MOV (R87): Copies a scalar register. -/
  | mov (g : Guard) (f : RForm)
  /-- MOVI (R87): Writes a sign-extended 48-bit immediate at the given type. -/
  | movi (g : Guard) (f : RForm)
  /-- MOVHI (R87): Places a 16-bit immediate in bits 63:48 above the low 48 bits of sA. -/
  | movhi (g : Guard) (f : RForm)
  /-- SEL (R87): Selects sA or operand B by a predicate. -/
  | sel (g : Guard) (f : RForm)
  /-- EXT (R87): Sign- or zero-extends the low k bits of sA. -/
  | ext (g : Guard) (f : RForm)
  /-- BFX (R87): Extracts a bit field with sign or zero extension. -/
  | bfx (g : Guard) (f : RForm)
  /-- BFI (R87): Inserts a bit field from sB into sA. -/
  | bfi (g : Guard) (f : RForm)
  /-- LEA (R87): Computes an address without accessing memory. -/
  | lea (g : Guard) (f : RForm)
  /-- CMP (R88): Compares two integers into a predicate. -/
  | cmp (g : Guard) (f : RForm)
  /-- TEST (R88): Tests whether the AND of two operands is non-zero, or zero. -/
  | test (g : Guard) (f : RForm)
  /-- ADDC (R88): Add or subtract with carry or borrow held in a predicate. -/
  | addc (g : Guard) (f : RForm)
  /-- PAND (R90): AND of two optionally inverted predicates. -/
  | pand (g : Guard) (f : RForm)
  /-- POR (R90): OR of two optionally inverted predicates. -/
  | por (g : Guard) (f : RForm)
  /-- PXOR (R90): XOR of two optionally inverted predicates. -/
  | pxor (g : Guard) (f : RForm)
  /-- PSET (R90): Sets a predicate from a non-zero test of a scalar or an immediate. -/
  | pset (g : Guard) (f : RForm)
  /-- PGET (R90): Reads one predicate, or all eight, into a scalar. -/
  | pget (g : Guard) (f : RForm)
  /-- BR (R92): Branches to a line-relative target cell. -/
  | br (g : Guard) (f : BForm)
  /-- BRI (R92): Branches to the address held in sA. -/
  | bri (g : Guard) (f : RForm)
  /-- CALL (R92): Branches to a relative target and writes the link to s63. -/
  | call (g : Guard) (f : BForm)
  /-- CALLI (R92): Branches to the address in sA and writes the link to s63. -/
  | calli (g : Guard) (f : RForm)
  /-- RET (R92): Branches to the address in s63. -/
  | ret (g : Guard) (f : RForm)
  /-- LOOP (R92): Decrements a counter and branches while the result is non-zero. -/
  | loop (g : Guard) (f : BForm)
  /-- FADD (R94): Floating-point addition, rounded. -/
  | fadd (g : Guard) (f : RForm)
  /-- FSUB (R94): Floating-point subtraction, rounded. -/
  | fsub (g : Guard) (f : RForm)
  /-- FMUL (R94): Floating-point multiplication, rounded. -/
  | fmul (g : Guard) (f : RForm)
  /-- FFMA (R94): Fused multiply-add, rounded once. -/
  | ffma (g : Guard) (f : RForm)
  /-- FDIV (R94): Deferred floating-point division. -/
  | fdiv (g : Guard) (f : RForm)
  /-- FSQRT (R94): Deferred floating-point square root. -/
  | fsqrt (g : Guard) (f : RForm)
  /-- FMIN (R95): Floating-point minimum with IEEE NaN handling. -/
  | fmin (g : Guard) (f : RForm)
  /-- FMAX (R95): Floating-point maximum with IEEE NaN handling. -/
  | fmax (g : Guard) (f : RForm)
  /-- FCMP (R96): Floating-point comparison into a predicate. -/
  | fcmp (g : Guard) (f : RForm)
  /-- FCLASS (R97): Writes a one-hot class of the operand. -/
  | fclass (g : Guard) (f : RForm)
  /-- FCVT (R98): Converts between floating-point formats. -/
  | fcvt (g : Guard) (f : RForm)
  /-- FCVTI (R98): Converts floating point to an integer. -/
  | fcvti (g : Guard) (f : RForm)
  /-- ICVTF (R98): Converts an integer to floating point. -/
  | icvtf (g : Guard) (f : RForm)
  /-- FRCP (R99): Deferred reciprocal, correctly rounded. -/
  | frcp (g : Guard) (f : RForm)
  /-- FRSQ (R99): Deferred reciprocal square root. -/
  | frsq (g : Guard) (f : RForm)
  /-- FEXP2 (R99): Deferred 2 to the power a. -/
  | fexp2 (g : Guard) (f : RForm)
  /-- FLOG2 (R99): Deferred base-2 logarithm. -/
  | flog2 (g : Guard) (f : RForm)
  /-- FSGN (R100): Replaces the sign bit by copy, negation or XOR. -/
  | fsgn (g : Guard) (f : RForm)
  /-- VADD (R111): Element-wise addition under a mask. -/
  | vadd (g : Guard) (f : VForm)
  /-- VSUB (R111): Element-wise subtraction. -/
  | vsub (g : Guard) (f : VForm)
  /-- VMUL (R111): Element-wise multiplication. -/
  | vmul (g : Guard) (f : VForm)
  /-- VMULH (R111): Element-wise high half of the product. -/
  | vmulh (g : Guard) (f : VForm)
  /-- VFMA (R111): Element-wise fused multiply-add. -/
  | vfma (g : Guard) (f : VForm)
  /-- VDIV (R111): Deferred element-wise division. -/
  | vdiv (g : Guard) (f : VForm)
  /-- VSQRT (R111): Deferred element-wise square root. -/
  | vsqrt (g : Guard) (f : VForm)
  /-- VMIN (R111): Element-wise minimum. -/
  | vmin (g : Guard) (f : VForm)
  /-- VMAX (R111): Element-wise maximum. -/
  | vmax (g : Guard) (f : VForm)
  /-- VABS (R111): Element-wise absolute value. -/
  | vabs (g : Guard) (f : VForm)
  /-- VSGN (R111): Element-wise sign operation, as FSGN. -/
  | vsgn (g : Guard) (f : VForm)
  /-- VADDS (R111): Element-wise saturating addition. -/
  | vadds (g : Guard) (f : VForm)
  /-- VSUBS (R111): Element-wise saturating subtraction. -/
  | vsubs (g : Guard) (f : VForm)
  /-- VAND (R112): Element-wise AND. -/
  | vand (g : Guard) (f : VForm)
  /-- VOR (R112): Element-wise OR. -/
  | vor (g : Guard) (f : VForm)
  /-- VXOR (R112): Element-wise XOR. -/
  | vxor (g : Guard) (f : VForm)
  /-- VANDN (R112): Element-wise AND NOT. -/
  | vandn (g : Guard) (f : VForm)
  /-- VSHL (R112): Element-wise left shift. -/
  | vshl (g : Guard) (f : VForm)
  /-- VSHR (R112): Element-wise logical right shift. -/
  | vshr (g : Guard) (f : VForm)
  /-- VSAR (R112): Element-wise arithmetic right shift. -/
  | vsar (g : Guard) (f : VForm)
  /-- VPOPC (R112): Element-wise population count. -/
  | vpopc (g : Guard) (f : VForm)
  /-- VCMP (R113): Element-wise comparison into a mask register. -/
  | vcmp (g : Guard) (f : VForm)
  /-- VSEL (R114): Selects elements by a mask. -/
  | vsel (g : Guard) (f : VForm)
  /-- VBCAST (R114): Broadcasts a scalar or an immediate into every active element. -/
  | vbcast (g : Guard) (f : VForm)
  /-- VEXT (R114): Extracts one element into a scalar. -/
  | vext (g : Guard) (f : VForm)
  /-- VINS (R114): Inserts a scalar into one element. -/
  | vins (g : Guard) (f : VForm)
  /-- VPERM (R114): Permutes elements by index. -/
  | vperm (g : Guard) (f : VForm)
  /-- VROT (R114): Rotates elements. -/
  | vrot (g : Guard) (f : VForm)
  /-- VMOVI (R114): Writes an arithmetic sequence into the elements. -/
  | vmovi (g : Guard) (f : VForm)
  /-- VREDSUM (R115): Sums the active elements in a fixed tree into a scalar. -/
  | vredsum (g : Guard) (f : VForm)
  /-- VREDMIN (R115): Tree minimum into a scalar. -/
  | vredmin (g : Guard) (f : VForm)
  /-- VREDMAX (R115): Tree maximum into a scalar. -/
  | vredmax (g : Guard) (f : VForm)
  /-- VSCAN (R115): Sequential prefix sum. -/
  | vscan (g : Guard) (f : VForm)
  /-- VCVT (R117): Converts element types, with part selection. -/
  | vcvt (g : Guard) (f : VForm)
  /-- VPACK (R118): Narrows two vectors into one. -/
  | vpack (g : Guard) (f : VForm)
  /-- VWIDEN (R119): Widens one half of the source elements. -/
  | vwiden (g : Guard) (f : VForm)
  /-- VUNPACK3 (R120): Unpacks ternary bytes into trits, faulting on or zeroing illegal bytes. -/
  | vunpack3 (g : Guard) (f : VForm)
  /-- VSPARSE24 (R122): Keeps two elements of four and records their indices. -/
  | vsparse24 (g : Guard) (f : VForm)
  /-- VEXPAND24 (R123): Expands 2:4-sparse data back into place. -/
  | vexpand24 (g : Guard) (f : VForm)
  /-- VDOT4 (R121): Accumulates four-way 8-bit dot products into s32 lanes. -/
  | vdot4 (g : Guard) (f : VForm)
  /-- VTACC (R121): Accumulates activations, adding or subtracting them by trit bytes. -/
  | vtacc (g : Guard) (f : VForm)
  /-- VQUANT (R124): Quantizes floating-point elements to g8 or g4 codes. -/
  | vquant (g : Guard) (f : VForm)
  /-- VDEQ (R125): Dequantizes g8 or g4 codes to floating point. -/
  | vdeq (g : Guard) (f : VForm)
  /-- VRCP (R126): Deferred element-wise reciprocal. -/
  | vrcp (g : Guard) (f : VForm)
  /-- VRSQ (R126): Deferred element-wise reciprocal square root. -/
  | vrsq (g : Guard) (f : VForm)
  /-- VEXP2 (R126): Deferred element-wise 2 to the power x. -/
  | vexp2 (g : Guard) (f : VForm)
  /-- VLOG2 (R126): Deferred element-wise base-2 logarithm. -/
  | vlog2 (g : Guard) (f : VForm)
  /-- MAND (R127): AND of two masks. -/
  | mand (g : Guard) (f : VForm)
  /-- MOR (R127): OR of two masks. -/
  | mor (g : Guard) (f : VForm)
  /-- MXOR (R127): XOR of two masks. -/
  | mxor (g : Guard) (f : VForm)
  /-- MNOT (R127): Inverts a mask. -/
  | mnot (g : Guard) (f : VForm)
  /-- MPOP (R127): Counts the ones of a mask. -/
  | mpop (g : Guard) (f : VForm)
  /-- MFIRST (R127): Index of the lowest set bit of a mask. -/
  | mfirst (g : Guard) (f : VForm)
  /-- MMOV (R127): Moves between masks and scalars. -/
  | mmov (g : Guard) (f : VForm)
  /-- LD (R104): Loads 1 to 8 bytes, fixed-latency in LOCAL and deferred elsewhere. -/
  | ld (g : Guard) (f : MForm)
  /-- ST (R104): Stores 1 to 8 bytes into a store buffer or the far store queue. -/
  | st (g : Guard) (f : MForm)
  /-- LDA (R223): Acquire load at a scope, which stalls later accesses while it is outstanding. -/
  | lda (g : Guard) (f : MForm)
  /-- STREL (R224): Release store at a scope. -/
  | strel (g : Guard) (f : MForm)
  /-- LDC (R230): Deferred load through the hamlet constant cache. -/
  | ldc (g : Guard) (f : MForm)
  /-- LDP (R104): Loads 16 bytes into two registers. -/
  | ldp (g : Guard) (f : MForm)
  /-- STP (R104): Stores 16 bytes from two registers. -/
  | stp (g : Guard) (f : MForm)
  /-- PREF (R231): Prefetch hint toward the L1, the hamlet cache or the memory-side cache. -/
  | pref (g : Guard) (f : MForm)
  /-- FENCE (R225): Stalls until earlier accesses are performed within the scope. -/
  | fence (g : Guard) (f : MForm)
  /-- FLUSH (R232): Returns a line's tokens and dirty data to its home. -/
  | flush (g : Guard) (f : MForm)
  /-- PIN (R233): Pins the page holding ea and reports a status. -/
  | pin (g : Guard) (f : MForm)
  /-- UNPIN (R234): Releases one program pin of a page. -/
  | unpin (g : Guard) (f : MForm)
  /-- AMO (R226): Deferred atomic read-modify-write that returns the old value. -/
  | amo (g : Guard) (f : MForm)
  /-- CAS (R227): Deferred compare-and-swap. -/
  | cas (g : Guard) (f : MForm)
  /-- CAS2 (R228): Deferred 16-byte compare-and-swap on register pairs. -/
  | cas2 (g : Guard) (f : MForm)
  /-- VLD (R128): Contiguous vector load. -/
  | vld (g : Guard) (f : MForm)
  /-- VST (R128): Contiguous vector store. -/
  | vst (g : Guard) (f : MForm)
  /-- VLDS (R128): Strided vector load. -/
  | vlds (g : Guard) (f : MForm)
  /-- VSTS (R128): Strided vector store. -/
  | vsts (g : Guard) (f : MForm)
  /-- VGATHER (R128): Deferred indexed vector load. -/
  | vgather (g : Guard) (f : MForm)
  /-- VSCATTER (R132): Indexed vector store, in which the highest element wins. -/
  | vscatter (g : Guard) (f : MForm)
  /-- VLDB (R128): Loads one element and broadcasts it. -/
  | vldb (g : Guard) (f : MForm)
  /-- SYNC (R165): Closes the batch and parks the slot in SYNC at the current level. -/
  | sync (g : Guard) (f : RForm)
  /-- VOTE (R166): ORs and ANDs a 16-bit value into the core's vote pair. -/
  | vote (g : Guard) (f : RForm)
  /-- BARA (R168): Arrives at a barrier as a pkg-scope release. -/
  | bara (g : Guard) (f : RForm)
  /-- BARW (R169): Waits for a barrier phase to be released. -/
  | barw (g : Guard) (f : RForm)
  /-- DOMSET (R167): Swaps the sync level used by SYNC and VOTE. -/
  | domset (g : Guard) (f : RForm)
  /-- SEND (R170): Sends a program message to a core slot, with a deferred status. -/
  | send (g : Guard) (f : EForm)
  /-- RECV (R171): Claims the oldest inbox entry of the slot into a vector register. -/
  | recv (g : Guard) (f : RForm)
  /-- PEEK (R172): Reports the inbox count and kind without dequeuing. -/
  | peek (g : Guard) (f : RForm)
  /-- WAITA (R173): Parks on a local-store word until it differs or a wake arrives. -/
  | waita (g : Guard) (f : RForm)
  /-- WAKE (R174): Wakes a slot parked in WAITA, or sets its pending wake. -/
  | wake (g : Guard) (f : RForm)
  /-- WALK (R175): Reads a walk descriptor and starts the tile walker. -/
  | walk (g : Guard) (f : RForm)
  /-- TEND (R177): Ends a task, with write-out for a walked task. -/
  | tend (g : Guard) (f : RForm)
  /-- TASKADD (R176): Appends a task to the core's task queue. -/
  | taskadd (g : Guard) (f : RForm)
  /-- SPAWN (R178): Starts the lowest FREE slot at a PC. -/
  | spawn (g : Guard) (f : RForm)
  /-- YIELD (R179): Lets the other READY slots issue first. -/
  | yield (g : Guard) (f : RForm)
  /-- EXIT (R177): Ends the slot once its outstanding results have returned. -/
  | exit (g : Guard) (f : RForm)
  /-- MLOADW (R262): Sends a command that loads the shadow weight plane. -/
  | mloadw (g : Guard) (f : EForm)
  /-- MSWAP (R263): Sends a command that swaps the shadow and active planes. -/
  | mswap (g : Guard) (f : EForm)
  /-- MSTREAM (R264): Sends a command that streams activation rows past the active plane, after a format check at issue. -/
  | mstream (g : Guard) (f : EForm)
  /-- MZERO (R265): Sends a command that clears accumulator tiles and sets AEXP. -/
  | mzero (g : Guard) (f : EForm)
  /-- ACCRD (R266): Sends a command that writes accumulator entries to memory. -/
  | accrd (g : Guard) (f : EForm)
  /-- ACCWR (R266): Sends a command that writes memory into accumulator entries. -/
  | accwr (g : Guard) (f : EForm)
  /-- MSTAT (R267): Queries tile or plane state through the mill queue, with a deferred result. -/
  | mstat (g : Guard) (f : RForm)
  /-- CPY (R268): Sends a linear copy command. -/
  | cpy (g : Guard) (f : EForm)
  /-- CPY2 (R269): Sends a 2-D copy command, possibly to a torus neighbour. -/
  | cpy2 (g : Guard) (f : EForm)
  /-- CPYR (R270): Sends a copy command to a peer module. -/
  | cpyr (g : Guard) (f : EForm)
  /-- COLL (R271): Sends a collective command over a sync domain. -/
  | coll (g : Guard) (f : EForm)
  /-- ECODE (R272): Sends an erasure-coding command for encoding or update. -/
  | ecode (g : Guard) (f : EForm)
  /-- CKPT (R273): Sends a checkpoint cut or restore command. -/
  | ckpt (g : Guard) (f : EForm)
  /-- MIGR (R274): Sends a page migration command. -/
  | migr (g : Guard) (f : EForm)
  /-- GSET (R275): Resolves the earlier guarded commands on a guard slot. -/
  | gset (g : Guard) (f : RForm)
  /-- CBATCH (R276): Closes the core's open engine batch. -/
  | cbatch (g : Guard) (f : RForm)
  /-- WAITB (R276): Closes the batch and parks until at most n batches are outstanding. -/
  | waitb (g : Guard) (f : RForm)
  /-- ENGQ (R277): Sends a queue-depth or drain query to an engine. -/
  | engq (g : Guard) (f : EForm)
  /-- TRAP (R302): Raises TRAP_INSTR with the immediate. -/
  | trap (g : Guard) (f : RForm)
  /-- ERET (R303): Returns from a local trap handler to TRAPPC. -/
  | eret (g : Guard) (f : RForm)
  /-- BREAK (R302): Raises BREAKPOINT with bit 63 set. -/
  | brk (g : Guard) (f : RForm)
  /-- CSRRD (R304): Reads a CSR, indexed for HVMAP and LPCT. -/
  | csrrd (g : Guard) (f : RForm)
  /-- CSRWR (R304): Writes a CSR field by field and returns the old value. -/
  | csrwr (g : Guard) (f : RForm)
  /-- CSRSET (R304): Sets CSR bits and returns the old value. -/
  | csrset (g : Guard) (f : RForm)
  /-- CSRCLR (R304): Clears CSR bits and returns the old value. -/
  | csrclr (g : Guard) (f : RForm)
  /-- IFENCE (R305): Waits for LOCAL stores to drain, then refreshes the instruction buffer and the constant cache. -/
  | ifence (g : Guard) (f : RForm)
  /-- DLOG (R306): Merges the dirty log and returns the count removed. -/
  | dlog (g : Guard) (f : RForm)
  /-- RESUME (R307): Sends a resumption action to a FAULTED slot. -/
  | resume (g : Guard) (f : RForm)
  /-- CDOPEN (R308): Writes a save area and pushes an ordinary containment frame. -/
  | cdopen (g : Guard) (f : RForm)
  /-- CDPRES (R309): Attaches a preserved range, by copy or by reference. -/
  | cdpres (g : Guard) (f : RForm)
  /-- CDOUT (R310): Attaches an output range to the innermost frame. -/
  | cdout (g : Guard) (f : RForm)
  /-- CDCLOSE (R311): Waits for results, then closes the frame or rolls it back. -/
  | cdclose (g : Guard) (f : RForm)
  /-- CDFAIL (R312): Rolls back the innermost frame. -/
  | cdfail (g : Guard) (f : RForm)
  /-- RBEGIN (R308): Pushes a remote containment frame. -/
  | rbegin (g : Guard) (f : RForm)
  /-- RCOMMIT (R313): Waits for the remote accesses to complete, then pops the remote frame. -/
  | rcommit (g : Guard) (f : RForm)
  /-- DEFERRED_RESULT_RETURN (R18): A deferred result is written, its pending mark cleared, and a DEFER park or stall may end. -/
  | deferredResultReturn (w : SlotRef) (i : Nat) (unit : Option Nat)
  /-- DEFERRED_FAILURE (R194): A later check on an issued access fails and the slot stops issuing to report it. -/
  | deferredFailure (a : AccRef)
  /-- FAULT_DELIVERY (R283): Once its results have returned, a task-mode slot enters FAULTED and sends its fault record to FSUP. -/
  | faultDelivery (w : SlotRef)
  /-- LOCAL_TRAP_ENTRY (R286): A supervisor-mode slot writes the trap CSRs and continues at TRAPVEC. -/
  | localTrapEntry (w : SlotRef)
  /-- RESUME_DELIVERY (R285): A RESUME reaches a FAULTED slot and performs retry, skip, continue or a kill. -/
  | resumeDelivery (i : Nat)
  /-- CD_ROLLBACK (R296): After the wait, restores copied ranges and registers and branches to the retry PC, or escalates. -/
  | cdRollback (w : SlotRef)
  /-- CONTEXT_SWAP_OUT (R196): Once the other results have settled, a slot whose page is not present saves its context and becomes
  FREE. -/
  | contextSwapOut (w : SlotRef)
  /-- PAGE_MADE_RESIDENT (R196): Firmware makes a requested page resident, or finds it unmapped. -/
  | pageMadeResident (p : PageRef) (leaf : Word)
  /-- CONTEXT_RESTORE (R196): A SWAPPED context is restored into a FREE slot and its owed accesses are sent again. -/
  | contextRestore (c : CoreRef) (i : Nat)
  /-- STORE_BUFFER_DRAIN (R208): The head near store of the buffer performs, in FIFO order. -/
  | storeBufferDrain (c : CoreRef)
  /-- FAR_STORE_DRAIN (R208): A far store from the far store queue performs, in any order. -/
  | farStoreDrain (c : CoreRef) (i : Nat) (unit : Nat)
  /-- LOG_MERGE (R203): The hamlet agent merges log entries into the page table's D bits. -/
  | logMerge (c : CoreRef) (n : Nat)
  /-- MESSAGE_ARRIVAL (R150): A message reaches a core and goes to the inbox or the spill ring, or is refused. -/
  | messageArrival (i : Nat)
  /-- SPILL_RING_MOVE (R151): As inbox entries free, the head entry of the spill ring moves into the inbox, or is lost. -/
  | spillRingMove (c : CoreRef)
  /-- WAKE_DELIVERY (R174): A WAKE reaches its slot and wakes it or sets its pending wake. -/
  | wakeDelivery (i : Nat)
  /-- WALK_TASK_DISPATCH (R155): The walker reads in-footprints, pins them and dispatches a tile task into a FREE slot. -/
  | walkTaskDispatch (c : CoreRef) (tile : List Nat)
  /-- QUEUED_TASK_DISPATCH (R156): A queued task is dispatched into a FREE slot with its arguments. -/
  | queuedTaskDispatch (c : CoreRef)
  /-- FOOTPRINT_WRITE_OUT (R155): At TEND, out-footprints are written to memory, pins are released and buffers are freed. -/
  | footprintWriteOut (w : SlotRef)
  /-- SYNC_DOMAIN_COMPLETE (R142): Every present core of a domain has arrived and the exchange phase begins. -/
  | syncDomainComplete (l : LaunchRef) (level : Nat) (x : Nat) (y : Nat)
  /-- EXCHANGE_COMPLETE (R146): The exchange copies finish and parked slots resume with SSTEP and XVAR updated. -/
  | exchangeComplete (l : LaunchRef) (level : Nat) (x : Nat) (y : Nat) (order : List Nat)
  /-- SYNC_TIMEOUT (R143): SYNCTO expires for a slot parked in SYNC or BARW and raises BARRIER 5. -/
  | syncTimeout (w : SlotRef)
  /-- BARRIER_RELEASE (R148): C0 reaches the member count, the phase flips and the release is broadcast. -/
  | barrierRelease (l : LaunchRef) (b : Nat)
  /-- LAUNCH_UNIT_PASS (R161): After a launch end, a TAIL change or a PATIENCE expiry, the unit validates head records and starts or
  pre-empts. -/
  | launchUnitPass (m : Nat)
  /-- LAUNCH_ENTRY (R139): When every present core holds its images, slot 0 of each becomes READY at ENTRY. -/
  | launchEntry (l : LaunchRef)
  /-- LAUNCH_END (R219): When every core has ended, logs merge, pins and layouts are released, QSTAT is written and DONE advances.
  -/
  | launchEnd (l : LaunchRef)
  /-- PATIENCE_EXPIRY (R161): A waiting launch's PATIENCE expires and triggers a pass that may pre-empt. -/
  | patienceExpiry (m : Nat) (q : Nat)
  /-- DRAIN_BOUNDARY_HOLD (R316): At rung 1, every core is held at a level-0 boundary and the save begins. -/
  | drainBoundaryHold (l : LaunchRef) (us : Nat)
  /-- DRAIN_LIMIT_EXPIRY (R316): T1 expires during drain and the ladder moves to the save at rung 2. -/
  | drainLimitExpiry (l : LaunchRef)
  /-- SAVE_COMPLETE (R316): The save area is written and the cores are released. -/
  | saveComplete (l : LaunchRef) (us : Nat)
  /-- SAVE_LIMIT_EXPIRY (R316): T2 expires and rung 3 resets the launch's engines and abandons its state. -/
  | saveLimitExpiry (l : LaunchRef)
  /-- LAUNCH_RESTORE (R317): A saved launch restarts when its rectangle is free, and its records are restored. -/
  | launchRestore (l : LaunchRef)
  /-- CHECKPOINT_RESTART (R318): A reset launch is restored from its newest committed cut, or ends with STATUS 3. -/
  | checkpointRestart (l : LaunchRef)
  /-- ENGINE_COMMAND_ARRIVAL (R239): A command reaches its engine and begins in issue order per core. -/
  | engineCommandArrival (id : Nat)
  /-- CRIER_WINDOW_EXPIRY (R246): After 64 cycles the crier sends one merged command for its group. -/
  | crierWindowExpiry (id : Nat)
  /-- COMMAND_COMPLETION (R240): A command completes, writes its status, sends NOTIFY and retires from its batch. -/
  | commandCompletion (id : Nat)
  /-- ENGINE_WATCHDOG_EXPIRY (R243): A command reaches its watchdog limit and completes with TIMEOUT. -/
  | engineWatchdogExpiry (id : Nat)
  /-- MLOADW_RUN (R262): The mill reads records and weights into the shadow plane. -/
  | mloadwRun (id : Nat)
  /-- MSWAP_RUN (R263): The mill exchanges the planes in one tile step. -/
  | mswapRun (id : Nat)
  /-- MSTREAM_TILE_STEP (R253): The rows of a stream that fall in one tile add their exact addends. -/
  | mstreamTileStep (id : Nat) (order : List Nat)
  /-- MZERO_TILE_STEP (R265): One tile is cleared and its AEXP is set. -/
  | mzeroTileStep (id : Nat)
  /-- ACCRD_TILE_STEP (R266): One tile's rows are checked, converted and written to memory. -/
  | accrdTileStep (id : Nat)
  /-- ACCWR_TILE_STEP (R266): One tile's rows are written from memory into the entries. -/
  | accwrTileStep (id : Nat)
  /-- MSTAT_QUERY_RUN (R267): After the queue's earlier commands, MSTAT's result is returned. -/
  | mstatQueryRun (id : Nat)
  /-- SCRUBBER_READ (R256): The background scrubber checks entry residues as a tile step. -/
  | scrubberRead (h : HamRef) (tile : Nat)
  /-- MILL_SUBARRAY_GATING (R255): A sub-array idle for MILLIDLE cycles is power-gated. -/
  | millSubarrayGating (h : HamRef) (sub : Nat)
  /-- CPY_RUN (R268): The copy engine copies LEN bytes and writes the completion word. -/
  | cpyRun (id : Nat) (n : Nat)
  /-- CPY2_RUN (R269): The copy engine copies rows, locally or to a torus neighbour. -/
  | cpy2Run (id : Nat) (n : Nat)
  /-- CPYR_RUN (R270): The copy engine copies to a peer under a lease. -/
  | cpyrRun (id : Nat) (n : Nat)
  /-- COLL_RUN (R271): The collective engine matches members, combines their data and writes each DST. -/
  | collRun (id : Nat) (order : List Nat)
  /-- ECODE_RUN (R272): The copy engine computes or updates GF(2^8) parity. -/
  | ecodeRun (id : Nat)
  /-- CKPT_CUT_BOUNDARY (R328): At the next level-0 boundary, logs merge, records are written and write tokens of the cut set are
  withheld. -/
  | ckptCutBoundary (id : Nat)
  /-- CKPT_PAGE_COPY (R328): The engine copies one cut page, clears its D bit and releases its tokens. -/
  | ckptPageCopy (id : Nat) (i : Nat)
  /-- CKPT_COMMIT (R328): GEN, CSTEP and the commit word are written and the cut completes. -/
  | ckptCommit (id : Nat)
  /-- CKPT_RESTORE_RUN (R328): The engine rebuilds in-scope pages from the committed chain and places the records. -/
  | ckptRestoreRun (id : Nat)
  /-- MIGR_RUN (R274): The migration engine moves resident pages to the target tier by table changes. -/
  | migrRun (id : Nat)
  /-- ENGQ_QUERY_RUN (R277): A .q query completes on arrival with a queue count. -/
  | engqQueryRun (id : Nat)
  /-- ENGQ_DRAIN_COMPLETE (R277): A .drain completes after the covered commands or records are done. -/
  | engqDrainComplete (id : Nat)
  /-- EINJ_RESULT_ARM (R290): A KIND 1 EINJ write arms a result flip that the next checked instruction makes. -/
  | einjResultArm (w : SlotRef) (x : Word)
  /-- EINJ_STORE_SINGLE_FLIP (R290): A KIND 2 EINJ write flips one bit of a local-store word. -/
  | einjStoreSingleFlip (w : SlotRef) (x : Word)
  /-- EINJ_STORE_DOUBLE_FLIP (R290): A KIND 3 EINJ write flips two bits and makes the word uncorrectable. -/
  | einjStoreDoubleFlip (w : SlotRef) (x : Word)
  /-- EINJ_ACCUMULATOR_ARM (R290): A KIND 4 EINJ write enters an accumulator flip into the mill queue. -/
  | einjAccumulatorArm (w : SlotRef) (x : Word)
  /-- ACCUMULATOR_FLIP (R290): As a tile step, one bit of an entry's E is flipped and RES is left alone. -/
  | accumulatorFlip (id : Nat)
  /-- LOG_REGISTER_WRITE (R203): A DLOGHEAD or DLOGLIM write that changes a field merges the log, then takes effect. -/
  | logRegisterWrite (c : CoreRef) (lim : Bool) (x : Word)
  /-- SPILLBASE_WRITE (R151): A write to BASE or SIZE takes effect when the ring empties; LOST is cleared at once. -/
  | spillbaseWrite (c : CoreRef) (x : Word)
  /-- MFLGPOS_CLEAR (R258): Clearing VALID clears MFLGPOS and re-arms recording. -/
  | mflgposClear (c : CoreRef)
  /-- PAGE_TABLE_CHANGE (R192): Firmware withholds tokens, recalls lines and installs a new leaf. -/
  | pageTableChange (p : PageRef) (level : Nat) (entry : Word)
  /-- THRESHOLD_MIGRATION (R355): A MODE 3 page's translation count reaches its threshold and a move to the near tier is requested.
  -/
  | thresholdMigration (p : PageRef)
  /-- TRANSIENT_REQUEST (R344): A token request reaches the home, which answers and forwards it to HINT holders. -/
  | transientRequest (ln : LineRef) (h : HamRef) (write : Bool) (arrive : Bool)
  /-- TOKEN_ATTEMPT_TIMEOUT (R344): An attempt not satisfied within 2048 cycles fails and is tried again. -/
  | tokenAttemptTimeout (ln : LineRef) (h : HamRef)
  /-- PERSISTENT_REQUEST (R345): After three failures, a persistent request reaches the home arbiter. -/
  | persistentRequest (ln : LineRef) (h : HamRef) (write : Bool)
  /-- PERSISTENT_ACTIVATION (R345): The arbiter broadcasts an activation and every holder sends its tokens to the requester. -/
  | persistentActivation (ln : LineRef)
  /-- PERSISTENT_DEACTIVATION (R345): The requester deactivates and, after every acknowledgement, the next request may activate. -/
  | persistentDeactivation (ln : LineRef)
  /-- LINE_EVICTION (R344): An evicted line returns its tokens, and data with the owner token, to the home. -/
  | lineEviction (ln : LineRef) (h : HamRef)
  /-- DIE_FAILURE_DECLARED (R335): FAIL is set, links are declared dead, token recovery starts and affected launches stop. -/
  | dieFailureDeclared (m : Nat) (site : Nat)
  /-- TOKEN_RECOVERY_COMPLETE (R346): Once every report is in, missing tokens are re-created, poison is decided and the freeze is
  released. -/
  | tokenRecoveryComplete (p : PageRef)
  /-- SPARE_TAKEOVER (R335): A tested spare is written into a takeover field and the stopped launches restart. -/
  | spareTakeover (m : Nat) (die : Nat) (site : Nat) (testOk : Bool)
  /-- DIE_EVACUATION (R348): A responsive die returns all its tokens before a controlled reset. -/
  | dieEvacuation (m : Nat) (die : Nat)
  /-- EVACUATION_TIMEOUT (R348): An evacuation not finished in 10 ms leads to a failure declaration. -/
  | evacuationTimeout (m : Nat) (die : Nat)
  /-- TIER_DIE_LOSS (R349): A near-tier or far-tier die is lost, and its lines are rehomed, poisoned or rebuilt. -/
  | tierDieLoss (m : Nat) (die : Nat)
  /-- LINK_DEAD_DECLARED (R340): After 16 replays or 20 µs without acknowledgement, a die-network link is declared dead. -/
  | linkDeadDeclared (m : Nat) (a : Nat) (b : Nat)
  /-- ROUTE_TABLE_REWRITE (R340): Service processors reroute, and unacknowledged packets are resent on the new route. -/
  | routeTableRewrite (m : Nat)
  /-- FABRIC_CHANNEL_DEAD (R362): A fabric channel is declared dead, and traffic spreads over live channels or is relayed. -/
  | fabricChannelDead (m : Nat) (peer : Nat) (channel : Nat)
  /-- REMOTE_ACCESS_ARRIVAL (R365): A borrower's access reaches the lender, is checked against the lease and performed. -/
  | remoteAccessArrival (a : AccRef) (unit : Nat)
  /-- LEASE_GRANT (R370): The lender's service processors grant a lease entry. -/
  | leaseGrant (m : Nat) (i : Nat) (e : LeaseArg)
  /-- LEASE_RENEWAL (R370): EXPIRY of a lease is moved later before it passes. -/
  | leaseRenewal (m : Nat) (id : Nat) (expiry : Word)
  /-- LEASE_EXPIRY (R370): TICK reaches EXPIRY and a LEND lease begins reclaim or a WINDOW lease is revoked. -/
  | leaseExpiry (m : Nat) (id : Nat)
  /-- RECLAIM (R371): The borrower receives RECLAIM, recalls tokens and copies and switches its pages. -/
  | reclaim (m : Nat) (id : Nat) (frames : List Nat)
  /-- RELEASE (R371): The lender receives RELEASE and empties the lease entry. -/
  | release (m : Nat) (id : Nat)
  /-- RECLAIM_DEADLINE (R372): Tr passes without RELEASE, the lease is revoked and uncopied pages are poisoned. -/
  | reclaimDeadline (m : Nat) (id : Nat) (frames : List Nat)
  /-- WINDOW_REVOCATION (R373): A WINDOW lease is revoked and later accesses fail. -/
  | windowRevocation (m : Nat) (id : Nat)
  /-- ROW_REBUILD (R378): Firmware rebuilds a current stripe row from six surviving blocks. -/
  | rowRebuild (set : Nat) (row : Nat)
  /-- RDMA_WRITE (R380): A host RDMA WRITE is checked against a host window and performed. -/
  | rdmaWrite (r : HostReq) (data : List Byte)
  /-- RDMA_READ (R380): A host RDMA READ is checked against a host window and performed. -/
  | rdmaRead (r : HostReq)
  /-- COMPARE_SWAP (R381): A host CompareSwap on an aligned 8-byte word, as a release at host scope. -/
  | compareSwap (r : HostReq) (cmp : Word) (swap : Word)
  /-- FETCH_ADD (R381): A host FetchAdd on an aligned 8-byte word, as a release at host scope. -/
  | fetchAdd (r : HostReq) (add : Word)
  /-- DIAGNOSIS_REPEAT (R386): Service processors that disagree diagnose again every 1 ms. -/
  | diagnosisRepeat (m : Nat) (target : Nat) (failedA : Bool) (failedB : Bool)
  /-- ACK_SILENCE_TIMEOUT (R387): An outside voter with no acknowledgement from a module for 1 ms votes failed. -/
  | ackSilenceTimeout (voter : Nat) (m : Nat)
  /-- VOTER_TIMEOUT (R387): A voter that has not answered within 5 ms is skipped. -/
  | voterTimeout (voter : Nat) (m : Nat)
  /-- MODULE_FAILURE_DECLARED (R387): Three failed votes declare a module failed and the declaration is broadcast. -/
  | moduleFailureDeclared (m : Nat)
  /-- CAPABILITY_FAULT (R384): A service processor abandons a request that would exceed its capability. -/
  | capabilityFault (m : Nat) (req : FwRequest)
  /-- BOOT_STEP (R389): One boot step runs with started and done records, or takes its alternate path. -/
  | bootStep (m : Nat) (step : Nat) (ok : Bool)
  /-- TAMPER_ALARM (R390): Within 1 µs keys are erased, lasers and ports go off and the dies stop. -/
  | tamperAlarm (m : Nat)
  /-- THERMAL_THROTTLE (R385): After 1 ms at 105 °C the die runs its arithmetic clock at half rate. -/
  | thermalThrottle (m : Nat) (die : Nat)
  /-- THROTTLE_RELEASE (R385): After 10 ms below 100 °C full rate resumes. -/
  | throttleRelease (m : Nat) (die : Nat)
  /-- THERMAL_STOP (R385): A die that reaches 115 °C is stopped at once. -/
  | thermalStop (m : Nat) (die : Nat)
  /-- MODULE_RESET (R4): Module reset sets registers to their Reset values. -/
  | moduleReset (m : Nat)
  /-- DEBUG_HALT (R322): After an ACT = 0 match, the launch halts at its next level-0 boundary. -/
  | debugHalt (l : LaunchRef)
  /-- DEBUG_CONTINUE (R322): Service processors continue a halted launch. -/
  | debugContinue (l : LaunchRef)
  /-- DEBUG_GROUP_HALT (R323): Every module of a debug group runs to the largest CNT0 and halts there. -/
  | debugGroupHalt (ls : List LaunchRef)
  /-- BOUNDARY_DUMP (R326): A save frame is taken at a level-0 boundary without pre-emption. -/
  | boundaryDump (l : LaunchRef)
  /-- FORCED_DUMP (R326): Issue stops mid-phase and a frame is written with lists of buffered stores. -/
  | forcedDump (l : LaunchRef) (kill : Bool)
  /-- COUNTER_SNAPSHOT (R325): Every 2^k cycles the link counter grid stores a snapshot to its ring. -/
  | counterSnapshot (g : SnapArg)
  /-- HOST_WINDOW_WRITE (R380): Firmware writes an entry of the host window table, and hardware refuses an entry that breaks R380.
  -/
  | hostWindowWrite (m : Nat) (i : Nat) (e : HostWinArg)
  /-- QUEUE_REGISTRATION (R159): Firmware places a queue descriptor, with its SUPV and SAVE fields, and registers its VA with the
  launch unit. -/
  | queueRegistration (m : Nat) (q : Nat) (desc : Word) (ring : Word) (log2n : Nat) (supv : Bool) (save : Word)
  /-- PREEMPTION_REQUEST (R316): Firmware pre-empts a running launch, which starts it up the ladder. -/
  | preemptionRequest (l : LaunchRef)
  /-- CONTROLLED_RESET (R348): Once a die's evacuation has finished, the die is reset with its local stores unspecified and its
  launches restart from their cuts. -/
  | controlledReset (m : Nat) (die : Nat)
  /-- HBM4E_STACK_LOSS (R391): An HBM4E stack fails, its frames are removed, PROT blocks are rebuilt and other lines are poisoned.
  -/
  | hbm4eStackLoss (m : Nat) (stack : Nat)
  /-- BIT_FLIP (R391): A bit flips of itself in an ECC word, a register result or an accumulator entry, to be found later by ECC or
  a residue check. -/
  | bitFlip (f : FlipAt)
  /-- SERVICE_PROCESSOR_FAILURE (R386): One service processor fails, and the survivor acts on die-level actions only when two module
  voters confirm them. -/
  | serviceProcessorFailure (m : Nat) (isB : Bool)
  /-- HOST_CONNECTION_FAILURE (R382): The RC connection behind an outbound host window fails, and accesses to host memory fail with
  REMOTE_FAILURE. -/
  | hostConnectionFailure (m : Nat) (id : Nat)
  /-- UNSUPPORTED_HOST_REQUEST (R379): A host request that uses an unsupported transport or operation, or a misaligned atomic, is
  answered with an invalid-request NAK and performs nothing. -/
  | unsupportedHostRequest (r : HostReq) (kind : UnsupportedKind)
deriving DecidableEq, Repr

end Sys2Proof
end

