-- ==== Sys2Proof/Machine/Bits.lean ====
section
/-!
DEFINITION. Widths and classes of the TYPE codes (R32, R50, R103) and bit helpers on natural numbers.
-/

namespace Sys2Proof.Machine

/-- The TYPE code of R32. -/
def tyCode : Ty → Nat
  | .s8 => 0 | .s16 => 1 | .s32 => 2 | .s64 => 3 | .z8 => 4 | .z16 => 5 | .z32 => 6 | .z64 => 7
  | .f16 => 8 | .bf16 => 9 | .f32 => 10 | .f64 => 11 | .e4m3 => 12 | .e5m2 => 13 | .g8 => 14 | .g4 => 15

/-- The type of a TYPE code, taken modulo 16. -/
def tyOf (n : Nat) : Ty :=
  match n % 16 with
  | 0 => .s8 | 1 => .s16 | 2 => .s32 | 3 => .s64 | 4 => .z8 | 5 => .z16 | 6 => .z32 | 7 => .z64
  | 8 => .f16 | 9 => .bf16 | 10 => .f32 | 11 => .f64 | 12 => .e4m3 | 13 => .e5m2 | 14 => .g8 | _ => .g4

/-- Width in bits of an element (R50, R53, R61, R64). -/
def tyBits : Ty → Nat
  | .s8 | .z8 | .e4m3 | .e5m2 | .g8 => 8
  | .s16 | .z16 | .f16 | .bf16 => 16
  | .s32 | .z32 | .f32 => 32
  | .s64 | .z64 | .f64 => 64
  | .g4 => 4

/-- Width in bytes of an access (R103). -/
def tyBytes (t : Ty) : Nat := tyBits t / 8

/-- s8 to s64. -/
def tySigned : Ty → Bool
  | .s8 | .s16 | .s32 | .s64 => true
  | _ => false

/-- s8 to z64 (R50). -/
def tyIsInt : Ty → Bool
  | .s8 | .s16 | .s32 | .s64 | .z8 | .z16 | .z32 | .z64 => true
  | _ => false

/-- Number of binary digits of `n`, 0 for 0. -/
def bitLen (n : Nat) : Nat := if n = 0 then 0 else n.log2 + 1

/-- Bit `i` of `n`. -/
def bitAt (n i : Nat) : Bool := n.testBit i

/-- The signed reading of the low `n` bits of `x` (R82). -/
def sintOf (n x : Nat) : Int :=
  let u := x % 2 ^ n
  if 2 * u < 2 ^ n then (u : Int) else (u : Int) - 2 ^ n

/-- The reading of the low bits of `x` as an integer of type `t` (R82). -/
def intOf (t : Ty) (x : Nat) : Int :=
  if tySigned t then sintOf (tyBits t) x else ((x % 2 ^ tyBits t : Nat) : Int)

/-- The low `n` bits of an integer. -/
def wrapTo (n : Nat) (r : Int) : Nat := (r % 2 ^ n).toNat

/-- Least value of an integer type (R50). -/
def tyMin (t : Ty) : Int := if tySigned t then -(2 ^ (tyBits t - 1)) else 0

/-- Greatest value of an integer type (R50). -/
def tyMax (t : Ty) : Int := if tySigned t then 2 ^ (tyBits t - 1) - 1 else 2 ^ tyBits t - 1

/-- The 64-bit value a scalar destination of type `t` takes for the pattern `x` (R51). -/
def extendTo (t : Ty) (x : Nat) : Word :=
  if tySigned t then BitVec.ofInt 64 (sintOf (tyBits t) x) else BitVec.ofNat 64 (x % 2 ^ tyBits t)

/-- Number of ones among the low `n` bits of `x`. -/
def popCount (n x : Nat) : Nat :=
  match n with
  | 0 => 0
  | k + 1 => (if x.testBit k then 1 else 0) + popCount k x

/-- The low `n` bits of `x` in reverse order, below the bits of `acc`. -/
def bitRevAux (n x acc : Nat) : Nat :=
  match n with
  | 0 => acc
  | k + 1 => bitRevAux k (x / 2) (2 * acc + x % 2)

/-- The low `n` bytes of `x` in reverse order, below the bytes of `acc`. -/
def byteRevAux (n x acc : Nat) : Nat :=
  match n with
  | 0 => acc
  | k + 1 => byteRevAux k (x / 256) (256 * acc + x % 256)

/-- Trailing zeros of the low `n` bits of `x`; `n` if they are all zero. -/
def ctzOf (n x : Nat) : Nat :=
  match n with
  | 0 => 0
  | k + 1 => if x % 2 = 1 then 0 else 1 + ctzOf k (x / 2)

/-- Leading zeros of the low `n` bits of `x`. -/
def clzOf (n x : Nat) : Nat := n - bitLen (x % 2 ^ n)

end Sys2Proof.Machine
end

