-- ==== Sys2Proof/Machine/Fp.lean ====
section
/-!
DEFINITION. The floating-point formats as exact values, the one rounding of R55 and R62, and the operations that round
once (R53-R62, R94-R98).
-/

namespace Sys2Proof.Machine

/-- FFLG bits (R9): NV, DZ, OF, UF, NX, TERN, SAT from bit 0 up. -/
abbrev Flags := BitVec 7

def flNV : Flags := 1
def flDZ : Flags := 2
def flOF : Flags := 4
def flUF : Flags := 8
def flNX : Flags := 16
def flTERN : Flags := 32
def flSAT : Flags := 64

/-- The four rounding modes of R55. -/
inductive RMode where
  | rne | rtz | rup | rdn
deriving DecidableEq, Repr

/-- A binary format: total bits, fraction bits, bias, and whether an exponent field of ones is ordinary (e4m3, R61). -/
structure FFmt where
  w : Nat
  fb : Nat
  bias : Nat
  e4 : Bool
deriving DecidableEq, Repr

/-- The format of a floating-point TYPE (R53, R61); f64 for a type that is none. -/
def fmtOf : Ty → FFmt
  | .f16 => ⟨16, 10, 15, false⟩
  | .bf16 => ⟨16, 7, 127, false⟩
  | .f32 => ⟨32, 23, 127, false⟩
  | .e4m3 => ⟨8, 3, 7, true⟩
  | .e5m2 => ⟨8, 2, 15, false⟩
  | _ => ⟨64, 52, 1023, false⟩

/-- The value of a pattern: a NaN (signalling or not), an infinity, or exactly ±m × 2^e. -/
inductive FVal where
  | nan (sig : Bool)
  | inf (neg : Bool)
  | fin (neg : Bool) (m : Nat) (e : Int)
deriving DecidableEq, Repr

/-- Width of the exponent field. -/
def expBits (f : FFmt) : Nat := f.w - 1 - f.fb

/-- The sign bit of a pattern. -/
def signOf (f : FFmt) (x : Nat) : Bool := x.testBit (f.w - 1)

/-- The exponent of the last place of subnormals: emin − fraction bits. -/
def qMin (f : FFmt) : Int := 1 - (f.bias : Int) - f.fb

/-- The value that a pattern of the format encodes (R53, R61). -/
def fpDecode (f : FFmt) (x : Nat) : FVal :=
  let x := x % 2 ^ f.w
  let neg := signOf f x
  let frac := x % 2 ^ f.fb
  let ex := x / 2 ^ f.fb % 2 ^ expBits f
  let ones := 2 ^ expBits f - 1
  if f.e4 then
    if ex = ones && frac = 2 ^ f.fb - 1 then .nan false
    else if ex = 0 then .fin neg frac (qMin f)
    else .fin neg (2 ^ f.fb + frac) (qMin f + ex - 1)
  else if ex = ones then
    if frac = 0 then .inf neg else .nan (!frac.testBit (f.fb - 1))
  else if ex = 0 then .fin neg frac (qMin f)
  else .fin neg (2 ^ f.fb + frac) (qMin f + ex - 1)

/-- A sign bit at the top of the format. -/
def signBit (f : FFmt) (neg : Bool) : Nat := if neg then 2 ^ (f.w - 1) else 0

/-- The canonical quiet NaN (R53, R56, R61). -/
def canonNaN (f : FFmt) : Nat :=
  if f.e4 then 2 ^ (f.w - 1) - 1 else (2 ^ expBits f - 1) * 2 ^ f.fb + 2 ^ (f.fb - 1)

/-- The infinity of an IEEE format or of e5m2. -/
def infPat (f : FFmt) (neg : Bool) : Nat := signBit f neg + (2 ^ expBits f - 1) * 2 ^ f.fb

/-- The largest finite magnitude. -/
def maxPat (f : FFmt) (neg : Bool) : Nat :=
  signBit f neg + (if f.e4 then 2 ^ (f.w - 1) - 2 else (2 ^ expBits f - 1) * 2 ^ f.fb - 1)

/-- Whether rounding in this mode moves a magnitude away from zero: `odd` is the last kept digit, `cmp` compares the
dropped part with half of it (0 below, 1 equal, 2 above), `inex` says something was dropped. -/
def roundsUp (rm : RMode) (neg odd : Bool) (cmp : Nat) (inex : Bool) : Bool :=
  match rm with
  | .rne => cmp = 2 || (cmp = 1 && odd)
  | .rtz => false
  | .rup => inex && !neg
  | .rdn => inex && neg

/-- The magnitude m × 2^e (plus something below 2^e when `st`) in units of 2^q, rounded; and whether it was inexact. -/
def roundAt (rm : RMode) (neg : Bool) (m : Nat) (e : Int) (st : Bool) (q : Int) : Nat × Bool :=
  if q ≤ e then
    let r := m * 2 ^ (e - q).toNat
    (if roundsUp rm neg (r % 2 = 1) 0 st then r + 1 else r, st)
  else
    let k := (q - e).toNat
    let r := m / 2 ^ k
    let d := m % 2 ^ k
    let half := 2 ^ (k - 1)
    let inex := st || d != 0
    let cmp := if d < half then 0 else if d = half && !st then 1 else 2
    (if roundsUp rm neg (r % 2 = 1) cmp inex then r + 1 else r, inex)

/-- What overflow delivers in this mode (R55): an infinity, or the largest finite value. -/
def overflowsToInf (rm : RMode) (neg : Bool) : Bool :=
  match rm with
  | .rne => true
  | .rtz => false
  | .rup => !neg
  | .rdn => neg

/-- The pattern and flags of an overflow (R55, R62). -/
def overflowPat (f : FFmt) (rm : RMode) (sat neg : Bool) : Nat × Flags :=
  if sat then (maxPat f neg, flSAT ||| flNX)
  else if overflowsToInf rm neg then (if f.e4 then canonNaN f else infPat f neg, flOF ||| flNX)
  else (maxPat f neg, flOF ||| flNX)

/-- The one rounding of R55 and R62: ±(m × 2^e, plus something below 2^e when `st`) to the format. Tininess is judged
after rounding (R54). With `st`, `m` must have more digits than the format by two at least. -/
def fpRound (f : FFmt) (rm : RMode) (sat neg : Bool) (m : Nat) (e : Int) (st : Bool) : Nat × Flags :=
  if m = 0 && !st then (signBit f neg, 0)
  else
    let top : Int := e + bitLen m - 1
    let qu : Int := top - f.fb
    let q : Int := max qu (qMin f)
    let (r, inex) := roundAt rm neg m e st q
    let maxM := if f.e4 then 2 ^ (f.fb + 1) - 2 else 2 ^ (f.fb + 1) - 1
    let qMax : Int := if f.e4 then (f.bias : Int) + 1 - f.fb else (f.bias : Int) - f.fb
    if q > qMax || (q = qMax && r > maxM) then overflowPat f rm sat neg
    else
      let pat := if r < 2 ^ f.fb then r else ((q - qMin f).toNat + 1) * 2 ^ f.fb + (r - 2 ^ f.fb)
      let tiny := qu < qMin f && (roundAt rm neg m e st qu).1 < 2 ^ (qMin f + f.fb - qu).toNat
      (signBit f neg + pat, (if inex then flNX else 0) ||| (if tiny && inex then flUF else 0))

/-- A value delivered in a format: the rounding of a finite value, an infinity by R55 and R62, the canonical NaN. -/
def fpDeliver (f : FFmt) (rm : RMode) (sat : Bool) (v : FVal) : Nat × Flags :=
  match v with
  | .nan sig => (canonNaN f, if sig then flNV else 0)
  | .inf neg =>
    if sat then (maxPat f neg, flSAT)
    else if f.e4 then (canonNaN f, flNV) else (infPat f neg, 0)
  | .fin neg m e => fpRound f rm sat neg m e false

/-- NV when an operand is a signalling NaN (R56, R57). -/
def sigFlag (vs : List FVal) : Flags := if vs.any (fun v => v == FVal.nan true) then flNV else 0

/-- Is a NaN. -/
def isNan : FVal → Bool
  | .nan _ => true
  | _ => false

/-- The signed integer ±m. -/
def signedOf (neg : Bool) (m : Nat) : Int := if neg then -(m : Int) else (m : Int)

/-- The exact sum of two finite values, with the sign of a zero sum by R55. -/
def fpAddExact (rm : RMode) (n1 : Bool) (m1 : Nat) (e1 : Int) (n2 : Bool) (m2 : Nat) (e2 : Int) : FVal :=
  let e := min e1 e2
  let s := signedOf n1 m1 * 2 ^ (e1 - e).toNat + signedOf n2 m2 * 2 ^ (e2 - e).toNat
  if s = 0 then .fin (if n1 = n2 then n1 else decide (rm = .rdn)) 0 e
  else .fin (decide (s < 0)) s.natAbs e

/-- The sum of two values that are no NaN. -/
def fpSum (f : FFmt) (rm : RMode) (a b : FVal) : Nat × Flags :=
  match a, b with
  | .inf x, .inf y => if x = y then (infPat f x, 0) else (canonNaN f, flNV)
  | .inf x, _ => (infPat f x, 0)
  | _, .inf y => (infPat f y, 0)
  | .fin n1 m1 e1, .fin n2 m2 e2 => fpDeliver f rm false (fpAddExact rm n1 m1 e1 n2 m2 e2)
  | _, _ => (canonNaN f, 0)

/-- a + b (R55, R94). -/
def fpAdd (f : FFmt) (rm : RMode) (x y : Nat) : Nat × Flags :=
  let a := fpDecode f x
  let b := fpDecode f y
  if isNan a || isNan b then (canonNaN f, sigFlag [a, b]) else fpSum f rm a b

/-- The value with its sign inverted. -/
def fpNegVal : FVal → FVal
  | .nan s => .nan s
  | .inf n => .inf (!n)
  | .fin n m e => .fin (!n) m e

/-- a − b (R94). -/
def fpSub (f : FFmt) (rm : RMode) (x y : Nat) : Nat × Flags :=
  let a := fpDecode f x
  let b := fpDecode f y
  if isNan a || isNan b then (canonNaN f, sigFlag [a, b]) else fpSum f rm a (fpNegVal b)

/-- The exact product; a NaN (marked signalling, so that it raises NV) for 0 × ∞. For the mill R73 names no product of two
infinities: this one, an infinity by the sign of the product, is the model's choice there (log 32). -/
def fpMulVal (a b : FVal) : FVal :=
  match a, b with
  | .inf x, .inf y => .inf (x != y)
  | .inf x, .fin n m _ => if m = 0 then .nan true else .inf (x != n)
  | .fin n m _, .inf y => if m = 0 then .nan true else .inf (n != y)
  | .fin n1 m1 e1, .fin n2 m2 e2 => .fin (n1 != n2) (m1 * m2) (e1 + e2)
  | _, _ => .nan false

/-- a × b (R94). -/
def fpMul (f : FFmt) (rm : RMode) (x y : Nat) : Nat × Flags :=
  let a := fpDecode f x
  let b := fpDecode f y
  if isNan a || isNan b then (canonNaN f, sigFlag [a, b]) else fpDeliver f rm false (fpMulVal a b)

/-- a × b + c, rounded once; 0 × ∞ raises NV even beside a quiet NaN (R55, R94). -/
def fpFma (f : FFmt) (rm : RMode) (x y z : Nat) : Nat × Flags :=
  let a := fpDecode f x
  let b := fpDecode f y
  let c := fpDecode f z
  if isNan a || isNan b then (canonNaN f, sigFlag [a, b, c])
  else
    let p := fpMulVal a b
    if isNan p then (canonNaN f, flNV)
    else if isNan c then (canonNaN f, sigFlag [c])
    else fpSum f rm p c

/-- a ÷ b (R57, R94). -/
def fpDiv (f : FFmt) (rm : RMode) (x y : Nat) : Nat × Flags :=
  let a := fpDecode f x
  let b := fpDecode f y
  match a, b with
  | .inf n, .fin k _ _ => (infPat f (n != k), 0)
  | .fin n _ _, .inf k => (signBit f (n != k), 0)
  | .fin n m1 e1, .fin k m2 e2 =>
    if m2 = 0 then (if m1 = 0 then (canonNaN f, flNV) else (infPat f (n != k), flDZ))
    else if m1 = 0 then (signBit f (n != k), 0)
    else
      let h := f.fb + 4 + bitLen m2
      let t := m1 * 2 ^ h
      fpRound f rm false (n != k) (t / m2) (e1 - e2 - h) (t % m2 != 0)
  | .inf _, .inf _ => (canonNaN f, flNV)
  | _, _ => (canonNaN f, sigFlag [a, b])

/-- The integer square root: `r` grown by the digits 2^(k-1) … 1 that keep its square at most `n`. -/
def isqrtAux (k n r : Nat) : Nat :=
  match k with
  | 0 => r
  | j + 1 => if (r + 2 ^ j) * (r + 2 ^ j) ≤ n then isqrtAux j n (r + 2 ^ j) else isqrtAux j n r

/-- The integer square root. -/
def isqrt (n : Nat) : Nat := isqrtAux (bitLen n / 2 + 1) n 0

/-- √a (R57, R94). -/
def fpSqrt (f : FFmt) (rm : RMode) (x : Nat) : Nat × Flags :=
  match fpDecode f x with
  | .nan s => (canonNaN f, if s then flNV else 0)
  | .inf n => if n then (canonNaN f, flNV) else (infPat f false, 0)
  | .fin n m e =>
    if m = 0 then (signBit f n, 0)
    else if n then (canonNaN f, flNV)
    else
      let h := 2 * (f.fb + 4) + (if e % 2 = 0 then 0 else 1)
      let t := m * 2 ^ h
      let r := isqrt t
      fpRound f rm false false r ((e - h) / 2) (r * r != t)

/-- 1/√a (R99). -/
def fpRsq (f : FFmt) (rm : RMode) (x : Nat) : Nat × Flags :=
  match fpDecode f x with
  | .nan s => (canonNaN f, if s then flNV else 0)
  | .inf n => if n then (canonNaN f, flNV) else (0, 0)
  | .fin n m e =>
    if m = 0 then (infPat f n, flDZ)
    else if n then (canonNaN f, flNV)
    else
      -- with e made even, 1/√(m 2^e) = √(2^(2h) / m) × 2^(-h - e/2)
      let m' := if e % 2 = 0 then m else 2 * m
      let e' := if e % 2 = 0 then e else e - 1
      let h := f.fb + 4 + bitLen m'
      let r := isqrt (2 ^ (2 * h) / m')
      fpRound f rm false false r (-(h : Int) - e' / 2) (r * r * m' != 2 ^ (2 * h))

/-- 1/a: the same result as dividing 1.0 by a (R99). -/
def fpRcp (f : FFmt) (rm : RMode) (x : Nat) : Nat × Flags := fpDiv f rm (f.bias * 2 ^ f.fb) x

/-- a < b for values that are no NaN. -/
def fpLtVal (a b : FVal) : Bool :=
  match a, b with
  | .inf x, .inf y => x && !y
  | .inf x, _ => x
  | _, .inf y => !y
  | .fin n1 m1 e1, .fin n2 m2 e2 =>
    let e := min e1 e2
    decide (signedOf n1 m1 * 2 ^ (e1 - e).toNat < signedOf n2 m2 * 2 ^ (e2 - e).toNat)
  | _, _ => false

/-- −0 before +0, else by value (R95). -/
def fpTotalLt (f : FFmt) (x y : Nat) : Bool :=
  let a := fpDecode f x
  let b := fpDecode f y
  fpLtVal a b || (!fpLtVal b a && signOf f x && !signOf f y)

/-- FMIN and FMAX (R95). -/
def fpMinMax (f : FFmt) (isMax : Bool) (x y : Nat) : Nat × Flags :=
  let x := x % 2 ^ f.w
  let y := y % 2 ^ f.w
  let a := fpDecode f x
  let b := fpDecode f y
  let fl := sigFlag [a, b]
  if isNan a && isNan b then (canonNaN f, fl)
  else if isNan a then (y, fl)
  else if isNan b then (x, fl)
  else if isMax then (if fpTotalLt f x y then y else x, fl)
  else (if fpTotalLt f y x then y else x, fl)

/-- FCMP by SUB (R96). -/
def fpCmp (f : FFmt) (sub : Nat) (x y : Nat) : Bool × Flags :=
  let a := fpDecode f x
  let b := fpDecode f y
  let un := isNan a || isNan b
  let lt := !un && fpLtVal a b
  let gt := !un && fpLtVal b a
  let eq := !un && !lt && !gt
  let quiet := sigFlag [a, b]
  let loud := if un then flNV else 0
  match sub % 8 with
  | 0 => (eq, quiet)
  | 1 => (lt, loud)
  | 2 => (lt || eq, loud)
  | 3 => (un, quiet)
  | 4 => (!eq, quiet)
  | 5 => (gt, loud)
  | 6 => (gt || eq, loud)
  | _ => (!un, quiet)

/-- FCLASS: the bit number (R97). -/
def fpClass (f : FFmt) (x : Nat) : Nat :=
  match fpDecode f x with
  | .nan sig => if sig then 8 else 9
  | .inf neg => if neg then 0 else 7
  | .fin neg m _ =>
    if m = 0 then (if neg then 3 else 4)
    else if m < 2 ^ f.fb then (if neg then 2 else 5)
    else (if neg then 1 else 6)

/-- FSGN: the bits of a with a new sign (R100). -/
def fpSgn (f : FFmt) (sub : Nat) (x y : Nat) : Nat :=
  let sa := signOf f x
  let sb := signOf f y
  let s := match sub with | 0 => sb | 1 => !sb | _ => sa != sb
  signBit f s + x % 2 ^ (f.w - 1)

/-- A conversion between floating-point formats (R58, R62, R98). -/
def fpCvt (dst src : FFmt) (rm : RMode) (sat : Bool) (x : Nat) : Nat × Flags := fpDeliver dst rm sat (fpDecode src x)

/-- The integer a finite value rounds to, and whether it differed. -/
def fpToInt (rm : RMode) (neg : Bool) (m : Nat) (e : Int) : Int × Bool :=
  let (r, inex) := roundAt rm neg m e false 0
  (signedOf neg r, inex)

/-- A conversion to an integer type (R59). -/
def fpCvtInt (t : Ty) (src : FFmt) (rm : RMode) (x : Nat) : Nat × Flags :=
  match fpDecode src x with
  | .nan _ => (0, flNV)
  | .inf neg => (wrapTo (tyBits t) (if neg then tyMin t else tyMax t), flNV)
  | .fin neg m e =>
    let (i, inex) := fpToInt rm neg m e
    if i < tyMin t then (wrapTo (tyBits t) (tyMin t), flNV)
    else if i > tyMax t then (wrapTo (tyBits t) (tyMax t), flNV)
    else (wrapTo (tyBits t) i, if inex then flNX else 0)

/-- A conversion from an integer (R60). -/
def intCvtFp (dst : FFmt) (rm : RMode) (sat : Bool) (i : Int) : Nat × Flags :=
  fpRound dst rm sat (decide (i < 0)) i.natAbs 0 false

end Sys2Proof.Machine
end

