-- ==== Sys2Proof/Machine/State.lean ====
section
/-!
DEFINITION. The state of a pod of KV16 modules as plain data: every register, memory, buffer and table the spec names,
with its value after module reset (`State.reset`), and the two ways a step may stop.
-/

namespace Sys2Proof.Machine

/-- A sparse table: index and value pairs with rising indexes. An index not listed holds the default its reader names. -/
abbrev Tbl (α : Type) := List (Nat × α)

/-- All byte-addressed storage of the pod by flat address (Ops: `localFlat`, `physFlat`, `hostFlat`): address and byte
pairs, addresses strictly rising, no byte equal to what an unlisted address reads as. -/
abbrev Memory := List Host.Cell

/-- Causes of R282; `none` is the cause 0 that CDFAIL records (R312). -/
inductive Cause where
  | none | illegalInstr | illegalLine | lineParity | fetchAlign | branchTarget | pendingAccess | dataAlign | access
  | residency | fpException | format | containment | residue | poison | barrier | engineCmd | remoteFailure
  | leaseRevoked | breakpoint | watchpoint | trapInstr | privilege
deriving DecidableEq, Repr

/-- Why a slot is parked (R157). SYNC holds its level, BARW its barrier and phase, WAITA address, value and
destination, WAITB its bound. `result` holds a slot until one result returns (R101). -/
inductive Park where
  | defer
  | sync (level : Nat)
  | barrier (b : Nat) (n : Word)
  | waita (a : Word) (v : Word) (d : RegIx)
  | waitb (n : Word)
  | result (id : Nat)
deriving DecidableEq, Repr

/-- Slot states of R157. A parked slot's `sw` is the switch marker still to be honoured (R164); `ending` is an EXIT or
TEND in progress (R177). -/
inductive SlotSt where
  | free
  | ready
  | parked (p : Park) (sw : Bool)
  | faulted
  | ending (tend : Bool)
deriving DecidableEq, Repr

/-- One unit of a load or store: `n` bytes at `va`, single-copy atomic (R131, R213), at bit `off` of the register.
`val` is the value once performed (loads) or the data (stores). -/
structure AccUnit where
  va : Word
  n : Nat
  off : Nat
  val : Option (BitVec 128)
deriving DecidableEq, Repr

/-- Destination of a deferred result (R17, R228). -/
inductive Dst where
  | none
  | sreg (r : RegIx)
  | pair (lo : RegIx) (hi : RegIx)
  | vreg (r : RegIx)
deriving DecidableEq, Repr

/-- What an outstanding result waits for (R17). -/
inductive OutKind where
  | value (x : VWord)
  | load (ty : Ty) (acquire : Option Nat)
  | ldc (ty : Ty) (snap : Option Nat) (bad : Bool)
  | ldp
  | vload (ty : Ty) (zm : Bool) (mask : BitVec 64) (bcast : Bool)
  | amo (op : BitVec 3) (ty : Ty) (v : Word) (scope : Nat)
  | cas (ty : Ty) (cmp : Word) (new : Word) (scope : Nat)
  | cas2 (cmp : BitVec 128) (new : BitVec 128) (scope : Nat)
  | recv (entry : Option VWord)
  | send (status : Option Word)
  | cmd (id : Nat) (status : Option Word)
deriving DecidableEq, Repr

/-- One outstanding deferred result (R18): the PC of its instruction, what it does, its access units, its destination;
identities rise in program order. `covers` lists the stores that an atomic of non-core scope makes visible as a release
(R215, R216). `remote` is the frame uid of an open remote region; `pkey` and `supv` are the key register and mode it issued
with. -/
structure Out where
  id : Nat
  pc : Word
  kind : OutKind
  units : List AccUnit
  dst : Dst
  covers : List Nat
  remote : Option Nat
  pkey : BitVec 32
  supv : Bool
deriving DecidableEq, Repr

/-- One entry of a store buffer or far store queue (R208): a store, a release store (`rel`, its scope), or a FLUSH (`flush`,
with ALL). `covers` lists the stores that a release makes visible first (R224). `grp` names the instruction, whose near and
far accesses are two entries, and `begun` says that one of them has been performed (R129). `heal` lists the aligned words
that the instruction writes whole (R27, R130). -/
structure StEnt where
  id : Nat
  k : Nat
  pc : Word
  units : List AccUnit
  covers : List Nat
  rel : Option Nat
  grp : Nat
  begun : Bool
  heal : List Nat
  flush : Option Bool
  remote : Option Nat
  pkey : BitVec 32
  supv : Bool
deriving DecidableEq, Repr

/-- What a resumption has to do after a failure: the access, copy or footprint to make again (R195, R146, R155, R300), or
the frame to close of an escalated CDCLOSE (`close`, R285). -/
inductive FailAcc where
  | none
  | close
  | out (o : Out)
  | store (e : StEnt)
  | exchange (src : Word) (dst : Word) (len : Nat)
  | footIn (fp : Nat)
  | footOut (rows : List (Word × Nat × Nat))
deriving DecidableEq, Repr

/-- A deferred failure held for a later report (R194). -/
structure Held where
  cause : Cause
  val : Word
  pc : Word
  resume : Word
  acc : FailAcc
deriving DecidableEq, Repr

/-- Which frame a pending rollback starts from (R295): the innermost frame, the innermost remote frame, or the frame at
a depth counted from 1 at the outermost. -/
inductive RollAt where
  | innermost
  | remote
  | depth (n : Nat)
deriving DecidableEq, Repr

/-- A fault, or a rollback (`roll`), that waits until the slot's results have returned (R283, R286, R296). -/
structure Stop where
  cause : Cause
  val : Word
  pc : Word
  resume : Word
  defer : Bool
  esc : Bool
  acc : FailAcc
  roll : Option RollAt
deriving DecidableEq, Repr

/-- A preserved range (R291, R309): copied to `backup`, or by reference. -/
structure Preserved where
  start : Word
  len : Nat
  backup : Option Word
deriving DecidableEq, Repr

/-- An output range (R310). -/
structure Range where
  start : Word
  len : Nat
deriving DecidableEq, Repr

/-- A containment frame (R291). `uid` names it for the commands issued while it was innermost (R295). -/
structure Frame where
  uid : Nat
  remote : Bool
  retryPc : Word
  id : BitVec 16
  save : Word
  preserved : List Preserved
  outputs : List Range
  handed : List Range
  retries : Nat
  fail : Option (Cause × Word)
deriving DecidableEq, Repr

/-- What a slot is running (R155, R156). A walked task holds its tile, its buffer, the pages pinned for it,
and, once its write-out has begun, the rows still to be written: memory address, LOCAL address and length. -/
inductive Task where
  | none
  | queued
  | walked (tile : List Nat) (buf : Option Nat) (pins : List PageRef) (left : Option (List (Word × Nat × Nat)))
deriving DecidableEq, Repr

/-- `EINJ` (R287). -/
structure Einj where
  kind : BitVec 3
  arm : Bool
  bit : BitVec 6
  row : BitVec 11
  col : BitVec 7
  word : BitVec 17
deriving DecidableEq, Repr

/-- The fault and supervisor CSRs of a slot (R287). `defer`, `esc`, `inh` are fields of `TRAPCAUSE`. -/
structure TrapRegs where
  vec : Word
  pc : Word
  cause : BitVec 8
  defer : Bool
  esc : Bool
  inh : Bool
  val : Word
  retry : BitVec 16
  lastCause : BitVec 8
  lastDepth : BitVec 4
  limit : BitVec 4
  einj : Einj
deriving DecidableEq, Repr

/-- The numeric and task CSRs of a slot (R9, R141, R193). -/
structure SlotCsr where
  fflg : BitVec 7
  fena : BitVec 5
  frm : BitVec 2
  rchk : Bool
  ternidx : BitVec 6
  pkey : BitVec 32
  taskid : BitVec 32
  tidx : Tbl (BitVec 32)
deriving DecidableEq, Repr

/-- A task slot (R7): registers, CSRs, outstanding results, containment frames, and how it stops. `flip` is a result
flip that a stray bit error makes on the next checked instruction (R391). `obs` lists stores of the core's other slots
that this slot has read from the buffers (R215). `swapReq` lists the pages it found not
present (R196). `wasEnding` marks a fault met by an EXIT or TEND (`true`) in progress (R177).
`trapId` is the first identity of an access made after the last local trap (R286). `yielded` lists the
slots that have issued since a YIELD (R179). `lwAt` is the line whose line word has been checked since the slot came to
it (R13), and `lwNew` says that the cell which the slot is about to issue made that check. `waitFor` is a page that a PIN, a WALK,
a CDPRES or a rollback of the slot has asked for, with the identity of that request (R199). `bindId` is the identity that the slot's
context had while it was swapped, by which entries of the spill ring are still bound to it (R197). -/
structure Slot where
  st : SlotSt
  pc : Word
  sreg : Tbl Word
  vreg : Tbl VWord
  preg : BitVec 8
  mreg : Tbl (BitVec 64)
  pendS : BitVec 64
  pendV : BitVec 32
  outs : List Out
  csr : SlotCsr
  supv : Bool
  trap : TrapRegs
  task : Task
  frames : List Frame
  stop : Option Stop
  held : List Held
  failed : FailAcc
  pendingWake : Bool
  swapReq : List PageRef
  ibuf : List (Nat × VWord)
  obs : List Nat
  flip : Option Nat
  stalled : Bool
  yielded : Option (List Nat)
  wasEnding : Option Bool
  trapId : Nat
  lwAt : Option Nat
  lwNew : Bool
  waitFor : Option (PageRef × Nat)
  bindId : Option Nat
deriving DecidableEq, Repr

/-- `SPILLBASE` and the ring it names (R151): entries `head` to `head + bound.length - 1`, each bound to a SWAPPED
context or not (R197), and `dests` the DEST of each entry as it was spilled; `next` is a write of BASE and SIZE that waits until the ring is empty. -/
structure Spill where
  base : BitVec 41
  size : BitVec 3
  lost : Bool
  head : Nat
  bound : List (Option Nat)
  dests : List Nat
  next : Option (BitVec 41 × BitVec 3)
deriving DecidableEq, Repr

/-- An inbox entry (R149) as its 64 bytes, and the SWAPPED context it is bound to, if any (R197). -/
structure InEntry where
  raw : VWord
  bound : Option Nat
deriving DecidableEq, Repr

/-- A queued task (R156). -/
structure QTask where
  pc : Word
  a1 : Word
  a2 : Word
  id : BitVec 32
deriving DecidableEq, Repr

/-- One footprint of a walk descriptor (R154). -/
structure Footprint where
  base : Word
  stride : List Int
  dest : Nat
  rowlen : Nat
  rows : Nat
  pitch : Nat
  mode : Nat
  nbuf : Nat
  bufstride : Nat
deriving DecidableEq, Repr

/-- A walk in progress (R154, R155): its descriptor, the ASID-side key register, the tiles dispatched so far, the
buffers held, and how many tasks have ended. -/
structure Walk where
  body : Word
  dims : List Nat
  tile : List Nat
  fps : List Footprint
  pkey : BitVec 32
  issued : List (List Nat)
  bufs : List Nat
  ended : Nat
deriving DecidableEq, Repr

/-- A page pinned by a core (R200, R233): module, tag and page number, the program's count and the walker's count. -/
structure Pin where
  page : PageRef
  prog : Nat
  walk : Nat
deriving DecidableEq, Repr

/-- A barrier arrival for phase `n` not yet sent (R168): it follows the accesses listed. -/
structure Arrival where
  b : Nat
  n : Nat
  after : List Nat
deriving DecidableEq, Repr

/-- `WPCTLn` and `WPVALn` (R319). -/
structure Watch where
  ty : BitVec 2
  act : Bool
  hit : Bool
  sel : BitVec 3
  idx : BitVec 6
  len : BitVec 32
  val : Word
deriving DecidableEq, Repr

/-- `MFLG` and `MFLGPOS` (R258). -/
structure MillFlags where
  zrep : Bool
  ovf : Bool
  res : Bool
  posRow : BitVec 11
  posCol : BitVec 10
  posSrc : BitVec 2
  posValid : Bool
deriving DecidableEq, Repr

/-- The dirty log of a core (R193, R201-R203): LOCAL address bits [19:3] of HEAD, LIM, BASE; the entries not yet merged
(CNT); the 8 pages appended last. -/
structure DirtyLog where
  head : BitVec 17
  lim : BitVec 17
  base : BitVec 17
  cnt : Nat
  last : List Nat
deriving DecidableEq, Repr

/-- A SWAPPED context (R196, R197): its saved slot, the slot index it left. -/
structure Ctx where
  id : Nat
  slot : Slot
  left : Nat
deriving DecidableEq, Repr

/-- Identity of a core in its launch (R139-R141). -/
structure CoreIdent where
  set : Bool
  x : Nat
  y : Nat
  mx : Nat
  my : Nat
  ext : Tbl Word
  org : Tbl Word
  asid : BitVec 16
deriving DecidableEq, Repr

/-- A core (R135): the launch that claims it, its CSRs, inbox, tasks, walker, pins, store buffers, batches. `sbuf` and
`fq` are oldest first. `closed` lists the outstanding closed batches, each by its commands not yet completed. -/
structure Core where
  launch : Option LaunchRef
  ident : CoreIdent
  cnt : Tbl (BitVec 16)
  vor : BitVec 16
  vand : BitVec 16
  level : Nat
  corvote : BitVec 16
  candvote : BitVec 16
  inbox : List InEntry
  spill : Spill
  tasks : List QTask
  taskCount : Nat
  walk : Option Walk
  rrTask : Bool
  pins : List Pin
  arrived : Tbl Word
  arrivals : List Arrival
  sbuf : List StEnt
  fq : List StEnt
  openB : List Nat
  closed : List (List Nat)
  log : DirtyLog
  mflg : MillFlags
  actFmt : Ty
  shFmt : Ty
  fsup0 : BitVec 32
  fsup1 : BitVec 32
  watch : Tbl Watch
  swapped : List Ctx
  lastSlot : Nat
deriving DecidableEq, Repr

/-- An accumulator entry (R70). -/
structure AccEntry where
  e : BitVec 64
  res : BitVec 2
deriving DecidableEq, Repr

/-- A plane of a mill queue (R252, R262): format, group size, INVALID, weight codes by k * 128 + j, group records by
j * 64 + g, and the bits now flipped in its weights (R257). -/
structure Plane where
  fmt : Ty
  gs : Nat
  invalid : Bool
  w : Tbl (BitVec 16)
  recs : Tbl (BitVec 32)
  flips : Tbl (BitVec 16)
deriving DecidableEq, Repr

/-- A hamlet: accumulator store, tile exponents and records (queues, and the frames that were innermost, R295), planes of the
eight queues (2c active, 2c + 1 shadow), mill CSRs, constant cache (line to 128-byte value at fill), weighted round robin
position, and a flip (weight row, column, bit) that the next product there is to suffer (R70, R251-R258, R205). -/
structure Ham where
  acc : Tbl AccEntry
  aexp : Tbl (BitVec 10)
  auto : BitVec 16
  wrote : Tbl (BitVec 8)
  marks : Tbl (List Nat)
  planes : Tbl Plane
  millwt : BitVec 32
  millidle : BitVec 16
  gated : BitVec 16
  rrQueue : Nat
  rrLeft : Nat
  cc : Tbl (BitVec 1024)
  prod : Option (Nat × Nat × Nat)
deriving DecidableEq, Repr

/-- A registered layout record (R351, R352). -/
structure Layout where
  esize : Nat
  ndim : Nat
  diemask : Nat
  gx : Nat
  gy : Nat
  base : Nat
  dims : List Nat
  tile : List Nat
  owner : Option LaunchRef
deriving DecidableEq, Repr

/-- What a borrower has done with the pages of one tag in a region that ends (R371-R374): the lowest page number, the pages
switched with their contents, the pages poisoned or made unmapped. -/
structure Moved where
  low : Nat
  moved : Nat
  lost : Nat
deriving DecidableEq, Repr

/-- A lease entry, at the lender and mirrored at the borrower (R369): its index in the table of 256, `t0` the TICK at which RECLAIM
was sent, `tags` what the borrower has done per tag. -/
structure Lease where
  ix : Nat
  id : Nat
  lender : Nat
  borrower : Nat
  window : Bool
  reclaiming : Bool
  revoked : Bool
  size : Nat
  pbase : Nat
  lva : Word
  expiry : Word
  t0 : Nat
  host : Bool
  connected : Bool
  tags : Tbl Moved
deriving DecidableEq, Repr

/-- A host window (R380). -/
structure HostWin where
  base : Nat
  len : Nat
  rkey : BitVec 32
  rights : BitVec 8
  ports : BitVec 8
deriving DecidableEq, Repr

/-- A launch queue registered with the launch unit (R159); `tailHit` says that a write has performed on its TAIL since the last
pass (R161). -/
structure Queue where
  desc : Word
  supv : Bool
  patienceDue : Bool
  tailHit : Bool
deriving DecidableEq, Repr

/-- The takeover fields, ORIG and FAIL of `DIEMAP` (R333). -/
structure DieMap where
  orig : BitVec 18
  xs0 : BitVec 5
  xl0 : BitVec 4
  xv0 : Bool
  xs1 : BitVec 5
  xl1 : BitVec 4
  xv1 : Bool
  fail : BitVec 18
deriving DecidableEq, Repr

/-- What is known of one compute die beyond its cores (R335, R348, R385). -/
structure DieSt where
  throttled : Bool
  stopped : Bool
  evacuating : Bool
  evacuated : Bool
deriving DecidableEq, Repr

/-- The state of a launch in the launch unit (R139, R161, R316-R323). -/
inductive LPhase where
  | starting | running | draining | held | saving | saved | reset | halted | ended
deriving DecidableEq, Repr

/-- A launch record's fields (R136), tables of the preload included. -/
structure Rec where
  asid : BitVec 16
  prio : Nat
  holes : Bool
  cdpol : BitVec 16
  code : Word
  codelen : Nat
  entry : Word
  preload : List (Word × Nat × Nat)
  nlev : Nat
  nbar : Nat
  dies : List Nat
  dgx : Nat
  rx : Nat
  ry : Nat
  rw : Nat
  rh : Nat
  doms : List (Nat × Nat)
  bars : List (Nat × Nat × Nat × Nat)
  xplan : Word
  layouts : Word
  idtens : Word
  fsup0 : BitVec 32
  fsup1 : BitVec 32
  t1 : Nat
  t2 : Nat
  preds : List (Nat × Nat)
  patience : Nat
  syncto : Nat
  nlayout : Nat
deriving DecidableEq, Repr

/-- A barrier of a launch (R148): phase bit, counts for the unreleased phase and the next, number of releases. -/
structure Bar where
  phase : Bool
  c0 : Nat
  c1 : Nat
  r : Nat
deriving DecidableEq, Repr

/-- An exchange phase under way (R146): domain, variant and votes. -/
structure Exchange where
  level : Nat
  x : Nat
  y : Nat
  vor : BitVec 16
  vand : BitVec 16
deriving DecidableEq, Repr

/-- Where an engine command stands (R239, R244, R246); one that the crier has merged into the first of its group ends with that
(R247). -/
inductive CmdSt where
  | net
  | crier
  | merged
  | queued
  | begun
  | done
deriving DecidableEq, Repr

/-- What a member of the engine queues is: the command of an opcode, an MSTAT query (R267), or an accumulator flip
(R290). -/
inductive CmdOp where
  | mloadw | mswap | mstream | mzero | accrd | accwr | cpy | cpy2 | cpyr | coll | ecode | ckpt | migr | engq
  | mstat | accflip
deriving DecidableEq, Repr

/-- An engine command from issue to completion (R238-R245). `group` is the crier's merged group; `prog` counts the rows, bytes or
tiles done; `buf` holds the source bytes of a copy as they stood when it began; `num` is the n-th collective of its core at its
level (R249). -/
structure Cmd where
  id : Nat
  w : SlotRef
  ctx : Option Nat
  op : CmdOp
  ty : Ty
  sub : Nat
  g : Option Nat
  epa : BitVec 32
  blk : List Word
  asid : BitVec 16
  pkey : BitVec 32
  supv : Bool
  launch : Option LaunchRef
  dst : RegIx
  st : CmdSt
  group : Nat
  guardVal : Option Bool
  prog : Nat
  count : Nat
  res : Bool
  ovf : Bool
  zrep : Bool
  code : Nat
  failVa : Word
  answer : Word
  num : Nat
  frame : Option Nat
  remote : Option Nat
  dropped : Bool
  suspended : Bool
  buf : List Byte
deriving DecidableEq, Repr

/-- One committed or running checkpoint cut (R327, R328): descriptor, generation, the generation before it on the PREV chain, the
bytes that its records take, its pages with the addresses of their copies in AREA, and the core, slot and hamlet images, the barriers
and the guard waits that only a restore reads. `left` lists the pages still to copy. -/
structure Cut where
  launch : LaunchRef
  cmd : Nat
  desc : Word
  area : Word
  arealen : Nat
  commitVa : Word
  gen : Nat
  prev : Option Nat
  recs : Nat
  cstep : BitVec 64
  eras : Bool
  scope : List PageRef
  copies : List (PageRef × Word)
  left : List PageRef
  slots : Tbl Slot
  cores : Tbl Core
  hams : Tbl Ham
  locals : Memory
  bars : Tbl Bar
  guards : List Cmd
  committed : Bool
deriving DecidableEq, Repr

/-- An entry of an exchange plan with its variant (R145), as read when the launch started (log 15). -/
structure PlanEntry where
  v : Nat
  src : Word
  dst : Word
  len : Nat
  level : Nat
  x : Nat
  y : Nat
deriving DecidableEq, Repr

/-- A WAKE or RESUME in flight (R174, R307): destination module and EPA, the sender's launch, action and PC. -/
structure Poke where
  dest : Nat
  epa : BitVec 32
  launch : Option LaunchRef
  supv : Bool
  act : Nat
  pc : Word
deriving DecidableEq, Repr

/-- A launch known to the launch unit: its record as copied at the start, its progress, its barriers and exchanges, the ladder's
figures, FERR and the SSTEP at its end (R160), a kill or final status, and the saved images (R315) with the commands that wait on a
guard (`guards`) while it is saved. `raw` holds
the words of its record, which a restart validates again (R335); `climb` is the rung of the save under way (R316). -/
structure Launch where
  record : Rec
  raw : List Word
  supv : Bool
  save : Word
  phase : LPhase
  order : Nat
  kill : Option Nat
  rung : Nat
  climb : Nat
  time : Nat
  bars : Tbl Bar
  exch : List Exchange
  haltReq : Bool
  haltAt : Option Nat
  preempt : Bool
  slots : Tbl Slot
  cores : Tbl Core
  hams : Tbl Ham
  locals : Memory
  guards : List Cmd
  resumes : List Poke
  dieLost : Bool
  ferr : Nat
  endStep : Nat
  plan : List PlanEntry
  dump : List (CoreRef × List StEnt × List StEnt)
deriving DecidableEq, Repr

/-- What the sender of a message waits to hear (R170, R283, R374): the status of a SEND, a fault record's escalation
from EP0 to EP1, an event that tries EP1 next, or nothing. -/
inductive MsgFor where
  | send (w : SlotRef) (out : Nat)
  | fault (w : SlotRef) (second : Bool)
  | event (ep1 : BitVec 32)
  | none
deriving DecidableEq, Repr

/-- A message in flight (R149-R152): destination EPA in the map of module `dest`, the 64-byte entry, and the launch that
limits who receives it (`task` for a task-mode sender). -/
structure Msg where
  src : SlotRef
  dest : Nat
  epa : BitVec 32
  raw : VWord
  task : Option LaunchRef
  restricted : Bool
  why : MsgFor
  ctx : Option Nat
deriving DecidableEq, Repr

/-- A token message in flight (R342, R346): line tokens travelling from one die to a hamlet or to the home (`none`). -/
structure TokMsg where
  fromDie : Nat
  toHam : Option Nat
  n : Nat
  owner : Bool
  data : Bool
  gen : BitVec 8
deriving DecidableEq, Repr

/-- A release that has been performed while stores it makes visible are still in its core's buffers (R215): the location
(`key`, `n` bytes) of its store, its core and slot, its scope, and those stores. Until they are visible, no party within the
scope reads the location. An atomic never leaves one: it waits for those stores (R210, R216). -/
structure Veil where
  key : Nat
  n : Nat
  c : CoreRef
  k : Nat
  scope : Nat
  ids : List Nat
deriving DecidableEq, Repr

/-- Tokens of one line (R342-R345): at the home and per hamlet key, the owner token's holder (`none` for the home), the
hamlets with a valid copy, HINT (dies 0-15, peer module p as 16 + p), MVALID, token messages in flight, failed attempts,
persistent requests in order, whether the active one has performed its access, and whether written data have yet to set D
at the home (R204): in the leaf of the line's page, and in a borrower's leaf at `dirtyOwn` (R367). -/
structure Line where
  home : Nat
  held : Tbl Nat
  owner : Option Nat
  valid : List Nat
  hint : List Nat
  mvalid : Bool
  flight : List TokMsg
  tries : Tbl Nat
  persist : List (Nat × Bool)
  active : Bool
  served : Bool
  dirty : Bool
  dirtyOwn : Option Nat
deriving DecidableEq, Repr

/-- The home's state for one page (R192, R196, R328, R343, R346, R355, R372): GEN, frozen for recovery, write tokens withheld, TLB
entry present, its translation count, firmware asked for it, the members of HINT lost and not yet recovered, and a mark that the end
of a lease has made the page unmapped. `noRoom` says that the page could not be made resident for accesses with a lower identity
(R198, R199); `saved` is what firmware keeps of a page that it has made not present: its bytes by their place, and its poisoned
lines. `rebuild` says that its frame is lost and firmware is to rebuild it, so that accesses wait (R349). -/
structure Page where
  gen : BitVec 8
  frozen : Bool
  withheld : Bool
  tlb : Bool
  count : Nat
  asked : Bool
  recovering : List Nat
  revoked : Bool
  noRoom : Option Nat
  saved : Option (Memory × List Nat)
  rebuild : Bool
deriving DecidableEq, Repr

/-- Errors of one 8-byte word (R27): the data bits now flipped, and the poison check pattern. -/
structure Ecc where
  flips : BitVec 64
  bad : Bool
deriving DecidableEq, Repr

/-- One row of a stripe set (R375-R378), kept with module j for set j: the trays whose blocks a cut without parity has made stale,
those whose blocks are lost, those whose copies were erased with their keys (R390), and the two parity blocks by their bytes. -/
structure RowSt where
  stale : List Nat
  lost : List Nat
  gone : List Nat
  par0 : Memory
  par1 : Memory
deriving DecidableEq, Repr

/-- A boot record (R389): step and outcome, newest first. -/
inductive BootRec where
  | started (step : Nat)
  | done (step : Nat)
  | failed (step : Nat)
deriving DecidableEq, Repr

/-- A recovery of a module (R388): of a compute die that has failed, or, with `reset`, that is evacuated and reset (R348). `stage`
is 0 while tokens are recovered, 1 while a takeover is due, 2 while launches restart (R335). -/
structure Recov where
  die : Nat
  reset : Bool
  stage : Nat
deriving DecidableEq, Repr

/-- The service complex of a module (R384-R390); `bootAt` is the next boot step, 11 after the last, 12 when boot has given up;
`boot` and `prev` are the records of this start and of the previous one. A diagnosis names what a service processor holds failed: a
site, 32 + tier die, 64 for the module, or, to be reset under control, 128 + site. `work` lists the recoveries in order of
declaration. -/
structure Service where
  aliveA : Bool
  aliveB : Bool
  diagA : List Nat
  diagB : List Nat
  votes : List Nat
  silent : List Nat
  boot : List BootRec
  prev : List BootRec
  retried : List Bool
  reported : Bool
  keys : Bool
  bootAt : Nat
  work : List Recov
deriving DecidableEq, Repr

/-- A snapshot of the link counter grid (R325): TICK, k, its number, and for each link its id, four flit counts and four stall
counts. -/
structure Snap where
  tick : Word
  k : Nat
  seq : Nat
  links : List (List Nat)
deriving DecidableEq, Repr

/-- A module of the pod: presence, die map and fuses, package identity, page table roots, queues, layout and lease
tables, host windows, losses, service complex (17, 19, 20). -/
structure Mod where
  present : Bool
  failed : Bool
  fenced : Bool
  dmap : DieMap
  hfuse : Tbl (BitVec 52)
  cfuse : Tbl (BitVec 8)
  torus : Bool
  pod : BitVec 16
  serial : BitVec 32
  asidDir : Tbl Nat
  groot : Nat
  queues : Tbl Queue
  lastQ : Tbl Nat
  layG : List Layout
  layA : Tbl (List Layout)
  lend : List Lease
  borrow : List Lease
  wins : Tbl HostWin
  dies : Tbl DieSt
  lostTier : List Nat
  lostStacks : List Nat
  deadLinks : List (Nat × Nat)
  routed : List (Nat × Nat)
  deadChans : List (Nat × Nat)
  ports : BitVec 4
  cxl : Tbl Nat
  cuts : List Cut
  snapK : Nat
  flits : Tbl Nat
  snaps : Nat
  sp : Service
  rows : Tbl RowSt
  passDue : Bool
  counters : List Snap
  protNum : List (PageRef × Nat)
deriving DecidableEq, Repr

/-- An answer to a host request (R379, R380, R390). -/
inductive HostAns where
  | done
  | data (bytes : List Byte)
  | value (w : Word)
  | nakInvalid
  | nakAccess
  | timeout
deriving DecidableEq, Repr

/-- A trace record (R324): the module of its ring; the source's EPA and sequence number, its CNT0, logical die and LCORE, TICK,
event code, data word. -/
structure TraceRec where
  m : Nat
  src : BitVec 32
  seqno : BitVec 32
  cnt0 : BitVec 16
  die : Nat
  lcore : Nat
  tick : Word
  code : BitVec 16
  data : Word
deriving DecidableEq, Repr

/-- What a host request does (R379, R381). -/
inductive HostOp where
  | write (data : List Byte)
  | read
  | swap (cmp : Word) (new : Word)
  | add (x : Word)
deriving DecidableEq, Repr

/-- A write of the device that has to wait for its page (R190, R198, R329): who it is made as, its address, bytes and value. -/
structure DevOut where
  c : CoreRef
  asid : BitVec 16
  va : Word
  n : Nat
  val : Nat
deriving DecidableEq, Repr

/-- A move of the agenda: a machine event of the table, the issue of one cell by a core, the instruction buffer of a
slot taking in or dropping a line (R23), or a waiting write of the device that is tried again. -/
inductive Move where
  | ev (i : Instr)
  | issue (c : CoreRef)
  | bufferLine (w : SlotRef) (line : Nat)
  | dropLine (w : SlotRef) (line : Nat)
  | device (i : Nat)
deriving DecidableEq, Repr

/-- The machine. `agenda` holds the moves that the unordered agents make next: the spec leaves their order open, and a
statement about every state covers every order. `clk` counts the free values drawn. `hostHeld` keeps the host requests that wait, in
the order of their queue pairs (R381); `groups` the debug groups (R323); `traceSeq` the next number of each trace source; `devOut`
the writes of the device that wait for their pages, oldest first. -/
structure State where
  clk : Nat
  tick : Word
  agenda : List Move
  cur : SlotRef
  nextId : Nat
  mem : Memory
  ecc : Tbl Ecc
  poison : Tbl Bool
  slots : Tbl Slot
  cores : Tbl Core
  hams : Tbl Ham
  mods : Tbl Mod
  lines : Tbl Line
  pages : Tbl Page
  launches : Tbl Launch
  net : List Msg
  wakes : List Poke
  resumes : List Poke
  cmds : List Cmd
  hostHeld : List (HostReq × HostOp)
  hostRsp : List (HostReq × HostAns)
  veils : List Veil
  groups : List (List LaunchRef)
  trace : List TraceRec
  traceSeq : Tbl Nat
  devOut : List DevOut
deriving DecidableEq, Repr

/-- Why a step can stop with a fault. No step of this model does: every fault of R282 is taken as the spec describes
and is a next state. -/
inductive Fault where
  /-- Raised by no definition; safe, since a step that could not go on would be stopped. -/
  | unreachable
deriving DecidableEq, Repr

/-- Why a step can refuse. -/
inductive Refusal where
  /-- Raised by an arm of `exec` whose instruction has no meaning yet; safe. -/
  | notModelled (mnemonic : String)
deriving DecidableEq, Repr

/-- What a step answers. -/
abbrev Out_ := Host.Outcome State Fault Refusal

/-- `EINJ` after reset (R287). -/
def Einj.reset : Einj := ⟨0, false, 0, 0, 0, 0⟩

/-- The supervisor block after reset (R287); `CDLIMIT` without a launch is the model's choice (log 4). -/
def TrapRegs.reset : TrapRegs := ⟨0, 0, 0, false, false, false, 0, 0, 0, 0, 0, Einj.reset⟩

/-- The slot CSRs after reset (R9, R141, R193). -/
def SlotCsr.reset : SlotCsr := ⟨0, 0, 0, false, 0, 0, 0, []⟩

/-- A slot after reset and at its start (R8, R139): FREE, every register zero. -/
def Slot.reset : Slot :=
  { st := .free, pc := 0, sreg := [], vreg := [], preg := 0, mreg := [], pendS := 0, pendV := 0, outs := [],
    csr := SlotCsr.reset, supv := false, trap := TrapRegs.reset, task := .none, frames := [], stop := none, held := [],
    failed := .none, pendingWake := false, swapReq := [], ibuf := [], obs := [], flip := none,
    stalled := false, yielded := none, wasEnding := none, trapId := 0, lwAt := none, lwNew := false, waitFor := none, bindId := none }

/-- A comparator after reset (R319). -/
def Watch.reset : Watch := ⟨0, false, false, 0, 0, 0, 0⟩

/-- A core after reset (R139, R141, R151, R166, R193, R258, R287); the formats its mill queue tracks are those of a
plane at launch start (R251). -/
def Core.reset : Core :=
  { launch := none, ident := ⟨false, 0, 0, 0, 0, [], [], 0⟩, cnt := [], vor := 0, vand := 0, level := 0, corvote := 0,
    candvote := 0xFFFF, inbox := [], spill := ⟨0, 0, false, 0, [], [], none⟩, tasks := [], taskCount := 0, walk := none,
    rrTask := false, pins := [], arrived := [], arrivals := [], sbuf := [], fq := [], openB := [], closed := [],
    log := ⟨0, 0, 0, 0, []⟩, mflg := ⟨false, false, false, 0, 0, 0, false⟩, actFmt := .bf16, shFmt := .bf16,
    fsup0 := 0, fsup1 := 0, watch := [], swapped := [], lastSlot := 3 }

/-- An accumulator entry after reset (R251). -/
def AccEntry.reset : AccEntry := ⟨0, 0⟩

/-- A plane at launch start: zero weights of format bf16 (R251). -/
def Plane.reset : Plane := ⟨.bf16, 0, false, [], [], []⟩

/-- A hamlet after reset (R251, R258). -/
def Ham.reset : Ham :=
  { acc := [], aexp := [], auto := 0, wrote := [], marks := [], planes := [], millwt := 0x11111111, millidle := 256, gated := 0,
    rrQueue := 7, rrLeft := 0, cc := [], prod := none }

/-- The line state before any access (R342, R343). -/
def Line.reset : Line :=
  { home := 1024, held := [], owner := none, valid := [], hint := [], mvalid := true, flight := [], tries := [],
    persist := [], active := false, served := false, dirty := false, dirtyOwn := none }

/-- The home's page state before any access. -/
def Page.reset : Page := ⟨0, false, false, false, 0, false, [], false, none, none, false⟩

/-- A row before any commit. -/
def RowSt.reset : RowSt := ⟨[], [], [], [], []⟩

/-- A barrier at launch start (R148). -/
def Bar.reset : Bar := ⟨false, 0, 0, 0⟩

/-- A word without error. -/
def Ecc.reset : Ecc := ⟨0, false⟩

/-- A service complex after reset. -/
def Service.reset : Service := ⟨true, true, [], [], [], [], [], [], [], false, true, 1, []⟩

/-- Fuse and pod formation values after reset are the model's choice (log 5): sites 0-15 hold the logical dies. -/
def DieMap.reset : DieMap := ⟨0xFFFF, 0, 0, false, 0, 0, false, 0⟩

/-- A module after reset. `groot` and the values of `asidDir` are a root frame plus one, 0 for none. -/
def Mod.reset : Mod :=
  { present := false, failed := false, fenced := false, dmap := DieMap.reset, hfuse := [], cfuse := [], torus := false,
    pod := 0, serial := 0, asidDir := [], groot := 0, queues := [], lastQ := [], layG := [], layA := [], lend := [],
    borrow := [], wins := [], dies := [], lostTier := [], lostStacks := [], deadLinks := [], routed := [],
    deadChans := [], ports := 0xF, cxl := [], cuts := [], snapK := 16, flits := [], snaps := 0, sp := Service.reset,
    rows := [], passDue := false, counters := [], protNum := [] }

/-- The machine right after module reset: every register at its Reset value (R4), memory listing nothing, no launch,
nothing in flight. Only module 0 of the pod is present (log 5). -/
def State.reset : State :=
  { clk := 0, tick := 0, agenda := [], cur := ⟨0, 0, 0, 0⟩, nextId := 1, mem := [], ecc := [], poison := [], slots := [],
    cores := [], hams := [], mods := [(0, { Mod.reset with present := true, sp := { Service.reset with bootAt := 11 } })], lines := [], pages := [],
    launches := [], net := [], wakes := [], resumes := [], cmds := [], hostHeld := [], hostRsp := [], veils := [],
    groups := [], trace := [], traceSeq := [], devOut := [] }

end Sys2Proof.Machine
end

