-- ==== Sys2Proof/Machine/Table.lean ====
section
/-!
DEFINITION. Sparse tables (`Tbl`): reading an index with a default, writing one, dropping one, and the shape that
every write keeps.
-/

namespace Sys2Proof.Machine

/-- The value at index `k`, `d` when `k` is not listed. -/
def tget {α : Type} (t : Tbl α) (d : α) (k : Nat) : α :=
  match t with
  | [] => d
  | (i, x) :: r => if i = k then x else tget r d k

/-- The value at index `k`, if listed. -/
def tfind {α : Type} (t : Tbl α) (k : Nat) : Option α :=
  match t with
  | [] => none
  | (i, x) :: r => if i = k then some x else tfind r k

/-- Lists `x` at index `k`, in the place that keeps the indexes rising. -/
def tput {α : Type} (t : Tbl α) (k : Nat) (x : α) : Tbl α :=
  match t with
  | [] => [(k, x)]
  | (i, y) :: r => if k < i then (k, x) :: (i, y) :: r else if k = i then (k, x) :: r else (i, y) :: tput r k x

/-- Drops index `k`. -/
def tdel {α : Type} (t : Tbl α) (k : Nat) : Tbl α :=
  match t with
  | [] => []
  | (i, y) :: r => if i = k then r else (i, y) :: tdel r k

/-- Indexes rise strictly, from above `b` on when `b` is given. -/
def tsorted {α : Type} (b : Option Nat) (t : Tbl α) : Bool :=
  match t with
  | [] => true
  | (i, _) :: r => (match b with | none => true | some j => decide (j < i)) && tsorted (some i) r

end Sys2Proof.Machine
end

