-- ==== Sys2Proof/Machine/Access.lean ====
section
/-!
DEFINITION. Reading and updating the parts of the state: slots, cores, hamlets, modules, launches, registers and slot
CSRs, with the hard-wired members of R7 in the one operation that reads or writes each register class.
-/

namespace Sys2Proof.Machine

/-- Table index of a core. -/
def coreKey (m d c : Nat) : Nat := (m * 16 + d) * 512 + c

/-- Table index of a slot. -/
def slotKey (w : SlotRef) : Nat := coreKey w.m w.d w.c * 4 + w.k

/-- Table index of a hamlet. -/
def hamKey (m d h : Nat) : Nat := (m * 16 + d) * 64 + h

/-- Table index of a launch. -/
def launchKey (l : LaunchRef) : Nat := (l.m * 16 + l.q) * 2 ^ 28 + l.s

/-- Table index of a page. -/
def pageKey (p : PageRef) : Nat := (p.m * 65537 + p.tag) * 2 ^ 41 + p.pn

/-- The page of a table index. -/
def pageOfKey (k : Nat) : PageRef := ⟨k / 2 ^ 41 / 65537, k / 2 ^ 41 % 65537, k % 2 ^ 41⟩

/-- Table index of a line. -/
def lineKey (l : LineRef) : Nat := (l.m * 65537 + l.tag) * 2 ^ 50 + l.ln

/-- The slot named. -/
def slotAt (s : State) (w : SlotRef) : Slot := tget s.slots Slot.reset (slotKey w)

/-- The core of a slot. -/
def coreOf (s : State) (w : SlotRef) : Core := tget s.cores Core.reset (coreKey w.m w.d w.c)

/-- The core named. -/
def coreAt (s : State) (c : CoreRef) : Core := tget s.cores Core.reset (coreKey c.m c.d c.c)

/-- The hamlet named. -/
def hamAt (s : State) (h : HamRef) : Ham := tget s.hams Ham.reset (hamKey h.m h.d h.h)

/-- The module numbered `m`; an absent one unless listed. -/
def modAt (s : State) (m : Nat) : Mod := tget s.mods Mod.reset m

/-- The launch named, if the launch unit knows it. -/
def launchAt (s : State) (l : LaunchRef) : Option Launch := tfind s.launches (launchKey l)

/-- The token state of a line. -/
def lineAt (s : State) (l : LineRef) : Line := tget s.lines Line.reset (lineKey l)

/-- The home's state of a page. -/
def pageAt (s : State) (p : PageRef) : Page := tget s.pages Page.reset (pageKey p)

def setSlot (s : State) (w : SlotRef) (x : Slot) : State := { s with slots := tput s.slots (slotKey w) x }
def setCoreOf (s : State) (w : SlotRef) (x : Core) : State := { s with cores := tput s.cores (coreKey w.m w.d w.c) x }
def setCore (s : State) (c : CoreRef) (x : Core) : State := { s with cores := tput s.cores (coreKey c.m c.d c.c) x }
def setHam (s : State) (h : HamRef) (x : Ham) : State := { s with hams := tput s.hams (hamKey h.m h.d h.h) x }
def setMod (s : State) (m : Nat) (x : Mod) : State := { s with mods := tput s.mods m x }
def setLaunch (s : State) (l : LaunchRef) (x : Launch) : State :=
  { s with launches := tput s.launches (launchKey l) x }
def setLine (s : State) (l : LineRef) (x : Line) : State := { s with lines := tput s.lines (lineKey l) x }
def setPage (s : State) (p : PageRef) (x : Page) : State := { s with pages := tput s.pages (pageKey p) x }

/-- The core a slot belongs to. -/
def coreRefOf (w : SlotRef) : CoreRef := ⟨w.m, w.d, w.c⟩

/-- Slot `k` of a core. -/
def slotOf (c : CoreRef) (k : Nat) : SlotRef := ⟨c.m, c.d, c.c, k⟩

/-- The hamlet of a core (R133). -/
def hamOf (c : CoreRef) : HamRef := ⟨c.m, c.d, c.c / 8⟩

/-- The slots of a core in index order. -/
def slotsOf (c : CoreRef) : List SlotRef := [slotOf c 0, slotOf c 1, slotOf c 2, slotOf c 3]

/-- A fresh identity and the state that has handed it out. -/
def freshId (s : State) : Nat × State := (s.nextId, { s with nextId := s.nextId + 1 })

/-- Scalar register `r`: `s0` reads 0 (R7). -/
def sGet (x : Slot) (r : RegIx) : Word := if r = 0 then 0 else tget x.sreg 0 r.toNat

/-- Writes scalar register `r`; a write of `s0` is discarded (R7). -/
def sPut (x : Slot) (r : RegIx) (v : Word) : Slot := if r = 0 then x else { x with sreg := tput x.sreg r.toNat v }

/-- Vector register `r` (R7). -/
def vGet (x : Slot) (r : RegIx) : VWord := tget x.vreg 0 r.toNat

/-- Writes vector register `r`. -/
def vPut (x : Slot) (r : RegIx) (v : VWord) : Slot := { x with vreg := tput x.vreg r.toNat v }

/-- Predicate `i`: `p7` reads 1 (R7). -/
def pGet (x : Slot) (i : Nat) : Bool := if i = 7 then true else x.preg.getLsbD i

/-- The predicate byte with bit `i` set to `b`. -/
def pBits (p : BitVec 8) (i : Nat) (b : Bool) : BitVec 8 :=
  if b then p ||| (1#8 <<< i) else p &&& ~~~(1#8 <<< i)

/-- Writes predicate `i`; a write of `p7` is discarded (R7). -/
def pPut (x : Slot) (i : Nat) (b : Bool) : Slot := if i = 7 then x else { x with preg := pBits x.preg i b }

/-- Mask `i`: `m0` reads all ones (R7). -/
def mGet (x : Slot) (i : Nat) : BitVec 64 := if i = 0 then BitVec.allOnes 64 else tget x.mreg 0 i

/-- Writes mask `i`; a write of `m0` is discarded (R7). -/
def mPut (x : Slot) (i : Nat) (v : BitVec 64) : Slot := if i = 0 then x else { x with mreg := tput x.mreg i v }

/-- The pending mark of a scalar register (R18). -/
def sPend (x : Slot) (r : RegIx) : Bool := x.pendS.getLsbD r.toNat

/-- The pending mark of a vector register (R18). -/
def vPend (x : Slot) (r : RegIx) : Bool := x.pendV.getLsbD r.toNat

/-- Marks a scalar register pending; `s0` is never marked (R18). -/
def markS (x : Slot) (r : RegIx) : Slot := if r = 0 then x else { x with pendS := x.pendS ||| (1#64 <<< r.toNat) }

/-- Marks a vector register pending (R18). -/
def markV (x : Slot) (r : RegIx) : Slot := { x with pendV := x.pendV ||| (1#32 <<< r.toNat) }

/-- Marks a destination pending. -/
def markDst (x : Slot) (d : Dst) : Slot :=
  match d with
  | .none => x
  | .sreg r => markS x r
  | .pair lo hi => markS (markS x lo) hi
  | .vreg r => markV x r

/-- Clears the pending mark of a destination. -/
def unmarkDst (x : Slot) (d : Dst) : Slot :=
  match d with
  | .none => x
  | .sreg r => { x with pendS := x.pendS &&& ~~~(1#64 <<< r.toNat) }
  | .pair lo hi => { x with pendS := x.pendS &&& ~~~(1#64 <<< lo.toNat) &&& ~~~(1#64 <<< hi.toNat) }
  | .vreg r => { x with pendV := x.pendV &&& ~~~(1#32 <<< r.toNat) }

/-- Writes a returned value to its destination; a pair takes the low word first (R228). -/
def writeDst (x : Slot) (d : Dst) (v : VWord) : Slot :=
  match d with
  | .none => x
  | .sreg r => sPut x r (v.extractLsb' 0 64)
  | .pair lo hi => sPut (sPut x lo (v.extractLsb' 0 64)) hi (v.extractLsb' 64 64)
  | .vreg r => vPut x r v

/-- ORs flags into FFLG (R9, R57). -/
def raiseFl (x : Slot) (fl : Flags) : Slot := { x with csr := { x.csr with fflg := x.csr.fflg ||| fl } }

/-- The rounding mode of a SUB field (R34): 4–7 name one, else `FRM`. -/
def rmOf (x : Slot) (sub : BitVec 3) : RMode :=
  let k := if sub.toNat ≥ 4 then sub.toNat - 4 else x.csr.frm.toNat
  match k with | 0 => .rne | 1 => .rtz | 2 => .rup | _ => .rdn

/-- A slot is live from its start until it ends (R135, R157). -/
def isLive (x : Slot) : Bool := x.st != .free

/-- The launch that claims a slot's core. -/
def launchOf (s : State) (w : SlotRef) : Option LaunchRef := (coreOf s w).launch

/-- NextCell of R92 and R12. -/
def nextCell (pc : Word) : Word := if pc.extractLsb' 0 6 = 0x34#6 then pc + 0x10 else pc + 12

/-- The list of `n` 64-bit words of a value, lowest first. -/
def wordsOf (n : Nat) (v : VWord) : List Word := (List.range n).map (fun i => v.extractLsb' (64 * i) 64)

/-- Eight words packed into an entry, word 0 lowest. -/
def packWords (ws : List Word) : VWord :=
  BitVec.ofNat 512 (ws.foldr (fun w acc => acc * 2 ^ 64 + w.toNat) 0)

/-- The EPA of a slot (R236); with its module and PV when the message crosses modules (R170). -/
def epaOf (w : SlotRef) (cross : Bool) : BitVec 32 :=
  BitVec.ofNat 32 (w.d * 2 ^ 23 + w.c / 8 * 2 ^ 16 + w.c % 8 * 2 ^ 13 + w.k * 2 ^ 11 + (if cross then w.m * 64 + 32 else 0))

def epaType (e : BitVec 32) : Nat := (e.extractLsb' 28 4).toNat
def epaDie (e : BitVec 32) : Nat := (e.extractLsb' 23 5).toNat
def epaHam (e : BitVec 32) : Nat := (e.extractLsb' 16 7).toNat
def epaCore (e : BitVec 32) : Nat := (e.extractLsb' 13 3).toNat
def epaSlot (e : BitVec 32) : Nat := (e.extractLsb' 11 2).toNat
def epaPeer (e : BitVec 32) : Nat := (e.extractLsb' 6 5).toNat
def epaPv (e : BitVec 32) : Bool := e.getLsbD 5

/-- The module an EPA names for an issuer on module `m`. -/
def epaMod (m : Nat) (e : BitVec 32) : Nat := if epaPv e then epaPeer e else m

/-- The slot an EPA names for an issuer (R236). -/
def epaTarget (w : SlotRef) (e : BitVec 32) : SlotRef :=
  ⟨epaMod w.m e, if epaDie e = 31 then w.d else epaDie e, 8 * epaHam e + epaCore e, epaSlot e⟩

/-- NOTIFY of a command block (R238). -/
def hdrNotify (b : List Word) : BitVec 32 := (b.getD 0 0).extractLsb' 16 32

/-- The KIND of an entry (R149). -/
def entryKind (e : VWord) : Nat := (e.extractLsb' 32 8).toNat

/-- The slot a message goes to. -/
def msgSlot (m : Msg) : SlotRef := { epaTarget m.src m.epa with m := m.dest }

/-- The list with its `i`-th element removed. -/
def dropAt {α : Type} (l : List α) (i : Nat) : List α := l.take i ++ l.drop (i + 1)

end Sys2Proof.Machine
end

