-- ==== Sys2Proof/Machine/Mem.lean ====
section
/-!
DEFINITION. Byte memory in its canonical form, the flat addresses of the pod's storages, little-endian accesses of
several bytes (R1), and the SECDED words of R27.
-/

namespace Sys2Proof.Machine

/-- What a byte that nothing has written reads as (log 3). -/
def unlisted : Byte := 0

/-- The byte at a flat address. -/
def memGet (m : Memory) (a : Nat) : Byte :=
  match m with
  | [] => unlisted
  | (i, b) :: r => if i = a then b else memGet r a

/-- Memory with one byte dropped from the list. -/
def memDel (m : Memory) (a : Nat) : Memory :=
  match m with
  | [] => []
  | (i, b) :: r => if i = a then r else (i, b) :: memDel r a

/-- Memory with one byte listed, in its place. -/
def memIns (m : Memory) (a : Nat) (v : Byte) : Memory :=
  match m with
  | [] => [(a, v)]
  | (i, b) :: r => if a < i then (a, v) :: (i, b) :: r else if a = i then (a, v) :: r else (i, b) :: memIns r a v

/-- Writes one byte, keeping the canonical form. -/
def memPut (m : Memory) (a : Nat) (v : Byte) : Memory := if v = unlisted then memDel m a else memIns m a v

/-- The canonical form from above address `lo` on: addresses strictly rising, no byte listed that an unlisted address
reads as. -/
def memWfFrom (lo : Nat) (m : Memory) : Bool :=
  match m with
  | [] => true
  | (i, b) :: r => decide (lo ≤ i) && b != unlisted && memWfFrom (i + 1) r

/-- The canonical form of memory. -/
def Memory.wf (m : Memory) : Bool := memWfFrom 0 m

/-- `n` bytes from `a` up, the lowest address least significant (R1). -/
def memRead (m : Memory) (a n : Nat) : Nat :=
  match n with
  | 0 => 0
  | k + 1 => (memGet m a).toNat + 256 * memRead m (a + 1) k

/-- Writes the low `n` bytes of `x` from `a` up (R1). -/
def memWrite (m : Memory) (a n x : Nat) : Memory :=
  match n with
  | 0 => m
  | k + 1 => memWrite (memPut m a (BitVec.ofNat 8 x)) (a + 1) k (x / 256)

/-- Flat address of byte `off` of a core's local store (R26). -/
def localFlat (c : CoreRef) (off : Nat) : Nat := coreKey c.m c.d c.c * 2 ^ 20 + off

/-- Flat address of a physical address of module `m` (R191). -/
def physFlat (m pa : Nat) : Nat := 2 ^ 60 + m * 2 ^ 52 + pa

/-- Flat address in the host memory behind module `m`'s outbound windows (R382). -/
def hostFlat (m a : Nat) : Nat := 2 ^ 61 + m * 2 ^ 52 + a

/-- The error state of the 8-byte word at flat index `i`. -/
def eccAt (s : State) (i : Nat) : Ecc := tget s.ecc Ecc.reset i

/-- Neither corrected nor good: two flipped bits or more, or the poison check pattern (R27). -/
def eccBadWord (e : Ecc) : Bool := e.bad || decide (2 ≤ popCount 64 e.flips.toNat)

/-- The first 8-byte word index and the number of words that `n` bytes from flat address `a` touch. -/
def wordSpan (a n : Nat) : Nat × Nat := (a / 8, (a + n - 1) / 8 + 1 - a / 8)

/-- Some word of the bytes is uncorrectable. -/
def eccBad (s : State) (a n : Nat) : Bool :=
  (List.range (wordSpan a n).2).any (fun j => eccBadWord (eccAt s (a / 8 + j)))

/-- Drops the error entries of the words from index `i` on that are only corrected by a read (R27). -/
def eccCorrect (t : Tbl Ecc) (i n : Nat) : Tbl Ecc :=
  match n with
  | 0 => t
  | k + 1 => eccCorrect (if eccBadWord (tget t Ecc.reset i) then t else tdel t i) (i + 1) k

/-- A read of `n` bytes by a party that meets no uncorrectable word: corrected words are written back (R27). -/
def readFlat (s : State) (a n : Nat) : Nat × State :=
  (memRead s.mem a n, if s.ecc.isEmpty then s else { s with ecc := eccCorrect s.ecc (a / 8) (wordSpan a n).2 })

/-- Error entries after a store to bytes [a, a + n) : a word stored whole is good, an uncorrectable word stored in part
takes the poison check pattern, a correctable one is corrected (R27). -/
def eccStore (t : Tbl Ecc) (a n i k : Nat) : Tbl Ecc :=
  match k with
  | 0 => t
  | j + 1 =>
    let whole := decide (a ≤ 8 * i) && decide (8 * i + 8 ≤ a + n)
    let e := tget t Ecc.reset i
    let t' := if whole || !eccBadWord e then tdel t i else tput t i { e with bad := true }
    eccStore t' a n (i + 1) j

/-- Stores the low `n` bytes of `x` at a flat address. -/
def writeFlat (s : State) (a n x : Nat) : State :=
  { s with mem := memWrite s.mem a n x,
           ecc := if s.ecc.isEmpty then s.ecc else eccStore s.ecc a n (a / 8) (wordSpan a n).2 }

/-- The near-tier or far-tier die that drives a physical address (R191). -/
def dieOfPa (pa : Nat) : Option Nat :=
  if pa < 0x18000000000 then some (16 + pa / 2 ^ 36 / 2)
  else if 0x100000000000 ≤ pa && pa < 0x120000000000 then some (28 + (pa - 0x100000000000) / 2 ^ 40)
  else if 0x200000000000 ≤ pa && pa < 0x300000000000 then some (28 + (pa - 0x200000000000) / 2 ^ 42 / 2)
  else none

/-- A physical address lies in the frames that a lost die, stack or port took away (R349, R391). -/
def lostPa (x : Mod) (pa : Nat) : Bool :=
  (match dieOfPa pa with | some d => x.lostTier.contains d | none => false) ||
    (decide (pa < 0x18000000000) && x.lostStacks.contains (pa / 2 ^ 36))

/-- A tier die, as 32 and its number, or an HBM4E stack, as 64 and its number, that is lost, while the recovery of its loss still waits
for its turn (R388). -/
def lossDue (x : Mod) (code : Nat) : Bool := x.sp.work.any (fun r => r.die = code)

/-- A physical address lies in frames that are lost, or whose loss is still to be recovered from. -/
def lostSoon (x : Mod) (pa : Nat) : Bool :=
  lostPa x pa || (match dieOfPa pa with | some d => lossDue x (32 + d) | none => false) ||
    (decide (pa < 0x18000000000) && lossDue x (64 + pa / 2 ^ 36))

/-- What is known of a die. -/
def dieSt (x : Mod) (d : Nat) : DieSt := tget x.dies ⟨false, false, false, false⟩ d

/-- Hardware has stopped a die of a module (R385). -/
def dieStopped (x : Mod) (d : Nat) : Bool := !x.dies.isEmpty && (dieSt x d).stopped

/-- The line of a flat address is poisoned (R347). -/
def poisonAt (s : State) (a : Nat) : Bool := tget s.poison false (a / 128)

/-- Poisons the line of a flat address. -/
def setPoison (s : State) (a : Nat) : State := { s with poison := tput s.poison (a / 128) true }

/-- Clears the poison of the line of a flat address. -/
def clearPoison (s : State) (a : Nat) : State := { s with poison := tdel s.poison (a / 128) }

end Sys2Proof.Machine
end

