-- ==== Sys2Proof/Machine/Xlat.lean ====
section
/-!
DEFINITION. Where an address goes: die maps and harvest maps (R333-R337), the address map (R183-R184), homes (R187,
R351-R353), the page table walk (R189-R191) and the resolution of an access, peer modules and host windows included
(R193, R365-R368, R382).
-/

namespace Sys2Proof.Machine

/-- Position of the (`k` + 1)-th bit equal to `b` among bits `i` … `i + n - 1` of `x`. -/
def nthBit (b : Bool) (n i x k : Nat) : Option Nat :=
  match n with
  | 0 => none
  | j + 1 =>
    if x.testBit i = b then (match k with | 0 => some i | k' + 1 => nthBit b j (i + 1) x k')
    else nthBit b j (i + 1) x k

/-- site(k) of R334. -/
def siteOf (d : DieMap) (k : Nat) : Nat :=
  let s0 := (nthBit true 18 0 d.orig.toNat k).getD 31
  let s1 := if d.xv0 && d.xl0.toNat = k then d.xs0.toNat else s0
  if d.xv1 && d.xl1.toNat = k then d.xs1.toNat else s1

/-- mapped(k) of R334. -/
def dieMapped (d : DieMap) (k : Nat) : Bool :=
  decide (k < 16) && decide (siteOf d k < 18) && !d.fail.getLsbD (siteOf d k)

/-- The logical die that stands at a site, if any is mapped there. -/
def dieAtSite (d : DieMap) (site : Nat) : Option Nat :=
  (List.range 16).find? (fun k => decide (siteOf d k = site) && dieMapped d k)

/-- Physical hamlet of logical hamlet `h` at a site (R337). -/
def physHam (x : Mod) (site h : Nat) : Nat := (nthBit false 52 0 (tget x.hfuse 0 site).toNat h).getD 63

/-- The fused-off cores of a physical hamlet: all ones when the hamlet is fused off (R336). -/
def coreFuse (x : Mod) (site ph : Nat) : BitVec 8 :=
  if ph < 52 && (tget x.hfuse 0 site).getLsbD ph then 0xFF else if ph < 52 then tget x.cfuse 0 (site * 64 + ph) else 0

/-- A spare site (R334). -/
def spareSite (d : DieMap) (site : Nat) : Bool :=
  decide (site < 18) && !d.orig.getLsbD site && !d.fail.getLsbD site && !(d.xv0 && d.xs0.toNat = site) &&
    !(d.xv1 && d.xs1.toNat = site)

/-- A takeover field is free (R335). -/
def takeoverFree (d : DieMap) : Bool := !d.xv0 || !d.xv1

/-- A logical core is present when its physical core works (R133, R337). -/
def corePresent (x : Mod) (d c : Nat) : Bool :=
  decide (c < 384) && dieMapped x.dmap d &&
    (let ph := physHam x (siteOf x.dmap d) (c / 8)
     decide (ph < 52) && !(coreFuse x (siteOf x.dmap d) ph).getLsbD (c % 8))

/-- A module that packets reach: present in the pod and not declared failed (R360). -/
def modUp (s : State) (m : Nat) : Bool := (modAt s m).present && !(modAt s m).failed

/-- All 48 channels from a module to another are dead (R362). -/
def pairDead (x : Mod) (p : Nat) : Bool := decide (48 ≤ (x.deadChans.filter (fun c => c.1 = p)).length)

/-- A module is up, and its lasers are on (R390). -/
def lasersOn (s : State) (m : Nat) : Bool := modUp s m && !(modAt s m).fenced

/-- Two modules have a live channel each way. -/
def pairLive (s : State) (a b : Nat) : Bool := !pairDead (modAt s a) b && !pairDead (modAt s b) a

/-- A pair has a route: a live channel, or a third module through which firmware relays (R362, R368). -/
def hasRoute (s : State) (a b : Nat) : Bool :=
  pairLive s a b || (List.range 32).any (fun t => t != a && t != b && modUp s t && pairLive s a t && pairLive s t b)

/-- The tag of global-region lines (R185). -/
def globalTag : Nat := 65536

/-- The regions of R183, with the decoding of a CORE window (R184). -/
inductive Place where
  | lcl (off : Nat)
  | page (tag : Nat) (va : Nat)
  | core (d : Nat) (c : Nat) (off : Nat)
  | bad
deriving DecidableEq, Repr

/-- The region of a virtual address for a core with this ASID. -/
def placeOf (asid : BitVec 16) (va : Word) : Place :=
  let a := va.toNat
  if a < 0x100000 then .lcl a
  else if a < 0x80000000000000 then .page asid.toNat a
  else if a < 0x100000000000000 then .page globalTag a
  else if a < 0x100000200000000 then .core (a / 2 ^ 29 % 16) (a / 2 ^ 20 % 512) (a % 2 ^ 20)
  else .bad

/-- The checks made at issue that depend on the address alone (R183, R184, R193): ACCESS. -/
def addrBad (asid : BitVec 16) (va : Word) : Bool :=
  match placeOf asid va with
  | .bad => true
  | .core _ c _ => decide (384 ≤ c)
  | _ => false

/-- Logical dies of a DIEMASK in ascending order. -/
def maskDies (mask : Nat) : List Nat := (List.range 16).filter (fun k => mask.testBit k)

/-- The granule's first byte lies in a layout's tensor, or the tensor begins in the granule (R351, R353). -/
def layoutCovers (l : Layout) (g : Nat) : Bool :=
  let bytes := 2 ^ l.esize * l.dims.foldl (fun a b => a * max b 1) 1
  decide (l.base < (g + 1) * 4096) && decide (g * 4096 < l.base + bytes)

/-- Quotient rounded up. -/
def ceilDiv (a b : Nat) : Nat := if b = 0 then 0 else (a + b - 1) / b

/-- The logical die of a granule under a layout (R353). -/
def layoutDie (l : Layout) (g : Nat) : Nat :=
  let a := max (g * 4096) l.base - l.base
  let e := a / 2 ^ l.esize
  let dim := fun k => max (l.dims.getD k 1) 1
  let til := fun k => max (l.tile.getD k 1) 1
  let i0 := e % dim 0
  let i1 := e / dim 0 % dim 1
  let gx := i0 / til 0 / max (ceilDiv (ceilDiv (dim 0) (til 0)) l.gx) 1
  let gy := i1 / til 1 / max (ceilDiv (ceilDiv (dim 1) (til 1)) l.gy) 1
  (maskDies l.diemask).getD (gy * l.gx + gx) 0

/-- Home slice of a die's ORIG site (R353). -/
def siteSlice (site : Nat) : Nat :=
  let r := site / 6
  let c := site % 6
  if r = 0 then c else if r = 1 then (if c < 3 then c else 6 + c) else 6 + c

/-- The layout table that a tag uses (R352). -/
def layoutsOf (x : Mod) (tag : Nat) : List Layout := if tag = globalTag then x.layG else tget x.layA [] tag

/-- The ORIG site of a logical die. -/
def origSite (d : DieMap) (k : Nat) : Nat := (nthBit true 18 0 d.orig.toNat k).getD 31

/-- Home slice and home die of the granule of an address (R187, R353). -/
def homeOf (x : Mod) (tag va : Nat) : Nat × Option Nat :=
  let g := va / 4096
  match (layoutsOf x tag).find? (fun l => layoutCovers l g) with
  | some l =>
    let k := layoutDie l g
    (siteSlice (origSite x.dmap k), if dieMapped x.dmap k then some k else none)
  | none =>
    let sl := g % 12
    (sl, dieAtSite x.dmap (if sl < 6 then sl else 12 + (sl - 6)))

/-- The home slice after the loss of near-tier dies (R349). -/
def liveSlice (x : Mod) (sl : Nat) : Nat := if x.lostTier.contains (16 + sl) then (sl + 6) % 12 else sl

/-! ### Leaves (R190) -/

def leafV (e : Word) : Bool := e.getLsbD 0
def leafW (e : Word) : Bool := e.getLsbD 1
def leafX (e : Word) : Bool := e.getLsbD 2
def leafMode (e : Word) : Nat := (e.extractLsb' 6 2).toNat
def leafKey (e : Word) : Nat := (e.extractLsb' 12 4).toNat
def leafPeer (e : Word) : Nat := (e.extractLsb' 16 5).toNat
def leafThresh (e : Word) : Nat := (e.extractLsb' 21 3).toNat
def leafNomig (e : Word) : Bool := e.getLsbD 24
def leafProt (e : Word) : Bool := e.getLsbD 25
def leafPs (e : Word) : Nat := (e.extractLsb' 26 2).toNat
def leafFrame (e : Word) : Nat := (e.extractLsb' 28 36).toNat

/-- The page stands in a frame of its own module. -/
def leafLocal (e : Word) : Bool := leafMode e = 0 || leafMode e = 3

/-- The three memories of the physical map. -/
inductive Tier where
  | near | lpddr | cxl
deriving DecidableEq, Repr

/-- The populated memory that a physical address of a module lies in (R191). Pages in frames of a lost die
or stack stay mapped, with their lines poisoned (R349). -/
def tierOf (x : Mod) (pa : Nat) : Option Tier :=
  if pa < 0x18000000000 then some .near
  else if 0x100000000000 ≤ pa && pa < 0x120000000000 then some .lpddr
  else if 0x200000000000 ≤ pa && pa < 0x300000000000 then
    if (pa - 0x200000000000) % 2 ^ 42 < tget x.cxl 0 ((pa - 0x200000000000) / 2 ^ 42) then some .cxl else none
  else none

/-- A leaf with V = 1 that obeys R190 for an address. -/
def leafOk (x : Mod) (va : Nat) (e : Word) : Bool :=
  let local' := leafMode e = 0 || leafMode e = 3
  decide (leafPs e ≤ 1) && (leafPs e != 1 || leafFrame e % 256 = 0) && (e.extractLsb' 8 4 = 0#4) &&
    (e.getLsbD 3 = va.testBit 55) && (!local' || (tierOf x (leafFrame e * 65536)).isSome)

/-- What a page table walk finds (R190): the leaf and the address of its word. -/
inductive Xl where
  | unmapped
  | absent (at_ : Nat)
  | leaf (e : Word) (at_ : Nat)
deriving DecidableEq, Repr

/-- One 8-byte table word of a frame, and its flat address. -/
def tableAt (m frame idx : Nat) : Nat := physFlat m (frame * 65536 + idx * 8)

/-- A pointer entry: the next table's frame (R189). -/
def pointerOf (s : State) (m frame idx : Nat) : Option Nat :=
  let e : Word := BitVec.ofNat 64 (memRead s.mem (tableAt m frame idx) 8)
  if e.getLsbD 0 && e.extractLsb' 1 27 = 0#27 then some (leafFrame e) else none

/-- The root frame for a tag (R189). -/
def rootOf (x : Mod) (tag : Nat) : Option Nat :=
  let r := if tag = globalTag then x.groot else tget x.asidDir 0 tag
  if r = 0 then none else some (r - 1)

/-- The walk of R189 and R190. -/
def walkPage (s : State) (m tag va : Nat) : Xl :=
  let x := modAt s m
  match rootOf x tag with
  | none => .unmapped
  | some r =>
    match pointerOf s m r (va / 2 ^ 55 % 2) with
    | none => .unmapped
    | some t2 =>
      match pointerOf s m t2 (va / 2 ^ 42 % 2 ^ 13) with
      | none => .unmapped
      | some t1 =>
        match pointerOf s m t1 (va / 2 ^ 29 % 2 ^ 13) with
        | none => .unmapped
        | some t0 =>
          let idx := va / 2 ^ 16 % 2 ^ 13
          let e : Word := BitVec.ofNat 64 (memRead s.mem (tableAt m t0 idx) 8)
          if !leafV e then (if e = 0 || leafPs e != 0 then .unmapped else .absent (tableAt m t0 idx))
          else if leafPs e = 1 then
            let at' := tableAt m t0 (idx / 256 * 256)
            let e' : Word := BitVec.ofNat 64 (memRead s.mem at' 8)
            if leafV e' && leafPs e' = 1 && leafOk x va e' then .leaf e' at' else .unmapped
          else if leafOk x va e then .leaf e (tableAt m t0 idx) else .unmapped

/-- The physical address of a virtual address under a leaf. -/
def leafPa (e : Word) (va : Nat) : Nat :=
  if leafPs e = 1 then leafFrame e / 256 * 2 ^ 24 + va % 2 ^ 24 else leafFrame e * 65536 + va % 65536

/-- Where a party stands among the scopes of R214: a slot; a mill or a crier; a copy or collective engine of a die, near-tier and
far-tier ones with the numbers of their dies; the launch unit and the rest of the device; a host. -/
inductive Stand where
  | slot
  | mill
  | engine (die : Nat)
  | device
  | host
deriving DecidableEq, Repr

/-- Who makes an access: the core it comes from, and its slot; its ASID and keys, its mode and launch; `eng` for engines,
hosts and the device itself; where the party stands. -/
structure Who where
  c : CoreRef
  slot : Option Nat
  asid : BitVec 16
  pkey : Option (BitVec 32)
  supv : Bool
  launch : Option LaunchRef
  eng : Bool
  stand : Stand
deriving DecidableEq, Repr

/-- Where a resolved access is performed, or why it is not yet or never. `e` and `at_` are the leaf that maps the frame and
its address; `own` is the address of the accessor's leaf, which differs for peer and host memory. -/
inductive Tgt where
  | lstore (c : CoreRef) (flat : Nat)
  | line (flat : Nat) (l : LineRef) (e : Word) (at_ : Nat) (own : Nat) (uncached : Bool)
  | hostMem (flat : Nat) (own : Nat)
  | fail (cause : Cause)
  | absent (p : PageRef)
  | wait
deriving DecidableEq, Repr

/-- The region key of R193 refuses the access. -/
def keyRefuses (k : Option (BitVec 32)) (tag : Nat) (e : Word) (write : Bool) : Bool :=
  match k with
  | none => false
  | some p => tag = globalTag && (p.getLsbD (2 * leafKey e) || (write && p.getLsbD (2 * leafKey e + 1)))

/-- Accesses to the page wait: its lines are frozen (R346), its frame is to be rebuilt (R349), or its write tokens are withheld and
the access writes (R329). -/
def pageHeld (s : State) (p : PageRef) (write : Bool) : Bool :=
  (pageAt s p).frozen || (pageAt s p).rebuild || (write && (pageAt s p).withheld)

/-- Hardware has stopped the near-tier die of an address' home or the tier die that drives its memory, or the recovery from the loss of
one of them or of the stack is still to come: accesses wait until then (R188, R191, R385, R388). -/
def tierStopped (x : Mod) (tag va pa : Nat) : Bool :=
  let home := 16 + liveSlice x (homeOf x tag va).1
  (!x.dies.isEmpty && ((dieSt x home).stopped || (match dieOfPa pa with | some d => (dieSt x d).stopped | none => false))) ||
    (!x.sp.work.isEmpty && (lossDue x (32 + home) || (lostSoon x pa && !lostPa x pa)))

/-- The page of a tagged address. -/
def pageOf (m tag va : Nat) : PageRef := ⟨m, tag, va / 65536⟩

/-- The line of a tagged address. -/
def lineOf (m tag va : Nat) : LineRef := ⟨m, tag, va / 128⟩

/-- The active lease that covers a peer address (R365); for host memory the lender is the host (R382). -/
def leaseFor (x : Mod) (peer pa : Nat) (host : Bool) : Option Lease :=
  x.borrow.find? (fun l => l.host = host && (host || l.lender = peer) && !l.revoked &&
    decide (l.pbase ≤ pa) && decide (pa < l.pbase + l.size * 2 ^ 30))

/-- The lender of a peer page under a lease that both modules hold active, and the address there (R365). -/
def lenderAt (s : State) (m va : Nat) (e : Word) : Option (Lease × Lease × Nat) :=
  let peer := leafPeer e
  let pa := leafPa e va
  match leaseFor (modAt s m) peer pa false with
  | none => none
  | some l =>
    match (modAt s peer).lend.find? (fun l' => l'.id = l.id && l'.borrower = m && !l'.revoked) with
    | none => none
    | some l' => some (l, l', l.lva.toNat + (pa - l.pbase))

/-- An access to peer memory (R365-R368): the lender's own mapping of LVA is checked for presence and W, no key. A page that the
lender's home finds not present is asked for there (R190, R196). -/
def resolvePeer (s : State) (m : Nat) (va : Nat) (e : Word) (own : Nat) (write : Bool) : Tgt :=
  let x := modAt s m
  let peer := leafPeer e
  let pa := leafPa e va
  if peer = m && leafMode e = 1 then
    match leaseFor x peer pa true with
    | none => .fail .leaseRevoked
    | some l => if l.connected then .hostMem (hostFlat m pa) own else .fail .remoteFailure
  else if !modUp s peer || !hasRoute s m peer then .fail .remoteFailure
  else if (modAt s peer).fenced then .wait
  else
    match lenderAt s m va e with
    | none => .fail .leaseRevoked
    | some (l, l', lva) =>
      if leafMode e = 2 && l.window then .fail .access
      else if write && l'.reclaiming then .wait
      else
        match walkPage s peer globalTag lva with
        | .unmapped => .fail .access
        | .absent _ => .absent (pageOf peer globalTag lva)
        | .leaf e' at' =>
          if (write && !leafW e') || !(leafMode e' = 0 || leafMode e' = 3) then .fail .access
          else if pageHeld s (pageOf peer globalTag lva) write ||
              tierStopped (modAt s peer) globalTag lva (leafPa e' lva) then .wait
          else .line (physFlat peer (leafPa e' lva)) (lineOf peer globalTag lva) e' at' own (leafMode e = 1)

/-- Where an access goes (R183-R193, R365). The `line` of a MODE 2 page is the lender's. The device and a host have no LOCAL
window. -/
def resolve (s : State) (w : Who) (va : Word) (write : Bool) : Tgt :=
  match placeOf w.asid va with
  | .bad => .fail .access
  | .lcl off => if w.eng && w.pkey.isNone && w.launch.isNone then .fail .access else .lstore w.c (localFlat w.c off)
  | .core d c off =>
    let t : CoreRef := ⟨w.c.m, d, c⟩
    if !corePresent (modAt s w.c.m) d c then .fail .access
    else if !w.supv && !(w.launch.isSome && (coreAt s t).launch = w.launch) then .fail .access
    else if dieStopped (modAt s w.c.m) d then .wait
    else .lstore t (localFlat t off)
  | .page tag a =>
    match walkPage s w.c.m tag a with
    | .unmapped => .fail (if (pageAt s (pageOf w.c.m tag a)).revoked then .leaseRevoked else .access)
    | .absent _ => .absent (pageOf w.c.m tag a)
    | .leaf e at' =>
      if (write && !leafW e) || keyRefuses w.pkey tag e write then .fail .access
      else if pageHeld s (pageOf w.c.m tag a) write then .wait
      else if leafMode e = 1 || leafMode e = 2 then resolvePeer s w.c.m a e at' write
      else if tierStopped (modAt s w.c.m) tag a (leafPa e a) then .wait
      else .line (physFlat w.c.m (leafPa e a)) (lineOf w.c.m tag a) e at' at' false

/-- Near accesses of a slot (R207): own home die, and LOCAL, a CORE window, or a MODE 0 or 3 page in HBM4E. -/
def isNear (s : State) (w : Who) (va : Word) : Bool :=
  match placeOf w.asid va with
  | .lcl _ => true
  | .core d _ _ => d = w.c.d
  | .page tag a =>
    (homeOf (modAt s w.c.m) tag a).2 = some w.c.d &&
      (match walkPage s w.c.m tag a with
       | .leaf e _ => (leafMode e = 0 || leafMode e = 3) && tierOf (modAt s w.c.m) (leafPa e a) = some .near
       | _ => false)
  | .bad => false

/-- Who a slot's accesses are (R193, R184). -/
def whoOf (s : State) (w : SlotRef) : Who :=
  let c := coreOf s w
  let x := slotAt s w
  ⟨coreRefOf w, some w.k, c.ident.asid, some x.csr.pkey, x.supv, c.launch, false, .slot⟩

end Sys2Proof.Machine
end

