-- ==== Sys2Proof/Machine/Forward.lean ====
section
/-!
DEFINITION. What the parties see of a core's buffered stores (R206-R208, R214-R216, R224): the scopes, releases that are not to be
seen yet, and the bytes that loads of the core take from its buffers.
-/

namespace Sys2Proof.Machine

/-- A CORE-window address of the slot's own core names a byte of its LOCAL window (R184, R206). -/
def normVa (w : SlotRef) (va : Word) : Nat :=
  match placeOf 0 va with
  | .core d c off => if d = w.d && c = w.c then off else va.toNat
  | _ => va.toNat

/-- Two ranges share a byte. -/
def overlaps (a : Nat × Nat) (b : Nat × Nat) : Bool := decide (a.1 < b.1 + b.2) && decide (b.1 < a.1 + a.2)

/-! ### Scopes -/

/-- Stores of a core that are still in its buffers. -/
def corePending (s : State) (c : CoreRef) (id : Nat) : Bool :=
  ((coreAt s c).sbuf ++ (coreAt s c).fq).any (fun e => e.id = id)

/-- The table of R214: the parties of a scope relative to the issuing core. Hosts are in scope 5 alone. -/
def inScope (c : CoreRef) (scope : Nat) (w : Who) : Bool :=
  let here := decide (w.c.m = c.m)
  match w.stand, scope with
  | .slot, 0 => decide (w.c = c)
  | .slot, 1 => here && w.c.d = c.d && w.c.c / 8 = c.c / 8
  | .slot, 2 => here && w.c.d = c.d
  | .mill, 1 => here && w.c.d = c.d && w.c.c / 8 = c.c / 8
  | .engine d, 2 => here && d = c.d
  | .slot, 3 | .mill, 3 | .engine _, 3 | .device, 3 => here
  | .host, k => decide (5 ≤ k)
  | _, k => decide (4 ≤ k)

/-- The location of a resolved access as the veils number it. -/
def locKey (t : Tgt) (va : Word) : Option Nat :=
  match t with
  | .lstore _ f => some f
  | .line _ l _ _ _ _ => some (2 ^ 130 + lineKey l * 128 + va.toNat % 128)
  | .hostMem f _ => some f
  | _ => none

/-- The veils over `n` bytes of a location whose stores are not all visible yet. -/
def veilsAt (s : State) (t : Tgt) (va : Word) (n : Nat) : List Veil :=
  match s.veils, locKey t va with
  | [], _ | _, none => []
  | vs, some k => vs.filter (fun v => decide (v.key < k + n) && decide (k < v.key + v.n) && v.ids.any (corePending s v.c))

/-- A release has been performed here before stores that it makes visible, and this party is in its scope: it does not see the
release yet (R215). The releasing slot sees its own. -/
def veiled (s : State) (w : Who) (t : Tgt) (va : Word) (n : Nat) : Bool :=
  (veilsAt s t va n).any (fun v => v.scope != 0 && inScope v.c v.scope w && !(w.c = v.c && w.slot = some v.k))

/-- A release of slot index `k` of a core is performed and still hidden from the core's other slots. -/
def ownVeil (s : State) (c : CoreRef) (k : Nat) : Bool :=
  s.veils.any (fun v => v.c = c && v.k = k && v.ids.any (corePending s v.c))

/-! ### Outstanding accesses -/

/-- The outstanding results of the context that a buffered store belongs to: a slot's, or a swapped one's. -/
def outsOfK (s : State) (w : SlotRef) (k : Nat) : List Out :=
  if k < 4 then (slotAt s { w with k := k }).outs
  else match (coreOf s w).swapped.find? (fun t => t.id + 8 = k) with
    | some t => t.slot.outs
    | none => []

/-- An access to memory among the outstanding results. -/
def isAccess (o : Out) : Bool := !o.units.isEmpty

/-- AMO, CAS or CAS2. -/
def isAtomic (o : Out) : Bool := match o.kind with | .amo .. | .cas .. | .cas2 .. => true | _ => false

/-- Some unit is not performed yet. -/
def unperformed (o : Out) : Bool := o.units.any (·.val.isNone)

/-- A near unit of a slot's access (R207). -/
def unitNear (s : State) (w : SlotRef) (u : AccUnit) : Bool := isNear s (whoOf s w) u.va

/-- A near atomic of the core with an earlier identity is still to be performed: its later near accesses follow it (R216). -/
def atomicFirst (s : State) (w : SlotRef) (id : Nat) : Bool :=
  (slotsOf (coreRefOf w)).any (fun v => (slotAt s v).outs.any (fun o =>
    decide (o.id < id) && isAtomic o && unperformed o && o.units.any (unitNear s v)))

/-- A completion is still to come to the context with index `k` of a core: a command that names it in NOTIFY, a completion message in
flight, or an entry of the spill ring, which may be one. -/
def completionDue (s : State) (w : SlotRef) (k : Nat) : Bool :=
  let mine := fun (ctx : Option Nat) (t : SlotRef) => if k < 4 then ctx.isNone && t = { w with k := k } else ctx = some (k - 8)
  s.cmds.any (fun c => hdrNotify c.blk != 0 &&
      mine c.ctx { epaTarget c.w (hdrNotify c.blk) with m := epaMod c.w.m (hdrNotify c.blk) }) ||
    s.net.any (fun m => entryKind m.raw = 1 && mine m.ctx (msgSlot m)) || !(coreOf s w).spill.bound.isEmpty

/-- A RECV that has claimed nothing yet. -/
def openRecv (o : Out) : Bool := match o.kind with | .recv none => true | _ => false

/-- An earlier RECV of the context may still dequeue a completion, an acquire that the access `id` follows (R217); one that can
only dequeue a program's message orders nothing. -/
def recvHolds (s : State) (w : SlotRef) (k id : Nat) : Bool :=
  (outsOfK s w k).any (fun o => openRecv o && decide (o.id < id)) && completionDue s w k

/-! ### Forwarding -/

/-- The data byte that a unit of a store holds for address `a` (normalised), if any. -/
def unitByte (w : SlotRef) (u : AccUnit) (a : Nat) : Option Nat :=
  let b := normVa w u.va
  match u.val with
  | some d => if b ≤ a && a < b + u.n then some (d.toNat / 256 ^ (a - b) % 256) else none
  | none => none

/-- The byte of an entry for address `a`: its last unit that covers it. -/
def entByte (w : SlotRef) (e : StEnt) (a : Nat) : Option Nat := e.units.reverse.findSome? (fun u => unitByte w u a)

/-- A release that is no party's to see yet (R224): an earlier load, atomic or LDC of its slot has not returned, a RECV before it may
still dequeue a completion (R217), or a store that it makes visible is not so yet. In a scope beyond the core that is one still
buffered; the slots of the core see each other's stores in the buffers, but for releases that are not to be seen themselves. `n`
bounds those. -/
def immatureIn (s : State) (w : SlotRef) (es : List StEnt) (n : Nat) (e : StEnt) : Bool :=
  match n with
  | 0 => false
  | n + 1 =>
    (outsOfK s w e.k).any (fun o => isAccess o && decide (o.id < e.id)) || recvHolds s w e.k e.id ||
      (if e.rel != some 0 then e.covers.any (corePending s (coreRefOf w))
       else ownVeil s (coreRefOf w) e.k ||
         es.any (fun r => r.rel.isSome && r.k = e.k && decide (r.id < e.id) && immatureIn s w es n r))

/-- A release in the buffers of a core that no party is to see yet. -/
def immature (s : State) (w : SlotRef) (e : StEnt) : Bool :=
  let es := (coreOf s w).sbuf ++ (coreOf s w).fq
  immatureIn s w es (es.length + 1) e

/-- Another slot of the core does not see entry `e` at a byte: an immature release of its slot comes before it there. -/
def hidden (s : State) (w : SlotRef) (es : List StEnt) (e : StEnt) (a : Nat) : Bool :=
  es.any (fun r => r.rel.isSome && r.k = e.k && decide (r.id ≤ e.id) && (entByte w r a).isSome && immature s w r)

/-- The youngest matching entry of the core's two buffers for a byte (R208), seen by access `id` of slot `w`: entries of the
slot itself that follow the access in program order do not count, nor those of other slots that R224 still hides. -/
def youngest (s : State) (w : SlotRef) (id a : Nat) : Option (StEnt × Nat) :=
  let c := coreOf s w
  let es := c.sbuf ++ c.fq
  es.foldl (fun best e =>
      if e.k = w.k && decide (id < e.id) then best
      else match entByte w e a with
        | none => best
        | some b =>
          if e.k != w.k && hidden s w es e a then best
          else match best with
            | some (y, _) => if y.id < e.id then some (e, b) else best
            | none => some (e, b))
    none

/-- `n` bytes at `va` as access `id` of slot `w` sees them over the value `x` in memory, and the entries of other slots
that it took bytes from. -/
def forward (s : State) (w : SlotRef) (id : Nat) (va : Word) (n x : Nat) : Nat × List Nat :=
  (List.range n).foldr (fun i r =>
      match youngest s w id (normVa w va + i) with
      | some (e, b) => (r.1 * 256 + b, if e.k = w.k then r.2 else e.id :: r.2)
      | none => (r.1 * 256 + x / 256 ^ i % 256, r.2))
    (0, [])

/-- Every byte of the access comes from the buffers. -/
def allForwarded (s : State) (w : SlotRef) (id : Nat) (va : Word) (n : Nat) : Bool :=
  (List.range n).all (fun i => (youngest s w id (normVa w va + i)).isSome)

/-- Some word of the bytes is uncorrectable, and the access needs it: not all of its bytes there come from the buffers (R27, R105,
R208). -/
def wordsBad (s : State) (w : SlotRef) (id flat : Nat) (va : Word) (n : Nat) : Bool :=
  let sp := wordSpan flat n
  (List.range sp.2).any (fun j =>
    let lo := max flat (8 * (sp.1 + j))
    let hi := min (flat + n) (8 * (sp.1 + j) + 8)
    eccBadWord (eccAt s (sp.1 + j)) && !allForwarded s w id (va + BitVec.ofNat 64 (lo - flat)) (hi - lo))

end Sys2Proof.Machine
end

