-- ==== Sys2Proof/Machine/Perform.lean ====
section
/-!
DEFINITION. Performing one access at its location: the tokens it needs (R342-R345), the page state the home keeps
(R190, R355), poison and ECC (R27, R347), the dirty log (R201-R204), and the waiters a local-store write wakes (R153).
-/

namespace Sys2Proof.Machine

/-- All tokens of a line (R342). -/
def allTokens : Nat := 1024

/-- The HINT member for a hamlet as the home module `m` sees it (R343). -/
def hintOf (m : Nat) (h : HamRef) : Nat := if h.m = m then h.d else 16 + h.m

/-- HINT member of a hamlet key. -/
def hintOfKey (m key : Nat) : Nat := if key / 64 / 16 = m then key / 64 % 16 else 16 + key / 64 / 16

/-- The list without repeats, first occurrences kept. -/
def nubNat (l : List Nat) : List Nat := l.foldl (fun acc x => if acc.contains x then acc else acc ++ [x]) []

/-- HINT: the dies and peer modules that hold tokens or to which tokens travel (R343). -/
def hintSet (m : Nat) (l : Line) : List Nat :=
  nubNat ((l.held.filter (fun p => p.2 != 0)).map (fun p => hintOfKey m p.1) ++
    l.flight.filterMap (fun t => t.toHam.map (hintOfKey m)))

/-- The line with one token message delivered (R342, R343). -/
def deliverTok (l : Line) (t : TokMsg) : Line :=
  match t.toHam with
  | some h => { l with held := tput l.held h (tget l.held 0 h + t.n), owner := if t.owner then some h else l.owner,
                       valid := if t.data && !l.valid.contains h then h :: l.valid else l.valid }
  | none => { l with home := l.home + t.n, owner := if t.owner then none else l.owner,
                     mvalid := if t.owner then true else l.mvalid }

/-- The line with every message in flight delivered. -/
def settleFlight (l : Line) : Line := l.flight.foldl deliverTok { l with flight := [] }

/-- `n` tokens taken from hamlet `h`; one without tokens has no valid copy. -/
def takeHeld (l : Line) (h n : Nat) : Line :=
  let left := tget l.held 0 h - n
  { l with held := if left = 0 then tdel l.held h else tput l.held h left,
           valid := if left = 0 then l.valid.filter (· != h) else l.valid }

/-- A request of hamlet `h` is satisfied, for reading or for writing: its failed attempts are forgotten, those of a read by a write too,
and an active persistent request of its kind has made its access (R345). `tries` counts attempts to read of hamlet `h` at `2 * h`,
those to write at `2 * h + 1`. -/
def satisfied (l : Line) (h : Nat) (write : Bool) : Line :=
  { l with tries := if write then tdel (tdel l.tries (2 * h)) (2 * h + 1) else tdel l.tries (2 * h),
           served := l.served || (l.active && (match l.persist with | (k, wr) :: _ => k = h && (write || !wr) | [] => false)) }

/-- A satisfied read request of hamlet `h` (R344), homed at module `m`. -/
def tokRead (m : Nat) (l : Line) (h : Nat) : Line :=
  let l := satisfied (settleFlight l) h false
  if tget l.held 0 h != 0 && l.valid.contains h then l
  else
    let give := fun (l : Line) (n : Nat) (own : Bool) =>
      { l with held := tput l.held h (tget l.held 0 h + n), owner := if own then some h else l.owner,
               valid := if l.valid.contains h then l.valid else h :: l.valid }
    let l' := match l.owner with
      | none => if 2 ≤ l.home then give { l with home := l.home - 1 } 1 false else give { l with home := 0 } 1 true
      | some o =>
        if o = h then give l 0 false
        else if 2 ≤ tget l.held 0 o then give (takeHeld l o 1) 1 false else give (takeHeld l o 1) 1 true
    { l' with hint := hintSet m l' }

/-- A satisfied write request: all tokens in hamlet `h` (R344); the home clears MVALID (R343). -/
def tokWrite (m : Nat) (l : Line) (h : Nat) : Line :=
  let l := satisfied l h true
  let l' := { l with home := 0, held := [(h, allTokens)], owner := some h, valid := [h], mvalid := false, flight := [] }
  { l' with hint := hintSet m l' }

/-- All tokens and the data back at the home, as after an engine write or a recall (R342). -/
def tokHome (l : Line) : Line :=
  { l with home := allTokens, held := [], owner := none, valid := [], hint := [], mvalid := true, flight := [],
           dirty := false, dirtyOwn := none }

/-- Hamlet `h` returns every token it holds, with data if the owner token is among them (R344). -/
def tokReturn (m : Nat) (l : Line) (h : Nat) : Line :=
  let l := settleFlight l
  let n := tget l.held 0 h
  let own := l.owner = some h
  let l' := { takeHeld l h n with home := l.home + n, owner := if own then none else l.owner,
                                  mvalid := if own then true else l.mvalid, dirty := l.dirty && !own,
                                  dirtyOwn := if own then none else l.dirtyOwn }
  { l' with hint := hintSet m l' }

/-- A persistent request of another hamlet is active: accesses to the line wait (R345). -/
def persistBlocks (l : Line) (h : Nat) : Bool :=
  l.active && (match l.persist with | (k, _) :: _ => k != h | [] => false)

/-- The hamlet stands on a compute die that hardware has stopped: it sends no tokens (R385). -/
def stoppedHam (s : State) (key : Nat) : Bool := dieStopped (modAt s (key / 64 / 16)) (key / 64 % 16)

/-- The hamlet has what a read needs, or what a write needs: the home is not asked (R188, R344). -/
def hasTokens (l : Line) (h : Nat) (write : Bool) : Bool :=
  if write then tget l.held 0 h = allTokens else tget l.held 0 h != 0 && l.valid.contains h

/-- What an access needs of the line is with a hamlet on a stopped die: for a write some token, for a read the owner's data. `h` is the
hamlet that makes it, none for the home. -/
def tokensStuck (s : State) (l : Line) (h : Option Nat) (write : Bool) : Bool :=
  !(match h with | some h => hasTokens l h write | none => false) &&
    l.held.any (fun q => q.2 != 0 && some q.1 != h && (write || l.owner = some q.1) && stoppedHam s q.1)

/-- An access to a line waits: a persistent request of another hamlet is active (R345), or tokens cannot come. One made at the home
itself, by an engine or uncached, is no hamlet's. -/
def lineBlocked (s : State) (l : Line) (w : Who) (uncached write : Bool) : Bool :=
  if w.eng || uncached then (l.active && !l.persist.isEmpty) || tokensStuck s l none write
  else
    let h := hamKey w.c.m w.c.d (w.c.c / 8)
    persistBlocks l h || tokensStuck s l (some h) write

/-- The tokens of some line of the page cannot be recalled now: its lines are frozen (R346), or a hamlet on a stopped die holds some. -/
def pageStuck (s : State) (p : PageRef) : Bool :=
  (pageAt s p).frozen || (s.mods.any (fun q => !q.2.dies.isEmpty) && s.lines.any (fun q =>
    q.1 / 2 ^ 50 = p.m * 65537 + p.tag && q.1 % 2 ^ 50 / 512 = p.pn && q.2.held.any (fun h => h.2 != 0 && stoppedHam s h.1)))

/-- Sets bits of a leaf at its home. -/
def setLeafBits (s : State) (at_ : Nat) (bits : Nat) : State :=
  { s with mem := memWrite s.mem at_ 8 (memRead s.mem at_ 8 ||| bits) }

/-- The leaf's D bit (R190). -/
def bitD : Nat := 16

/-- The leaf's A bit (R190). -/
def bitA : Nat := 32

/-- The page a line belongs to. -/
def pageOfLine (l : LineRef) : PageRef := ⟨l.m, l.tag, l.ln / 512⟩

/-- A translation at the home: the entry enters the TLB with A set and a cleared count, or is counted (R190, R355). -/
def touchPage (s : State) (p : PageRef) (at_ : Nat) : State :=
  let x := pageAt s p
  if x.tlb then setPage s p { x with count := x.count + 1 }
  else setPage (setLeafBits s at_ bitA) p { x with tlb := true, count := 0 }

/-- A translation at the home when its memory-side cache misses (R188, log 9). -/
def missTouch (s : State) (p : PageRef) (at_ : Nat) : State :=
  if !(pageAt s p).tlb || Config.freePick s.clk % 2 = 0 then touchPage s p at_ else s

/-- The home translates only when its memory-side cache misses (R188); which requests miss is not stated, so a free value
says it (log 9). A page that has no entry in the TLB has no line in that cache. For peer memory the accessor's own home has
translated the page too (R365). -/
def translate (s : State) (w : Who) (va : Word) (l : LineRef) (at_ own : Nat) : State :=
  let s1 := missTouch s (pageOfLine l) at_
  match placeOf w.asid va with
  | .page tag a => if own != at_ then missTouch s1 (pageOf w.c.m tag a) own else s1
  | _ => s1

/-- What an access that fails after the walk leaves: the home has translated its page, and the lender's home the lender's (R190,
R365). -/
def failSeen (s : State) (w : Who) (va : Word) : State :=
  match placeOf w.asid va with
  | .page tag a =>
    (match walkPage s w.c.m tag a with
     | .leaf e at' =>
       let s1 := missTouch s (pageOf w.c.m tag a) at'
       if leafLocal e then s1
       else match lenderAt s w.c.m a e with
         | some (_, _, lva) =>
           (match walkPage s (leafPeer e) globalTag lva with
            | .leaf _ at2 => missTouch s1 (pageOf (leafPeer e) globalTag lva) at2
            | _ => s1)
         | none => s1
     | _ => s)
  | _ => s

/-- Dirty data reach the home: D is set in the line's leaf, and in the leaf of the borrower that wrote them (R204, R367). -/
def settleD (s : State) (ln : Line) (at_ : Nat) : State :=
  let s := if ln.dirty then setLeafBits s at_ bitD else s
  match ln.dirtyOwn with
  | some own => setLeafBits s own bitD
  | none => s

/-- What an attempt to perform an access answers: performed, failed, its page absent, or not yet. -/
inductive Res (α : Type) where
  | ok (s : State) (x : α)
  | fail (c : Cause)
  | absent (p : PageRef)
  | wait

/-- The slot when its park has ended: it goes on at the next cell, and a switch marker still holds it (R157, R164). -/
def endPark (x : Slot) (sw : Bool) : Slot :=
  { x with pc := nextCell x.pc, st := if sw && !x.outs.isEmpty then .parked .defer false else .ready }

/-- The slot without its RECVs. -/
def withdrawRecvs (x : Slot) : Slot :=
  let gone := x.outs.filter (fun o => match o.kind with | .recv _ => true | _ => false)
  let x := gone.foldl (fun x o => unmarkDst x o.dst) x
  { x with outs := x.outs.filter (fun o => match o.kind with | .recv _ => false | _ => true) }

/-- RECVs are withdrawn: they claim nothing, and an entry that one has claimed is again the oldest of the inbox (R171, R177,
R296). -/
def withdraw (s : State) (w : SlotRef) : State :=
  let x := slotAt s w
  let back := x.outs.filterMap (fun o => match o.kind with | .recv (some e) => some (⟨e, none⟩ : InEntry) | _ => none)
  let c := coreOf s w
  let s := setSlot s w (withdrawRecvs x)
  if back.isEmpty then s else setCoreOf s w { c with inbox := back ++ c.inbox }

/-- POISON of a slot parked in WAITA: precise, and waiting until its results have returned; with an open frame it rolls back (R173,
R283, R295). -/
def stopWait (s : State) (w : SlotRef) (a : Word) : State :=
  let s := if (slotAt s w).frames.isEmpty then s else withdraw s w
  let x := slotAt s w
  setSlot s w { x with st := .ready, stop := some ⟨.poison, a, x.pc, x.pc, false, false, .none,
    if x.frames.isEmpty then none else some .innermost⟩ }

/-- A new comparison of one slot parked in WAITA (R173): of the bytes as the slot would load them, as at its first one (log 32), and not
while a release hides them from it (R215); a wake that comes then is kept. -/
def recheckWait (s : State) (w : SlotRef) (woken : Bool) : State :=
  let x := slotAt s w
  match x.st with
  | .parked (.waita a v d) sw =>
    let f := localFlat (coreRefOf w) a.toNat
    let woken := woken || x.pendingWake
    if veiled s (whoOf s w) (.lstore (coreRefOf w) f) a 8 then setSlot s w { x with pendingWake := woken }
    else if wordsBad s w s.nextId f a 8 then stopWait s w a
    else
      let r := readFlat s f 8
      let now : Word := BitVec.ofNat 64 (forward s w s.nextId a 8 r.1).1
      if now != v || woken then setSlot r.2 w (endPark (sPut { x with pendingWake := false } d now) sw) else r.2
  | _ => s

/-- The slot waits in WAITA on a word that bytes [off, off + n) of its local store touch. -/
def waitsOn (x : Slot) (off n : Nat) : Bool :=
  match x.st with
  | .parked (.waita a _ _) _ => decide (a.toNat < off + n) && decide (off < a.toNat + 8)
  | _ => false

/-- A store to a local store: every slot of the core that waits on a word it touches compares anew (R153). -/
def writeLocal (s : State) (c : CoreRef) (flat n x : Nat) : State :=
  (slotsOf c).foldl (fun s w =>
      if waitsOn (slotAt s w) (flat % 2 ^ 20) n then recheckWait s w false else s)
    (writeFlat s flat n x)

/-- Hamlet key of the core that makes an access. -/
def whoHam (w : Who) : Nat := hamKey w.c.m w.c.d (w.c.c / 8)

/-- The log entry of a page (R201). -/
def logEntry (asid : BitVec 16) (tag va : Nat) : Nat :=
  (if tag = globalTag then 2 ^ 47 else asid.toNat * 2 ^ 48) + va / 65536 % 2 ^ 40

/-- Ring size of an enabled dirty log; 0 when it is disabled (R202). -/
def logSize (d : DirtyLog) : Nat := d.lim.toNat - d.base.toNat

/-- Appends to the core's dirty log what a store needs (R202); none when the ring is full. -/
def logStore (s : State) (w : Who) (tag va : Nat) : Option State :=
  let c := coreAt s w.c
  let d := c.log
  let n := logSize d
  let e := logEntry w.asid tag va
  if n = 0 || d.last.contains e then some s
  else if n ≤ d.cnt then none
  else
    let s := writeLocal s w.c (localFlat w.c (d.head.toNat * 8)) 8 e
    let h := if d.head + 1 = d.lim then d.base else d.head + 1
    some (setCore s w.c { coreAt s w.c with log := { d with head := h, cnt := d.cnt + 1, last := e :: d.last.take 7 } })

/-- The home's part of an access: the translations that a request to it makes (R188). -/
def askHome (s : State) (w : Who) (va : Word) (l : LineRef) (at_ own : Nat) (uncached write : Bool) : State :=
  if !uncached && !w.eng && hasTokens (lineAt s l) (whoHam w) write then s else translate s w va l at_ own

/-- A write performs on the TAIL word of a registered queue (R159, R161). -/
def noteTail (s : State) (l : LineRef) (va : Word) (n : Nat) : State :=
  let x := modAt s l.m
  let a := l.ln * 128 + va.toNat % 128
  let hit := fun q : Nat × Queue => decide (a < q.2.desc.toNat + 0x18) && decide (q.2.desc.toNat + 0x10 < a + n)
  if l.tag = globalTag && x.queues.any hit then
    setMod s l.m { x with queues := x.queues.map (fun q => if hit q then (q.1, { q.2 with tailHit := true }) else q) }
  else s

/-- What a write to a page leaves besides the bytes: tokens, the dirty log, and D (R202-R204, R342, R367). -/
def noteWrite (s : State) (w : Who) (va : Word) (l : LineRef) (at_ own : Nat) (uncached : Bool) : Option State :=
  let s := askHome s w va l at_ own uncached true
  let ln := lineAt s l
  let noLog := logSize (coreAt s w.c).log = 0
  let home := setLeafBits (setLine (settleD s ln at_) l (tokHome ln)) at_ bitD
  if w.eng then some (setLeafBits home own bitD)
  else
    let s :=
      if uncached then
        let s := home
        if noLog then setLeafBits s own bitD else s
      else setLine s l { tokWrite l.m ln (whoHam w) with
        dirty := ln.dirty || noLog, dirtyOwn := if noLog && own != at_ then some own else ln.dirtyOwn }
    match placeOf w.asid va with
    | .page tag a => logStore s w tag a
    | _ => some s

/-- What a write to host memory leaves besides the bytes: the home's translation, D and the dirty log (R202-R204, R382). -/
def noteHost (s : State) (w : Who) (va : Word) (own : Nat) : Option State :=
  match placeOf w.asid va with
  | .page tag a =>
    let s := touchPage s (pageOf w.c.m tag a) own
    if w.eng then some (setLeafBits s own bitD)
    else logStore (if logSize (coreAt s w.c).log = 0 then setLeafBits s own bitD else s) w tag a
  | _ => some s

/-- Reads `n` bytes at one location, whatever releases are hidden there: an LDC follows no rule of their order (R206). -/
def readAt (s : State) (w : Who) (va : Word) (n : Nat) : Res Nat :=
  match resolve s w va false with
  | .lstore _ f => if eccBad s f n then .fail .poison else .ok (readFlat s f n).2 (readFlat s f n).1
  | .line f l _ at' own unc =>
    if lineBlocked s (lineAt s l) w unc false then .wait
    else if poisonAt s f || eccBad s f n then .fail .poison
    else
      let s := askHome s w va l at' own unc false
      let s := if unc || w.eng then s else setLine s l (tokRead l.m (lineAt s l) (whoHam w))
      .ok (readFlat s f n).2 (readFlat s f n).1
  | .hostMem f own =>
    (match placeOf w.asid va with
     | .page tag a =>
       let s := touchPage s (pageOf w.c.m tag a) own
       .ok (readFlat s f n).2 (readFlat s f n).1
     | _ => .ok (readFlat s f n).2 (readFlat s f n).1)
  | .fail c => .fail c
  | .absent p => .absent p
  | .wait => .wait

/-- Reads `n` bytes at one location (R211, R213, R347): not while a release there is hidden from the party (R215). -/
def perfRead (s : State) (w : Who) (va : Word) (n : Nat) : Res Nat :=
  if veiled s w (resolve s w va false) va n then .wait else readAt s w va n

/-- Stores the low `n` bytes of `x` at one location (R211-R213, R347). -/
def perfWrite (s : State) (w : Who) (va : Word) (n x : Nat) : Res Unit :=
  match resolve s w va true with
  | .lstore c f => .ok (writeLocal s c f n x) ()
  | .line f l _ at' own unc =>
    if lineBlocked s (lineAt s l) w unc true then .wait
    else
      match noteWrite s w va l at' own unc with
      | none => .wait
      | some s => .ok (writeFlat (noteTail s l va n) f n x) ()
  | .hostMem f own =>
    (match noteHost s w va own with
     | none => .wait
     | some s => .ok (writeFlat s f n x) ())
  | .fail c => .fail c
  | .absent p => .absent p
  | .wait => .wait

/-- One atomic step at one location (R226-R229): `f` gives the new value, or none to write nothing. `hostOk` marks the
atomics that host memory takes (R382). The old value is the answer. -/
def perfAtomic (s : State) (w : Who) (va : Word) (n : Nat) (f : Nat → Option Nat) (hostOk : Bool) : Res Nat :=
  let t := resolve s w va true
  if veiled s w t va n then .wait
  else match t with
  | .lstore c a =>
    if eccBad s a n then .fail .poison
    else
      let old := (readFlat s a n).1
      match f old with
      | none => .ok (readFlat s a n).2 old
      | some x => .ok (writeLocal s c a n x) old
  | .line a l _ at' own unc =>
    if lineBlocked s (lineAt s l) w unc true then .wait
    else if poisonAt s a || eccBad s a n then .fail .poison
    else
      let old := (readFlat s a n).1
      match f old with
      | none =>
        let s := askHome s w va l at' own unc true
        let ln := lineAt s l
        let s := if unc || w.eng then settleD s ln at' else s
        .ok (setLine s l (if unc || w.eng then tokHome ln
          else { tokWrite l.m ln (whoHam w) with dirty := ln.dirty, dirtyOwn := ln.dirtyOwn })) old
      | some x =>
        match noteWrite s w va l at' own unc with
        | none => .wait
        | some s => .ok (writeFlat (noteTail s l va n) a n x) old
  | .hostMem a own =>
    if !hostOk then .fail .access
    else
      let old := (readFlat s a n).1
      match f old with
      | none =>
        .ok (match placeOf w.asid va with | .page tag va => touchPage s (pageOf w.c.m tag va) own | _ => s) old
      | some x =>
        match noteHost s w va own with
        | none => .wait
        | some s => .ok (writeFlat s a n x) old
  | .fail c => .fail c
  | .absent p => .absent p
  | .wait => .wait

end Sys2Proof.Machine
end

