-- ==== Sys2Proof/Machine/Ops.lean ====
section
/-!
DEFINITION. The operations every instruction shares: the fetch checks of a target (R11, R13, R14), raising and taking a
fault (R283, R286), rolling back a containment domain (R295-R297), resuming, and the issue of one instruction with its
guard, pending and deferral checks (R19-R22).
-/

namespace Sys2Proof.Machine

/-- The number of a cause (R282). -/
def causeCode : Cause → Nat
  | .none => 0 | .illegalInstr => 1 | .illegalLine => 2 | .lineParity => 3 | .fetchAlign => 4 | .branchTarget => 5
  | .pendingAccess => 6 | .dataAlign => 7 | .access => 8 | .residency => 9 | .fpException => 10 | .format => 11
  | .containment => 12 | .residue => 13 | .poison => 14 | .barrier => 15 | .engineCmd => 16 | .remoteFailure => 17
  | .leaseRevoked => 18 | .breakpoint => 19 | .watchpoint => 20 | .trapInstr => 21 | .privilege => 22

/-! ### Fetch lines -/

/-- A line as a fetch sees it: its 64 bytes, and which of its eight words are uncorrectable. -/
structure LineView where
  data : VWord
  bad : List Bool
deriving DecidableEq, Repr

/-- The line in the local store now. -/
def freshLine (s : State) (c : CoreRef) (a : Nat) : LineView :=
  ⟨BitVec.ofNat 512 (memRead s.mem (localFlat c a) 64),
   (List.range 8).map (fun i => eccBadWord (eccAt s (localFlat c a / 8 + i)))⟩

/-- The line that the slot's instruction buffer holds, else the local store's (R23, R24). -/
def lineView (s : State) (w : SlotRef) (a : Nat) : LineView :=
  match (slotAt s w).ibuf.find? (fun p => p.1 = a) with
  | some (_, d) => ⟨d, List.replicate 8 false⟩
  | none => freshLine s (coreRefOf w) a

/-- The line word. -/
def lwOf (v : LineView) : BitVec 32 := v.data.extractLsb' 0 32

/-- LWP parity fails, or the line word was read with an uncorrectable error (R10, R13 step 1). -/
def lwBad (v : LineView) : Bool := v.bad.getD 0 false || popCount 32 (lwOf v).toNat % 2 != 0

/-- Cell `k` of a line. -/
def cellOf (v : LineView) (k : Nat) : CellWord := v.data.extractLsb' (32 + 96 * k) 96

/-- CELLP parity fails, or a word of the cell was uncorrectable (R10, R13 step 3). -/
def cellBad (v : LineView) (k : Nat) : Bool :=
  popCount 96 (cellOf v k).toNat % 2 != (if (lwOf v).getLsbD (8 + k) then 1 else 0) ||
    (List.range ((16 + 12 * k - 1) / 8 + 1 - (4 + 12 * k) / 8)).any (fun j => v.bad.getD ((4 + 12 * k) / 8 + j) false)

/-- The cell number of a PC, if its low bits are legal (R11). -/
def cellIx (pc : Word) : Option Nat :=
  match (pc.extractLsb' 0 6).toNat with
  | 0x04 => some 0 | 0x10 => some 1 | 0x1C => some 2 | 0x28 => some 3 | 0x34 => some 4 | _ => none

/-- The line address of a PC in the LOCAL window. -/
def lineOfPc (pc : Word) : Nat := pc.toNat / 64 * 64

/-- R11: FETCH_ALIGN, then ACCESS. -/
def checkPc (pc : Word) : Option Cause :=
  if (cellIx pc).isNone then some .fetchAlign else if pc.extractLsb' 20 44 != 0 then some .access else none

/-- A fetch reads a line of the local store: single-bit errors are corrected, and the corrected words written back (R27). -/
def fixLine (s : State) (c : CoreRef) (a : Nat) : State := (readFlat s (localFlat c a) 64).2

/-- The fetch of the line of a PC from the local store: the slot's instruction buffer does not hold it, or holds it with a line word
that fails (R13, R27). -/
def fixFetch (s : State) (w : SlotRef) (pc : Word) : State :=
  if (checkPc pc).isSome ||
      ((slotAt s w).ibuf.any (fun p => p.1 = lineOfPc pc) && !lwBad (lineView s w (lineOfPc pc))) then s
  else fixLine s (coreRefOf w) (lineOfPc pc)

/-- The line of a legal PC after R13 steps 1 and 2, refetched once when its word fails. -/
def checkLine (s : State) (w : SlotRef) (pc : Word) : Except Cause LineView :=
  let v := lineView s w (lineOfPc pc)
  let v := if lwBad v then freshLine s (coreRefOf w) (lineOfPc pc) else v
  if lwBad v then .error .lineParity
  else if (lwOf v).extractLsb' 14 18 != 0#18 then .error .illegalLine
  else .ok v

/-- CheckTarget of R92: R11, R13 steps 1 and 2, and the TGT bit (R14). -/
def checkTarget (s : State) (w : SlotRef) (t : Word) : Option Cause :=
  match checkPc t with
  | some c => some c
  | none =>
    match checkLine s w t with
    | .error c => some c
    | .ok v => if (lwOf v).getLsbD ((cellIx t).getD 0) then none else some .branchTarget

/-- Takes a line into the slot's instruction buffer: at most three lines (R23). -/
def bufferTake (s : State) (w : SlotRef) (a : Nat) : State :=
  let x := slotAt s w
  if x.ibuf.any (fun p => p.1 = a) then s
  else
    let v := freshLine s (coreRefOf w) a
    if v.bad.any id then s else setSlot (fixLine s (coreRefOf w) a) w { x with ibuf := (a, v.data) :: x.ibuf.take 2 }

/-- The buffer after a transfer to a PC: the losing line goes (R23); every line does when the target's is not held (R24, R93). -/
def bufferJump (x : Slot) (pc : Word) : Slot :=
  if x.ibuf.any (fun p => p.1 = lineOfPc pc) then
    { x with ibuf := x.ibuf.filter (fun p => p.1 = lineOfPc pc || p.1 = lineOfPc x.pc) }
  else { x with ibuf := [] }

/-! ### Launch helpers -/

/-- The policy of the launch that holds the slot's core (R300). -/
def cdpolOf (s : State) (w : SlotRef) : BitVec 16 :=
  match launchOf s w with
  | none => 0
  | some l => match launchAt s l with | none => 0 | some x => x.record.cdpol

/-- The launch is to end with this status (R160); the first status stands. -/
def killLaunch (s : State) (l : LaunchRef) (status : Nat) : State :=
  match launchAt s l with
  | none => s
  | some x => if x.kill.isSome then s else setLaunch s l { x with kill := some status }

/-- The launch of a slot is to end with this status. -/
def killOf (s : State) (w : SlotRef) (status : Nat) : State :=
  match launchOf s w with
  | none => s
  | some l => killLaunch s l status

/-! ### Messages -/

/-- SEND's step 2 refuses the EPA (R170). -/
def epaBadSend (e : BitVec 32) : Bool :=
  epaType e != 0 || e.extractLsb' 0 5 != 0#5 || (decide (16 ≤ epaDie e) && decide (epaDie e ≤ 30)) ||
    decide (47 < epaHam e) || (!epaPv e && epaPeer e != 0)

/-- An inbox entry (R149): source EPA, KIND, destination slot, payload words. -/
def mkEntry (src : BitVec 32) (kind slot : Nat) (payload : List Word) : VWord :=
  packWords (BitVec.ofNat 64 (src.toNat + kind * 2 ^ 32 + slot * 2 ^ 40) :: payload.take 7)

/-- The fault record of a slot (R284). -/
def faultRecord (s : State) (w : SlotRef) (st : Stop) (cross : Bool) (kslot : Nat) : VWord :=
  let x := slotAt s w
  let c := coreOf s w
  let me := epaOf w cross
  let f := x.frames.head?
  let l := (launchOf s w).getD ⟨0, 0, 0⟩
  mkEntry me 2 kslot
    [ BitVec.ofNat 64 (causeCode st.cause + (if st.defer then 2 ^ 8 else 0) + (if st.esc then 2 ^ 9 else 0) +
        x.frames.length * 2 ^ 10 + (tget c.cnt 0 0).toNat * 2 ^ 16 + c.ident.asid.toNat * 2 ^ 32),
      st.pc, st.val, if st.defer then st.resume else st.pc,
      BitVec.ofNat 64 (me.toNat + l.q % 16 * 2 ^ 32 + l.s % 2 ^ 27 * 2 ^ 36),
      BitVec.ofNat 64 ((match f with | some f => f.id.toNat + f.retries % 2 ^ 16 * 2 ^ 16 | none => 0) +
        x.trap.retry.toNat * 2 ^ 32),
      BitVec.ofNat 64 (x.csr.fflg.toNat +
        ((if c.mflg.zrep then 2 ^ 8 else 0) + (if c.mflg.ovf then 2 ^ 9 else 0) + (if c.mflg.res then 2 ^ 10 else 0))) ]

/-- The device sends a message on a slot's behalf; it is not restricted to the launch (R283). -/
def deviceSend (s : State) (w : SlotRef) (epa : BitVec 32) (raw : VWord) (why : MsgFor) : State :=
  { s with net := s.net ++ [⟨w, epaMod w.m epa, epa, raw, none, false, why, none⟩] }

/-! ### Faults -/

/-- Only RECVs are outstanding (R283 step 1). -/
def onlyRecv (x : Slot) : Bool := x.outs.all (fun o => match o.kind with | .recv _ => true | _ => false)

/-- A fault delivered in task mode (R283 step 2): the trap registers, FAULTED, and the record to `FSUP`.EP0. -/
def deliverFault (s : State) (w : SlotRef) (st : Stop) : State :=
  let x := slotAt s w
  let t := { x.trap with pc := st.pc, cause := BitVec.ofNat 8 (causeCode st.cause), defer := st.defer, esc := st.esc,
                         val := st.val }
  let ep0 := (coreOf s w).fsup0
  let s1 := setSlot s w { x with st := .faulted, stop := none, trap := t, failed := st.acc }
  deviceSend s1 w ep0 (faultRecord s w st (epaMod w.m ep0 != w.m) (epaSlot ep0)) (.fault w false)

/-- A fault taken as a local trap in supervisor mode (R286). While INH = 1, or when `TRAPVEC` fails its checks, the
launch ends with STATUS 2. -/
def localTrap (s : State) (w : SlotRef) (st : Stop) : State :=
  let x := slotAt s w
  if x.trap.inh then killOf (setSlot s w { x with st := .faulted, stop := none }) w 2
  else
    let t := { x.trap with pc := if st.defer then st.resume else st.pc,
                           cause := BitVec.ofNat 8 (causeCode st.cause), defer := st.defer, esc := st.esc, inh := true,
                           val := st.val }
    let y := { x with st := .ready, stop := none, trap := t, failed := st.acc, pc := x.trap.vec, wasEnding := none,
                      trapId := s.nextId }
    let x1 := bufferJump y x.trap.vec
    let s1 := setSlot (fixFetch s w x.trap.vec) w x1
    match checkTarget s w x.trap.vec with
    | none => s1
    | some _ => killOf (setSlot s1 w { x1 with st := .faulted }) w 2

/-- Takes a fault by the slot's mode (R283, R286). -/
def takeFault (s : State) (w : SlotRef) (st : Stop) : State :=
  if (slotAt s w).supv then localTrap s w st else deliverFault s w st

/-- The class of R295 that rolls back: which frame the rollback starts from. -/
def rollOf (s : State) (w : SlotRef) (c : Cause) : Option RollAt :=
  let x := slotAt s w
  if x.frames.isEmpty then none
  else match c with
    | .poison | .residue | .lineParity => some .innermost
    | .format => if (cdpolOf s w).getLsbD 5 then some .innermost else none
    | .remoteFailure | .leaseRevoked => if x.frames.any (·.remote) then some .remote else none
    | _ => none

/-- The slot's commands whose completion has not been generated. -/
def openCmds (s : State) (w : SlotRef) : Bool := s.cmds.any (fun c => c.w = w && c.ctx.isNone)

/-- Stores of the slot that are still in the core's buffers. -/
def ownStores (s : State) (w : SlotRef) : List Nat :=
  let c := coreOf s w
  ((c.sbuf ++ c.fq).filter (fun e => e.k = w.k)).map (·.id)

/-- The near accesses of the core that a LOCAL store made now would follow are done: its store buffer has drained and none of its near
atomics is still to be performed (R208, R209, R216). -/
def nearIdle (s : State) (w : SlotRef) : Bool := (coreOf s w).sbuf.isEmpty && !atomicFirst s w s.nextId

/-- The wait of R296 is over; the restores, stores of the slot, also follow what the core's store buffer holds (R208, R209). -/
def rollReady (s : State) (w : SlotRef) : Bool :=
  (slotAt s w).outs.isEmpty && !openCmds s w && (ownStores s w).isEmpty && nearIdle s w

/-- Bytes of the save area: `s0`–`s63`, `v0`–`v31`, `m0`–`m7`, `p0`–`p7` (R291), as 336 words. -/
def saveWords (x : Slot) (retry : Word) (id : BitVec 16) : List Word :=
  (List.range 64).map (fun i => sGet x (BitVec.ofNat 6 i)) ++
  ((List.range 32).map (fun i => wordsOf 8 (vGet x (BitVec.ofNat 6 i)))).flatten ++
  (List.range 8).map (fun i => mGet x i) ++
  [BitVec.ofNat 64 ((List.range 8).foldl (fun a i => a + (if pGet x i then 2 ^ i else 0)) 0), retry,
   id.zeroExtend 64, 0, 0, 0, 0, 0]

/-- Registers restored from the words of a save area (R292). -/
def restoreRegs (x : Slot) (ws : List Word) : Slot :=
  let x := (List.range 64).foldl (fun x i => sPut x (BitVec.ofNat 6 i) (ws.getD i 0)) x
  let x := (List.range 32).foldl (fun x i => vPut x (BitVec.ofNat 6 i) (packWords ((ws.drop (64 + 8 * i)).take 8))) x
  let x := (List.range 8).foldl (fun x i => mPut x i (ws.getD (320 + i) 0)) x
  { x with preg := (ws.getD 328 0).extractLsb' 0 8 &&& 0x7F#8 }

/-- The first uncorrectable word among `n` words from LOCAL address `a`. -/
def firstBad (s : State) (c : CoreRef) (a n : Nat) : Option Nat :=
  ((List.range n).find? (fun i => eccBadWord (eccAt s (localFlat c a / 8 + i)))).map (fun i => a + 8 * i)

/-- The home is asked for an absent page (R196). -/
def askPage (s : State) (p : PageRef) : State := setPage s p { pageAt s p with asked := true, noRoom := none }

/-- The page that the slot has asked for was refused to that request (R199). -/
def roomGone (s : State) (w : SlotRef) (p : PageRef) : Bool :=
  match (slotAt s w).waitFor, (pageAt s p).noRoom with
  | some (q, i), some b => q = p && decide (i < b)
  | _, _ => false

/-- A slot asks for a page that an instruction or a rollback of it needs; a request of its own that is still open stands. -/
def askFor (s : State) (w : SlotRef) (p : PageRef) : State :=
  let x := slotAt s w
  if (match x.waitFor with | some (q, _) => q = p && (pageAt s p).asked && (pageAt s p).noRoom.isNone | none => false) then s
  else
    let i := freshId s
    setSlot (askPage i.2 p) w { x with waitFor := some (p, i.1) }

/-- `n` words of the slot's local store from address `a` on, and the state with corrected words written back (R27). -/
def savedWords (s : State) (w : SlotRef) (a n : Nat) : List Word × State :=
  (List.range n).foldl (fun r q =>
    let v := readFlat r.2 (localFlat (coreRefOf w) (a + 8 * q)) 8
    (r.1 ++ [BitVec.ofNat 64 v.1], v.2)) ([], s)

/-- What copying words back answers: done, an uncorrectable word at an address, a page that is not present, or a store that has to
wait. -/
inductive Back where
  | done (s : State)
  | bad (s : State) (a : Nat)
  | absent (p : PageRef)
  | wait

/-- A store of a rollback fails: a deferred failure of the slot (R194, R296), which joins the rollback when it is one that rolls
back, and is else held. Its instruction's PC is not stated: that at which the rollback found the slot (log 20). -/
def failRestore (s : State) (w : SlotRef) (c : Cause) (a v : Word) : State :=
  let x := slotAt s w
  let i := freshId s
  let e : StEnt := ⟨i.1, w.k, x.pc, [⟨a, 8, 0, some (v.zeroExtend 128)⟩], [], none, i.1, false, [], none, none, x.csr.pkey, x.supv⟩
  if (rollOf s w c).isSome then s
  else setSlot i.2 w { x with held := x.held ++ [⟨c, a, x.pc, x.pc, .store e⟩] }

/-- Restores `n` words of a preserved range from its backup, word `i` first, as stores of the slot (R296). -/
def restoreWords (s : State) (w : SlotRef) (start : Word) (backup : Nat) (n i : Nat) : Back :=
  match n with
  | 0 => .done s
  | k + 1 =>
    let f := localFlat (coreRefOf w) (backup + 8 * i)
    if eccBad s f 8 then .bad s (backup + 8 * i)
    else
      let r := readFlat s f 8
      let a := start + BitVec.ofNat 64 (8 * i)
      let fails := fun c : Cause => failRestore r.2 w c a (BitVec.ofNat 64 r.1)
      if (coreOf s w).fq.any (fun e => e.units.any (fun u => overlaps (normVa w a, 8) (normVa w u.va, u.n))) then .wait
      else match perfWrite r.2 (whoOf s w) a 8 r.1 with
      | .ok s' _ => restoreWords s' w start backup k (i + 1)
      | .fail c => restoreWords (failSeen (fails c) (whoOf s w) a) w start backup k (i + 1)
      | .absent p =>
        if roomGone s w p then restoreWords (fails .residency) w start backup k (i + 1) else .absent p
      | .wait => .wait

/-- Restores the copied ranges of one frame. -/
def restoreRanges (s : State) (w : SlotRef) (ps : List Preserved) : Back :=
  match ps with
  | [] => .done s
  | p :: r =>
    match p.backup with
    | none => restoreRanges s w r
    | some b =>
      match restoreWords s w p.start b.toNat (p.len / 8) 0 with
      | .done s' => restoreRanges s' w r
      | x => x

/-- Restores the copied ranges of frames `i` to `i + n - 1`, innermost first; a bad word names the frame too. -/
def restoreFrames (s : State) (w : SlotRef) (fs : List Frame) (i n : Nat) : Back × Nat :=
  match n with
  | 0 => (.done s, 0)
  | k + 1 =>
    match restoreRanges s w (fs.getD i ⟨0, false, 0, 0, 0, [], [], [], 0, none⟩).preserved with
    | .done s' => restoreFrames s' w fs (i + 1) k
    | .bad s' a => (.bad s' a, i)
    | r => (r, i)

/-- The frame a rollback starts from, counted from the innermost. -/
def rollStart (fs : List Frame) (r : RollAt) : Nat :=
  match r with
  | .innermost => 0
  | .remote => (fs.findIdx? (·.remote)).getD 0
  | .depth n => fs.length - n

/-- Past the frames that have used up their rollbacks, from frame `i` out (R296, R297). -/
def escalate (fs : List Frame) (lim i n : Nat) : Option Nat :=
  match n with
  | 0 => none
  | k + 1 =>
    match fs[i]? with
    | none => none
    | some f => if f.retries = lim then escalate fs lim (i + 1) k else some i

/-- A rollback from frame `i` on (R296); none while a restore has to wait; while a page is absent, it is asked for. Frames inside
frame `d` have been restored, or stopped; `n` bounds the failures that a bad save area or backup hands on to the enclosing frame
(R291). -/
def rollFrom (s : State) (w : SlotRef) (st : Stop) (i d n : Nat) : Option State :=
  let x := slotAt s w
  match n with
  | 0 => some s
  | k + 1 =>
    match escalate x.frames x.trap.limit.toNat i (x.frames.length + 1) with
    | none =>
      -- past the outermost frame: delivered with ESC, CDFAIL as kind 7 (R294, R312)
      some (takeFault s w (if st.cause = .none
        then { st with cause := .containment, val := 7#64 <<< 60, esc := true, roll := none }
        else { st with esc := true, roll := none }))
    | some j =>
      let bad := fun (s : State) (a at_ : Nat) =>
        let st' := { st with cause := .poison, val := BitVec.ofNat 64 a }
        if at_ + 1 < x.frames.length then rollFrom s w st' (at_ + 1) (at_ + 1) k
        else some (takeFault s w { st' with esc := true, roll := none })
      match restoreFrames s w x.frames d (j + 1 - d) with
      | (.wait, _) => none
      | (.absent p, _) => some (askFor s w p)
      | (.bad s' a, g) => bad s' a g
      | (.done s', _) =>
        match x.frames.drop j with
        | [] => some s'
        | f :: outer =>
          match firstBad s' (coreRefOf w) f.save.toNat 336 with
          | some a =>
            let x' := slotAt s' w
            let n' := (a - f.save.toNat) / 8
            let r := savedWords s' w f.save.toNat n'
            bad (setSlot r.2 w (restoreRegs x' (r.1 ++ (saveWords x' 0 0).drop n'))) a j
          | none =>
            let r := savedWords s' w f.save.toNat 336
            let s' := r.2
            let y := restoreRegs (slotAt s' w) r.1
            let f' := { f with retries := f.retries + 1, fail := none }
            let t := { y.trap with
              retry := if y.trap.retry = 0xFFFF then y.trap.retry else y.trap.retry + 1,
              lastCause := BitVec.ofNat 8 (causeCode st.cause), lastDepth := BitVec.ofNat 4 (outer.length + 1) }
            let bad' := checkTarget s' w f.retryPc
            let z := bufferJump { y with frames := f' :: outer, trap := t, stop := none, st := .ready,
                                         failed := .none, pendS := 0, pendV := 0, waitFor := none, pc := f.retryPc } f.retryPc
            some (setSlot (fixFetch s' w f.retryPc) w (match bad' with
              | none => z
              | some c => { z with stop := some ⟨c, f.retryPc, f.retryPc, f.retryPc, false, false, .none,
                  if c = .lineParity then some .innermost else none⟩ }))

/-- A pending fault or rollback goes on as far as the slot's results allow (R283, R286, R296). -/
def settleStop (s : State) (w : SlotRef) : State :=
  let x := slotAt s w
  match x.stop with
  | none => s
  | some st =>
    match st.roll with
    | some r => if rollReady s w then (rollFrom s w st (rollStart x.frames r) 0 10).getD s else s
    | none => if onlyRecv x then takeFault s w st else s

/-- Raises a fault of a slot: the one operation by which every cause of R282 is taken. A rollback withdraws the
slot's RECVs; what has to wait for results stays in `stop`. A parked or ending slot leaves its park: the resume PC is that
instruction (R194). -/
def raiseStop (s : State) (w : SlotRef) (st : Stop) : State :=
  let s := if st.roll.isSome then withdraw s w else s
  let x := slotAt s w
  settleStop (setSlot s w { x with stop := some st, stalled := false,
                                   wasEnding := (match x.st with | .ending t => some t | _ => none),
                                   st := match x.st with | .parked _ _ | .ending _ => .ready | t => t }) w

/-- A precise fault of the instruction at the slot's PC (R282). -/
def raisePrecise (s : State) (w : SlotRef) (c : Cause) (v : Word) : State :=
  let pc := (slotAt s w).pc
  raiseStop s w ⟨c, v, pc, pc, false, false, .none, rollOf s w c⟩

/-- The failed access is older than the slot's last local trap. -/
def beforeTrap (x : Slot) (acc : FailAcc) : Bool :=
  match acc with
  | .out o => decide (o.id < x.trapId)
  | .store e => decide (e.id < x.trapId)
  | _ => false

/-- A deferred failure (R194): reported at once, or held behind one that the slot already reports, or until ERET when it is
older than the trap whose handler runs (R303). -/
def raiseDeferred (s : State) (w : SlotRef) (c : Cause) (v pc : Word) (acc : FailAcc) : State :=
  let x := slotAt s w
  match x.stop with
  | none =>
    if x.st = .faulted || (x.trap.inh && beforeTrap x acc) then setSlot s w { x with held := x.held ++ [⟨c, v, pc, x.pc, acc⟩] }
    else raiseStop s w ⟨c, v, pc, x.pc, true, false, acc, rollOf s w c⟩
  | some st =>
    if st.roll.isSome && (rollOf s w c).isSome then s
    else setSlot s w { x with held := x.held ++ [⟨c, v, pc, x.pc, acc⟩] }

/-- A held failure is reported before the slot issues again (R194, R285). -/
def reportHeld (s : State) (w : SlotRef) : State :=
  let x := slotAt s w
  match x.held with
  | [] => s
  | h :: r =>
    let s1 := setSlot s w { x with held := r }
    raiseStop s1 w ⟨h.cause, h.val, h.pc, x.pc, true, false, h.acc, rollOf s1 w h.cause⟩

/-- The slot's context ends: FREE, its wake, frames and failures gone (R157, R174). Its stores drain on; 4 marks that no
slot answers for them any more. -/
def freeSlot (s : State) (w : SlotRef) : State :=
  let c := coreOf s w
  let go := fun e : StEnt => if e.k = w.k then { e with k := 4 } else e
  setSlot (setCoreOf s w { c with sbuf := c.sbuf.map go, fq := c.fq.map go }) w Slot.reset

/-! ### Watchpoints -/

/-- A register an instruction names, for PENDING_ACCESS (R19) and the register watchpoints (R320): read (`s`, `v`), or
written (`ds`, `dv`, `dp`, `dm`; predicates and masks are never pending). -/
inductive Use where
  | s (r : RegIx)
  | v (r : RegIx)
  | ds (r : RegIx)
  | dv (r : RegIx)
  | dp (r : RegIx)
  | dm (r : RegIx)
deriving DecidableEq, Repr

/-- An access or mill command of an instruction, for the memory and box watchpoints (R320): its address, size and data, or
its kind (0 ACCRD, 1 ACCWR, 2 MSTREAM), first row, rows, first column and columns. -/
inductive Acc where
  | load (va : Word) (n : Nat)
  | store (va : Word) (n : Nat) (data : Word)
  | box (kind : Nat) (row : Nat) (nrow : Nat) (col : Nat) (ncol : Nat)
deriving DecidableEq, Repr

/-- Class, index, and value if it is known at issue, of a register written: an outstanding result that needs no access is
known, any other is not, nor what a WAITA that parks will read (log 14). -/
def useWrites (x : Slot) (u : Use) : Option (Nat × Nat × Option Word) :=
  let known := fun (d : Dst) (v : Word) (pend : Bool) =>
    if !pend then (match x.st with | .parked (.waita _ _ r) _ => if d = .sreg r then none else some v | _ => some v)
    else match x.outs.find? (fun o => o.dst = d) with
      | some o => (match o.kind with | .value y => some (y.extractLsb' 0 64) | _ => none)
      | none => none
  match u with
  | .ds r => if r = 0 then none else some (0, r.toNat, known (.sreg r) (sGet x r) (sPend x r))
  | .dv r => some (1, r.toNat, known (.vreg r) ((vGet x r).extractLsb' 0 64) (vPend x r))
  | .dp r => if r = 7 then none else some (2, r.toNat, some (if pGet x r.toNat then 1 else 0))
  | .dm r => if r = 0 then none else some (3, r.toNat, some (mGet x r.toNat))
  | _ => none

/-- What a comparator watches and finds (R320): the watched value and the store data of a match. `done` is the slot after
the instruction, none when a later check faults. -/
def watchMatch (s : State) (w : SlotRef) (c : Watch) (uses : List Use) (accs : List Acc) (after : Option Slot) :
    Option (Word × Word) :=
  match c.ty.toNat with
  | 1 =>
    let hit := fun (va : Word) (n : Nat) =>
      decide (va.toNat ≤ c.val.toNat + c.len.toNat) && decide (c.val.toNat < va.toNat + n)
    accs.findSome? (fun a => match a with
      | .load va n => if c.sel.getLsbD 0 && hit va n then some (va, 0) else none
      | .store va n d => if c.sel.getLsbD 1 && hit va n then some (va, d) else none
      | .box .. => none)
  | 2 =>
    let fld := fun hi lo => c.val.toNat / 2 ^ lo % 2 ^ (hi + 1 - lo)
    let r0 := 128 * fld 3 0 + fld 10 4
    let r1 := 128 * fld 3 0 + fld 17 11
    accs.findSome? (fun a => match a with
      | .box k row nr col nc =>
        if c.sel.getLsbD k && decide (row ≤ r1) && decide (r0 < row + nr) && decide (col ≤ fld 31 25) &&
            decide (fld 24 18 < col + nc) then
          some (((tget (hamAt s (hamOf (coreRefOf w))).acc AccEntry.reset
            (max row r0 * 128 + max col (fld 24 18))).e), 0)
        else none
      | _ => none)
  | 3 =>
    uses.findSome? (fun u => match useWrites (after.getD (slotAt s w)) u with
      | some (cls, ix, v) =>
        if cls = (c.sel.extractLsb' 0 2).toNat && ix = c.idx.toNat then
          (if c.sel.getLsbD 2 then (if after.isSome && v = some c.val then some (c.val, 0) else none)
           else some (v.getD (BitVec.ofNat 64 (Config.freePick s.clk)), 0))
        else none
      | none => none)
  | _ => none

/-! ### What the device reads and writes -/

/-- Who a waiting write of the device is made as. -/
def devWho (e : DevOut) : Who := ⟨e.c, none, e.asid, none, true, none, true, .device⟩

/-- A waiting write of the device holds bytes of an access made as `d`: they are of one module and one table. -/
def devMeets (d : Who) (a : Word) (n : Nat) (e : DevOut) : Bool :=
  decide (e.c.m = d.c.m) && placeOf e.asid a = placeOf d.asid a && overlaps (e.va.toNat, e.n) (a.toNat, n)

/-- `n` bytes at `a` that hold `x` in memory, as the device knows them: with what it still has to write. -/
def devOver (s : State) (d : Who) (a : Word) (n x : Nat) : Nat :=
  match s.devOut.filter (devMeets d a n) with
  | [] => x
  | es => (List.range n).foldr (fun i r =>
      let at_ := a.toNat + i
      r * 256 + (match es.reverse.find? (fun e => decide (e.va.toNat ≤ at_) && decide (at_ < e.va.toNat + e.n)) with
        | some e => e.val / 256 ^ (at_ - e.va.toNat) % 256
        | none => x / 256 ^ i % 256)) 0

/-- Eight bytes of the save area, read by the device; 0 where it is not mapped. -/
def devRead (s : State) (d : Who) (a : Word) : Nat := match perfRead s d a 8 with | .ok _ x => devOver s d a 8 x | _ => 0

/-- At most eight bytes of one word written by the device: lost where they are not mapped (log 31); a write whose page is not
present, or held, waits, and so does one behind another that waits. -/
def devPut (s : State) (d : Who) (a : Word) (n x : Nat) : State :=
  let later := { s with devOut := s.devOut ++ [⟨d.c, d.asid, a, n, x⟩] }
  if s.devOut.any (devMeets d a n) then later
  else match perfWrite s d a n x with
    | .ok s' _ => s'
    | .fail _ => s
    | .absent p => askPage later p
    | .wait => later

/-- At most eight bytes written by the device, in two pieces where they cross an 8-byte boundary. -/
def devWrite (s : State) (d : Who) (a : Word) (n x : Nat) : State :=
  let q := min n (8 - a.toNat % 8)
  let s := devPut s d a q (x % 256 ^ q)
  if q < n then devPut s d (a + BitVec.ofNat 64 q) (n - q) (x / 256 ^ q) else s

/-- The `i`-th waiting write of the device is tried again. -/
def devRetry (s : State) (i : Nat) : State :=
  match s.devOut[i]? with
  | none => s
  | some e =>
    if (s.devOut.take i).any (devMeets (devWho e) e.va e.n) then s
    else match perfWrite s (devWho e) e.va e.n e.val with
      | .ok s' _ => { s' with devOut := dropAt s'.devOut i }
      | .fail _ => { s with devOut := dropAt s.devOut i }
      | .absent p => askPage s p
      | .wait => s

/-- The device's accesses on behalf of a core: no key, every page of the ASID. -/
def deviceOf (s : State) (w : SlotRef) : Who := ⟨coreRefOf w, none, (coreOf s w).ident.asid, none, true, none, true, .device⟩

/-- The debug group of a launch: itself where it is in none (R323). -/
def debugGroup (s : State) (l : LaunchRef) : List LaunchRef := (s.groups.find? (·.contains l)).getD [l]

/-- A halt request for a launch reaches every member of its debug group (R322, R323). -/
def requestHalt (s : State) (l : LaunchRef) : State :=
  (debugGroup s l).foldl (fun s m => match launchAt s m with
    | some x => if x.phase = .ended then s else setLaunch s m { x with haltReq := true }
    | none => s) s

/-- A match of comparator `n` (R320, R321): HIT, and the hit record with its event, or DROP; ACT = 0 asks for a halt
(R322). -/
def recordHit (s : State) (w : SlotRef) (n : Nat) (c : Watch) (val data : Word) : State :=
  let x := slotAt s w
  let s := setCoreOf s w { coreOf s w with watch := tput (coreOf s w).watch n { c with hit := true } }
  match launchOf s w with
  | none => s
  | some l =>
    match launchAt s l with
    | none => s
    | some y =>
      let s := if c.act then s else requestHalt s l
      let d := deviceOf s w
      let hd := devRead s d y.save
      let rd := min (devRead s d (y.save + 16)) hd
      if hd - rd < 511 then
        let a := y.save + BitVec.ofNat 64 (0x80 + 128 * (hd % 511))
        let ws : List Word := [x.pc,
          BitVec.ofNat 64 ((tget (coreOf s w).cnt 0 0).toNat + w.c * 2 ^ 16 + w.d * 2 ^ 25 + w.k * 2 ^ 29 + n * 2 ^ 31),
          s.tick, val, data, 0, 0, 0] ++ (List.range 8).map (fun i => sGet x (BitVec.ofNat 6 (i + 1)))
        let s := (List.range 16).foldl (fun s i =>
          devWrite s d (a + BitVec.ofNat 64 (8 * i)) 8 (ws.getD i 0).toNat) s
        let s := devWrite s d y.save 8 (hd + 1)
        let ep0 := (coreOf s w).fsup0
        deviceSend s w ep0 (mkEntry (epaOf w (epaMod w.m ep0 != w.m)) 3 (epaSlot ep0) [BitVec.ofNat 64 hd]) .none
      else devWrite s d (y.save + 8) 8 (devRead s d (y.save + 8) + 1)

/-- All comparators of the slot's core, lowest first (R320): the state with its hits recorded, and the first match whose
ACT is 1. -/
def watchAll (s : State) (w : SlotRef) (uses : List Use) (accs : List Acc) (after : Option Slot) : State × Option Nat :=
  let cs := (coreOf s w).watch
  (cs.filter (fun p => p.2.ty != 0)).foldl (fun r p =>
      match watchMatch s w p.2 uses accs after with
      | none => r
      | some (v, d) => (recordHit r.1 w p.1 p.2 v d, if p.2.act then some (r.2.getD p.1) else r.2))
    (s, none)

/-- The head of the save area cannot be read now: its page, or that it is not held. -/
def hitPage (s : State) (w : SlotRef) : Option (Option PageRef) :=
  match (launchOf s w).bind (launchAt s) with
  | none => none
  | some y =>
    match resolve s (deviceOf s w) y.save false with
    | .absent p => some (some p)
    | .wait => some none
    | _ => none

/-- A comparator matches while the hit record cannot be placed: the slot stalls at the instruction until it can (log 32). -/
def hitHeld (s : State) (w : SlotRef) (uses : List Use) (accs : List Acc) (after : Option Slot) : Bool :=
  (hitPage s w).isSome &&
    (coreOf s w).watch.any (fun p => p.2.ty != 0 && (watchMatch s w p.2 uses accs after).isSome)

/-- The page of the head of the save area is asked for. -/
def askHit (s : State) (w : SlotRef) : State :=
  match hitPage s w with | some (some p) => askPage s p | _ => s

/-! ### Issue -/

/-- The register is pending. -/
def usePend (x : Slot) : Use → Bool
  | .s r | .ds r => sPend x r
  | .v r | .dv r => vPend x r
  | .dp _ | .dm _ => false

/-- TRAPVAL of PENDING_ACCESS (R19). -/
def useVal : Use → Word
  | .s r | .ds r | .dp r | .dm r => r.zeroExtend 64
  | .v r | .dv r => r.zeroExtend 64 + 64

/-- A pending register among those an instruction uses; when several are, the spec does not say which one TRAPVAL
names (log 6). -/
def pendingUse (clk : Nat) (x : Slot) (uses : List Use) : Option Use :=
  match uses.filter (usePend x) with
  | [] => none
  | u :: r => (u :: r)[Config.freePick clk % (r.length + 1)]?

/-- What the meaning of an instruction answers: its effect, after which the PC advances; a transfer; its effect with the
slot's own state left as the meaning wrote it; a park; its effect with the slot held until result `id` returns (R101); a
fault; a fault that leaves an effect (R57, R290), with the slot as the instruction would have left it (R39); a stall. -/
inductive Eff where
  | done (s : State)
  | goto (s : State) (pc : Word)
  | stay (s : State)
  | park (s : State) (p : Park)
  | hold (s : State) (id : Nat)
  | fault (c : Cause) (v : Word)
  | faultIn (s : State) (c : Cause) (v : Word) (would : Option Slot)
  | stall (s : State)

/-- The guard (R30). -/
def guardHolds (x : Slot) (g : Guard) : Bool := pGet x g.pg.toNat != g.pn

/-- The slot issues its instruction: it is READY, no fault of it waits, no failure is held, and it does not wait to be
swapped (R157, R194, R196). -/
def canIssue (x : Slot) : Bool := x.st = .ready && x.stop.isNone && (x.held.isEmpty || x.trap.inh) && x.swapReq.isEmpty

/-- The slot after its instruction: the switch marker parks it while results are outstanding (R20, R22). -/
def afterIssue (s : State) (w : SlotRef) (g : Guard) (pc : Word) : State :=
  let x := slotAt s w
  setSlot s w { x with pc := pc, stalled := false,
                       st := if g.sw && !x.outs.isEmpty then .parked .defer false else x.st }

/-- A fault that R39 judges after WATCHPOINT: CONTAINMENT_VIOLATION of kinds 1, 2 and 4, RESIDUE, FP_EXCEPTION. -/
def afterWatch (c : Cause) (v : Word) : Bool :=
  match c with
  | .residue | .fpException => true
  | .containment => (v.toNat / 2 ^ 60 = 1) || (v.toNat / 2 ^ 60 = 2) || (v.toNat / 2 ^ 60 = 4)
  | _ => false

/-- The slot after an instruction that the checks up to its watchpoints let pass (R39). -/
def effSlot (w : SlotRef) : Eff → Option Slot
  | .done s | .stay s | .hold s _ | .goto s _ => some (slotAt s w)
  | .park s p => some { slotAt s w with st := .parked p false }
  | .faultIn _ _ _ x => x
  | _ => none

/-- The watchpoints are judged for this effect: not for an instruction that has not been let pass, or waits for its page (R39,
R320). -/
def watched : Eff → Bool
  | .fault c v | .faultIn _ c v _ => afterWatch c v
  | .stall _ => false
  | .stay s => (slotAt s s.cur).swapReq.isEmpty
  | _ => true

/-- A slot that stalls: its cell has not issued, so a check of the line word made for it alone does not count (R13, R21). -/
def stallSlot (x : Slot) : Slot := { x with stalled := true, lwAt := if x.lwNew then none else x.lwAt }

/-- What an effect of an instruction issued in `s` makes of the slot. -/
def applyEff (s : State) (w : SlotRef) (g : Guard) (pc : Word) : Eff → State
  | .done s' => afterIssue s' w g (nextCell pc)
  | .goto s' t => afterIssue (setSlot (fixFetch s' w t) w (bufferJump (slotAt s' w) t)) w g t
  | .stay s' => s'
  | .park s' p => setSlot s' w { slotAt s' w with st := .parked p g.sw, stalled := false }
  | .hold s' id =>
    setSlot s' w { slotAt s' w with pc := nextCell pc, st := .parked (.result id) g.sw, stalled := false }
  | .fault c v => raisePrecise s w c v
  | .faultIn s' c v _ => raisePrecise s' w c v
  | .stall s' => setSlot s' w (stallSlot (slotAt s' w))

/-- Issue of one instruction by the current slot (R19-R22, R39): guard, pending registers, the limit of 32 outstanding
results, the effect, and its watchpoints. `accs` lists its accesses for them. -/
def issue (g : Guard) (uses : List Use) (deferred : Bool) (body : State → Eff) (s : State)
    (accs : State → List Acc := fun _ => []) : Out_ :=
  let w := s.cur
  let x := slotAt s w
  if !canIssue x then .next s
  else if !guardHolds x g then .next (afterIssue s w g (nextCell x.pc))
  else match pendingUse s.clk x uses with
    | some u => .next (raisePrecise s w .pendingAccess (useVal u))
    | none =>
      if deferred && decide (32 ≤ x.outs.length) then .next (setSlot s w (stallSlot x))
      else
        let e := body s
        if (coreOf s w).watch.isEmpty || !watched e then .next (applyEff s w g x.pc e)
        else if hitHeld s w uses (accs s) (effSlot w e) then .next (setSlot (askHit s w) w (stallSlot x))
        else
          let r := watchAll s w uses (accs s) (effSlot w e)
          match r.2 with
          | some n => .next (raisePrecise r.1 w .watchpoint (BitVec.ofNat 64 n))
          | none => .next (applyEff r.1 w g x.pc (body r.1))

/-- A write of the current slot. -/
def withCur (s : State) (f : Slot → Slot) : State := setSlot s s.cur (f (slotAt s s.cur))

/-- The current slot. -/
def curSlot (s : State) : Slot := slotAt s s.cur

/-- Adds an outstanding result of the current slot and marks its destination (R18). -/
def addOut (s : State) (o : Out) : State := withCur s (fun x => { markDst x o.dst with outs := x.outs ++ [o] })

/-- A scalar destination; none for `s0` (R18). -/
def sDst (r : RegIx) : Dst := if r = 0 then .none else .sreg r

end Sys2Proof.Machine
end

