-- ==== Sys2Proof/Machine/Operands.lean ====
section
/-!
DEFINITION. The operand forms: operand B and immediates (R33), branch targets (R36), effective addresses (R35, R104),
vector elements and masks (R33, R107), the registers a form uses (R19).
-/

namespace Sys2Proof.Machine

/-- Operand B of a scalar register form: the register, or the sign-extended immediate (R33). -/
def opB (x : Slot) (f : RForm) : Word := if f.i then f.imm.signExtend 64 else sGet x f.b

/-- Operand A, or the sign-extended immediate when I = 1 (R164: VOTE, DOMSET; R90: PSET). -/
def opAI (x : Slot) (f : RForm) : Word := if f.i then f.imm.signExtend 64 else sGet x f.a

/-- The registers a scalar register form names; an unused field is 0 and `s0` is never pending (R19, R31). -/
def usesR (f : RForm) : List Use := [.s f.a, .s f.b, .s f.c, .ds f.d]

/-- The target of a branch form (R36). -/
def branchTarget (pc : Word) (f : BForm) : Word :=
  (pc &&& ~~~0x3F#64) + f.disp.signExtend 64 * 64 + 4 + 12 * f.cell.zeroExtend 64

/-- The effective address of a memory form (R35, R104). -/
def eaOf (x : Slot) (f : MForm) : Word :=
  sGet x f.a + (if f.idx then sGet x f.b <<< f.scale.toNat else 0) + f.off.signExtend 64

/-- The address registers of a memory form. -/
def usesM (f : MForm) : List Use := [.s f.a, .s f.b]

/-- The ACCESS and DATA_ALIGN checks that depend on the address alone, in the order of R222: bits [63:57] and the
reserved range, then alignment, then the CORE window's core number. -/
def checkEa (asid : BitVec 16) (ea : Word) (width : Nat) : Option Cause :=
  match placeOf asid ea with
  | .bad => some .access
  | p =>
    if ea.toNat % width != 0 then some .dataAlign
    else match p with
      | .core _ c _ => if 384 ≤ c then some .access else none
      | _ => none

/-- The same checks in the order of R104, for LD, ST, LDP and STP: bits [63:57], then alignment, then the region. -/
def checkEaPlain (asid : BitVec 16) (ea : Word) (width : Nat) : Option Cause :=
  if ea.extractLsb' 57 7 != 0#7 then some .access
  else if ea.toNat % width != 0 then some .dataAlign
  else if addrBad asid ea then some .access else none

/-- Element `i` of width `n` bits of a vector register. -/
def elemOf (n : Nat) (v : VWord) (i : Nat) : Nat := (v.extractLsb' (n * i) n).toNat

/-- A vector register from its elements of width `n` bits, element 0 lowest. -/
def packElems (n : Nat) (es : List Nat) : VWord :=
  BitVec.ofNat 512 (es.foldr (fun e acc => acc * 2 ^ n + e % 2 ^ n) 0)

/-- Number of elements of width `n` bits. -/
def lanes (n : Nat) : Nat := 512 / n

end Sys2Proof.Machine
end

