-- ==== Sys2Proof/Machine/Flags.lean ====
section
/-!
DEFINITION. Flag computations: saturation (R52), the IEEE flags and FP_EXCEPTION (R57), residue checking and the result
injection (R289, R290).
-/

namespace Sys2Proof.Machine

/-- The exact result clamped to a type, and whether that changed it (R52). -/
def clampTo (t : Ty) (r : Int) : Int × Bool :=
  if r < tyMin t then (tyMin t, true) else if r > tyMax t then (tyMax t, true) else (r, false)

/-- The result of type `t`: clamped under `.sat`, else its low bits (R51, R52), with the flag. -/
def narrow (t : Ty) (sat : Bool) (r : Int) : Nat × Flags :=
  if sat then
    let c := clampTo t r
    (wrapTo (tyBits t) c.1, if c.2 then flSAT else 0)
  else (wrapTo (tyBits t) r, 0)

/-- The five IEEE flags of a flag set. -/
def ieee (fl : Flags) : BitVec 5 := fl.extractLsb' 0 5

/-- Ends an instruction that raised flags (R57): an enabled flag raises FP_EXCEPTION with all its IEEE flags set in
`FFLG` and nothing written; otherwise the write is made and every flag set. -/
def finishFl (s : State) (fl : Flags) (wr : Slot → Slot) : Eff :=
  if ieee fl &&& (curSlot s).csr.fena != 0 then
    .faultIn (withCur s (fun x => raiseFl x ((ieee fl).zeroExtend 7))) .fpException ((ieee fl).zeroExtend 64)
      (some (wr (curSlot s)))
  else .done (withCur s (fun x => raiseFl (wr x) fl))

/-- The armed result injection is cleared (R287, R290). -/
def disarm (x : Slot) : Slot := { x with trap := { x.trap with einj := { x.trap.einj with arm := false } }, flip := none }

/-- A result injection is due: armed by `EINJ` under residue checking (R290), or a stray flip (R391). -/
def flipDue (x : Slot) : Bool := x.csr.rchk && ((x.trap.einj.arm && x.trap.einj.kind = 1#3) || x.flip.isSome)

/-- The bit that a stray flip inverts in an unchecked result of `n` bits. -/
def strayFlip (x : Slot) (n r : Nat) : Nat :=
  match x.flip with
  | none => r
  | some b => Nat.xor r (2 ^ (b % n))

/-- Ends an instruction that residue checking covers (R289): a due injection raises RESIDUE with the destination's class
and index, and writes nothing; without residue checking a stray flip passes into the result of `n` bits. -/
def finishChecked (s : State) (cls : Word) (d : RegIx) (n r : Nat) (fin : State → Nat → Eff) : Eff :=
  let x := curSlot s
  if flipDue x then .faultIn (withCur s disarm) .residue (cls + d.zeroExtend 64) (effSlot s.cur (fin s r))
  else if x.flip.isSome && !x.csr.rchk then
    fin (withCur s (fun x => { x with flip := none })) (strayFlip x n r)
  else fin s r

end Sys2Proof.Machine
end

