-- ==== Sys2Proof/Machine/Confine.lean ====
section
/-!
DEFINITION. The confinement of a slot with an open containment frame (R294): which bytes it may write. Ranges are pairs
of an address and a length in bytes.
-/

namespace Sys2Proof.Machine

/-- The end of the longest stretch from `a` that one of the ranges covers; `a` if none does. -/
def reach (rs : List (Nat × Nat)) (a : Nat) : Nat :=
  rs.foldl (fun e r => if r.1 ≤ a && a < r.1 + r.2 then max e (r.1 + r.2) else e) a

/-- Every byte of [a, b) lies in some range; `n` bounds the ranges passed. -/
def covered (rs : List (Nat × Nat)) (a b n : Nat) : Bool :=
  match n with
  | 0 => decide (b ≤ a)
  | k + 1 => decide (b ≤ a) || (decide (a < reach rs a) && covered rs (reach rs a) b k)

/-- Ranges the slot may write: copied preserved ranges and outputs of its ordinary frames (R294, R299). -/
def allowedRanges (w : SlotRef) (fs : List Frame) : List (Nat × Nat) :=
  ((fs.filter (fun f => !f.remote)).map (fun f =>
    (f.preserved.filter (fun p => p.backup.isSome)).map (fun p => (normVa w p.start, p.len)) ++
      (f.outputs ++ f.handed).map (fun r => (normVa w r.start, r.len)))).flatten

/-- Ranges it must not write: by-reference ranges, and backup copies, of any open frame (R294). -/
def closedRanges (w : SlotRef) (fs : List Frame) : List (Nat × Nat) :=
  (fs.map (fun f => f.preserved.map (fun p =>
    match p.backup with
    | none => (normVa w p.start, p.len)
    | some b => (b.toNat, p.len)))).flatten

/-- TRAPVAL of a containment violation (R294). -/
def violation (kind : Nat) (a : Word) : Word := BitVec.ofNat 64 (kind * 2 ^ 60) + (a &&& 0x1FFFFFFFFFFFFFF#64)

/-- Kinds 1 and 2 for one write of `n` bytes at `va` (R294); one that is both is of kind 2 (R331, row 7). -/
def confineOne (w : SlotRef) (fs : List Frame) (va : Word) (n : Nat) : Option Word :=
  let a := normVa w va
  let al := allowedRanges w fs
  if (closedRanges w fs).any (overlaps (a, n)) then some (violation 2 va)
  else if !covered al a (a + n) (al.length + 1) then some (violation 1 va)
  else none

/-- The first write of a list that an open ordinary frame forbids. -/
def confine (w : SlotRef) (x : Slot) (ws : List (Word × Nat)) : Option Word :=
  if x.frames.all (·.remote) then none
  else ws.findSome? (fun r => if r.2 = 0 then none else confineOne w x.frames r.1 r.2)

/-- An open frame forbids the instruction outright: kind 5 (R294). -/
def kind5 (x : Slot) : Bool := !x.frames.isEmpty

/-- The region of R183 that an address lies in, as a number; none for the reserved range and beyond. -/
def regionOf (va : Nat) : Option Nat :=
  if va < 0x100000 then some 0
  else if va < 0x80000000000000 then some 1
  else if va < 0x100000000000000 then some 2
  else if va < 0x100000200000000 then
    (if va / 2 ^ 20 % 512 < 384 then some (3 + (va - 0x100000000000000) / 2 ^ 20) else none)
  else none

/-- A range lies wholly in one region (R260 step 3). -/
def oneRegion (a : Word) (n : Nat) : Bool :=
  (regionOf a.toNat).isSome && (n = 0 || regionOf a.toNat = regionOf (a.toNat + n - 1))

end Sys2Proof.Machine
end

