-- ==== Sys2Proof/Machine/Buffers.lean ====
section
/-!
DEFINITION. The store buffer and far store queue of a core, and the order in which accesses are performed
(R208-R216, R223-R225): what an access must follow, issuing loads and stores, performing their units.
-/

namespace Sys2Proof.Machine

/-! ### Order -/

/-- Two accesses of a slot share a byte. -/
def unitsMeet (w : SlotRef) (a b : List AccUnit) : Bool :=
  a.any (fun u => b.any (fun v => overlaps (normVa w u.va, u.n) (normVa w v.va, v.n)))

/-- The identity an access was issued with (R193, R184). -/
def whoAs (s : State) (w : SlotRef) (pkey : BitVec 32) (supv : Bool) : Who :=
  { whoOf s w with pkey := some pkey, supv := supv }

/-- LDC, which follows R205 alone. -/
def isLdc (o : Out) : Bool := match o.kind with | .ldc .. => true | _ => false

/-- The scope of an atomic. -/
def atomicScope (k : OutKind) : Option Nat :=
  match k with
  | .amo _ _ _ sc | .cas _ _ _ sc | .cas2 _ _ sc => some sc
  | _ => none

/-- An acquire: LDA, or an atomic of non-core scope (R215, R216). -/
def isAcquire (k : OutKind) : Bool :=
  match k with
  | .load _ (some _) => true
  | k => (match atomicScope k with | some sc => sc != 0 | none => false)

/-- A release among the outstanding results: an atomic of non-core scope (R216). -/
def isRelOut (o : Out) : Bool := match atomicScope o.kind with | some sc => sc != 0 | none => false

/-- Units `u` and `v` share a byte. -/
def unitMeets (w : SlotRef) (u v : AccUnit) : Bool := overlaps (normVa w u.va, u.n) (normVa w v.va, v.n)

/-- Unit `u`, near or not, of a later access of the slot follows the earlier access `o`: it is an acquire, meets the same
bytes, or both are near (R209, R210, R211, R215, R216). -/
def followsOut (s : State) (w : SlotRef) (near : Bool) (u : AccUnit) (o : Out) : Bool :=
  !isLdc o && ((isAcquire o.kind && unperformed o) ||
    o.units.any (fun v => v.val.isNone && (unitMeets w u v || (near && unitNear s w v))))

/-- What unit `u` of an access with identity `id` of the context with index `k` must follow is done: its context's accesses, a RECV of
it that may dequeue a completion (R217), and the core's near atomics. -/
def accessFree (s : State) (w : SlotRef) (outs : List Out) (k id : Nat) (near : Bool) (u : AccUnit) : Bool :=
  !outs.any (fun o => decide (o.id < id) && followsOut s w near u o) && !recvHolds s w k id && !(near && atomicFirst s w id)

/-- Stores that a release of the slot makes visible: its own, and those it has observed (R215). -/
def relCovers (s : State) (w : SlotRef) : List Nat := ownStores s w ++ (slotAt s w).obs

/-- What a barrier arrival, a release at pkg scope, must follow: every earlier load of the slot, its RECVs that may dequeue a
completion, and the stores it makes visible (R168, R215, R217). -/
def releaseAfter (s : State) (w : SlotRef) (scope : Nat) : List Nat :=
  let x := slotAt s w
  let due := completionDue s w w.k
  (x.outs.filter (fun o => isAccess o || (due && openRecv o))).map (·.id) ++ (if scope = 0 then [] else relCovers s w)

/-- An id names a store still in the core's buffers. -/
def storePending (s : State) (w : SlotRef) (id : Nat) : Bool :=
  let c := coreOf s w
  (c.sbuf ++ c.fq).any (fun e => e.id = id)

/-- An id names an access of the slots of the core that is still to be performed; with `ret`, one that is still to return. -/
def outPending (s : State) (w : SlotRef) (ret : Bool) (id : Nat) : Bool :=
  (slotsOf (coreRefOf w)).any (fun v => (slotAt s v).outs.any (fun o => o.id = id && (ret || unperformed o))) ||
    (coreOf s w).swapped.any (fun c => c.slot.outs.any (fun o => o.id = id && (ret || unperformed o)))

/-- Everything an access must follow is behind it. -/
def orderMet (s : State) (w : SlotRef) (ret : Bool) (ids : List Nat) : Bool :=
  ids.all (fun i => !storePending s w i && !outPending s w ret i)

/-- An LDA outside the LOCAL window is outstanding: later accesses of the slot stall (R223). -/
def ldaOut (x : Slot) : Bool := x.outs.any (fun o => match o.kind with | .load _ (some _) => true | _ => false)

/-- The innermost open remote frame (R295). -/
def remoteUid (x : Slot) : Option Nat := (x.frames.find? (·.remote)).map (·.uid)

/-! ### Issue -/

/-- A load or atomic goes out: one outstanding result with its units (R17, R18). -/
def sendAccess (s : State) (kind : OutKind) (us : List AccUnit) (d : Dst) : State :=
  let x := curSlot s
  let i := freshId s
  let covers := match atomicScope kind with | some 0 | none => [] | _ => relCovers s s.cur
  addOut i.2 ⟨i.1, x.pc, kind, us, d, covers, remoteUid x, x.csr.pkey, x.supv⟩

/-- The aligned 8-byte words that units of a store write whole, taken together (R27, R130). -/
def wholeWords (w : SlotRef) (us : List AccUnit) : List Nat :=
  let rs := us.map (fun u => (normVa w u.va, u.n))
  ((rs.map (fun r => [r.1 / 8, (r.1 + r.2 - 1) / 8])).flatten.eraseDups).filter (fun q =>
    covered rs (8 * q) (8 * q + 8) (rs.length + 1))

/-- One entry of a store, in the store buffer if it is near and in the far store queue otherwise (R208); none when that is full. -/
def bufferStore (s : State) (near : Bool) (grp : Nat) (us : List AccUnit) (rel : Option Nat) (flush : Option Bool) : Option State :=
  let w := s.cur
  let x := curSlot s
  let c := coreOf s w
  let i := freshId s
  let e : StEnt := ⟨i.1, w.k, x.pc, us, if rel.isSome then relCovers s w else [], rel, grp, false,
    if flush.isSome then [] else wholeWords w us, flush, remoteUid x, x.csr.pkey, x.supv⟩
  if us.isEmpty then some s
  else if near then (if 16 ≤ c.sbuf.length then none else some (setCoreOf i.2 w { c with sbuf := c.sbuf ++ [e] }))
  else (if 16 ≤ c.fq.length then none else some (setCoreOf i.2 w { c with fq := c.fq ++ [e] }))

/-- A store instruction enters the buffers, its near accesses in one and its far accesses in the other. A release carries its
scope. -/
def bufferBoth (s : State) (us : List AccUnit) (rel : Option Nat) (flush : Option Bool) : Option State :=
  let w := s.cur
  let p := us.partition (unitNear s w)
  (bufferStore s true s.nextId p.1 rel flush).bind (fun s' => bufferStore s' false s.nextId p.2 rel flush)

/-- The releases of the core's slots that an acquire of these bytes synchronises with, in the buffers or performed with a veil:
the stores that they make visible (R215). -/
def acquired (s : State) (w : SlotRef) (id : Nat) (va : Word) (n : Nat) : List Nat :=
  let c := coreOf s w
  let es := c.sbuf ++ c.fq
  let u : AccUnit := ⟨va, n, 0, none⟩
  ((es.filter (fun e => e.rel.isSome && !(e.k = w.k && decide (id < e.id)) && e.units.any (unitMeets w u) &&
      (e.k = w.k || !immature s w e))).map (·.covers)).flatten ++
    ((veilsAt s (resolve s (whoOf s w) va false) va n).filter (fun v => v.c = coreRefOf w)).flatMap (·.ids)

/-- The slot has seen these stores of its core's other slots (R215). -/
def observe (s : State) (w : SlotRef) (ids : List Nat) : State :=
  if ids.isEmpty then s else setSlot s w { slotAt s w with obs := (slotAt s w).obs ++ ids }

/-- A read of the own local store with a fixed latency (R26, R105): POISON of an uncorrectable word that it needs; else the
value and the state with corrected words. `acq` marks an acquire. -/
def localRead (s : State) (w : SlotRef) (va : Word) (n : Nat) (acq : Bool) : Option (Nat × State) :=
  let f := localFlat (coreRefOf w) (normVa w va)
  if wordsBad s w s.nextId f va n then none
  else
    let r := readFlat s f n
    let v := forward s w s.nextId va n r.1
    some (v.1, observe r.2 w (v.2 ++ (if acq then acquired s w s.nextId va n else [])))

/-- A load of the own local store can be made now: it follows the slot's earlier near accesses and the core's near atomics (R209,
R211, R216). -/
def localFree (s : State) (w : SlotRef) (us : List AccUnit) : Bool :=
  us.all (accessFree s w (slotAt s w).outs w.k s.nextId true) &&
    !us.any (fun u => veiled s (whoOf s w) (resolve s (whoOf s w) u.va false) u.va u.n)

/-- The address lies in the LOCAL window. -/
def inLocal (ea : Word) : Bool := decide (ea.toNat < 2 ^ 20)

/-! ### Performing -/

/-- A page that has to be reached through the fabric (R365). -/
def isRemote (s : State) (w : Who) (va : Word) : Bool :=
  match placeOf w.asid va with
  | .page tag a =>
    (match walkPage s w.c.m tag a with
     | .leaf e _ => leafMode e = 1 || leafMode e = 2
     | _ => false)
  | _ => false

/-- A page with MODE 1: uncached at the borrower (R366). -/
def isDirect (s : State) (w : Who) (va : Word) : Bool :=
  match placeOf w.asid va with
  | .page tag a => (match walkPage s w.c.m tag a with | .leaf e _ => leafMode e = 1 | _ => false)
  | _ => false

/-- The lender performs direct accesses of one core to one line in issue order (R366). -/
def lineTurn (s : State) (w : SlotRef) (id : Nat) (va : Word) : Bool :=
  let same := fun (u : AccUnit) => u.va.toNat / 128 = va.toNat / 128
  let c := coreOf s w
  !(c.sbuf ++ c.fq).any (fun e => decide (e.id < id) && e.units.any same) &&
    !(slotsOf (coreRefOf w)).any (fun v => (slotAt s v).outs.any (fun o =>
      decide (o.id < id) && o.units.any (fun u => u.val.isNone && same u)))

/-- Old memory value, operand, new memory value of AMO (R226). -/
def amoNew (op : Nat) (t : Ty) (old v : Nat) : Nat :=
  let n := tyBits t
  match op with
  | 0 => (old + v) % 2 ^ n
  | 1 => Nat.land old v
  | 2 => Nat.lor old v
  | 3 => Nat.xor old v
  | 4 => if intOf t old ≤ intOf t v then old else v
  | 5 => if intOf t old ≤ intOf t v then v else old
  | 6 => v
  | _ => (fpAdd (fmtOf t) .rne old v).1

/-- The write an atomic makes for an old value (R226-R228), its width, and whether host memory takes it (R382). -/
def atomicOf (k : OutKind) : Option ((Nat → Option Nat) × Nat × Bool) :=
  match k with
  | .amo op t v _ =>
    some (fun old => some (amoNew op.toNat t old (v.toNat % 2 ^ tyBits t)), tyBytes t, op = 0#3 && tyBytes t = 8)
  | .cas t c n _ =>
    some (fun old => if old = c.toNat % 2 ^ tyBits t then some (n.toNat % 2 ^ tyBits t) else none, tyBytes t, tyBytes t = 8)
  | .cas2 c n _ => some (fun old => if old = c.toNat then some n.toNat else none, 16, false)
  | _ => none

/-- Before unit `u` of it is performed at `t`, an atomic waits for the core's earlier stores to its bytes to be visible, a near one for
the core's whole store buffer, and one of non-core scope, a release, for every store that it makes visible (R210, R216, R229). -/
def atomicReady (s : State) (w : SlotRef) (o : Out) (u : AccUnit) (t : Tgt) : Bool :=
  let c := coreOf s w
  !(c.sbuf ++ c.fq).any (fun e => decide (e.id < o.id) && unitsMeet w e.units o.units) &&
    (!o.units.any (unitNear s w) || !c.sbuf.any (fun e => decide (e.id < o.id))) &&
    !o.covers.any (corePending s (coreRefOf w)) && !(veilsAt s t u.va u.n).any (fun v => v.c = coreRefOf w)

/-- Stores that a release has to make visible and that are still buffered put a veil over its location (R215). -/
def putVeil (s : State) (w : SlotRef) (scope : Nat) (covers : List Nat) (t : Tgt) (va : Word) (n : Nat) : State :=
  let ids := covers.filter (corePending s (coreRefOf w))
  match locKey t va with
  | some k => if ids.isEmpty then s else { s with veils := s.veils ++ [⟨k, n, coreRefOf w, w.k, scope, ids⟩] }
  | none => s

/-- The slots of a core that wait in WAITA on bytes of its local store from flat address `f` on compare anew (R173). -/
def recheckSlots (s : State) (f n : Nat) : State :=
  let k := f / 2 ^ 20
  (slotsOf ⟨k / 512 / 16, k / 512 % 16, k % 512⟩).foldl (fun s w =>
    if waitsOn (slotAt s w) (f % 2 ^ 20) n then recheckWait s w false else s) s

/-- A veil is gone once all its stores are visible: a slot that waits on its location sees it now. -/
def liftVeils (s : State) : State :=
  if s.veils.isEmpty then s
  else
    let there := fun v : Veil => v.ids.any (corePending s v.c)
    let gone := s.veils.filter (fun v => !there v && decide (v.key < 2 ^ 60))
    gone.foldl (fun s v => recheckSlots s v.key v.n) { s with veils := s.veils.filter there }

/-- An access whose page cannot be made resident fails with RESIDENCY (R198, R199): that was found after the access went out. -/
def orNoRoom {α : Type} (s : State) (id : Nat) (r : Res α) : Res α :=
  match r with
  | .absent p =>
    (match (pageAt s p).noRoom with
     | some b => if id < b then .fail .residency else .absent p
     | none => .absent p)
  | r => r

/-- Unit `u` of an outstanding access meets its location. -/
def attemptUnit (s : State) (w : SlotRef) (o : Out) (u : AccUnit) : Res Nat :=
  let who := whoAs s w o.pkey o.supv
  match atomicOf o.kind with
  | some (f, n, hostOk) =>
    if !atomicReady s w o u (resolve s who u.va true) then .wait
    else
      let seen := if isAcquire o.kind then acquired s w o.id u.va u.n else []
      (match perfAtomic s who u.va n f hostOk with
       | .ok s' x => .ok (observe s' w seen) x
       | r => r)
  | none =>
    let seen := if isAcquire o.kind then acquired s w o.id u.va u.n else []
    match o.kind, (if isLdc o then readAt s who u.va u.n else perfRead s who u.va u.n) with
    | .ldc _ (some v) _, .ok s' _ => .ok s' v
    | .ldc _ _ true, .ok _ _ => .fail .poison
    | .ldc _ (some v) false, .fail .poison => .ok s v
    | .ldc .., r => r
    | _, .fail .poison =>
      (match resolve s who u.va false with
       | .lstore _ f => if wordsBad s w o.id f u.va u.n then .fail .poison
         else
           (let r := readFlat s f u.n
            let v := forward s w o.id u.va u.n r.1
            .ok (observe r.2 w (v.2 ++ seen)) v.1)
       | _ => if allForwarded s w o.id u.va u.n then
           (let v := forward s w o.id u.va u.n 0; .ok (observe s w (v.2 ++ seen)) v.1)
         else .fail .poison)
    | _, .ok s' x =>
      let v := forward s w o.id u.va u.n x
      .ok (observe s' w (v.2 ++ seen)) v.1
    | _, r => r

/-- Attempts unit `u` of an outstanding access. -/
def tryUnit (s : State) (w : SlotRef) (o : Out) (u : AccUnit) : Res Nat := orNoRoom s o.id (attemptUnit s w o u)

/-- A result of the outstanding results of a slot replaced. -/
def putOut (s : State) (w : SlotRef) (o : Out) : State :=
  let x := slotAt s w
  setSlot s w { x with outs := x.outs.map (fun p => if p.id = o.id then o else p) }

/-- Unit `j` of an access with its value. -/
def fillUnit (o : Out) (j v : Nat) : Out :=
  { o with units := o.units.mapIdx (fun i u => if i = j then { u with val := some (BitVec.ofNat 128 v) } else u) }

/-- An earlier access of the slot, or an earlier unit of the same access, comes before unit `j` (R131, R209-R211). -/
def selfAfter (s : State) (w : SlotRef) (o : Out) (j : Nat) : Bool :=
  match o.units[j]? with
  | none => false
  | some u =>
    let near := unitNear s w u
    !isLdc o && (recvHolds s w w.k o.id ||
      (slotAt s w).outs.any (fun p => decide (p.id < o.id) && (followsOut s w near u p ||
        (isRelOut o && !isLdc p && unperformed p))) ||
      (o.units.take j).any (fun v => v.val.isNone && (unitMeets w u v || (near && unitNear s w v))))

/-- Unit `j` may be performed now: it is not performed, and what it must follow is done (R209-R211, R215, R216). -/
def unitReady (s : State) (w : SlotRef) (o : Out) (j : Nat) : Bool :=
  match o.units[j]? with
  | none => false
  | some u => u.val.isNone && !selfAfter s w o j && (isLdc o || !(unitNear s w u && atomicFirst s w o.id))

/-- Every slot of a core may try again what it stalled at. -/
def unstall (s : State) (c : CoreRef) : State :=
  (slotsOf c).foldl (fun s w => if (slotAt s w).stalled then setSlot s w { slotAt s w with stalled := false } else s) s

/-- Performs unit `j`: its value is held; a page that is not present asks for the slot to be swapped (R196). -/
def performUnit (s : State) (w : SlotRef) (o : Out) (j : Nat) : State :=
  match o.units[j]? with
  | none => s
  | some u =>
    if !unitReady s w o j || dieStopped (modAt s w.m) w.d then s
    else match tryUnit s w o u with
      | .ok s' v => unstall (putOut s' w (fillUnit o j v)) (coreRefOf w)
      | .absent p => let s := askPage s p; setSlot s w { slotAt s w with swapReq := p :: (slotAt s w).swapReq }
      | _ => s

/-- The failure that the next ready unit of an access meets, if any (R194): its cause and address. -/
def outFailure (s : State) (w : SlotRef) (o : Out) : Option (Cause × Word) :=
  (List.range o.units.length).findSome? (fun j =>
    match o.units[j]? with
    | none => none
    | some u =>
      if !unitReady s w o j then none
      else match tryUnit s w o u with
        | .fail c => some (c, u.va)
        | _ => none)

/-! ### Stores -/

/-- The stores of the core before entry `e` wait for no access any more: what they must follow of their contexts' accesses is done, and
stays so. -/
def freeBehind (s : State) (w : SlotRef) (e : StEnt) : Bool :=
  let c := coreOf s w
  (c.sbuf ++ c.fq).all (fun d =>
    let outs := outsOfK s w d.k
    decide (e.id ≤ d.id) ||
      (d.units.all (accessFree s w outs d.k d.id (c.sbuf.any (fun f => f.id = d.id))) &&
        !outs.any (fun o => decide (o.id < d.id) && (openRecv o || (d.rel.isSome && isAccess o)))))

/-- What the first unit of a buffered store must follow is done: earlier loads and atomics of its slot (R209-R211, R216, R217), and
earlier stores of the core to the same bytes. For a release, every earlier load, atomic and LDC has returned (R224), and the stores
that it makes visible are so; in a scope beyond the core, it may be performed before them, under a veil, once they wait for no
access any more (R215). -/
def storeOrder (s : State) (w : SlotRef) (e : StEnt) (u : AccUnit) : Bool :=
  let c := coreOf s w
  let near := c.sbuf.any (fun d => d.id = e.id)
  let outs := outsOfK s w e.k
  accessFree s w outs e.k e.id near u &&
    !(c.sbuf ++ c.fq).any (fun d => decide (d.id < e.id) && d.units.any (unitMeets w u)) &&
    (match e.rel with
     | none => true
     | some 0 => !immature s w e
     | some _ => !outs.any (fun o => isAccess o && decide (o.id < e.id)) &&
         (!e.covers.any (corePending s (coreRefOf w)) || freeBehind s w e))

/-- One unit of a store performed, or why not: a word that the whole instruction has written takes good check bits with its last
part (R130), and a release may put a veil over its location (R215). -/
def tryStore (s : State) (w : SlotRef) (e : StEnt) (u : AccUnit) : Res Unit :=
  match u.val with
  | none => .ok s ()
  | some d =>
    let v : SlotRef := { w with k := e.k }
    let who := whoAs s v e.pkey e.supv
    let t := resolve s who u.va true
    let q := normVa w u.va / 8
    let last := u.n < 8 && e.heal.contains q && !e.units.any (fun v =>
      !(v.va = u.va && v.off = u.off) && decide (normVa w v.va < 8 * q + 8) && decide (8 * q < normVa w v.va + v.n))
    match perfWrite (match e.rel with | some sc => putVeil s v sc e.covers t u.va u.n | none => s) who u.va u.n d.toNat with
    | .ok s' _ =>
      .ok (match last, t with
        | true, .lstore _ f | true, .line f .. => { s' with ecc := tdel s'.ecc (f / 8) }
        | _, _ => s') ()
    | r => orNoRoom s e.id r

/-- The entries of the instruction that a buffered store belongs to. -/
def groupOf (s : State) (w : SlotRef) (e : StEnt) : List StEnt :=
  ((coreOf s w).sbuf ++ (coreOf s w).fq).filter (fun d => d.grp = e.grp && d.k = e.k)

/-- What a unit of a store meets when it is tried: its element's place, its address, and a pass, a failure, or neither yet. -/
def unitCheck (s : State) (w : SlotRef) (e : StEnt) (u : AccUnit) : Nat × Word × Option (Option Cause) :=
  (u.off, u.va, match tryStore s w e u with | .ok .. => some none | .fail k => some (some k) | _ => none)

/-- The accesses of the instruction that a buffered store belongs to, as they are tried. -/
def groupChecks (s : State) (w : SlotRef) (e : StEnt) : List (Nat × Word × Option (Option Cause)) :=
  (groupOf s w e).flatMap (fun d => d.units.map (unitCheck s w d))

/-- A store writes nothing before every access of its instruction has passed its checks (R129, R194): once one is performed, the
others go on by themselves. -/
def groupReady (s : State) (w : SlotRef) (e : StEnt) : Bool := e.begun || (groupChecks s w e).all (fun q => q.2.2 = some none)

/-- The first access of a store's instruction that fails, in ascending element order, once those before it have passed (R129). -/
def groupFailure (s : State) (w : SlotRef) (e : StEnt) : Option (Cause × Word) :=
  let qs := groupChecks s w e
  qs.findSome? (fun q => match q.2.2 with
    | some (some k) => if qs.all (fun r => decide (q.1 ≤ r.1) || r.2.2 = some none) then some (k, q.2.1) else none
    | _ => none)

/-- The pages that the accesses of a store's instruction find not present are asked for (R198). -/
def askGroup (s : State) (w : SlotRef) (e : StEnt) : State :=
  (groupOf s w e).foldl (fun s d => d.units.foldl (fun s u =>
    match tryStore s w d u with | .absent p => askPage s p | _ => s) s) s

/-- A line is sent home with its dirty data (R204, R232): no permission is checked. None while its page is held, or the tokens to be
recalled cannot come. With ALL = 0 only the issuing hamlet's tokens come home, and the FLUSH is complete then, though others may hold
tokens: that R232 has all 1024 at the home is read of ALL = 1 (DESIGN CHOICE, log 32). -/
def lineHome (s : State) (w : Who) (va : Word) (all : Bool) : Option State :=
  match resolve s { w with pkey := none } va false with
  | .line _ l _ at' _ _ =>
    let ln := settleFlight (lineAt s l)
    if all && tokensStuck s ln none true then none
    else
    let s := if all || ln.owner = some (whoHam w) then settleD s ln at' else s
    some (setLine s l (if all then tokHome ln else tokReturn l.m ln (whoHam w)))
  | .wait => none
  | _ => some s

/-- A FLUSH is complete at once: no page or line to send home, and no store of the core to it still to come (R232). -/
def flushIdle (s : State) (w : SlotRef) (va : Word) : Bool :=
  let c := coreOf s w
  !(c.sbuf ++ c.fq).any (fun e => e.units.any (unitMeets w ⟨va, 128, 0, none⟩)) &&
    (match resolve s { whoOf s w with pkey := none } va false with
     | .line _ l _ _ _ _ => (lineAt s l).held.isEmpty && (lineAt s l).flight.isEmpty
     | .wait => false
     | _ => true)

end Sys2Proof.Machine
end

