-- ==== Sys2Proof/Machine/LoadStore.lean ====
section
/-!
DEFINITION. The scalar memory, ordering and residency instructions (R103-R106, R221-R225, R230-R234).
-/

namespace Sys2Proof.Machine

/-- Whether a load of `n` bytes leaves its result outstanding (R17, R105). -/
def deferredAt (f : MForm) (s : State) : Bool := !inLocal (eaOf (curSlot s) f)

/-- The unit of a scalar access. -/
def oneUnit (ea : Word) (n : Nat) (v : Option (BitVec 128)) : List AccUnit := [⟨ea, n, 0, v⟩]

/-- A load of `n` bytes after its address checks: fixed-latency in the LOCAL window, where it waits for what it must follow, and
deferred elsewhere. TRAPVAL of a POISON at issue is the address of the load, not that of the uncorrectable word: R282 says only
"Address" (DESIGN CHOICE, log 32). -/
def loadBody (check : BitVec 16 → Word → Nat → Option Cause) (f : MForm) (n : Nat) (kind : OutKind) (d : Dst)
    (fin : Nat → VWord) (s : State) : Eff :=
  let w := s.cur
  let x := curSlot s
  let ea := eaOf x f
  if ldaOut x then .stall s
  else match check (coreOf s w).ident.asid ea n with
    | some c => .fault c ea
    | none =>
      if inLocal ea then
        if !localFree s w (oneUnit ea n none) then .stall s
        else match localRead s w ea n (isAcquire kind) with
          | none => .fault .poison ea
          | some (v, s') => .done (withCur s' (fun x => writeDst x d (fin v)))
      else .done (sendAccess s kind (oneUnit ea n none) d)

/-- The 64-bit value of a typed load (R104). -/
def loadVal (t : Ty) (v : Nat) : VWord := (extendTo t v).zeroExtend 512

/-- The access of a load, for the watchpoints. -/
def loadAccs (f : MForm) (n : Nat) (s : State) : List Acc := [.load (eaOf (curSlot s) f) n]

/-- LD (R104). -/
def execLd (g : Guard) (f : MForm) (s : State) : Out_ :=
  issue g (.ds f.d :: usesM f) (deferredAt f s)
    (loadBody checkEaPlain f (tyBytes f.ty) (.load f.ty none) (sDst f.d) (loadVal f.ty)) s (loadAccs f (tyBytes f.ty))

/-- LDA (R223). -/
def execLda (g : Guard) (f : MForm) (s : State) : Out_ :=
  issue g (.ds f.d :: usesM f) (deferredAt f s)
    (loadBody checkEa f (tyBytes f.ty) (.load f.ty (some f.scope.toNat)) (sDst f.d) (loadVal f.ty)) s (loadAccs f (tyBytes f.ty))

/-- LDP (R104). -/
def execLdp (g : Guard) (f : MForm) (s : State) : Out_ :=
  issue g (.ds f.d :: .ds f.c :: usesM f) (deferredAt f s)
    (loadBody checkEaPlain f 16 .ldp (.pair f.d f.c) (fun v => BitVec.ofNat 512 v)) s (loadAccs f 16)

/-- A store of `n` bytes (R104): into the buffers, after its address checks and the confinement of open frames. -/
def storeBody (check : BitVec 16 → Word → Nat → Option Cause) (f : MForm) (n : Nat) (data : Slot → Nat)
    (rel : Option Nat) (s : State) : Eff :=
  let w := s.cur
  let x := curSlot s
  let ea := eaOf x f
  if ldaOut x then .stall s
  else match check (coreOf s w).ident.asid ea n with
    | some c => .fault c ea
    | none =>
      match confine w x [(ea, n)] with
      | some v => .fault .containment v
      | none =>
        match bufferBoth s (oneUnit ea n (some (BitVec.ofNat 128 (data x % 256 ^ n)))) rel none with
        | none => .stall s
        | some s' => .done s'

/-- The data of ST and STREL, and of STP. -/
def stData (f : MForm) (x : Slot) : Nat := (sGet x f.c).toNat
def stpData (f : MForm) (x : Slot) : Nat := (sGet x f.d).toNat * 2 ^ 64 + (sGet x f.c).toNat

/-- The access of a store, for the watchpoints. -/
def storeAccs (f : MForm) (n : Nat) (data : Slot → Nat) (s : State) : List Acc :=
  [.store (eaOf (curSlot s) f) n (BitVec.ofNat 64 (data (curSlot s) % 256 ^ n))]

/-- ST (R104). -/
def execSt (g : Guard) (f : MForm) (s : State) : Out_ :=
  issue g (.s f.c :: usesM f) false (storeBody checkEaPlain f (tyBytes f.ty) (stData f) none) s
    (storeAccs f (tyBytes f.ty) (stData f))

/-- STREL (R224). -/
def execStrel (g : Guard) (f : MForm) (s : State) : Out_ :=
  issue g (.s f.c :: usesM f) false
    (storeBody checkEa f (tyBytes f.ty) (stData f) (some f.scope.toNat)) s
    (storeAccs f (tyBytes f.ty) (stData f))

/-- STP (R104). -/
def execStp (g : Guard) (f : MForm) (s : State) : Out_ :=
  issue g (.s f.c :: .s f.d :: usesM f) false (storeBody checkEaPlain f 16 (stpData f) none) s (storeAccs f 16 (stpData f))

/-- The state with nothing held, stopped or fenced: what a location holds does not depend on that. -/
def unheld (s : State) : State :=
  { s with
    pages := s.pages.map (fun q => (q.1, { q.2 with frozen := false, withheld := false, rebuild := false })),
    mods := s.mods.map (fun q => (q.1, { q.2 with
      fenced := false, dies := q.2.dies.map (fun d => (d.1, { d.2 with stopped := false })) })) }

/-- Where an LDC's location stands at its issue, one whose accesses have to wait included. -/
def ldcPlace (s : State) (w : SlotRef) (ea : Word) : Tgt := resolve (unheld s) (whoOf s w) ea false

/-- What the constant cache gives an LDC at its issue (R205): the line as it was filled, or as it is now; a miss fills it. The flag
says that the location could not be read. Neither is known while the page is not present. -/
def ldcSnap (s : State) (w : SlotRef) (ea : Word) (n : Nat) : Option Nat × Bool × State :=
  match ldcPlace s w ea with
  | .line f l _ _ _ _ =>
    let h := hamOf (coreRefOf w)
    let now := memRead s.mem (f / 128 * 128) 128
    let part := fun line : Nat => line / 256 ^ (ea.toNat % 128) % 256 ^ n
    let bad := poisonAt s f || eccBad s f n
    (match tfind (hamAt s h).cc (lineKey l) with
     | some old =>
       if Config.freePick s.clk % 2 = 0 then (some (part old.toNat), false, s)
       else if bad then (none, true, s) else (some (part now), false, s)
     | none =>
       if bad then (none, true, s)
       else (some (part now), false,
         setHam s h { hamAt s h with cc := tput (hamAt s h).cc (lineKey l) (BitVec.ofNat 1024 now) }))
  | .hostMem f _ => (some (memRead s.mem f n), false, s)
  | _ => (none, false, s)

/-- LDC (R230). -/
def ldcBody (f : MForm) (s : State) : Eff :=
  let w := s.cur
  let x := curSlot s
  let ea := eaOf x f
  let n := tyBytes f.ty
  if ldaOut x then .stall s
  else match checkEa (coreOf s w).ident.asid ea n, placeOf (coreOf s w).ident.asid ea with
    | some c, _ => .fault c ea
    | none, .page _ _ =>
      let r := ldcSnap s w ea n
      .done (sendAccess r.2.2 (.ldc f.ty r.1 r.2.1) (oneUnit ea n none) (sDst f.d))
    | none, _ => .fault .access ea

/-- LDC (R230). -/
def execLdc (g : Guard) (f : MForm) (s : State) : Out_ :=
  issue g (.ds f.d :: usesM f) true (ldcBody f) s (loadAccs f (tyBytes f.ty))

/-- PREF (R231): a line whose checks pass, whose page is resident and not withheld, is brought to the hamlet, for write with
WI, or to the memory-side cache of its home; no value changes. -/
def prefBody (f : MForm) (s : State) : Eff :=
  let w := s.cur
  let who := whoOf s w
  let ea := eaOf (curSlot s) f
  let wi := f.ext.getLsbD 2
  let lvl := (f.ext.extractLsb' 0 2).toNat
  match placeOf who.asid ea with
  | .page _ _ =>
    (match resolve s who ea (wi && lvl != 2) with
     | .line _ l _ at' own unc =>
       let ln := lineAt s l
       if lineBlocked s ln who unc wi then .done s
       else
         let s := askHome s who ea l at' own unc (wi && lvl != 2)
         if lvl = 2 || unc then .done s
         else .done (setLine s l (if wi then { tokWrite l.m ln (whoHam who) with dirty := ln.dirty, dirtyOwn := ln.dirtyOwn }
           else tokRead l.m ln (whoHam who)))
     | _ => .done s)
  | _ => .done s

/-- PREF (R231). -/
def execPref (g : Guard) (f : MForm) (s : State) : Out_ := issue g (usesM f) false (prefBody f) s

/-- The slot's FLUSHes that are not complete. -/
def flushOut (s : State) (w : SlotRef) : Bool :=
  ((coreOf s w).sbuf ++ (coreOf s w).fq).any (fun e => e.k = w.k && e.flush.isSome)

/-- The scope holds a party outside the issuing core (R214). A store becomes visible to all of those at one instant (R212), so which of
them it holds makes no difference to what has to be visible. -/
def beyondCore (w : SlotRef) (scope : Nat) : Bool :=
  let c := coreRefOf w
  inScope c scope ⟨{ c with c := c.c / 8 * 8 + (c.c + 1) % 8 }, some 0, 0, none, false, none, false, .slot⟩

/-- What FENCE of a scope waits for (R225): the slot's earlier loads and atomics have returned, its FLUSHes are complete; its
stores, and those it observed, are visible within the scope: to the slots of the core they are so in the buffers, but for a release
that is still hidden from them, to every other party they become so at one instant (R212). -/
def fenceMet (s : State) (w : SlotRef) (scope : Nat) : Bool :=
  let x := slotAt s w
  let c := coreOf s w
  !x.outs.any isAccess && !flushOut s w && !ownVeil s (coreRefOf w) w.k &&
    !(c.sbuf ++ c.fq).any (fun e => e.k = w.k && e.rel.isSome && immature s w e) &&
    (!beyondCore w scope || ((ownStores s w).isEmpty && x.obs.all (fun i => !storePending s w i)))

/-- FENCE (R225). -/
def execFence (g : Guard) (f : MForm) (s : State) : Out_ :=
  issue g [] false (fun s => if fenceMet s s.cur f.scope.toNat then .done s else .stall s) s

/-- FLUSH (R232): a store of the slot that carries no data. -/
def flushBody (f : MForm) (s : State) : Eff :=
  let w := s.cur
  let x := curSlot s
  let ea := eaOf x f
  if ldaOut x then .stall s
  else match placeOf (coreOf s w).ident.asid ea with
    | .bad => .fault .access ea
    | .page _ _ =>
      if flushIdle s w (ea &&& ~~~127#64) then .done s
      else (match bufferBoth s [⟨ea &&& ~~~127#64, 128, 0, none⟩] none (some (f.ext.getLsbD 0)) with
       | none => .stall s
       | some s' => .done s')
    | _ => .done s

/-- FLUSH (R232). -/
def execFlush (g : Guard) (f : MForm) (s : State) : Out_ := issue g (usesM f) false (flushBody f) s

/-- Counted pins of a core (R200). -/
def pinCount (c : Core) : Nat := c.pins.foldl (fun a p => a + p.prog + p.walk) 0

/-- Adds program and walker pins to a page. -/
def addPin (ps : List Pin) (p : PageRef) (prog walk : Nat) : List Pin :=
  if ps.any (fun q => q.page = p) then
    ps.map (fun q => if q.page = p then { q with prog := q.prog + prog, walk := q.walk + walk } else q)
  else ps ++ [⟨p, prog, walk⟩]

/-- Releases program and walker pins of a page; a page without pins leaves the table. -/
def dropPin (ps : List Pin) (p : PageRef) (prog walk : Nat) : List Pin :=
  (ps.map (fun q => if q.page = p then { q with prog := q.prog - prog, walk := q.walk - walk } else q)).filter
    (fun q => q.prog != 0 || q.walk != 0)

/-- A page pinned by any core (R200). -/
def pagePinned (s : State) (p : PageRef) : Bool :=
  s.cores.any (fun c => c.2.pins.any (fun q => q.page = p && (q.prog != 0 || q.walk != 0)))

/-- PIN (R233). A page that was refused to its own request fails it as an unmapped one does (R199, log 32). Of several results that
apply, one of a key comes first, then that of the MODE, of the page size and of the limit: R233 states no order (DESIGN CHOICE,
log 32). -/
def pinBody (f : MForm) (s : State) : Eff :=
  let w := s.cur
  let x := curSlot s
  let c := coreOf s w
  let ea := eaOf x f
  let ans := fun (s : State) (v : Word) => Eff.done (withCur s (fun x => sPut x f.d v))
  if ldaOut x then .stall s
  else match checkEa c.ident.asid ea 1, placeOf c.ident.asid ea with
    | some k, _ => .fault k ea
    | none, .page tag a =>
      (match walkPage s w.m tag a with
       | .unmapped => .fault .access ea
       | .absent _ =>
         let p := pageOf w.m tag a
         if roomGone s w p then .faultIn (withCur s (fun x => { x with waitFor := none })) .residency ea none
         else .stay (withCur (askFor s w p) (fun x => { x with swapReq := p :: x.swapReq }))
       | .leaf e at' =>
         if pageHeld s (pageOf w.m tag a) false then .stall s
         else
           let s := missTouch s (pageOf w.m tag a) at'
           if keyRefuses (some x.csr.pkey) tag e false then .faultIn s .access ea none
           else if leafMode e = 1 || leafMode e = 2 then ans s 2
           else if leafPs e = 1 then ans s 0
           else if 184 ≤ pinCount c then ans s 1
           else ans (setCoreOf s w { c with pins := addPin c.pins (pageOf w.m tag a) 1 0 }) 0)
    | none, _ => ans s 2

/-- PIN (R233). -/
def execPin (g : Guard) (f : MForm) (s : State) : Out_ := issue g (.ds f.d :: usesM f) false (pinBody f) s

/-- UNPIN (R234). -/
def unpinBody (f : MForm) (s : State) : Eff :=
  let w := s.cur
  let x := curSlot s
  let c := coreOf s w
  let ea := eaOf x f
  let ans := fun (s : State) (v : Word) => Eff.done (withCur s (fun x => sPut x f.d v))
  if ldaOut x then .stall s
  else match placeOf c.ident.asid ea with
    | .bad => .fault .access ea
    | .page tag a =>
      let p := pageOf w.m tag a
      if c.pins.any (fun q => q.page = p && q.prog != 0) then
        ans (setCoreOf s w { c with pins := dropPin c.pins p 1 0 }) 0
      else ans s 1
    | _ => ans s 1

/-- UNPIN (R234). -/
def execUnpin (g : Guard) (f : MForm) (s : State) : Out_ := issue g (.ds f.d :: usesM f) false (unpinBody f) s

end Sys2Proof.Machine
end

