-- ==== Sys2Proof/Machine/Atomic.lean ====
section
/-!
DEFINITION. The atomics (R226-R229).
-/

namespace Sys2Proof.Machine

/-- An atomic of `n` bytes after its address checks and the confinement of open frames. -/
def atomicBody (f : MForm) (n : Nat) (kind : Slot → OutKind) (d : Dst) (s : State) : Eff :=
  let w := s.cur
  let x := curSlot s
  let ea := eaOf x f
  if ldaOut x then .stall s
  else match checkEa (coreOf s w).ident.asid ea n with
    | some c => .fault c ea
    | none =>
      match confine w x [(ea, n)] with
      | some v => .fault .containment v
      | none =>
        .done (sendAccess s (kind x) (oneUnit ea n none) d)

/-- The access of an atomic, for the watchpoints. -/
def atomicAccs (f : MForm) (n : Nat) (s : State) : List Acc :=
  [.store (eaOf (curSlot s) f) n (sGet (curSlot s) f.c)]

/-- AMO (R226). -/
def execAmo (g : Guard) (f : MForm) (s : State) : Out_ :=
  issue g (.ds f.d :: .s f.c :: usesM f) true
    (atomicBody f (tyBytes f.ty) (fun x => .amo (f.ext.extractLsb' 0 3) f.ty (sGet x f.c) f.scope.toNat) (sDst f.d)) s
    (atomicAccs f (tyBytes f.ty))

/-- CAS (R227). -/
def execCas (g : Guard) (f : MForm) (s : State) : Out_ :=
  issue g (.ds f.d :: .s f.c :: usesM f) true
    (atomicBody f (tyBytes f.ty) (fun x => .cas f.ty (sGet x f.d) (sGet x f.c) f.scope.toNat) (sDst f.d)) s
    (atomicAccs f (tyBytes f.ty))

/-- CAS2 (R228). -/
def execCas2 (g : Guard) (f : MForm) (s : State) : Out_ :=
  issue g (.ds f.d :: .ds (f.d + 1) :: .s f.c :: .s (f.c + 1) :: usesM f) true
    (atomicBody f 16 (fun x => .cas2 (sGet x (f.d + 1) ++ sGet x f.d) (sGet x (f.c + 1) ++ sGet x f.c) f.scope.toNat)
      (.pair f.d (f.d + 1))) s
    (atomicAccs f 16)

end Sys2Proof.Machine
end

