-- ==== Sys2Proof/WellFormed.lean ====
section
/-!
DEFINITION. The field limits of every instruction (R30-R38 and the encoding tables of 04, 05, 07, 11, 13 and 14) as a
decidable check on the decoded form.
-/

namespace Sys2Proof

open Sys2Proof.Machine (tyCode tyBits)

/-- What a register field may name (R31): nothing, a scalar, vector, predicate, mask or barrier register (or guard slot),
or the lower mask of a pair (R122). -/
inductive Fld where
  | z | s | v | p | m | b | e
deriving DecidableEq, Repr

/-- The limit of a register field (R31). -/
def fldOk (k : Fld) (r : RegIx) : Bool :=
  match k with
  | .z => r = 0
  | .s => true
  | .v => decide (r.toNat < 32)
  | .p | .m => decide (r.toNat < 8)
  | .b => decide (r.toNat < 16)
  | .e => r = 2 || r = 4 || r = 6

/-- TYPE lists by code (R32): s8–z64, the IEEE formats, both, both with FP8, floating point with FP8, none. -/
def intT : List Nat := [0, 1, 2, 3, 4, 5, 6, 7]
def fpT : List Nat := [8, 9, 10, 11]
def numT : List Nat := [0, 1, 2, 3, 4, 5, 6, 7, 8, 9, 10, 11]
def anyT : List Nat := [0, 1, 2, 3, 4, 5, 6, 7, 8, 9, 10, 11, 12, 13]
def stT : List Nat := [8, 9, 10, 11, 12, 13]
def noT : List Nat := [0]

/-- SUB lists: a rounding operand (R34), every value. -/
def rndS : List Nat := [0, 4, 5, 6, 7]
def allS : List Nat := [0, 1, 2, 3, 4, 5, 6, 7]

/-- An integer TYPE. -/
def tyInt (t : Ty) : Bool := decide (tyCode t < 8)

/-- R30: PG = 7 with PN = 1 is no instruction. -/
def okG (g : Guard) : Bool := !(g.pg = 7 && g.pn)

/-- Scalar register form (R31-R33): `imm` is the mask of IMM bits that the entry assigns when I = 0. -/
def okR (d a b c : Fld) (ty : List Nat) (i : Bool) (sub : List Nat) (imm : BitVec 48) (f : RForm) : Bool :=
  fldOk d f.d && fldOk a f.a && fldOk c f.c && ty.contains (tyCode f.ty) && sub.contains f.sub.toNat &&
    (if f.i then i && f.b = 0 else fldOk b f.b && f.imm &&& ~~~imm = 0)

/-- Vector register form (R31-R33): `mask` when the entry takes a mask, `imm` the VIMM bits it assigns when I = 0. -/
def okV (d a b c : Fld) (ty : List Nat) (i : Bool) (sub : List Nat) (mask : Bool) (imm : BitVec 43) (f : VForm) : Bool :=
  fldOk d f.d && fldOk a f.a && fldOk c f.c && ty.contains (tyCode f.ty) && sub.contains f.sub.toNat &&
    (mask || (!f.zm && f.mask = 0)) &&
    (if f.i then i && f.b = 0 else fldOk b f.b && f.vimm &&& ~~~imm = 0)

/-- How a memory form uses B and IDX (R35, R128): index when IDX = 1; never; stride register with IDX = 0; vector index
with IDX = 1. -/
inductive IdxUse where
  | any | no | stride | gather
deriving DecidableEq, Repr

/-- Memory form (R35, R221): `ext` is the mask of IMM[39:32] bits that the entry assigns. -/
def okM (d a c : Fld) (ty : List Nat) (idx : IdxUse) (scope mask : Bool) (ext : BitVec 8) (f : MForm) : Bool :=
  fldOk d f.d && fldOk a f.a && fldOk c f.c && ty.contains (tyCode f.ty) &&
    (match idx with
     | .any => f.idx || f.b = 0
     | .no => !f.idx && f.b = 0
     | .stride => !f.idx
     | .gather => f.idx && fldOk .v f.b) &&
    (if scope then decide (f.scope.toNat ≤ 5) else f.scope = 0) &&
    (mask || (!f.zm && f.mask = 0)) && f.ext &&& ~~~ext = 0

/-- Branch form (R36). -/
def okB (a : Fld) (f : BForm) : Bool :=
  f.d = 0 && fldOk a f.a && f.b = 0 && f.c = 0 && decide (f.cell.toNat ≤ 4)

/-- Engine form (R37): the block of `n` registers ends at `s63` at most. -/
def okE (ty sub : List Nat) (g : Bool) (n : Nat) (f : EForm) : Bool :=
  ty.contains (tyCode f.ty) && sub.contains f.sub.toNat && (if f.g then g && fldOk .b f.b else f.b = 0) &&
    (f.epa = 0 || f.c = 0) && decide (f.a.toNat + n ≤ 64)

/-- BFX and BFI: pos + len at most 64 (R87). -/
def okBf (f : RForm) : Bool := decide ((f.imm.extractLsb' 0 6).toNat + (f.imm.extractLsb' 6 6).toNat + 1 ≤ 64)

/-- The source type of a scalar conversion (R98). -/
def cvtSrcIn (l : List Nat) (f : RForm) : Bool := l.contains (f.imm.extractLsb' 0 4).toNat

/-- SAT only for a destination of 12 or 13 (R98). -/
def cvtSatOk (f : RForm) : Bool := !f.imm.getLsbD 4 || tyCode f.ty = 12 || tyCode f.ty = 13

/-- SUB of the instructions that round for floating point only (R111). -/
def vecS (f : VForm) : List Nat := if tyInt f.ty then [0] else rndS

/-- SUB of VREDSUM and VSCAN (R115). -/
def redS (f : VForm) : List Nat := if tyInt f.ty then [0, 1] else rndS

/-- The type of a code (R32). -/
def srcTy (f : VForm) : Ty := Sys2Proof.Machine.tyOf (f.vimm.extractLsb' 0 4).toNat

/-- The source type of a vector conversion. -/
def vsrcIn (l : List Nat) (f : VForm) : Bool := l.contains (f.vimm.extractLsb' 0 4).toNat

/-- The part number is below the ratio of the widths (R116). -/
def partOk (f : VForm) : Bool :=
  let ws := tyBits (srcTy f)
  let wd := tyBits f.ty
  decide ((f.vimm.extractLsb' 5 4).toNat < max ws wd / min ws wd)

/-- SUB of VCVT (R117). -/
def cvtS (f : VForm) : List Nat := if tyInt f.ty && tyInt (srcTy f) then [0] else rndS

/-- Source type, part and SAT of VCVT (R117). -/
def vcvtOk (f : VForm) : Bool :=
  vsrcIn anyT f && partOk f &&
    (!f.vimm.getLsbD 4 || (tyInt f.ty && tyInt (srcTy f)) || tyCode f.ty = 12 || tyCode f.ty = 13)

/-- MMOV (R127): masks where SUB says so. -/
def mmovOk (f : VForm) : Bool :=
  match f.sub.toNat with
  | 0 => fldOk .m f.d && (!f.i || f.a = 0)
  | 1 => !f.i && fldOk .m f.a
  | _ => !f.i && fldOk .m f.d && fldOk .m f.a

/-- CAS2 pairs: even, 2 to 62 (R221). -/
def evenPair (r : RegIx) : Bool := decide (r.toNat % 2 = 0) && decide (2 ≤ r.toNat) && decide (r.toNat ≤ 62)

/-- The types of COLL by SUB (R271). -/
def collT (f : EForm) : List Nat := if f.sub.toNat ≤ 1 then [2, 3, 6, 7, 8, 9, 10, 11] else anyT

/-- The CSR number of a CSR instruction (R301). -/
def csrNum (f : RForm) : Nat := (f.imm.extractLsb' 0 12).toNat

/-- The CSR numbers that R9, R141, R193, R258, R287 and R288 assign. -/
def csrAssigned (n : Nat) : Bool :=
  (1 ≤ n && n ≤ 6) || n = 0x11 || (0x100 ≤ n && n ≤ 0x105) || (0x108 ≤ n && n ≤ 0x111) || n = 0x113 ||
    (0x120 ≤ n && n ≤ 0x124) || (0x200 ≤ n && n ≤ 0x204) || (0x300 ≤ n && n ≤ 0x305) || (0x400 ≤ n && n ≤ 0x408) ||
    (0x410 ≤ n && n ≤ 0x417) || (0x500 ≤ n && n ≤ 0x504)

/-- The CSRs that take an index (R288). -/
def csrIndexed (n : Nat) : Bool := n = 0x501 || n = 0x502

/-- Well-formedness of every instruction: its guard (R30) and its entry's field limits (R31, R38). A machine event is
no cell and has no field limits. -/
def Instr.wf (i : Instr) : Bool :=
  match i with
  | .nop g f => okG g && okR .z .z .z .z noT false [0] 0 f
  | .add g f => okG g && okR .s .s .s .z intT true [0, 1] 0 f
  | .sub g f => okG g && okR .s .s .s .z intT true [0, 1] 0 f
  | .mul g f => okG g && okR .s .s .s .z intT true [0, 1] 0 f
  | .mulh g f => okG g && okR .s .s .s .z intT true [0] 0 f
  | .madd g f => okG g && okR .s .s .s .s intT true [0, 1] 0 f
  | .div g f => okG g && okR .s .s .s .z intT true [0, 1] 0 f
  | .rem g f => okG g && okR .s .s .s .z intT true [0] 0 f
  | .abs g f => okG g && okR .s .s .z .z intT false [0, 1] 0 f
  | .min g f => okG g && okR .s .s .s .z intT true [0] 0 f
  | .max g f => okG g && okR .s .s .s .z intT true [0] 0 f
  | .and g f => okG g && okR .s .s .s .z intT true [0] 0 f
  | .or g f => okG g && okR .s .s .s .z intT true [0] 0 f
  | .xor g f => okG g && okR .s .s .s .z intT true [0] 0 f
  | .andn g f => okG g && okR .s .s .s .z intT true [0] 0 f
  | .orn g f => okG g && okR .s .s .s .z intT true [0] 0 f
  | .shl g f => okG g && okR .s .s .s .z intT true [0] 0 f
  | .shr g f => okG g && okR .s .s .s .z intT true [0] 0 f
  | .sar g f => okG g && okR .s .s .s .z intT true [0] 0 f
  | .rot g f => okG g && okR .s .s .s .z intT true [0, 1] 0 f
  | .clz g f => okG g && okR .s .s .z .z intT false [0] 0 f
  | .ctz g f => okG g && okR .s .s .z .z intT false [0] 0 f
  | .popc g f => okG g && okR .s .s .z .z intT false [0] 0 f
  | .brev g f => okG g && okR .s .s .z .z intT false [0] 0 f
  | .bswap g f => okG g && okR .s .s .z .z intT false [0] 0 f
  | .mov g f => okG g && okR .s .s .z .z noT false [0] 0 f
  | .movi g f => okG g && okR .s .z .z .z intT false [0] 0xFFFFFFFFFFFF f
  | .movhi g f => okG g && okR .s .s .z .z noT false [0] 0xFFFF f
  | .sel g f => okG g && okR .s .s .s .p noT true [0] 0 f
  | .ext g f => okG g && okR .s .s .s .z [3, 7] true [0] 0 f
  | .bfx g f => okG g && okR .s .s .z .z [3, 7] false [0] 0xFFF f && okBf f
  | .bfi g f => okG g && okR .s .s .s .z noT false [0] 0xFFF f && okBf f
  | .lea g f => okG g && okR .s .s .s .z noT false [0, 1, 2, 3] 0xFFFFFFFF f
  | .cmp g f => okG g && okR .p .s .s .z intT true [0, 1, 2, 3, 4, 5] 0 f
  | .test g f => okG g && okR .p .s .s .z intT true [0, 1] 0 f
  | .addc g f => okG g && okR .s .s .s .p intT true [0, 1] 0 f
  | .pand g f => okG g && okR .p .p .p .z noT false [0, 1, 2, 3] 0 f
  | .por g f => okG g && okR .p .p .p .z noT false [0, 1, 2, 3] 0 f
  | .pxor g f => okG g && okR .p .p .p .z noT false [0, 1, 2, 3] 0 f
  | .pset g f => okG g && okR .p .s .z .z noT true [0] 0 f && (!f.i || f.a = 0)
  | .pget g f => okG g && okR .s .p .z .z noT false [0, 1] 0 f && (f.sub = 0 || f.a = 0)
  | .br g f => okG g && okB .z f
  | .bri g f => okG g && okR .z .s .z .z noT false [0] 0 f
  | .call g f => okG g && okB .z f
  | .calli g f => okG g && okR .z .s .z .z noT false [0] 0 f
  | .ret g f => okG g && okR .z .z .z .z noT false [0] 0 f
  | .loop g f => okG g && okB .s f && f.a != 0
  | .fadd g f => okG g && okR .s .s .s .z fpT true rndS 0 f
  | .fsub g f => okG g && okR .s .s .s .z fpT true rndS 0 f
  | .fmul g f => okG g && okR .s .s .s .z fpT true rndS 0 f
  | .ffma g f => okG g && okR .s .s .s .s fpT true rndS 0 f
  | .fdiv g f => okG g && okR .s .s .s .z fpT true rndS 0 f
  | .fsqrt g f => okG g && okR .s .s .z .z fpT false rndS 0 f
  | .fmin g f => okG g && okR .s .s .s .z fpT true [0] 0 f
  | .fmax g f => okG g && okR .s .s .s .z fpT true [0] 0 f
  | .fcmp g f => okG g && okR .p .s .s .z fpT true allS 0 f
  | .fclass g f => okG g && okR .s .s .z .z stT false [0] 0 f
  | .fcvt g f => okG g && okR .s .s .z .z stT false rndS 0x1F f && cvtSrcIn stT f && cvtSatOk f
  | .fcvti g f => okG g && okR .s .s .z .z intT false rndS 0xF f && cvtSrcIn stT f
  | .icvtf g f => okG g && okR .s .s .z .z stT false rndS 0x1F f && cvtSrcIn intT f && cvtSatOk f
  | .frcp g f => okG g && okR .s .s .z .z fpT false rndS 0 f
  | .frsq g f => okG g && okR .s .s .z .z fpT false rndS 0 f
  | .fexp2 g f => okG g && okR .s .s .z .z fpT false rndS 0 f
  | .flog2 g f => okG g && okR .s .s .z .z fpT false rndS 0 f
  | .fsgn g f => okG g && okR .s .s .s .z stT true [0, 1, 2] 0 f
  | .vadd g f => okG g && okV .v .v .v .z numT true (vecS f) true 0 f
  | .vsub g f => okG g && okV .v .v .v .z numT true (vecS f) true 0 f
  | .vmul g f => okG g && okV .v .v .v .z numT true (vecS f) true 0 f
  | .vmulh g f => okG g && okV .v .v .v .z intT true [0] true 0 f
  | .vfma g f => okG g && okV .v .v .v .v numT true (vecS f) true 0 f
  | .vdiv g f => okG g && okV .v .v .v .z numT true (vecS f) true 0 f
  | .vsqrt g f => okG g && okV .v .v .z .z fpT false rndS true 0 f
  | .vmin g f => okG g && okV .v .v .v .z numT true [0] true 0 f
  | .vmax g f => okG g && okV .v .v .v .z numT true [0] true 0 f
  | .vabs g f => okG g && okV .v .v .z .z numT false [0] true 0 f
  | .vsgn g f => okG g && okV .v .v .v .z stT true [0, 1, 2] true 0 f
  | .vadds g f => okG g && okV .v .v .v .z intT true [0] true 0 f
  | .vsubs g f => okG g && okV .v .v .v .z intT true [0] true 0 f
  | .vand g f => okG g && okV .v .v .v .z intT true [0] true 0 f
  | .vor g f => okG g && okV .v .v .v .z intT true [0] true 0 f
  | .vxor g f => okG g && okV .v .v .v .z intT true [0] true 0 f
  | .vandn g f => okG g && okV .v .v .v .z intT true [0] true 0 f
  | .vshl g f => okG g && okV .v .v .v .z intT true [0] true 0 f
  | .vshr g f => okG g && okV .v .v .v .z intT true [0] true 0 f
  | .vsar g f => okG g && okV .v .v .v .z intT true [0] true 0 f
  | .vpopc g f => okG g && okV .v .v .z .z intT false [0] true 0 f
  | .vcmp g f => okG g && okV .m .v .v .z numT true allS true 0 f && (!tyInt f.ty || f.sub.toNat < 6)
  | .vsel g f => okG g && okV .v .v .v .m anyT true [0] false 0 f
  | .vbcast g f => okG g && okV .v .s .z .z anyT true [0] true 0 f && (!f.i || f.a = 0)
  | .vext g f => okG g && okV .s .v .s .z anyT true [0] false 0 f
  | .vins g f => okG g && okV .v .s .s .z anyT true [0] false 0 f
  | .vperm g f => okG g && okV .v .v .v .z anyT false [0] true 0 f
  | .vrot g f => okG g && okV .v .v .s .z anyT true [0] true 0 f
  | .vmovi g f => okG g && okV .v .z .z .z intT false [0] true 0x7FFFFFFFFFF f
  | .vredsum g f => okG g && okV .s .v .z .z numT false (redS f) true 0 f
  | .vredmin g f => okG g && okV .s .v .z .z numT false [0] true 0 f
  | .vredmax g f => okG g && okV .s .v .z .z numT false [0] true 0 f
  | .vscan g f => okG g && okV .v .v .z .z numT false (redS f) true 0 f
  | .vcvt g f => okG g && okV .v .v .z .z anyT false (cvtS f) true 0x1FF f && vcvtOk f
  | .vpack g f => okG g && okV .v .v .v .z [0, 1, 2, 4, 5, 6] false [0, 1] true 0 f
  | .vwiden g f => okG g && okV .v .v .z .z [1, 2, 3, 5, 6, 7] false [0] true 1 f
  | .vunpack3 g f => okG g && okV .v .v .z .z [0, 1, 2] false [0, 1] true 0x3F f
  | .vsparse24 g f => okG g && okV .v .v .z .e anyT false [0] false 0 f
  | .vexpand24 g f => okG g && okV .v .v .z .e anyT false [0] false 0 f
  | .vdot4 g f => okG g && okV .v .v .v .z [2] false [0, 1, 2, 3] true 0 f
  | .vtacc g f => okG g && okV .v .v .v .z [2] false [0, 1] true 0 f
  | .vquant g f => okG g && okV .v .v .s .z [14, 15] false rndS true 0x1EF f && vsrcIn [8, 9, 10] f && partOk f
  | .vdeq g f => okG g && okV .v .v .s .z fpT false rndS true 0x1EF f && vsrcIn [14, 15] f && partOk f
  | .vrcp g f => okG g && okV .v .v .z .z fpT false rndS true 0 f
  | .vrsq g f => okG g && okV .v .v .z .z fpT false rndS true 0 f
  | .vexp2 g f => okG g && okV .v .v .z .z fpT false rndS true 0 f
  | .vlog2 g f => okG g && okV .v .v .z .z fpT false rndS true 0 f
  | .mand g f => okG g && okV .m .m .m .z noT false [0, 1, 2, 3] false 0 f
  | .mor g f => okG g && okV .m .m .m .z noT false [0, 1, 2, 3] false 0 f
  | .mxor g f => okG g && okV .m .m .m .z noT false [0, 1, 2, 3] false 0 f
  | .mnot g f => okG g && okV .m .m .z .z noT false [0] false 0 f
  | .mpop g f => okG g && okV .s .m .z .z noT false [0] false 0 f
  | .mfirst g f => okG g && okV .s .m .z .z noT false [0] false 0 f
  | .mmov g f => okG g && okV .s .s .z .z noT true [0, 1, 2] false 0 f && mmovOk f
  | .ld g f => okG g && okM .s .s .z anyT .any false false 0 f
  | .st g f => okG g && okM .z .s .s anyT .any false false 0 f
  | .lda g f => okG g && okM .s .s .z anyT .any true false 0 f
  | .strel g f => okG g && okM .z .s .s anyT .any true false 0 f
  | .ldc g f => okG g && okM .s .s .z anyT .any false false 0 f
  | .ldp g f => okG g && okM .s .s .s [3] .any false false 0 f && (f.d != f.c || f.d = 0)
  | .stp g f => okG g && okM .s .s .s [3] .any false false 0 f
  | .pref g f => okG g && okM .z .s .z noT .any false false 7 f && (f.ext.toNat % 4 != 3)
  | .fence g f => okG g && okM .z .z .z noT .no true false 0 f && f.scale = 0 && f.off = 0
  | .flush g f => okG g && okM .z .s .z noT .any false false 1 f
  | .pin g f => okG g && okM .s .s .z noT .any false false 0 f
  | .unpin g f => okG g && okM .s .s .z noT .any false false 0 f
  | .amo g f => okG g && okM .s .s .s [2, 3, 6, 7, 10, 11] .any true false 7 f && ((f.ext = 7) == !tyInt f.ty)
  | .cas g f => okG g && okM .s .s .s [2, 3, 6, 7] .any true false 0 f
  | .cas2 g f => okG g && okM .s .s .s [3] .any true false 0 f && evenPair f.d && evenPair f.c
  | .vld g f => okG g && okM .v .s .z anyT .any false true 0 f
  | .vst g f => okG g && okM .z .s .v anyT .any false true 0 f
  | .vlds g f => okG g && okM .v .s .z [2, 3, 6, 7, 10, 11] .stride false true 0 f
  | .vsts g f => okG g && okM .z .s .v [2, 3, 6, 7, 10, 11] .stride false true 0 f
  | .vgather g f => okG g && okM .v .s .z [2, 3, 6, 7, 10, 11] .gather false true 0 f
  | .vscatter g f => okG g && okM .z .s .v [2, 3, 6, 7, 10, 11] .gather false true 0 f
  | .vldb g f => okG g && okM .v .s .z anyT .any false true 0 f
  | .sync g f => okG g && okR .z .z .z .z noT false [0] 0 f
  | .vote g f => okG g && okR .z .s .z .z noT true [0] 0 f && (!f.i || f.a = 0)
  | .bara g f => okG g && okR .s .b .z .z noT false [0] 0 f
  | .barw g f => okG g && okR .z .b .s .z noT true [0] 0 f
  | .domset g f => okG g && okR .s .s .z .z noT true [0] 0 f && (!f.i || f.a = 0)
  | .send g f => okG g && okE noT [0, 1, 2, 3, 4, 5, 6] false (f.sub.toNat + 1) f
  | .recv g f => okG g && okR .v .z .z .z noT false [0] 0 f
  | .peek g f => okG g && okR .s .z .z .z noT false [0] 0 f
  | .waita g f => okG g && okR .s .s .s .z noT true [0] 0 f
  | .wake g f => okG g && okR .z .s .z .z noT false [0] 0 f
  | .walk g f => okG g && okR .s .s .z .z noT false [0] 0 f
  | .tend g f => okG g && okR .z .z .z .z noT false [0] 0 f
  | .taskadd g f => okG g && okR .s .s .s .s noT false [0] 0 f
  | .spawn g f => okG g && okR .s .s .s .z noT false [0] 0 f
  | .yield g f => okG g && okR .z .z .z .z noT false [0] 0 f
  | .exit g f => okG g && okR .z .z .z .z noT false [0] 0 f
  | .mloadw g f => okG g && okE [8, 9, 12, 13, 14, 15] [0] false 4 f
  | .mswap g f => okG g && okE noT [0] false 1 f
  | .mstream g f => okG g && okE [8, 9, 12, 13, 14] [0] true 4 f
  | .mzero g f => okG g && okE noT [0, 1] true 2 f
  | .accrd g f => okG g && okE [3, 8, 9, 10] [0] true 4 f
  | .accwr g f => okG g && okE [3, 8, 9, 10] [0] true 4 f
  | .mstat g f => okG g && okR .s .z .z .z noT false [0, 1] 0xF f && (f.sub = 0 || f.imm = 0)
  | .cpy g f => okG g && okE noT [0] true 6 f
  | .cpy2 g f => okG g && okE noT [0] true 7 f
  | .cpyr g f => okG g && okE noT [0] true 6 f
  | .coll g f => okG g && okE (collT f) [0, 1, 2, 3] true 5 f
  | .ecode g f => okG g && okE noT [0, 1] true 7 f
  | .ckpt g f => okG g && okE noT [0, 1] true 3 f
  | .migr g f => okG g && okE noT [0] true 4 f
  | .gset g f => okG g && okR .z .p .b .z noT false [0, 1] 0 f
  | .cbatch g f => okG g && okR .z .z .z .z noT false [0] 0 f
  | .waitb g f => okG g && okR .z .s .z .z noT true [0] 0 f && (!f.i || f.a = 0)
  | .engq g f => okG g && okE noT [0, 1] true 1 f
  | .trap g f => okG g && okR .z .z .z .z noT false [0] 0xFFFF f
  | .eret g f => okG g && okR .z .z .z .z noT false [0] 0 f
  | .brk g f => okG g && okR .z .z .z .z noT false [0] 0xFFFF f
  | .csrrd g f => okG g && okR .s .z .s .z noT false [0] 0xFFF f && csrAssigned (csrNum f) && (f.b = 0 || csrIndexed (csrNum f))
  | .csrwr g f => okG g && okR .s .s .z .z noT false [0] 0xFFF f && csrAssigned (csrNum f)
  | .csrset g f => okG g && okR .s .s .z .z noT false [0] 0xFFF f && csrAssigned (csrNum f)
  | .csrclr g f => okG g && okR .s .s .z .z noT false [0] 0xFFF f && csrAssigned (csrNum f)
  | .ifence g f => okG g && okR .z .z .z .z noT false [0] 0 f
  | .dlog g f => okG g && okR .s .z .z .z noT false [0] 0 f
  | .resume g f => okG g && okR .z .s .s .z noT false [0, 1, 2, 3, 4] 0 f && (f.sub = 2 || f.b = 0)
  | .cdopen g f => okG g && okR .z .s .z .z noT false [0] 0xFFFFFFFFFFFF f && ((f.imm.extractLsb' 16 3).toNat < 5)
  | .cdpres g f => okG g && okR .z .s .s .s noT false [0, 1] 0 f && (f.sub = 0 || f.c = 0)
  | .cdout g f => okG g && okR .z .s .s .z noT false [0] 0 f
  | .cdclose g f => okG g && okR .z .z .z .z noT false [0] 0 f
  | .cdfail g f => okG g && okR .z .z .z .z noT false [0] 0 f
  | .rbegin g f => okG g && okR .z .s .z .z noT false [0] 0xFFFF f
  | .rcommit g f => okG g && okR .z .z .z .z noT false [0] 0 f
  | .deferredResultReturn _ _ _ => true
  | .deferredFailure _ => true
  | .faultDelivery _ => true
  | .localTrapEntry _ => true
  | .resumeDelivery _ => true
  | .cdRollback _ => true
  | .contextSwapOut _ => true
  | .pageMadeResident _ _ => true
  | .contextRestore _ _ => true
  | .storeBufferDrain _ => true
  | .farStoreDrain _ _ _ => true
  | .logMerge _ _ => true
  | .messageArrival _ => true
  | .spillRingMove _ => true
  | .wakeDelivery _ => true
  | .walkTaskDispatch _ _ => true
  | .queuedTaskDispatch _ => true
  | .footprintWriteOut _ => true
  | .syncDomainComplete _ _ _ _ => true
  | .exchangeComplete _ _ _ _ _ => true
  | .syncTimeout _ => true
  | .barrierRelease _ _ => true
  | .launchUnitPass _ => true
  | .launchEntry _ => true
  | .launchEnd _ => true
  | .patienceExpiry _ _ => true
  | .drainBoundaryHold _ _ => true
  | .drainLimitExpiry _ => true
  | .saveComplete _ _ => true
  | .saveLimitExpiry _ => true
  | .launchRestore _ => true
  | .checkpointRestart _ => true
  | .engineCommandArrival _ => true
  | .crierWindowExpiry _ => true
  | .commandCompletion _ => true
  | .engineWatchdogExpiry _ => true
  | .mloadwRun _ => true
  | .mswapRun _ => true
  | .mstreamTileStep _ _ => true
  | .mzeroTileStep _ => true
  | .accrdTileStep _ => true
  | .accwrTileStep _ => true
  | .mstatQueryRun _ => true
  | .scrubberRead _ _ => true
  | .millSubarrayGating _ _ => true
  | .cpyRun _ _ => true
  | .cpy2Run _ _ => true
  | .cpyrRun _ _ => true
  | .collRun _ _ => true
  | .ecodeRun _ => true
  | .ckptCutBoundary _ => true
  | .ckptPageCopy _ _ => true
  | .ckptCommit _ => true
  | .ckptRestoreRun _ => true
  | .migrRun _ => true
  | .engqQueryRun _ => true
  | .engqDrainComplete _ => true
  | .einjResultArm _ _ => true
  | .einjStoreSingleFlip _ _ => true
  | .einjStoreDoubleFlip _ _ => true
  | .einjAccumulatorArm _ _ => true
  | .accumulatorFlip _ => true
  | .logRegisterWrite _ _ _ => true
  | .spillbaseWrite _ _ => true
  | .mflgposClear _ => true
  | .pageTableChange _ _ _ => true
  | .thresholdMigration _ => true
  | .transientRequest _ _ _ _ => true
  | .tokenAttemptTimeout _ _ => true
  | .persistentRequest _ _ _ => true
  | .persistentActivation _ => true
  | .persistentDeactivation _ => true
  | .lineEviction _ _ => true
  | .dieFailureDeclared _ _ => true
  | .tokenRecoveryComplete _ => true
  | .spareTakeover _ _ _ _ => true
  | .dieEvacuation _ _ => true
  | .evacuationTimeout _ _ => true
  | .tierDieLoss _ _ => true
  | .linkDeadDeclared _ _ _ => true
  | .routeTableRewrite _ => true
  | .fabricChannelDead _ _ _ => true
  | .remoteAccessArrival _ _ => true
  | .leaseGrant _ _ _ => true
  | .leaseRenewal _ _ _ => true
  | .leaseExpiry _ _ => true
  | .reclaim _ _ _ => true
  | .release _ _ => true
  | .reclaimDeadline _ _ _ => true
  | .windowRevocation _ _ => true
  | .rowRebuild _ _ => true
  | .rdmaWrite _ _ => true
  | .rdmaRead _ => true
  | .compareSwap _ _ _ => true
  | .fetchAdd _ _ => true
  | .diagnosisRepeat _ _ _ _ => true
  | .ackSilenceTimeout _ _ => true
  | .voterTimeout _ _ => true
  | .moduleFailureDeclared _ => true
  | .capabilityFault _ _ => true
  | .bootStep _ _ _ => true
  | .tamperAlarm _ => true
  | .thermalThrottle _ _ => true
  | .throttleRelease _ _ => true
  | .thermalStop _ _ => true
  | .moduleReset _ => true
  | .debugHalt _ => true
  | .debugContinue _ => true
  | .debugGroupHalt _ => true
  | .boundaryDump _ => true
  | .forcedDump _ _ => true
  | .counterSnapshot _ => true
  | .hostWindowWrite _ _ _ => true
  | .queueRegistration _ _ _ _ _ _ _ => true
  | .preemptionRequest _ => true
  | .controlledReset _ _ => true
  | .hbm4eStackLoss _ _ => true
  | .bitFlip _ => true
  | .serviceProcessorFailure _ _ => true
  | .hostConnectionFailure _ _ => true
  | .unsupportedHostRequest _ _ => true

end Sys2Proof
end

