-- ==== Sys2Proof/Decode.lean ====
section
/-!
DEFINITION. Decoding a 96-bit cell (R29-R40) and encoding an instruction. A word that is no instruction decodes to
nothing, and its slot raises ILLEGAL_INSTR (R38).
-/

namespace Sys2Proof

open Sys2Proof.Machine (tyCode tyOf)

/-- OPC (R29). -/
def opcOf (w : CellWord) : Nat := (w.extractLsb' 80 11).toNat

/-- Guard and switch marker (R29, R30). -/
def guardOf (w : CellWord) : Guard := ⟨w.getLsbD 94, w.extractLsb' 91 3, w.getLsbD 95⟩

/-- TYPE (R32, R35, R37). -/
def typeOf (w : CellWord) : Ty := tyOf (w.extractLsb' 52 4).toNat

/-- Register fields (R29). -/
def fldD (w : CellWord) : RegIx := w.extractLsb' 74 6
def fldA (w : CellWord) : RegIx := w.extractLsb' 68 6
def fldB (w : CellWord) : RegIx := w.extractLsb' 62 6
def fldC (w : CellWord) : RegIx := w.extractLsb' 56 6

/-- Scalar register form (R32). -/
def rOf (w : CellWord) : RForm :=
  ⟨typeOf w, w.getLsbD 51, w.extractLsb' 48 3, fldD w, fldA w, fldB w, fldC w, w.extractLsb' 0 48⟩

/-- Vector register form (R33). -/
def vOf (w : CellWord) : VForm :=
  ⟨typeOf w, w.getLsbD 51, w.extractLsb' 48 3, fldD w, fldA w, fldB w, fldC w, w.getLsbD 47, w.extractLsb' 43 3,
   w.extractLsb' 0 43⟩

/-- Memory form (R35, R221). -/
def mOf (w : CellWord) : MForm :=
  ⟨typeOf w, w.extractLsb' 50 2, w.getLsbD 49, fldD w, fldA w, fldB w, fldC w, w.getLsbD 47, w.extractLsb' 43 3,
   w.extractLsb' 40 3, w.extractLsb' 32 8, w.extractLsb' 0 32⟩

/-- Branch form (R36). -/
def bOf (w : CellWord) : BForm := ⟨fldD w, fldA w, fldB w, fldC w, w.extractLsb' 3 45, w.extractLsb' 0 3⟩

/-- Engine form (R37). -/
def eOf (w : CellWord) : EForm :=
  ⟨typeOf w, w.getLsbD 51, w.extractLsb' 48 3, fldD w, fldA w, fldB w, fldC w, w.extractLsb' 0 32⟩

/-- The reserved bits of a form are zero (R33, R35, R36, R37). -/
def resR (_ : CellWord) (i : Instr) : Option Instr := some i
def resV (w : CellWord) (i : Instr) : Option Instr := if w.getLsbD 46 then none else some i
def resM (w : CellWord) (i : Instr) : Option Instr := if w.getLsbD 46 || w.getLsbD 48 then none else some i
def resB (w : CellWord) (i : Instr) : Option Instr := if w.extractLsb' 48 8 = 0 then some i else none
def resE (w : CellWord) (i : Instr) : Option Instr := if w.extractLsb' 32 16 = 0 then some i else none

/-- The opcode map (R40): the instruction of an opcode, its fields read in its form. -/
def byOpcode (op : Nat) (w : CellWord) : Option Instr :=
  match op with
  | 0x001 => resR w (.nop (guardOf w) (rOf w))
  | 0x010 => resR w (.add (guardOf w) (rOf w))
  | 0x011 => resR w (.sub (guardOf w) (rOf w))
  | 0x012 => resR w (.mul (guardOf w) (rOf w))
  | 0x013 => resR w (.mulh (guardOf w) (rOf w))
  | 0x014 => resR w (.madd (guardOf w) (rOf w))
  | 0x015 => resR w (.div (guardOf w) (rOf w))
  | 0x016 => resR w (.rem (guardOf w) (rOf w))
  | 0x017 => resR w (.abs (guardOf w) (rOf w))
  | 0x018 => resR w (.min (guardOf w) (rOf w))
  | 0x019 => resR w (.max (guardOf w) (rOf w))
  | 0x020 => resR w (.and (guardOf w) (rOf w))
  | 0x021 => resR w (.or (guardOf w) (rOf w))
  | 0x022 => resR w (.xor (guardOf w) (rOf w))
  | 0x023 => resR w (.andn (guardOf w) (rOf w))
  | 0x024 => resR w (.orn (guardOf w) (rOf w))
  | 0x025 => resR w (.shl (guardOf w) (rOf w))
  | 0x026 => resR w (.shr (guardOf w) (rOf w))
  | 0x027 => resR w (.sar (guardOf w) (rOf w))
  | 0x028 => resR w (.rot (guardOf w) (rOf w))
  | 0x029 => resR w (.clz (guardOf w) (rOf w))
  | 0x02A => resR w (.ctz (guardOf w) (rOf w))
  | 0x02B => resR w (.popc (guardOf w) (rOf w))
  | 0x02C => resR w (.brev (guardOf w) (rOf w))
  | 0x02D => resR w (.bswap (guardOf w) (rOf w))
  | 0x030 => resR w (.mov (guardOf w) (rOf w))
  | 0x031 => resR w (.movi (guardOf w) (rOf w))
  | 0x032 => resR w (.movhi (guardOf w) (rOf w))
  | 0x033 => resR w (.sel (guardOf w) (rOf w))
  | 0x034 => resR w (.ext (guardOf w) (rOf w))
  | 0x035 => resR w (.bfx (guardOf w) (rOf w))
  | 0x036 => resR w (.bfi (guardOf w) (rOf w))
  | 0x037 => resR w (.lea (guardOf w) (rOf w))
  | 0x038 => resR w (.cmp (guardOf w) (rOf w))
  | 0x039 => resR w (.test (guardOf w) (rOf w))
  | 0x03A => resR w (.addc (guardOf w) (rOf w))
  | 0x100 => resR w (.pand (guardOf w) (rOf w))
  | 0x101 => resR w (.por (guardOf w) (rOf w))
  | 0x102 => resR w (.pxor (guardOf w) (rOf w))
  | 0x103 => resR w (.pset (guardOf w) (rOf w))
  | 0x104 => resR w (.pget (guardOf w) (rOf w))
  | 0x110 => resB w (.br (guardOf w) (bOf w))
  | 0x111 => resR w (.bri (guardOf w) (rOf w))
  | 0x112 => resB w (.call (guardOf w) (bOf w))
  | 0x113 => resR w (.calli (guardOf w) (rOf w))
  | 0x114 => resR w (.ret (guardOf w) (rOf w))
  | 0x115 => resB w (.loop (guardOf w) (bOf w))
  | 0x180 => resR w (.fadd (guardOf w) (rOf w))
  | 0x181 => resR w (.fsub (guardOf w) (rOf w))
  | 0x182 => resR w (.fmul (guardOf w) (rOf w))
  | 0x183 => resR w (.ffma (guardOf w) (rOf w))
  | 0x184 => resR w (.fdiv (guardOf w) (rOf w))
  | 0x185 => resR w (.fsqrt (guardOf w) (rOf w))
  | 0x186 => resR w (.fmin (guardOf w) (rOf w))
  | 0x187 => resR w (.fmax (guardOf w) (rOf w))
  | 0x188 => resR w (.fcmp (guardOf w) (rOf w))
  | 0x189 => resR w (.fclass (guardOf w) (rOf w))
  | 0x18A => resR w (.fcvt (guardOf w) (rOf w))
  | 0x18B => resR w (.fcvti (guardOf w) (rOf w))
  | 0x18C => resR w (.icvtf (guardOf w) (rOf w))
  | 0x18D => resR w (.frcp (guardOf w) (rOf w))
  | 0x18E => resR w (.frsq (guardOf w) (rOf w))
  | 0x18F => resR w (.fexp2 (guardOf w) (rOf w))
  | 0x190 => resR w (.flog2 (guardOf w) (rOf w))
  | 0x191 => resR w (.fsgn (guardOf w) (rOf w))
  | 0x200 => resV w (.vadd (guardOf w) (vOf w))
  | 0x201 => resV w (.vsub (guardOf w) (vOf w))
  | 0x202 => resV w (.vmul (guardOf w) (vOf w))
  | 0x203 => resV w (.vmulh (guardOf w) (vOf w))
  | 0x204 => resV w (.vfma (guardOf w) (vOf w))
  | 0x205 => resV w (.vdiv (guardOf w) (vOf w))
  | 0x206 => resV w (.vsqrt (guardOf w) (vOf w))
  | 0x207 => resV w (.vmin (guardOf w) (vOf w))
  | 0x208 => resV w (.vmax (guardOf w) (vOf w))
  | 0x209 => resV w (.vabs (guardOf w) (vOf w))
  | 0x20A => resV w (.vsgn (guardOf w) (vOf w))
  | 0x20B => resV w (.vadds (guardOf w) (vOf w))
  | 0x20C => resV w (.vsubs (guardOf w) (vOf w))
  | 0x210 => resV w (.vand (guardOf w) (vOf w))
  | 0x211 => resV w (.vor (guardOf w) (vOf w))
  | 0x212 => resV w (.vxor (guardOf w) (vOf w))
  | 0x213 => resV w (.vandn (guardOf w) (vOf w))
  | 0x214 => resV w (.vshl (guardOf w) (vOf w))
  | 0x215 => resV w (.vshr (guardOf w) (vOf w))
  | 0x216 => resV w (.vsar (guardOf w) (vOf w))
  | 0x217 => resV w (.vpopc (guardOf w) (vOf w))
  | 0x220 => resV w (.vcmp (guardOf w) (vOf w))
  | 0x221 => resV w (.vsel (guardOf w) (vOf w))
  | 0x222 => resV w (.vbcast (guardOf w) (vOf w))
  | 0x223 => resV w (.vext (guardOf w) (vOf w))
  | 0x224 => resV w (.vins (guardOf w) (vOf w))
  | 0x225 => resV w (.vperm (guardOf w) (vOf w))
  | 0x226 => resV w (.vrot (guardOf w) (vOf w))
  | 0x227 => resV w (.vmovi (guardOf w) (vOf w))
  | 0x230 => resV w (.vredsum (guardOf w) (vOf w))
  | 0x231 => resV w (.vredmin (guardOf w) (vOf w))
  | 0x232 => resV w (.vredmax (guardOf w) (vOf w))
  | 0x233 => resV w (.vscan (guardOf w) (vOf w))
  | 0x240 => resV w (.vcvt (guardOf w) (vOf w))
  | 0x241 => resV w (.vpack (guardOf w) (vOf w))
  | 0x242 => resV w (.vwiden (guardOf w) (vOf w))
  | 0x243 => resV w (.vunpack3 (guardOf w) (vOf w))
  | 0x244 => resV w (.vsparse24 (guardOf w) (vOf w))
  | 0x245 => resV w (.vexpand24 (guardOf w) (vOf w))
  | 0x246 => resV w (.vdot4 (guardOf w) (vOf w))
  | 0x247 => resV w (.vtacc (guardOf w) (vOf w))
  | 0x248 => resV w (.vquant (guardOf w) (vOf w))
  | 0x249 => resV w (.vdeq (guardOf w) (vOf w))
  | 0x250 => resV w (.vrcp (guardOf w) (vOf w))
  | 0x251 => resV w (.vrsq (guardOf w) (vOf w))
  | 0x252 => resV w (.vexp2 (guardOf w) (vOf w))
  | 0x253 => resV w (.vlog2 (guardOf w) (vOf w))
  | 0x260 => resV w (.mand (guardOf w) (vOf w))
  | 0x261 => resV w (.mor (guardOf w) (vOf w))
  | 0x262 => resV w (.mxor (guardOf w) (vOf w))
  | 0x263 => resV w (.mnot (guardOf w) (vOf w))
  | 0x264 => resV w (.mpop (guardOf w) (vOf w))
  | 0x265 => resV w (.mfirst (guardOf w) (vOf w))
  | 0x266 => resV w (.mmov (guardOf w) (vOf w))
  | 0x400 => resM w (.ld (guardOf w) (mOf w))
  | 0x401 => resM w (.st (guardOf w) (mOf w))
  | 0x402 => resM w (.lda (guardOf w) (mOf w))
  | 0x403 => resM w (.strel (guardOf w) (mOf w))
  | 0x404 => resM w (.ldc (guardOf w) (mOf w))
  | 0x405 => resM w (.ldp (guardOf w) (mOf w))
  | 0x406 => resM w (.stp (guardOf w) (mOf w))
  | 0x407 => resM w (.pref (guardOf w) (mOf w))
  | 0x408 => resM w (.fence (guardOf w) (mOf w))
  | 0x409 => resM w (.flush (guardOf w) (mOf w))
  | 0x40A => resM w (.pin (guardOf w) (mOf w))
  | 0x40B => resM w (.unpin (guardOf w) (mOf w))
  | 0x410 => resM w (.amo (guardOf w) (mOf w))
  | 0x411 => resM w (.cas (guardOf w) (mOf w))
  | 0x412 => resM w (.cas2 (guardOf w) (mOf w))
  | 0x480 => resM w (.vld (guardOf w) (mOf w))
  | 0x481 => resM w (.vst (guardOf w) (mOf w))
  | 0x482 => resM w (.vlds (guardOf w) (mOf w))
  | 0x483 => resM w (.vsts (guardOf w) (mOf w))
  | 0x484 => resM w (.vgather (guardOf w) (mOf w))
  | 0x485 => resM w (.vscatter (guardOf w) (mOf w))
  | 0x486 => resM w (.vldb (guardOf w) (mOf w))
  | 0x500 => resR w (.sync (guardOf w) (rOf w))
  | 0x501 => resR w (.vote (guardOf w) (rOf w))
  | 0x502 => resR w (.bara (guardOf w) (rOf w))
  | 0x503 => resR w (.barw (guardOf w) (rOf w))
  | 0x504 => resR w (.domset (guardOf w) (rOf w))
  | 0x510 => resE w (.send (guardOf w) (eOf w))
  | 0x511 => resR w (.recv (guardOf w) (rOf w))
  | 0x512 => resR w (.peek (guardOf w) (rOf w))
  | 0x513 => resR w (.waita (guardOf w) (rOf w))
  | 0x514 => resR w (.wake (guardOf w) (rOf w))
  | 0x520 => resR w (.walk (guardOf w) (rOf w))
  | 0x521 => resR w (.tend (guardOf w) (rOf w))
  | 0x522 => resR w (.taskadd (guardOf w) (rOf w))
  | 0x523 => resR w (.spawn (guardOf w) (rOf w))
  | 0x524 => resR w (.yield (guardOf w) (rOf w))
  | 0x525 => resR w (.exit (guardOf w) (rOf w))
  | 0x580 => resE w (.mloadw (guardOf w) (eOf w))
  | 0x581 => resE w (.mswap (guardOf w) (eOf w))
  | 0x582 => resE w (.mstream (guardOf w) (eOf w))
  | 0x583 => resE w (.mzero (guardOf w) (eOf w))
  | 0x584 => resE w (.accrd (guardOf w) (eOf w))
  | 0x585 => resE w (.accwr (guardOf w) (eOf w))
  | 0x586 => resR w (.mstat (guardOf w) (rOf w))
  | 0x590 => resE w (.cpy (guardOf w) (eOf w))
  | 0x591 => resE w (.cpy2 (guardOf w) (eOf w))
  | 0x592 => resE w (.cpyr (guardOf w) (eOf w))
  | 0x593 => resE w (.coll (guardOf w) (eOf w))
  | 0x594 => resE w (.ecode (guardOf w) (eOf w))
  | 0x595 => resE w (.ckpt (guardOf w) (eOf w))
  | 0x596 => resE w (.migr (guardOf w) (eOf w))
  | 0x5A0 => resR w (.gset (guardOf w) (rOf w))
  | 0x5A1 => resR w (.cbatch (guardOf w) (rOf w))
  | 0x5A2 => resR w (.waitb (guardOf w) (rOf w))
  | 0x5A3 => resE w (.engq (guardOf w) (eOf w))
  | 0x600 => resR w (.trap (guardOf w) (rOf w))
  | 0x601 => resR w (.eret (guardOf w) (rOf w))
  | 0x602 => resR w (.brk (guardOf w) (rOf w))
  | 0x603 => resR w (.csrrd (guardOf w) (rOf w))
  | 0x604 => resR w (.csrwr (guardOf w) (rOf w))
  | 0x605 => resR w (.csrset (guardOf w) (rOf w))
  | 0x606 => resR w (.csrclr (guardOf w) (rOf w))
  | 0x607 => resR w (.ifence (guardOf w) (rOf w))
  | 0x608 => resR w (.dlog (guardOf w) (rOf w))
  | 0x609 => resR w (.resume (guardOf w) (rOf w))
  | 0x610 => resR w (.cdopen (guardOf w) (rOf w))
  | 0x611 => resR w (.cdpres (guardOf w) (rOf w))
  | 0x612 => resR w (.cdout (guardOf w) (rOf w))
  | 0x613 => resR w (.cdclose (guardOf w) (rOf w))
  | 0x614 => resR w (.cdfail (guardOf w) (rOf w))
  | 0x615 => resR w (.rbegin (guardOf w) (rOf w))
  | 0x616 => resR w (.rcommit (guardOf w) (rOf w))
  | _ => none

/-- Decoding (R38): an assigned opcode, reserved bits zero, every field within the limits of its entry. -/
def decode (w : CellWord) : Option Instr :=
  match byOpcode (opcOf w) w with
  | some i => if i.wf then some i else none
  | none => none

/-- The words for `decodeTableWord` and for a cell: bit 0 is the least significant bit of the cell's first byte. -/
def decodeTableWord (_nbits w : Nat) : Option Instr := decode (BitVec.ofNat 96 w)

/-! ### Encoding -/

/-- The cell of a scalar register form. -/
def encR (op : BitVec 11) (g : Guard) (f : RForm) : CellWord :=
  BitVec.ofBool g.sw ++ BitVec.ofBool g.pn ++ g.pg ++ op ++ f.d ++ f.a ++ f.b ++ f.c ++ BitVec.ofNat 4 (tyCode f.ty) ++
    BitVec.ofBool f.i ++ f.sub ++ f.imm

/-- The cell of a vector register form. -/
def encV (op : BitVec 11) (g : Guard) (f : VForm) : CellWord :=
  BitVec.ofBool g.sw ++ BitVec.ofBool g.pn ++ g.pg ++ op ++ f.d ++ f.a ++ f.b ++ f.c ++ BitVec.ofNat 4 (tyCode f.ty) ++
    BitVec.ofBool f.i ++ f.sub ++ BitVec.ofBool f.zm ++ 0#1 ++ f.mask ++ f.vimm

/-- The cell of a memory form. -/
def encM (op : BitVec 11) (g : Guard) (f : MForm) : CellWord :=
  BitVec.ofBool g.sw ++ BitVec.ofBool g.pn ++ g.pg ++ op ++ f.d ++ f.a ++ f.b ++ f.c ++ BitVec.ofNat 4 (tyCode f.ty) ++
    f.scale ++ BitVec.ofBool f.idx ++ 0#1 ++ BitVec.ofBool f.zm ++ 0#1 ++ f.mask ++ f.scope ++ f.ext ++ f.off

/-- The cell of a branch form. -/
def encB (op : BitVec 11) (g : Guard) (f : BForm) : CellWord :=
  BitVec.ofBool g.sw ++ BitVec.ofBool g.pn ++ g.pg ++ op ++ f.d ++ f.a ++ f.b ++ f.c ++ 0#8 ++ f.disp ++ f.cell

/-- The cell of an engine form. -/
def encE (op : BitVec 11) (g : Guard) (f : EForm) : CellWord :=
  BitVec.ofBool g.sw ++ BitVec.ofBool g.pn ++ g.pg ++ op ++ f.d ++ f.a ++ f.b ++ f.c ++ BitVec.ofNat 4 (tyCode f.ty) ++
    BitVec.ofBool f.g ++ f.sub ++ 0#16 ++ f.epa

/-- The cell of an instruction (R29-R40); a machine event has none. -/
def encode (i : Instr) : Option CellWord :=
  match i with
  | .nop g f => some (encR 0x001#11 g f)
  | .add g f => some (encR 0x010#11 g f)
  | .sub g f => some (encR 0x011#11 g f)
  | .mul g f => some (encR 0x012#11 g f)
  | .mulh g f => some (encR 0x013#11 g f)
  | .madd g f => some (encR 0x014#11 g f)
  | .div g f => some (encR 0x015#11 g f)
  | .rem g f => some (encR 0x016#11 g f)
  | .abs g f => some (encR 0x017#11 g f)
  | .min g f => some (encR 0x018#11 g f)
  | .max g f => some (encR 0x019#11 g f)
  | .and g f => some (encR 0x020#11 g f)
  | .or g f => some (encR 0x021#11 g f)
  | .xor g f => some (encR 0x022#11 g f)
  | .andn g f => some (encR 0x023#11 g f)
  | .orn g f => some (encR 0x024#11 g f)
  | .shl g f => some (encR 0x025#11 g f)
  | .shr g f => some (encR 0x026#11 g f)
  | .sar g f => some (encR 0x027#11 g f)
  | .rot g f => some (encR 0x028#11 g f)
  | .clz g f => some (encR 0x029#11 g f)
  | .ctz g f => some (encR 0x02A#11 g f)
  | .popc g f => some (encR 0x02B#11 g f)
  | .brev g f => some (encR 0x02C#11 g f)
  | .bswap g f => some (encR 0x02D#11 g f)
  | .mov g f => some (encR 0x030#11 g f)
  | .movi g f => some (encR 0x031#11 g f)
  | .movhi g f => some (encR 0x032#11 g f)
  | .sel g f => some (encR 0x033#11 g f)
  | .ext g f => some (encR 0x034#11 g f)
  | .bfx g f => some (encR 0x035#11 g f)
  | .bfi g f => some (encR 0x036#11 g f)
  | .lea g f => some (encR 0x037#11 g f)
  | .cmp g f => some (encR 0x038#11 g f)
  | .test g f => some (encR 0x039#11 g f)
  | .addc g f => some (encR 0x03A#11 g f)
  | .pand g f => some (encR 0x100#11 g f)
  | .por g f => some (encR 0x101#11 g f)
  | .pxor g f => some (encR 0x102#11 g f)
  | .pset g f => some (encR 0x103#11 g f)
  | .pget g f => some (encR 0x104#11 g f)
  | .br g f => some (encB 0x110#11 g f)
  | .bri g f => some (encR 0x111#11 g f)
  | .call g f => some (encB 0x112#11 g f)
  | .calli g f => some (encR 0x113#11 g f)
  | .ret g f => some (encR 0x114#11 g f)
  | .loop g f => some (encB 0x115#11 g f)
  | .fadd g f => some (encR 0x180#11 g f)
  | .fsub g f => some (encR 0x181#11 g f)
  | .fmul g f => some (encR 0x182#11 g f)
  | .ffma g f => some (encR 0x183#11 g f)
  | .fdiv g f => some (encR 0x184#11 g f)
  | .fsqrt g f => some (encR 0x185#11 g f)
  | .fmin g f => some (encR 0x186#11 g f)
  | .fmax g f => some (encR 0x187#11 g f)
  | .fcmp g f => some (encR 0x188#11 g f)
  | .fclass g f => some (encR 0x189#11 g f)
  | .fcvt g f => some (encR 0x18A#11 g f)
  | .fcvti g f => some (encR 0x18B#11 g f)
  | .icvtf g f => some (encR 0x18C#11 g f)
  | .frcp g f => some (encR 0x18D#11 g f)
  | .frsq g f => some (encR 0x18E#11 g f)
  | .fexp2 g f => some (encR 0x18F#11 g f)
  | .flog2 g f => some (encR 0x190#11 g f)
  | .fsgn g f => some (encR 0x191#11 g f)
  | .vadd g f => some (encV 0x200#11 g f)
  | .vsub g f => some (encV 0x201#11 g f)
  | .vmul g f => some (encV 0x202#11 g f)
  | .vmulh g f => some (encV 0x203#11 g f)
  | .vfma g f => some (encV 0x204#11 g f)
  | .vdiv g f => some (encV 0x205#11 g f)
  | .vsqrt g f => some (encV 0x206#11 g f)
  | .vmin g f => some (encV 0x207#11 g f)
  | .vmax g f => some (encV 0x208#11 g f)
  | .vabs g f => some (encV 0x209#11 g f)
  | .vsgn g f => some (encV 0x20A#11 g f)
  | .vadds g f => some (encV 0x20B#11 g f)
  | .vsubs g f => some (encV 0x20C#11 g f)
  | .vand g f => some (encV 0x210#11 g f)
  | .vor g f => some (encV 0x211#11 g f)
  | .vxor g f => some (encV 0x212#11 g f)
  | .vandn g f => some (encV 0x213#11 g f)
  | .vshl g f => some (encV 0x214#11 g f)
  | .vshr g f => some (encV 0x215#11 g f)
  | .vsar g f => some (encV 0x216#11 g f)
  | .vpopc g f => some (encV 0x217#11 g f)
  | .vcmp g f => some (encV 0x220#11 g f)
  | .vsel g f => some (encV 0x221#11 g f)
  | .vbcast g f => some (encV 0x222#11 g f)
  | .vext g f => some (encV 0x223#11 g f)
  | .vins g f => some (encV 0x224#11 g f)
  | .vperm g f => some (encV 0x225#11 g f)
  | .vrot g f => some (encV 0x226#11 g f)
  | .vmovi g f => some (encV 0x227#11 g f)
  | .vredsum g f => some (encV 0x230#11 g f)
  | .vredmin g f => some (encV 0x231#11 g f)
  | .vredmax g f => some (encV 0x232#11 g f)
  | .vscan g f => some (encV 0x233#11 g f)
  | .vcvt g f => some (encV 0x240#11 g f)
  | .vpack g f => some (encV 0x241#11 g f)
  | .vwiden g f => some (encV 0x242#11 g f)
  | .vunpack3 g f => some (encV 0x243#11 g f)
  | .vsparse24 g f => some (encV 0x244#11 g f)
  | .vexpand24 g f => some (encV 0x245#11 g f)
  | .vdot4 g f => some (encV 0x246#11 g f)
  | .vtacc g f => some (encV 0x247#11 g f)
  | .vquant g f => some (encV 0x248#11 g f)
  | .vdeq g f => some (encV 0x249#11 g f)
  | .vrcp g f => some (encV 0x250#11 g f)
  | .vrsq g f => some (encV 0x251#11 g f)
  | .vexp2 g f => some (encV 0x252#11 g f)
  | .vlog2 g f => some (encV 0x253#11 g f)
  | .mand g f => some (encV 0x260#11 g f)
  | .mor g f => some (encV 0x261#11 g f)
  | .mxor g f => some (encV 0x262#11 g f)
  | .mnot g f => some (encV 0x263#11 g f)
  | .mpop g f => some (encV 0x264#11 g f)
  | .mfirst g f => some (encV 0x265#11 g f)
  | .mmov g f => some (encV 0x266#11 g f)
  | .ld g f => some (encM 0x400#11 g f)
  | .st g f => some (encM 0x401#11 g f)
  | .lda g f => some (encM 0x402#11 g f)
  | .strel g f => some (encM 0x403#11 g f)
  | .ldc g f => some (encM 0x404#11 g f)
  | .ldp g f => some (encM 0x405#11 g f)
  | .stp g f => some (encM 0x406#11 g f)
  | .pref g f => some (encM 0x407#11 g f)
  | .fence g f => some (encM 0x408#11 g f)
  | .flush g f => some (encM 0x409#11 g f)
  | .pin g f => some (encM 0x40A#11 g f)
  | .unpin g f => some (encM 0x40B#11 g f)
  | .amo g f => some (encM 0x410#11 g f)
  | .cas g f => some (encM 0x411#11 g f)
  | .cas2 g f => some (encM 0x412#11 g f)
  | .vld g f => some (encM 0x480#11 g f)
  | .vst g f => some (encM 0x481#11 g f)
  | .vlds g f => some (encM 0x482#11 g f)
  | .vsts g f => some (encM 0x483#11 g f)
  | .vgather g f => some (encM 0x484#11 g f)
  | .vscatter g f => some (encM 0x485#11 g f)
  | .vldb g f => some (encM 0x486#11 g f)
  | .sync g f => some (encR 0x500#11 g f)
  | .vote g f => some (encR 0x501#11 g f)
  | .bara g f => some (encR 0x502#11 g f)
  | .barw g f => some (encR 0x503#11 g f)
  | .domset g f => some (encR 0x504#11 g f)
  | .send g f => some (encE 0x510#11 g f)
  | .recv g f => some (encR 0x511#11 g f)
  | .peek g f => some (encR 0x512#11 g f)
  | .waita g f => some (encR 0x513#11 g f)
  | .wake g f => some (encR 0x514#11 g f)
  | .walk g f => some (encR 0x520#11 g f)
  | .tend g f => some (encR 0x521#11 g f)
  | .taskadd g f => some (encR 0x522#11 g f)
  | .spawn g f => some (encR 0x523#11 g f)
  | .yield g f => some (encR 0x524#11 g f)
  | .exit g f => some (encR 0x525#11 g f)
  | .mloadw g f => some (encE 0x580#11 g f)
  | .mswap g f => some (encE 0x581#11 g f)
  | .mstream g f => some (encE 0x582#11 g f)
  | .mzero g f => some (encE 0x583#11 g f)
  | .accrd g f => some (encE 0x584#11 g f)
  | .accwr g f => some (encE 0x585#11 g f)
  | .mstat g f => some (encR 0x586#11 g f)
  | .cpy g f => some (encE 0x590#11 g f)
  | .cpy2 g f => some (encE 0x591#11 g f)
  | .cpyr g f => some (encE 0x592#11 g f)
  | .coll g f => some (encE 0x593#11 g f)
  | .ecode g f => some (encE 0x594#11 g f)
  | .ckpt g f => some (encE 0x595#11 g f)
  | .migr g f => some (encE 0x596#11 g f)
  | .gset g f => some (encR 0x5A0#11 g f)
  | .cbatch g f => some (encR 0x5A1#11 g f)
  | .waitb g f => some (encR 0x5A2#11 g f)
  | .engq g f => some (encE 0x5A3#11 g f)
  | .trap g f => some (encR 0x600#11 g f)
  | .eret g f => some (encR 0x601#11 g f)
  | .brk g f => some (encR 0x602#11 g f)
  | .csrrd g f => some (encR 0x603#11 g f)
  | .csrwr g f => some (encR 0x604#11 g f)
  | .csrset g f => some (encR 0x605#11 g f)
  | .csrclr g f => some (encR 0x606#11 g f)
  | .ifence g f => some (encR 0x607#11 g f)
  | .dlog g f => some (encR 0x608#11 g f)
  | .resume g f => some (encR 0x609#11 g f)
  | .cdopen g f => some (encR 0x610#11 g f)
  | .cdpres g f => some (encR 0x611#11 g f)
  | .cdout g f => some (encR 0x612#11 g f)
  | .cdclose g f => some (encR 0x613#11 g f)
  | .cdfail g f => some (encR 0x614#11 g f)
  | .rbegin g f => some (encR 0x615#11 g f)
  | .rcommit g f => some (encR 0x616#11 g f)
  | .deferredResultReturn _ _ _ => none
  | .deferredFailure _ => none
  | .faultDelivery _ => none
  | .localTrapEntry _ => none
  | .resumeDelivery _ => none
  | .cdRollback _ => none
  | .contextSwapOut _ => none
  | .pageMadeResident _ _ => none
  | .contextRestore _ _ => none
  | .storeBufferDrain _ => none
  | .farStoreDrain _ _ _ => none
  | .logMerge _ _ => none
  | .messageArrival _ => none
  | .spillRingMove _ => none
  | .wakeDelivery _ => none
  | .walkTaskDispatch _ _ => none
  | .queuedTaskDispatch _ => none
  | .footprintWriteOut _ => none
  | .syncDomainComplete _ _ _ _ => none
  | .exchangeComplete _ _ _ _ _ => none
  | .syncTimeout _ => none
  | .barrierRelease _ _ => none
  | .launchUnitPass _ => none
  | .launchEntry _ => none
  | .launchEnd _ => none
  | .patienceExpiry _ _ => none
  | .drainBoundaryHold _ _ => none
  | .drainLimitExpiry _ => none
  | .saveComplete _ _ => none
  | .saveLimitExpiry _ => none
  | .launchRestore _ => none
  | .checkpointRestart _ => none
  | .engineCommandArrival _ => none
  | .crierWindowExpiry _ => none
  | .commandCompletion _ => none
  | .engineWatchdogExpiry _ => none
  | .mloadwRun _ => none
  | .mswapRun _ => none
  | .mstreamTileStep _ _ => none
  | .mzeroTileStep _ => none
  | .accrdTileStep _ => none
  | .accwrTileStep _ => none
  | .mstatQueryRun _ => none
  | .scrubberRead _ _ => none
  | .millSubarrayGating _ _ => none
  | .cpyRun _ _ => none
  | .cpy2Run _ _ => none
  | .cpyrRun _ _ => none
  | .collRun _ _ => none
  | .ecodeRun _ => none
  | .ckptCutBoundary _ => none
  | .ckptPageCopy _ _ => none
  | .ckptCommit _ => none
  | .ckptRestoreRun _ => none
  | .migrRun _ => none
  | .engqQueryRun _ => none
  | .engqDrainComplete _ => none
  | .einjResultArm _ _ => none
  | .einjStoreSingleFlip _ _ => none
  | .einjStoreDoubleFlip _ _ => none
  | .einjAccumulatorArm _ _ => none
  | .accumulatorFlip _ => none
  | .logRegisterWrite _ _ _ => none
  | .spillbaseWrite _ _ => none
  | .mflgposClear _ => none
  | .pageTableChange _ _ _ => none
  | .thresholdMigration _ => none
  | .transientRequest _ _ _ _ => none
  | .tokenAttemptTimeout _ _ => none
  | .persistentRequest _ _ _ => none
  | .persistentActivation _ => none
  | .persistentDeactivation _ => none
  | .lineEviction _ _ => none
  | .dieFailureDeclared _ _ => none
  | .tokenRecoveryComplete _ => none
  | .spareTakeover _ _ _ _ => none
  | .dieEvacuation _ _ => none
  | .evacuationTimeout _ _ => none
  | .tierDieLoss _ _ => none
  | .linkDeadDeclared _ _ _ => none
  | .routeTableRewrite _ => none
  | .fabricChannelDead _ _ _ => none
  | .remoteAccessArrival _ _ => none
  | .leaseGrant _ _ _ => none
  | .leaseRenewal _ _ _ => none
  | .leaseExpiry _ _ => none
  | .reclaim _ _ _ => none
  | .release _ _ => none
  | .reclaimDeadline _ _ _ => none
  | .windowRevocation _ _ => none
  | .rowRebuild _ _ => none
  | .rdmaWrite _ _ => none
  | .rdmaRead _ => none
  | .compareSwap _ _ _ => none
  | .fetchAdd _ _ => none
  | .diagnosisRepeat _ _ _ _ => none
  | .ackSilenceTimeout _ _ => none
  | .voterTimeout _ _ => none
  | .moduleFailureDeclared _ => none
  | .capabilityFault _ _ => none
  | .bootStep _ _ _ => none
  | .tamperAlarm _ => none
  | .thermalThrottle _ _ => none
  | .throttleRelease _ _ => none
  | .thermalStop _ _ => none
  | .moduleReset _ => none
  | .debugHalt _ => none
  | .debugContinue _ => none
  | .debugGroupHalt _ => none
  | .boundaryDump _ => none
  | .forcedDump _ _ => none
  | .counterSnapshot _ => none
  | .hostWindowWrite _ _ _ => none
  | .queueRegistration _ _ _ _ _ _ _ => none
  | .preemptionRequest _ => none
  | .controlledReset _ _ => none
  | .hbm4eStackLoss _ _ => none
  | .bitFlip _ => none
  | .serviceProcessorFailure _ _ => none
  | .hostConnectionFailure _ _ => none
  | .unsupportedHostRequest _ _ => none

end Sys2Proof
end

