-- ==== Sys2Proof/Machine/Engine.lean ====
section
/-!
DEFINITION. The engine and mill instructions at issue (R236-R238, R244-R245, R252, R259-R277): checks of the EPA and
the command block, sending a command, guards and batches.
-/

namespace Sys2Proof.Machine

/-- The EPA an engine form names: the immediate, or a register when it is 0 (R37). -/
def eEpa (x : Slot) (f : EForm) : BitVec 32 := if f.epa = 0 then (sGet x f.c).extractLsb' 0 32 else f.epa

/-- The command block: `n` registers from A up (R37, R238). -/
def eBlock (x : Slot) (f : EForm) (n : Nat) : List Word := (List.range n).map (fun i => sGet x (f.a + BitVec.ofNat 6 i))

/-- The pending registers of a command: status, EPA register, block (R19). -/
def usesE (f : EForm) (n : Nat) : List Use :=
  .ds f.d :: .s f.c :: (List.range n).map (fun i => .s (f.a + BitVec.ofNat 6 i))

/-- The EPA breaks R237 for an engine of type `ty`; `peer` when the command names a peer module (R270). -/
def epaBadEngine (w : SlotRef) (supv : Bool) (ty : Nat) (peer : Bool) (e : BitVec 32) : Bool :=
  let d := epaDie e
  let h := epaHam e
  let cs := epaCore e = 0 && epaSlot e = 0
  epaType e != ty || e.extractLsb' 0 5 != 0#5 || (decide (4 ≤ ty) && !supv) ||
  (if peer then !epaPv e || epaPeer e = w.m else epaPv e || epaPeer e != 0) ||
  !(match ty with
    | 1 => (d = 31 || d = w.d) && h = w.c / 8 && epaCore e = w.c % 8 && epaSlot e = 0
    | 2 => cs && (if d ≤ 15 || d = 31 then h = 0 else decide (16 ≤ d) && decide (d ≤ 29) && decide (h ≤ 3))
    | 3 => cs && h = 0 && (decide (d ≤ 15) || d = 31)
    | 4 => cs && h = 0 && d = 31
    | 5 | 6 => cs && h = 0 && (d = 28 || d = 29)
    | _ => false)

/-- Header fields (R238). -/
def hdrCtl (b : List Word) : Nat := (b.getD 0 0).toNat % 2 ^ 16
def hdrTag (b : List Word) : BitVec 16 := (b.getD 0 0).extractLsb' 48 16

/-- Bits [hi:lo] of a block word. -/
def bf (b : List Word) (i hi lo : Nat) : Nat := (b.getD i 0).toNat / 2 ^ lo % 2 ^ (hi + 1 - lo)

/-- K of a weight format (R252). -/
def planeK : Ty → Nat
  | .bf16 | .f16 => 128
  | .e4m3 | .e5m2 | .g8 => 256
  | .g4 => 512
  | _ => 0

/-- The pairs of R252. -/
def pairOk (wt act : Ty) : Bool :=
  match wt, act with
  | .bf16, .bf16 | .f16, .f16 | .g8, .g8 | .g4, .g8 => true
  | .e4m3, .e4m3 | .e4m3, .e5m2 | .e5m2, .e4m3 | .e5m2, .e5m2 => true
  | _, _ => false

/-- A grouped type. -/
def isGrouped (t : Ty) : Bool := t = .g8 || t = .g4

/-- Group size of GS (R65). -/
def groupSize (gs : Nat) : Nat := 32 * 2 ^ gs

/-- Bytes of a row of `n` elements. -/
def rowBytes (t : Ty) (n : Nat) : Nat := (n * tyBits t + 7) / 8

/-- Bytes from the first byte of row 0 to the last of row `rows - 1`. -/
def spanRows (rows pitch len : Nat) : Nat := if rows = 0 then 0 else (rows - 1) * pitch + len

/-- The first of the listed word checks that fails, as its index (R260 step 3). -/
def firstFail (cs : List (Nat × Bool)) : Option Nat := (cs.find? (fun c => !c.2)).map (·.1)

/-- A completion word address (R268): 0, or 8-aligned in one region. -/
def cwOk (a : Word) : Bool := a = 0 || (a.toNat % 8 = 0 && oneRegion a 8)

/-- Block checks of MLOADW (R262). -/
def chkMloadw (t : Ty) (b : List Word) : Option Nat :=
  let gs := bf b 0 1 0
  let ncol := bf b 3 47 41 + 1
  let nk := bf b 3 40 32 + 1
  let pitch := bf b 3 31 0
  let recs := ncol * ceilDiv nk (groupSize gs) * 4
  firstFail [(0, hdrCtl b < 4 && (if isGrouped t then decide (gs < 3) else gs = 0)),
    (1, oneRegion (b.getD 1 0) (spanRows nk pitch (rowBytes t ncol))),
    (2, if isGrouped t then (b.getD 2 0).toNat % 4 = 0 && oneRegion (b.getD 2 0) recs else b.getD 2 0 = 0),
    (3, bf b 3 63 48 = 0 && decide (nk ≤ planeK t) && decide (rowBytes t ncol ≤ pitch))]

/-- Block checks of MSTREAM (R264) for a tracked weight format. Where that and TYPE form no pair the limit K of NKA is taken as 512,
so that the FORMAT of R252 follows: R264 names no K there (DESIGN CHOICE, log 30). -/
def chkMstream (t wt : Ty) (b : List Word) : Option Nat :=
  let gs := bf b 0 10 9
  let nka := bf b 0 8 0 + 1
  let row0 := bf b 2 52 42
  let n := bf b 2 41 32 + 1
  let pitch := bf b 2 31 0
  let k := if pairOk wt t then planeK wt else 512
  firstFail [(0, bf b 0 15 11 = 0 && (if isGrouped t then decide (gs < 3) else gs = 0) && decide (nka ≤ k)),
    (1, oneRegion (b.getD 1 0) (spanRows n pitch (rowBytes t nka))),
    (2, bf b 2 63 53 = 0 && decide (row0 + n ≤ 2048)),
    (3, if isGrouped t then (b.getD 3 0).toNat % 4 = 0 &&
          oneRegion (b.getD 3 0) (n * ceilDiv nka (groupSize gs) * 4) else b.getD 3 0 = 0)]

/-- Block checks of MZERO (R265). -/
def chkMzero (auto : Bool) (b : List Word) : Option Nat :=
  firstFail [(0, hdrCtl b = 0), (1, bf b 1 63 26 = 0 && (!auto || bf b 1 25 16 = 0))]

/-- Element size of ACCRD and ACCWR (R266). -/
def accSize (t : Ty) : Nat := if t = .s64 then 8 else tyBytes t

/-- Block checks of ACCRD and ACCWR (R266). -/
def chkAcc (t : Ty) (b : List Word) : Option Nat :=
  let sz := accSize t
  let n := bf b 2 53 43 + 1
  let ncol := bf b 3 14 8 + 1
  firstFail [(0, hdrCtl b = 0),
    (1, (b.getD 1 0).toNat % sz = 0 && oneRegion (b.getD 1 0) (spanRows n (bf b 2 31 0) (ncol * sz))),
    (2, bf b 2 63 54 = 0 && decide (bf b 2 42 32 + n ≤ 2048) && bf b 2 31 0 % sz = 0),
    (3, bf b 3 63 15 = 0 && bf b 3 7 7 = 0 && decide (bf b 3 6 0 + ncol ≤ 128))]

/-- Block checks of CPY and CPYR (R268, R270). -/
def chkCpy (b : List Word) : Option Nat :=
  let n := bf b 3 31 0
  firstFail [(0, hdrCtl b = 0), (1, oneRegion (b.getD 1 0) n), (2, oneRegion (b.getD 2 0) n),
    (3, bf b 3 63 32 = 0 && n != 0), (4, cwOk (b.getD 4 0))]

/-- Block checks of CPY2 (R269). -/
def chkCpy2 (b : List Word) : Option Nat :=
  let rows := bf b 3 63 32
  let len := bf b 3 31 0
  firstFail [(0, bf b 0 15 3 = 0 && bf b 0 2 0 != 7),
    (1, oneRegion (b.getD 1 0) (spanRows rows (bf b 4 31 0) len)),
    (2, oneRegion (b.getD 2 0) (spanRows rows (bf b 4 63 32) len)),
    (3, rows != 0 && len != 0 && decide (len ≤ 2 ^ 20)), (4, decide (len ≤ bf b 4 63 32)), (5, cwOk (b.getD 5 0))]

/-- Block checks of COLL (R271): `nlev` of the launch, `m` members of the domain. -/
def chkColl (t : Ty) (sub nlev m : Nat) (b : List Word) : Option Nat :=
  let n := bf b 3 31 0
  let w := tyBytes t
  let red := decide (sub ≤ 1)
  let rop := bf b 0 4 3
  let fsum := red && rop = 0 && !tyIsInt t
  let out := if sub = 1 then n / max m 1 else if sub = 2 then m * n else n
  firstFail [
    (0, bf b 0 15 5 = 0 && (if red then decide (rop < 3) else rop = 0) &&
        (bf b 0 2 2 = 0 || (red && rop = 0 && tyIsInt t)) && decide (bf b 0 1 0 ≤ nlev)),
    (1, oneRegion (b.getD 1 0) (n * w)), (2, oneRegion (b.getD 2 0) (out * w)),
    (3, bf b 3 63 42 = 0 && (fsum || bf b 3 41 32 = 0) && n != 0),
    (4, bf b 4 63 32 = 0 && (sub = 3 || bf b 4 31 0 = 0))]

/-- Block checks of ECODE (R272). -/
def chkEcode (upd : Bool) (b : List Word) : Option Nat :=
  let len := bf b 3 31 0
  let kd := bf b 3 41 39 + 1
  let mp := bf b 3 43 42 + 1
  let ss := bf b 4 31 0
  let ds := bf b 4 63 32
  firstFail [(0, hdrCtl b = 0), (1, oneRegion (b.getD 1 0) (if upd then len else spanRows kd ss len)),
    (2, oneRegion (b.getD 2 0) (spanRows mp ds len)),
    (3, bf b 3 63 47 = 0 && bf b 3 38 32 = 0 && len != 0 && (if upd then decide (bf b 3 46 44 < kd) else bf b 3 46 44 = 0)),
    (5, oneRegion (b.getD 5 0) (mp * kd)), (6, if upd then oneRegion (b.getD 6 0) len else b.getD 6 0 = 0)]

/-- Block checks of CKPT (R273). -/
def chkCkpt (b : List Word) : Option Nat :=
  firstFail [(0, hdrCtl b = 0), (1, (b.getD 1 0).toNat % 64 = 0 && oneRegion (b.getD 1 0) 64), (2, bf b 2 63 31 = 0)]

/-- Block checks of MIGR (R274). -/
def chkMigr (b : List Word) : Option Nat :=
  let va := b.getD 1 0
  let n := bf b 2 31 0
  firstFail [(0, hdrCtl b = 0),
    (1, va.toNat % 65536 = 0 && (regionOf va.toNat = some 1 || regionOf va.toNat = some 2) && oneRegion va (n * 65536)),
    (2, bf b 2 63 48 = 0 && n != 0 && (regionOf va.toNat != some 2 || bf b 2 47 32 = 0)),
    (3, bf b 3 63 2 = 0 && bf b 3 1 0 != 3)]

/-- A header-only block: MSWAP, ENGQ (R263, R277). -/
def chkHeader (b : List Word) : Option Nat := firstFail [(0, hdrCtl b = 0)]

/-- The row ranges of a two-dimensional destination. -/
def rowRanges (a : Word) (rows pitch len : Nat) : List (Word × Nat) :=
  (List.range rows).map (fun i => (a + BitVec.ofNat 64 (i * pitch), len))

/-- What a command writes for its slot: destination ranges and completion word (R294). -/
def cmdWrites (op : CmdOp) (t : Ty) (sub m : Nat) (b : List Word) : List (Word × Nat) :=
  let cw := fun i : Nat => if b.getD i 0 = 0 then [] else [(b.getD i 0, 8)]
  match op with
  | .accrd => rowRanges (b.getD 1 0) (bf b 2 53 43 + 1) (bf b 2 31 0) ((bf b 3 14 8 + 1) * accSize t)
  | .cpy | .cpyr => (b.getD 2 0, bf b 3 31 0) :: cw 4
  | .cpy2 => rowRanges (b.getD 2 0) (bf b 3 63 32) (bf b 4 63 32) (bf b 3 31 0) ++ cw 5
  | .coll =>
    let n := bf b 3 31 0
    [(b.getD 2 0, (if sub = 1 then n / max m 1 else if sub = 2 then m * n else n) * tyBytes t)]
  | .ecode => rowRanges (b.getD 2 0) (bf b 3 43 42 + 1) (bf b 4 63 32) (bf b 3 31 0)
  | _ => []

/-- The launch record of the slot's core, if it has a launch. -/
def recOf (s : State) (w : SlotRef) : Option Rec := (launchOf s w).bind (fun l => (launchAt s l).map (·.record))

/-- MX and MY of a record (R134). -/
def meshDim (r : Rec) : Nat × Nat := (r.rw * r.dgx, r.rh * (r.dies.length / max r.dgx 1))

/-- The core at a mesh position of a launch (R134), present or not. -/
def coreAtMesh (m : Nat) (r : Rec) (x y : Nat) : CoreRef :=
  let d := r.dies.getD (y / max r.rh 1 * r.dgx + x / max r.rw 1) 0
  let cx := r.rx + x % max r.rw 1
  let cy := r.ry + y % max r.rh 1
  -- logical hamlet and core at a die position (R133)
  ⟨m, d, 8 * (cx / 4 + 8 * (cy / 2)) + (4 * (cy % 2) + cx % 4)⟩

/-- Corner and size of a level's domain around a mesh position (R137). -/
def domainAt (r : Rec) (k x y : Nat) : Nat × Nat × Nat × Nat :=
  let d := if k = 0 then meshDim r else r.doms.getD (k - 1) (1, 1)
  (x / max d.1 1 * d.1, y / max d.2 1 * d.2, d.1, d.2)

/-- The present cores of a rectangle of the mesh in row-major order (R137, R148, R271). -/
def coresIn (s : State) (m : Nat) (r : Rec) (q : Nat × Nat × Nat × Nat) : List CoreRef :=
  (((List.range q.2.2.2).map (fun j => (List.range q.2.2.1).map (fun i => coreAtMesh m r (q.1 + i) (q.2.1 + j)))).flatten).filter
    (fun c => corePresent (modAt s m) c.d c.c)

/-- The present cores of the domain of a slot's core at a level. -/
def domCores (s : State) (w : SlotRef) (k : Nat) : List CoreRef :=
  match recOf s w with
  | none => [coreRefOf w]
  | some r => coresIn s w.m r (domainAt r k (coreOf s w).ident.x (coreOf s w).ident.y)

/-- Sends a command (R238): it joins the open batch (R245) and its status is outstanding (R240). -/
def sendCmd (s : State) (op : CmdOp) (t : Ty) (sub : Nat) (g : Option Nat) (d : RegIx) (e : BitVec 32) (b : List Word)
    (num : Nat) : State :=
  let w := s.cur
  let x := curSlot s
  let c := coreOf s w
  let i := freshId s
  let j := freshId i.2
  let cmd : Cmd :=
  { id := i.1, w := w, ctx := none, op := op, ty := t, sub := sub, g := g, epa := e, blk := b,
    asid := c.ident.asid, pkey := x.csr.pkey, supv := x.supv, launch := c.launch, dst := d, st := .net, group := 0,
    guardVal := none, prog := 0, count := 0, res := false, ovf := false, zrep := false, code := 0, failVa := 0,
    answer := 0, num := num, frame := x.frames.head?.map (·.uid), remote := (x.frames.find? (·.remote)).map (·.uid),
    dropped := false, suspended := false, buf := [] }
  let s1 := setCoreOf { j.2 with cmds := j.2.cmds ++ [cmd] } w { c with openB := c.openB ++ [i.1] }
  addOut s1 ⟨j.1, x.pc, .cmd i.1 none, [], sDst d, [], none, x.csr.pkey, x.supv⟩

/-- TRAPVAL of a failed block check (R260). -/
def blockVal (i : Nat) : Word := BitVec.ofNat 64 (2 ^ 32 + i)

/-- A command instruction after the EPA check (R260 steps 2 and 3): the notify EPA, then the block, then what `last`
still refuses, then confinement; then it is sent. -/
def command (f : EForm) (op : CmdOp) (ty n : Nat) (peer : Bool) (chk : List Word → Option Nat)
    (last : State → List Word → Option (Cause × Word)) (upd : Core → Core) (num m : Nat) (s : State) : Eff :=
  let w := s.cur
  let x := curSlot s
  let e := eEpa x f
  let b := eBlock x f n
  if epaBadEngine w x.supv ty peer e then .fault .engineCmd (e.zeroExtend 64)
  else if hdrNotify b != 0 && epaBadSend (hdrNotify b) then .fault .engineCmd (blockVal 0)
  else match chk b with
    | some i => .fault .engineCmd (blockVal i)
    | none =>
      match last s b with
      | some (c, v) => .fault c v
      | none =>
        match confine w x (cmdWrites op f.ty f.sub.toNat m b) with
        | some v => .fault .containment v
        | none =>
          let s1 := sendCmd s op f.ty f.sub.toNat (if f.g then some f.b.toNat else none) f.d e b num
          .done (setCoreOf s1 w (upd (coreOf s1 w)))

/-- No further check. -/
def noLast (_ : State) (_ : List Word) : Option (Cause × Word) := none

/-- A command without a tracked effect. -/
def plainCmd (g : Guard) (f : EForm) (op : CmdOp) (ty n : Nat) (peer : Bool) (chk : List Word → Option Nat) (s : State) :
    Out_ :=
  issue g (usesE f n) true (command f op ty n peer chk noLast id 0 0) s

/-- MLOADW (R262): the core tracks the shadow format (R252). -/
def execMloadw (g : Guard) (f : EForm) (s : State) : Out_ :=
  issue g (usesE f 4) true
    (command f .mloadw 1 4 false (chkMloadw f.ty) noLast (fun c => { c with shFmt := f.ty }) 0 0) s

/-- MSWAP (R263): the tracked formats change places. -/
def execMswap (g : Guard) (f : EForm) (s : State) : Out_ :=
  issue g (usesE f 1) true
    (command f .mswap 1 1 false chkHeader noLast (fun c => { c with actFmt := c.shFmt, shFmt := c.actFmt }) 0 0) s

/-- The format check of MSTREAM (R252, R260 step 4). -/
def chkPair (t : Ty) (s : State) (_ : List Word) : Option (Cause × Word) :=
  let wt := (coreOf s s.cur).actFmt
  if pairOk wt t then none else some (.format, BitVec.ofNat 64 (tyCode t + 16 * tyCode wt))

/-- MSTREAM (R264). -/
def execMstream (g : Guard) (f : EForm) (s : State) : Out_ :=
  issue g (usesE f 4) true
    (fun s => command f .mstream 1 4 false (chkMstream f.ty (coreOf s s.cur).actFmt) (chkPair f.ty) id 0 0 s) s
    (fun s => let b := eBlock (curSlot s) f 4; [.box 2 (bf b 2 52 42) (bf b 2 41 32 + 1) 0 128])

/-- MZERO (R265). -/
def execMzero (g : Guard) (f : EForm) (s : State) : Out_ := plainCmd g f .mzero 1 2 false (chkMzero (f.sub = 1)) s

/-- The entries an ACCRD or ACCWR touches, for the box watchpoints (R320). -/
def accBox (kind : Nat) (f : EForm) (s : State) : List Acc :=
  let b := eBlock (curSlot s) f 4
  [.box kind (bf b 2 42 32) (bf b 2 53 43 + 1) (bf b 3 6 0) (bf b 3 14 8 + 1)]

/-- ACCRD (R266). -/
def execAccrd (g : Guard) (f : EForm) (s : State) : Out_ :=
  issue g (usesE f 4) true (command f .accrd 1 4 false (chkAcc f.ty) noLast id 0 0) s (accBox 0 f)

/-- ACCWR (R266). -/
def execAccwr (g : Guard) (f : EForm) (s : State) : Out_ :=
  issue g (usesE f 4) true (command f .accwr 1 4 false (chkAcc f.ty) noLast id 0 0) s (accBox 1 f)

/-- CPY (R268). -/
def execCpy (g : Guard) (f : EForm) (s : State) : Out_ := plainCmd g f .cpy 2 6 false chkCpy s

/-- CPY2 (R269). -/
def execCpy2 (g : Guard) (f : EForm) (s : State) : Out_ := plainCmd g f .cpy2 2 7 false chkCpy2 s

/-- CPYR (R270). -/
def execCpyr (g : Guard) (f : EForm) (s : State) : Out_ := plainCmd g f .cpyr 2 6 true chkCpy s

/-- COLL (R271): the n-th collective of its core at its level; the count stands with the core. One is counted when it issues, also one
whose GSET discards it later: R249 does not say (DESIGN CHOICE, log 30). -/
def execColl (g : Guard) (f : EForm) (s : State) : Out_ :=
  issue g (usesE f 5) true (fun s =>
    let b := eBlock (curSlot s) f 5
    let k := bf b 0 1 0
    let m := (domCores s s.cur k).length
    let nlev := match recOf s s.cur with | some r => r.nlev | none => 0
    let n := (tget (coreOf s s.cur).arrived 0 (32 + k)).toNat
    command f .coll 3 5 false (chkColl f.ty f.sub.toNat nlev m) noLast
      (fun c => { c with arrived := tput c.arrived (32 + k) (BitVec.ofNat 64 (n + 1)) }) n m s) s

/-- ECODE (R272). -/
def execEcode (g : Guard) (f : EForm) (s : State) : Out_ := plainCmd g f .ecode 2 7 false (chkEcode (f.sub = 1)) s

/-- CKPT (R273). -/
def execCkpt (g : Guard) (f : EForm) (s : State) : Out_ := plainCmd g f .ckpt 6 3 false chkCkpt s

/-- MIGR (R274). -/
def execMigr (g : Guard) (f : EForm) (s : State) : Out_ := plainCmd g f .migr 5 4 false chkMigr s

/-- ENGQ (R277): any engine type of 1 to 6. -/
def execEngq (g : Guard) (f : EForm) (s : State) : Out_ :=
  issue g (usesE f 1) true (fun s =>
    let t := epaType (eEpa (curSlot s) f)
    command f .engq (if 1 ≤ t && t ≤ 6 then t else 16) 1 false chkHeader noLast id 0 0 s) s

/-- MSTAT (R267): a query in the core's mill queue, with no batch and no status word. -/
def mstatBody (f : RForm) (s : State) : Eff :=
  let w := s.cur
  let x := curSlot s
  let c := coreOf s w
  let i := freshId s
  let j := freshId i.2
  let cmd : Cmd :=
  { id := i.1, w := w, ctx := none, op := .mstat, ty := .s8, sub := f.sub.toNat, g := none, epa := 0,
    blk := [f.imm.zeroExtend 64], asid := c.ident.asid, pkey := 0, supv := x.supv, launch := c.launch, dst := f.d,
    st := .net, group := 0, guardVal := none, prog := 0, count := 0, res := false, ovf := false, zrep := false,
    code := 0, failVa := 0, answer := 0, num := 0, frame := none, remote := none, dropped := false, suspended := false, buf := [] }
  .done (addOut { j.2 with cmds := j.2.cmds ++ [cmd] } ⟨j.1, x.pc, .cmd i.1 none, [], sDst f.d, [], none,
    x.csr.pkey, x.supv⟩)

/-- MSTAT (R267). -/
def execMstat (g : Guard) (f : RForm) (s : State) : Out_ := issue g [.ds f.d] true (mstatBody f) s

/-- GSET (R275): resolves the core's unresolved commands on the guard slot; one that its engine holds and that resolves false is
discarded (R244). -/
def gsetBody (f : RForm) (s : State) : Eff :=
  let v := pGet (curSlot s) f.a.toNat != f.sub.getLsbD 0
  let me := coreRefOf s.cur
  .done { s with cmds := s.cmds.map (fun c =>
    if coreRefOf c.w = me && c.g = some f.b.toNat && c.guardVal.isNone && c.st != .done then
      (if v || c.st = .net then { c with guardVal := some v } else { c with guardVal := some v, st := .done, code := 1 })
    else c) }

/-- GSET (R275). -/
def execGset (g : Guard) (f : RForm) (s : State) : Out_ := issue g [] false (gsetBody f) s

/-- Closes the core's open batch (R245); none when that would close a 17th. -/
def closeBatch (c : Core) : Option Core :=
  if c.openB.isEmpty then some c
  else if 16 ≤ c.closed.length then none
  else some { c with closed := c.closed ++ [c.openB], openB := [] }

/-- CBATCH (R245, R276). -/
def cbatchBody (s : State) : Eff :=
  match closeBatch (coreOf s s.cur) with
  | none => .stall s
  | some c => .done (setCoreOf s s.cur c)

/-- CBATCH (R276). -/
def execCbatch (g : Guard) (_f : RForm) (s : State) : Out_ := issue g [] false cbatchBody s

/-- WAITB (R245, R276): closes the open batch, then parks until at most n closed batches are outstanding. -/
def waitbBody (f : RForm) (s : State) : Eff :=
  match closeBatch (coreOf s s.cur) with
  | none => .stall s
  | some c =>
    let n := opAI (curSlot s) f
    let s := setCoreOf s s.cur c
    if c.closed.length ≤ n.toNat then .done s else .park s (.waitb n)

/-- WAITB (R276). -/
def execWaitb (g : Guard) (f : RForm) (s : State) : Out_ := issue g [.s f.a] false (waitbBody f) s

end Sys2Proof.Machine
end

