-- ==== Sys2Proof/Machine/Start.lean ====
section
/-!
DEFINITION. Starting slots (R8, R135, R14), loads that an instruction makes while it stalls, barrier arrivals (R148, R168),
and messages to slots (R149-R151, R171).
-/

namespace Sys2Proof.Machine

/-- A slot as it starts (R8, R135): registers zero, the mode of its launch, `CDLIMIT` from the launch's policy (R300). Its own CSRs
(`FFLG`, `FENA`, `FRM`, `MODEW`, `TERNIDX`, `PKEY`, `TRAP*`, `EINJ`) take their Reset values at every start, by SPAWN and by task
dispatch too: R4 names only module reset and launch start (DESIGN CHOICE, log 39). -/
def newSlot (s : State) (w : SlotRef) (pc : Word) : Slot :=
  let l := (coreOf s w).launch.bind (launchAt s)
  { Slot.reset with
    st := .ready, pc := pc, supv := (match l with | some l => l.supv | none => false),
    trap := { TrapRegs.reset with limit := (cdpolOf s w).extractLsb' 0 4 } }

/-- A slot started with what its mechanism sets; a start PC that fails the checks of R14 is reported in it, TRAPPC and
TRAPVAL both the target. -/
def startSlot (s : State) (w : SlotRef) (x : Slot) : State :=
  let s1 := setSlot s w x
  let s2 := fixFetch s1 w x.pc
  match checkTarget s1 w x.pc with
  | none => s2
  | some c => raiseStop s2 w ⟨c, x.pc, x.pc, x.pc, false, false, .none, none⟩

/-- The lowest FREE slot of a core. -/
def freeSlotOf (s : State) (c : CoreRef) : Option SlotRef := (slotsOf c).find? (fun w => (slotAt s w).st = .free)

/-! ### Loads made while an instruction stalls (WALK, CDPRES) -/

/-- What such a read answers: the words, a failure at an address, an absent page, or not yet. -/
inductive Got where
  | ok (s : State) (ws : List Word)
  | fail (c : Cause) (a : Word)
  | absent (p : PageRef) (a : Word)
  | wait

/-- One 8-byte load of a slot, performed at once. -/
def loadNow (s : State) (w : SlotRef) (va : Word) : Got :=
  let u : AccUnit := ⟨va, 8, 0, none⟩
  if addrBad (coreOf s w).ident.asid va then .fail .access va
  else if !accessFree s w (slotAt s w).outs w.k s.nextId (unitNear s w u) u then .wait
  else if inLocal va then
    if !localFree s w [u] then .wait
    else match localRead s w va 8 false with
    | none => .fail .poison va
    | some (v, s') => .ok s' [BitVec.ofNat 64 v]
  else match perfRead s (whoOf s w) va 8 with
    | .ok s' v =>
      let r := forward s w s.nextId va 8 v
      .ok (observe s' w r.2) [BitVec.ofNat 64 r.1]
    | .fail c => .fail c va
    | .absent p => .absent p va
    | .wait => .wait

/-- `n` words from `va` up. -/
def loadWords (s : State) (w : SlotRef) (va : Word) (n : Nat) : Got :=
  match n with
  | 0 => .ok s []
  | k + 1 =>
    match loadNow s w va with
    | .ok s' ws =>
      (match loadWords s' w (va + 8) k with
       | .ok s'' r => .ok s'' (ws ++ r)
       | g => g)
    | g => g

/-! ### Barriers -/

/-- The rectangle of barrier `b` of a launch contains mesh position (x, y). -/
def barHolds (r : Rec) (b x y : Nat) : Bool :=
  match r.bars[b]? with
  | none => false
  | some q => decide (b < r.nbar) && decide (q.1 ≤ x) && decide (x < q.1 + q.2.2.1) && decide (q.2.1 ≤ y) &&
      decide (y < q.2.1 + q.2.2.2)

/-- The barrier of a slot's launch, when the slot's core is a member (R143 code 2). -/
def barOf (s : State) (w : SlotRef) (b : Nat) : Option (LaunchRef × Launch × Bar) :=
  match launchOf s w with
  | none => none
  | some l =>
    match launchAt s l with
    | none => none
    | some x =>
      let i := (coreOf s w).ident
      if barHolds x.record b i.x i.y then some (l, x, tget x.bars Bar.reset b) else none

/-- An arrival sent: counted for the unreleased phase or the next (R148). -/
def countArrival (s : State) (w : SlotRef) (a : Arrival) : State :=
  match barOf s w a.b with
  | none => s
  | some (l, x, b) =>
    let b' := if a.n = b.r + 1 then { b with c0 := b.c0 + 1 } else { b with c1 := b.c1 + 1 }
    setLaunch s l { x with bars := tput x.bars a.b b' }

/-- Sends the arrivals of a core whose earlier accesses are done (R168). -/
def settleArrivals (s : State) (c : CoreRef) : State :=
  let w := slotOf c 0
  let p := (coreAt s c).arrivals.partition (fun a => orderMet s w true a.after)
  if p.1.isEmpty then s
  else p.1.foldl (fun s a => countArrival s w a) (setCore s c { coreAt s c with arrivals := p.2 })

/-! ### Messages -/

/-- The destination slot of an entry (R149). -/
def entrySlot (e : VWord) : Nat := (e.extractLsb' 40 2).toNat

/-- An entry that a slot may claim: addressed to it and not bound to a swapped context (R171, R197). -/
def entryFor (k : Nat) (e : InEntry) : Bool := e.bound.isNone && entrySlot e.raw = k

/-- The first entry of the inbox for a slot, and the inbox without it. -/
def takeEntry (k : Nat) (l : List InEntry) : Option (VWord × List InEntry) :=
  match l.findIdx? (entryFor k) with
  | none => none
  | some i => match l[i]? with | none => none | some e => some (e.raw, dropAt l i)

/-- A RECV that has claimed nothing yet. -/
def waitingRecv (o : Out) : Bool := match o.kind with | .recv none => true | _ => false

/-- A RECV that was saved with its context leaves the inbox's other entries while the ring holds some that are bound to the context,
unless the full inbox keeps them there (R197). -/
def leavesRest (s : State) (w : SlotRef) (o : Out) : Bool :=
  let c := coreOf s w
  match (slotAt s w).bindId with
  | some i => decide (o.id < i) && c.spill.bound.contains (some i) && decide (c.inbox.length < 64)
  | none => false

/-- The oldest waiting RECV of a slot claims the oldest entry for it (R171). -/
def claimEntry (s : State) (w : SlotRef) : State :=
  let x := slotAt s w
  let c := coreOf s w
  match x.outs.find? waitingRecv, takeEntry w.k c.inbox with
  | some o, some (e, rest) =>
    if leavesRest s w o then s else putOut (setCoreOf s w { c with inbox := rest }) w { o with kind := .recv (some e) }
  | _, _ => s

/-- A slot index that an EPA names for an issuer, die 31 resolved (R236). -/
def epaFixed (w : SlotRef) (e : BitVec 32) : BitVec 32 := epaOf (epaTarget w e) false

end Sys2Proof.Machine
end

