-- ==== Sys2Proof/Machine/Parallel.lean ====
section
/-!
DEFINITION. The parallel, synchronisation and message instructions (R164-R180).
-/

namespace Sys2Proof.Machine

/-- CONTAINMENT_VIOLATION of kind 5 (R294). -/
def viol5 : Word := violation 5 0

/-- BARRIER codes that SYNC meets (R143): 3 and 4; when both hold the spec does not say which is reported (log 6). -/
def syncCode (s : State) (w : SlotRef) : Option Nat :=
  let x := slotAt s w
  let lv := (coreOf s w).level
  let c3 := (slotsOf (coreRefOf w)).any (fun v => v.k != w.k &&
    (match (slotAt s v).st with | .parked (.sync k) _ => k != lv | _ => false))
  let c4 := x.task != .none
  if c3 && c4 then some (3 + Config.freePick s.clk % 2) else if c3 then some 3 else if c4 then some 4 else none

/-- SYNC (R165). -/
def syncBody (s : State) : Eff :=
  let w := s.cur
  if kind5 (curSlot s) then .fault .containment viol5
  else match syncCode s w with
    | some c => .fault .barrier (BitVec.ofNat 64 c)
    | none =>
      match closeBatch (coreOf s w) with
      | none => .stall s
      | some c => .park (setCoreOf s w c) (.sync c.level)

/-- SYNC (R165). -/
def execSync (g : Guard) (_f : RForm) (s : State) : Out_ := issue g [] false syncBody s

/-- VOTE (R166). -/
def voteBody (f : RForm) (s : State) : Eff :=
  let v := (opAI (curSlot s) f).extractLsb' 0 16
  let c := coreOf s s.cur
  .done (setCoreOf s s.cur { c with corvote := c.corvote ||| v, candvote := c.candvote &&& v })

/-- VOTE (R166). -/
def execVote (g : Guard) (f : RForm) (s : State) : Out_ := issue g [.s f.a] false (voteBody f) s

/-- Number of the finest sync level of the slot's launch (R137). -/
def nlevOf (s : State) (w : SlotRef) : Nat := match recOf s w with | some r => r.nlev | none => 0

/-- A write of `DOMMEM`.LEVEL (R141, R167). -/
def setLevel (s : State) (w : SlotRef) (l : Nat) : State :=
  if l ≤ nlevOf s w then setCoreOf s w { coreOf s w with level := l } else s

/-- DOMSET (R167). -/
def domsetBody (f : RForm) (s : State) : Eff :=
  let w := s.cur
  let old := BitVec.ofNat 64 (coreOf s w).level
  let l := (opAI (curSlot s) f).toNat
  .done (withCur (setLevel s w l) (fun x => sPut x f.d old))

/-- DOMSET (R167). -/
def execDomset (g : Guard) (f : RForm) (s : State) : Out_ := issue g [.s f.a, .ds f.d] false (domsetBody f) s

/-- BARA (R148, R168). -/
def baraBody (f : RForm) (s : State) : Eff :=
  let w := s.cur
  let b := f.a.toNat
  if kind5 (curSlot s) then .fault .containment viol5
  else match barOf s w b with
    | none => .fault .barrier 2
    | some (_, _, bar) =>
      let c := coreOf s w
      let n := (tget c.arrived 0 b).toNat + 1
      if bar.r + 3 ≤ n then .fault .barrier 1
      else
        let a : Arrival := ⟨b, n, releaseAfter s w 3⟩
        let s1 := setCoreOf s w { c with arrived := tput c.arrived b (BitVec.ofNat 64 n), arrivals := c.arrivals ++ [a] }
        .done (withCur (settleArrivals s1 (coreRefOf w)) (fun x => sPut x f.d (BitVec.ofNat 64 n)))

/-- BARA (R168). -/
def execBara (g : Guard) (f : RForm) (s : State) : Out_ := issue g [.ds f.d] false (baraBody f) s

/-- BARW (R169). -/
def barwBody (f : RForm) (s : State) : Eff :=
  let w := s.cur
  let b := f.a.toNat
  let n := opB (curSlot s) f
  match barOf s w b with
  | none => .fault .barrier 2
  | some (_, _, bar) => if n.toNat ≤ bar.r then .done s else .park s (.barrier b n)

/-- BARW (R169). -/
def execBarw (g : Guard) (f : RForm) (s : State) : Out_ := issue g [.s f.b] false (barwBody f) s

/-- SEND (R170): the message leaves; its status is outstanding. -/
def sendBody (f : EForm) (s : State) : Eff :=
  let w := s.cur
  let x := curSlot s
  let e := eEpa x f
  if epaBadSend e then .fault .engineCmd (e.zeroExtend 64)
  else
    let n := f.sub.toNat + 1
    let raw := mkEntry (epaOf w (epaMod w.m e != w.m)) 0 (epaSlot e) (eBlock x f n)
    let i := freshId s
    let msg : Msg := ⟨w, epaMod w.m e, e, raw, (coreOf s w).launch, !x.supv, .send w i.1, none⟩
    .done (addOut { i.2 with net := i.2.net ++ [msg] }
      ⟨i.1, x.pc, .send none, [], sDst f.d, [], none, x.csr.pkey, x.supv⟩)

/-- SEND (R170). -/
def execSend (g : Guard) (f : EForm) (s : State) : Out_ := issue g (usesE f (f.sub.toNat + 1)) true (sendBody f) s

/-- RECV (R171). -/
def recvBody (f : RForm) (s : State) : Eff :=
  let x := curSlot s
  let i := freshId s
  .done (claimEntry (addOut i.2 ⟨i.1, x.pc, .recv none, [], .vreg f.d, [], none, x.csr.pkey, x.supv⟩) s.cur)

/-- RECV (R171). -/
def execRecv (g : Guard) (f : RForm) (s : State) : Out_ := issue g [.dv f.d] true (recvBody f) s

/-- PEEK (R172). -/
def peekVal (s : State) (w : SlotRef) : Word :=
  let c := coreOf s w
  let es := c.inbox.filter (entryFor w.k)
  let kind := match es with | e :: _ => entryKind e.raw | [] => 255
  BitVec.ofNat 64 (es.length + (if c.spill.bound.isEmpty then 0 else 2 ^ 7) + kind * 2 ^ 8)

/-- PEEK (R172). -/
def execPeek (g : Guard) (f : RForm) (s : State) : Out_ :=
  issue g [.ds f.d] false (fun s => .done (withCur s (fun x => sPut x f.d (peekVal s s.cur)))) s

/-- WAITA (R173): its first comparison is a near load of the slot, in order with its others (R209). -/
def waitaBody (f : RForm) (s : State) : Eff :=
  let w := s.cur
  let x := curSlot s
  let a := sGet x f.a
  let v := opB x f
  if 0x100000 ≤ a.toNat then .fault .access a
  else if a.toNat % 8 != 0 then .fault .dataAlign a
  else if !localFree s w [⟨a, 8, 0, none⟩] then .stall s
  else match localRead s w a 8 false with
    | none => .fault .poison a
    | some (n, s') =>
      let now : Word := BitVec.ofNat 64 n
      if now != v || x.pendingWake then .done (withCur s' (fun x => sPut { x with pendingWake := false } f.d now))
      else .park s' (.waita a v f.d)

/-- WAITA (R173). -/
def execWaita (g : Guard) (f : RForm) (s : State) : Out_ :=
  issue g [.s f.a, .s f.b, .ds f.d] false (waitaBody f) s
  (fun s => [.load (sGet (curSlot s) f.a) 8])

/-- WAKE (R174). -/
def wakeBody (f : RForm) (s : State) : Eff :=
  let w := s.cur
  let x := curSlot s
  let e := (sGet x f.a).extractLsb' 0 32
  if epaBadSend e || epaPv e then .fault .engineCmd (e.zeroExtend 64)
  else .done { s with wakes := s.wakes ++ [⟨w.m, epaFixed w e, (coreOf s w).launch, x.supv, 0, 0⟩] }

/-- WAKE (R174). -/
def execWake (g : Guard) (f : RForm) (s : State) : Out_ := issue g [.s f.a] false (wakeBody f) s

/-! ### Walks -/

/-- Bytes [o, o + n) of a list of words as a number. -/
def bytesAt (ws : List Word) (o n : Nat) : Nat := (ws.getD (o / 8) 0).toNat / 256 ^ (o % 8) % 256 ^ n

/-- Footprint `i` of a descriptor (R154). -/
def readFp (ws : List Word) (i : Nat) : Footprint :=
  let o := 0x40 + 48 * i
  ⟨BitVec.ofNat 64 (bytesAt ws o 8), (List.range 4).map (fun k => sintOf 32 (bytesAt ws (o + 8 + 4 * k) 4)),
   bytesAt ws (o + 0x18) 4, bytesAt ws (o + 0x1C) 4, bytesAt ws (o + 0x20) 4, bytesAt ws (o + 0x24) 4,
   bytesAt ws (o + 0x28) 1, bytesAt ws (o + 0x29) 1, bytesAt ws (o + 0x2A) 2⟩

/-- The buffers of the footprints of MODE 1-3, as LOCAL ranges. -/
def walkBuffers (fps : List Footprint) : List (Nat × Nat) :=
  ((fps.filter (fun f => f.mode != 0)).map (fun f =>
    (List.range f.nbuf).map (fun b => (f.dest + b * 64 * f.bufstride, f.rows * f.rowlen)))).flatten

/-- No two ranges of the list overlap. An empty range shares no byte with another, so it overlaps none: R136 and R154 do not say so
of an empty one (DEDUCED, log 39). -/
def disjoint (l : List (Nat × Nat)) : Bool :=
  match l with
  | [] => true
  | a :: r => !r.any (fun b => a.2 != 0 && b.2 != 0 && overlaps a b) && disjoint r

/-- The legal values of a footprint below NFP (R154). -/
def fpOk (ws : List Word) (i : Nat) : Bool :=
  let f := readFp ws i
  f.dest % 64 = 0 && f.rowlen % 8 = 0 && decide (1 ≤ f.rows) && decide (f.rowlen ≤ f.pitch) && decide (f.mode ≤ 3) &&
    decide (1 ≤ f.nbuf) && decide (f.nbuf ≤ 4) && bytesAt ws (0x40 + 48 * i + 0x2C) 4 = 0

/-- A footprint at or above NFP is all zero. -/
def fpZero (ws : List Word) (i : Nat) : Bool := (List.range 6).all (fun j => ws.getD (8 + 6 * i + j) 0 = 0)

/-- A walk descriptor read from its 32 words, or none when it is ill-formed (R154). -/
def readWalk (ws : List Word) (pkey : BitVec 32) : Option Walk :=
  let body : Word := BitVec.ofNat 64 (bytesAt ws 0 4)
  let nd := bytesAt ws 4 1
  let nf := bytesAt ws 5 1
  let d := fun k => bytesAt ws (8 + 4 * k) 4
  let t := fun k => bytesAt ws (0x18 + 4 * k) 4
  let fps := (List.range nf).map (readFp ws)
  let dimsOk := (List.range 4).all (fun k => if k < nd then d k != 0 && t k != 0 else d k = 0 && t k = 0)
  let bufs := walkBuffers fps
  if (checkPc body).isNone && decide (1 ≤ nd) && decide (nd ≤ 4) && decide (nf ≤ 4) && bytesAt ws 6 2 = 0 && dimsOk &&
      ws.getD 5 0 = 0 && ws.getD 6 0 = 0 && ws.getD 7 0 = 0 &&
      (List.range 4).all (fun i => if i < nf then fpOk ws i else fpZero ws i) &&
      bufs.all (fun b => decide (b.1 + b.2 ≤ 0x100000)) && disjoint bufs then
    some ⟨body, (List.range nd).map d, (List.range nd).map t, fps, pkey, [], [], 0⟩
  else none

/-- WALK (R175). -/
def walkBody (f : RForm) (s : State) : Eff :=
  let w := s.cur
  let x := curSlot s
  let a := sGet x f.a
  let ans := fun (s : State) (v : Word) => Eff.done (withCur s (fun x => sPut x f.d v))
  if kind5 x then .fault .containment viol5
  else match checkEa (coreOf s w).ident.asid a 64 with
    | some c => .fault c a
    | none =>
      if (coreOf s w).walk.isSome then ans s 1
      else match loadWords s w a 32 with
        | .fail c v => .faultIn (failSeen s (whoOf s w) v) c v none
        | .absent p v =>
          if roomGone s w p then .faultIn (withCur s (fun x => { x with waitFor := none })) .residency v none
          else .stay (withCur (askFor s w p) (fun x => { x with swapReq := p :: x.swapReq }))
        | .wait => .stall s
        | .ok s' ws =>
          match readWalk ws x.csr.pkey with
          | none => .fault .format a
          | some k => ans (setCoreOf s' w { coreOf s' w with walk := some k }) 0

/-- The access of WALK for the watchpoints: the load of its descriptor (R175, R320). -/
def walkAccs (f : RForm) (s : State) : List Acc :=
  if (coreOf s s.cur).walk.isSome then [] else [.load (sGet (curSlot s) f.a) 256]

/-- WALK (R175). -/
def execWalk (g : Guard) (f : RForm) (s : State) : Out_ := issue g [.s f.a, .ds f.d] false (walkBody f) s (walkAccs f)

/-! ### Slots and tasks -/

/-- TASKADD (R156, R176). -/
def taskaddBody (f : RForm) (s : State) : Eff :=
  let w := s.cur
  let x := curSlot s
  let c := coreOf s w
  if kind5 x then .fault .containment viol5
  else if 32 ≤ c.tasks.length then .done (withCur s (fun x => sPut x f.d 1))
  else
    let q : QTask := ⟨sGet x f.a, sGet x f.b, sGet x f.c, BitVec.ofNat 32 c.taskCount⟩
    .done (withCur (setCoreOf s w { c with tasks := c.tasks ++ [q], taskCount := c.taskCount + 1 }) (fun x => sPut x f.d 0))

/-- TASKADD (R176). -/
def execTaskadd (g : Guard) (f : RForm) (s : State) : Out_ := issue g (usesR f) false (taskaddBody f) s

/-- SPAWN (R178). -/
def spawnBody (f : RForm) (s : State) : Eff :=
  let w := s.cur
  let x := curSlot s
  if kind5 x then .fault .containment viol5
  else match freeSlotOf s (coreRefOf w) with
    | none => .done (withCur s (fun x => sPut x f.d (BitVec.allOnes 64)))
    | some v =>
      let s1 := withCur s (fun x => sPut x f.d (BitVec.ofNat 64 v.k))
      .done (startSlot s1 v (sPut (newSlot s1 v (sGet x f.a)) 1 (sGet x f.b)))

/-- SPAWN (R178). -/
def execSpawn (g : Guard) (f : RForm) (s : State) : Out_ := issue g [.s f.a, .s f.b, .ds f.d] false (spawnBody f) s

/-- YIELD (R179): no architectural effect; the arbiter passes over the slot. -/
def execYield (g : Guard) (_f : RForm) (s : State) : Out_ :=
  issue g [] false (fun s => .done (withCur s (fun x => { x with yielded := some [] }))) s

/-- The slot of an ending instruction has nothing outstanding any more: a held failure is reported, and with none left it becomes
FREE, but for the write-out of a walked task (R155, R177). -/
def slotEnd (s : State) (w : SlotRef) : State :=
  let x := slotAt s w
  match x.st with
  | .ending tend =>
    if !x.outs.isEmpty || x.stop.isSome then s
    else if !x.held.isEmpty then reportHeld s w
    else match x.task with
      | .walked .. => if tend then s else freeSlot s w
      | _ => freeSlot s w
  | _ => s

/-- EXIT and TEND (R177): RECVs are withdrawn, and the slot ends once its other results have returned. -/
def endBody (tend : Bool) (s : State) : Eff :=
  let w := s.cur
  if kind5 (curSlot s) then .fault .containment viol5
  else .stay (slotEnd (withCur (withdraw s w) (fun x => { x with st := .ending tend })) w)

/-- EXIT (R177). -/
def execExit (g : Guard) (_f : RForm) (s : State) : Out_ := issue g [] false (endBody false) s

/-- TEND (R177). -/
def execTend (g : Guard) (_f : RForm) (s : State) : Out_ := issue g [] false (endBody true) s

end Sys2Proof.Machine
end

