-- ==== Sys2Proof/Machine/Csr.lean ====
section
/-!
DEFINITION. The CSRs (R9, R141, R151, R193, R258, R287, R288, R319, R333-R338): what each reads and what a write of it
does (R4, R304), with the dirty-log merge (R203) and the error injections (R290).
-/

namespace Sys2Proof.Machine

/-- Bits [hi:lo] of a word. -/
def fieldOf (x : Word) (hi lo : Nat) : Nat := x.toNat / 2 ^ lo % 2 ^ (hi + 1 - lo)

/-- A bit as a number. -/
def b2n (b : Bool) : Nat := if b then 1 else 0

/-! ### The dirty log -/

/-- The address of the `i`-th oldest entry not yet merged. -/
def logAddr (d : DirtyLog) (i : Nat) : Nat :=
  let n := logSize d
  (d.base.toNat + (d.head.toNat - d.base.toNat + n - d.cnt % n + i) % n) * 8

/-- A merge of one entry: D is set in the leaf of the page it names, resident or not; an entry whose page is not mapped is discarded
(R202). -/
def mergeEntry (s : State) (m : Nat) (e : Nat) : State :=
  let tag := if e.testBit 47 then globalTag else e / 2 ^ 48
  match walkPage s m tag (e % 2 ^ 40 * 65536) with
  | .leaf _ at' | .absent at' => setLeafBits s at' bitD
  | .unmapped => s

/-- Merges the `n` oldest entries of a core's log (R203). A page whose entry is merged counts no longer among those appended last:
its next write appends it again, so that none is missing (R202). -/
def mergeLog (s : State) (c : CoreRef) (n : Nat) : State :=
  let d := (coreAt s c).log
  let k := min n d.cnt
  let s := (List.range k).foldl (fun s i =>
    let r := readFlat s (localFlat c (logAddr d i)) 8
    mergeEntry r.2 c.m r.1) s
  setCore s c { coreAt s c with log := { d with cnt := d.cnt - k, last := d.last.take (d.cnt - k) } }

/-- A write of `DLOGHEAD` or `DLOGLIM`: one that changes a field merges the log and then takes effect (R193, R203). -/
def writeLog (s : State) (c : CoreRef) (lim : Bool) (v : Word) : State :=
  let d := (coreAt s c).log
  let h := if lim then d.head else v.extractLsb' 3 17
  let l := if lim then v.extractLsb' 3 17 else d.lim
  let b := if lim then v.extractLsb' 23 17 else d.base
  if h = d.head && l = d.lim && b = d.base then s
  else
    let s := mergeLog s c d.cnt
    setCore s c { coreAt s c with log := { (coreAt s c).log with head := h, lim := l, base := b } }

/-! ### SPILLBASE, MFLGPOS, EINJ -/

/-- A write of BASE and SIZE of `SPILLBASE` (R151): at once when the ring is empty, else when it next empties. -/
def writeSpill (s : State) (c : CoreRef) (base : BitVec 41) (size : BitVec 3) (lost : Bool) : State :=
  let x := coreAt s c
  let p := x.spill
  let p := { p with lost := p.lost && !lost }
  let p := if p.bound.isEmpty then { p with base := base, size := size, head := 0, next := none }
    else { p with next := if base = p.base && size = p.size then none else some (base, size) }
  setCore s c { x with spill := p }

/-- Clearing VALID clears `MFLGPOS` and re-arms recording (R258). -/
def clearPos (m : MillFlags) : MillFlags := { m with posRow := 0, posCol := 0, posSrc := 0, posValid := false }

/-- `EINJ` as a word. -/
def einjWord (e : Einj) : Word :=
  BitVec.ofNat 64 (e.kind.toNat + b2n e.arm * 2 ^ 3 + e.bit.toNat * 2 ^ 4 + e.row.toNat * 2 ^ 10 + e.col.toNat * 2 ^ 21 +
    e.word.toNat * 2 ^ 28)

/-- The fields of a written `EINJ`: KIND 5-7 writes 0, and ARM stays 0 with KIND 0 (R287). -/
def einjOf (v : Word) : Einj :=
  let k := fieldOf v 2 0
  let k := if k ≤ 4 then k else 0
  ⟨BitVec.ofNat 3 k, v.getLsbD 3 && k != 0, v.extractLsb' 4 6, v.extractLsb' 10 11, v.extractLsb' 21 7, v.extractLsb' 28 17⟩

/-- Flips bits of an ECC word, its check bits left alone (R290, R391). -/
def flipWord (s : State) (i : Nat) (bits : BitVec 64) : State :=
  let e := eccAt s i
  let e := { e with flips := e.flips ^^^ bits }
  { s with ecc := if e = Ecc.reset then tdel s.ecc i else tput s.ecc i e }

/-- Index of a local-store word among the ECC words. -/
def localWord (c : CoreRef) (k : Nat) : Nat := localFlat c 0 / 8 + k

/-- The accumulator flip of KIND 4 enters the core's mill queue after its earlier commands (R290). -/
def enqueueFlip (s : State) (w : SlotRef) (e : Einj) : State :=
  let i := freshId s
  let c := coreOf s w
  let cmd : Cmd :=
  { id := i.1, w := w, ctx := none, op := .accflip, ty := .s8, sub := e.bit.toNat, g := none, epa := 0,
    blk := [e.row.zeroExtend 64, e.col.zeroExtend 64], asid := c.ident.asid, pkey := 0, supv := false, launch := c.launch,
    dst := 0, st := .net, group := 0, guardVal := none, prog := 0, count := 0, res := false, ovf := false, zrep := false,
    code := 0, failVa := 0, answer := 0, num := 0, frame := none, remote := none, dropped := true, suspended := false, buf := [] }
  { i.2 with cmds := i.2.cmds ++ [cmd] }

/-- A write of `EINJ` (R287, R290): KIND 1 stays armed; KIND 2 to 4 are made at the write. -/
def writeEinj (s : State) (w : SlotRef) (v : Word) : State :=
  let e := einjOf v
  let put := fun (s : State) (e : Einj) =>
    setSlot s w { slotAt s w with trap := { (slotAt s w).trap with einj := e } }
  let bit : BitVec 64 := 1#64 <<< e.bit.toNat
  if !e.arm then put s e
  else match e.kind.toNat with
    | 2 => put (flipWord s (localWord (coreRefOf w) e.word.toNat) bit) { e with arm := false }
    | 3 =>
      put (flipWord s (localWord (coreRefOf w) e.word.toNat) (bit ||| (1#64 <<< ((e.bit.toNat + 1) % 64))))
        { e with arm := false }
    | 4 => put (enqueueFlip s w e) { e with arm := false }
    | _ => put s e

/-! ### Reading -/

/-- `DIEMAP` (R333). -/
def dieMapWord (d : DieMap) : Word :=
  BitVec.ofNat 64 (d.orig.toNat + d.xs0.toNat * 2 ^ 18 + d.xl0.toNat * 2 ^ 23 + b2n d.xv0 * 2 ^ 27 + d.xs1.toNat * 2 ^ 28 +
    d.xl1.toNat * 2 ^ 33 + b2n d.xv1 * 2 ^ 37 + d.fail.toNat * 2 ^ 38)

/-- `HVMAP` at an index (R336). -/
def hvmapWord (x : Mod) (i : Nat) : Word :=
  let site := i / 8
  let k := i % 8
  if 144 ≤ i then BitVec.allOnes 64
  else if k = 0 then (tget x.hfuse 0 site).zeroExtend 64
  else BitVec.ofNat 64 ((List.range 8).foldl (fun a j => a + (coreFuse x site (8 * (k - 1) + j)).toNat * 2 ^ (8 * j)) 0)

/-- `LPCT` at an index (R337). -/
def lpctWord (x : Mod) (i : Nat) : Word :=
  let k := i / 48
  let h := i % 48
  if 768 ≤ i then BitVec.allOnes 64
  else if !dieMapped x.dmap k then 0
  else
    let site := siteOf x.dmap k
    let ph := physHam x site h
    BitVec.ofNat 64 (ph % 64 + (255 - (coreFuse x site ph).toNat) * 2 ^ 8 + site % 32 * 2 ^ 16 + 2 ^ 21)

/-- `PKGID` (R338). -/
def pkgidWord (x : Mod) (m : Nat) : Word :=
  BitVec.ofNat 64 (m % 32 + m / 4 % 8 * 2 ^ 5 + b2n x.torus * 2 ^ 8 + x.pod.toNat * 2 ^ 16 + x.serial.toNat * 2 ^ 32)

/-- `SSTEP` (R141). -/
def sstepWord (c : Core) : Word :=
  BitVec.ofNat 64 ((List.range 4).foldl (fun a k => a + (tget c.cnt 0 k).toNat * 2 ^ (16 * k)) 0)

/-- Guard slots that a command of the core waits on (R258). -/
def gwait (s : State) (c : CoreRef) : Nat :=
  (List.range 16).foldl (fun a g =>
    a + b2n (s.cmds.any (fun m => coreRefOf m.w = c && m.g = some g && m.guardVal.isNone && m.st != .done)) * 2 ^ g) 0

/-- The read value of a CSR, with RSV and WO fields zero (R4, R304); `i` is the index operand. -/
def csrRead (s : State) (w : SlotRef) (n : Nat) (i : Word) : Word :=
  let x := slotAt s w
  let c := coreOf s w
  let id := c.ident
  let h := hamAt s (hamOf (coreRefOf w))
  let m := modAt s w.m
  let set := fun v : Nat => if id.set then BitVec.ofNat 64 v else (0 : Word)
  match n with
  | 0x001 => x.csr.fflg.zeroExtend 64
  | 0x002 => x.csr.fena.zeroExtend 64
  | 0x003 => x.csr.frm.zeroExtend 64
  | 0x004 => BitVec.ofNat 64 (b2n x.csr.rchk)
  | 0x005 => s.tick
  | 0x006 => BitVec.ofNat 64 (w.k + b2n x.supv * 4)
  | 0x011 => x.csr.ternidx.zeroExtend 64
  | 0x100 => set w.c
  | 0x101 => set (w.c / 8)
  | 0x102 => set w.d
  | 0x103 => BitVec.ofNat 64 (w.m % 32)
  | 0x104 => BitVec.ofNat 64 (id.x % 2 ^ 16 + id.y % 2 ^ 16 * 2 ^ 16)
  | 0x105 => BitVec.ofNat 64 (id.mx % 2 ^ 16 + id.my % 2 ^ 16 * 2 ^ 16)
  | 0x108 => tget id.ext 0 0
  | 0x109 => tget id.ext 0 1
  | 0x10A => tget id.ext 0 2
  | 0x10B => tget id.ext 0 3
  | 0x10C => tget id.org 0 0
  | 0x10D => tget id.org 0 1
  | 0x10E => tget id.org 0 2
  | 0x10F => tget id.org 0 3
  | 0x110 => sstepWord c
  | 0x111 => BitVec.ofNat 64 (c.vor.toNat + c.vand.toNat * 2 ^ 16 + c.vor.toNat % 4 * 2 ^ 32)
  | 0x113 => BitVec.ofNat 64 (c.level % 4)
  | 0x120 => x.csr.taskid.zeroExtend 64
  | 0x121 => (tget x.csr.tidx 0 0).zeroExtend 64
  | 0x122 => (tget x.csr.tidx 0 1).zeroExtend 64
  | 0x123 => (tget x.csr.tidx 0 2).zeroExtend 64
  | 0x124 => (tget x.csr.tidx 0 3).zeroExtend 64
  | 0x200 => id.asid.zeroExtend 64
  | 0x201 => x.csr.pkey.zeroExtend 64
  | 0x202 => BitVec.ofNat 64 (c.log.head.toNat * 8)
  | 0x203 => BitVec.ofNat 64 (c.log.lim.toNat * 8 + c.log.base.toNat * 2 ^ 23 + c.log.cnt % 2 ^ 17 * 2 ^ 40)
  | 0x204 => BitVec.ofNat 64 (c.spill.base.toNat * 2 ^ 16 + b2n c.spill.lost * 8 + c.spill.size.toNat)
  | 0x300 => BitVec.ofNat 64 (48 + 16 * 2 ^ 8 + 8 * 2 ^ 16 + 16 * 2 ^ 24 + 0x1F * 2 ^ 32)
  | 0x301 => h.millwt.zeroExtend 64
  | 0x302 => h.millidle.zeroExtend 64
  | 0x303 => BitVec.ofNat 64 (b2n c.mflg.zrep + b2n c.mflg.ovf * 2 + b2n c.mflg.res * 4)
  | 0x304 => BitVec.ofNat 64 (c.mflg.posRow.toNat + c.mflg.posCol.toNat * 2 ^ 11 + c.mflg.posSrc.toNat * 2 ^ 21 +
      b2n c.mflg.posValid * 2 ^ 63)
  | 0x305 => BitVec.ofNat 64 (min 63 c.openB.length + c.closed.length % 32 * 2 ^ 8 + gwait s (coreRefOf w) * 2 ^ 16)
  | 0x400 => x.trap.vec
  | 0x401 => x.trap.pc
  | 0x402 => BitVec.ofNat 64 (x.trap.cause.toNat + b2n x.trap.defer * 2 ^ 8 + b2n x.trap.esc * 2 ^ 9 +
      b2n x.trap.inh * 2 ^ 10)
  | 0x403 => x.trap.val
  | 0x404 => c.fsup1 ++ c.fsup0
  | 0x405 => BitVec.ofNat 64 (x.frames.length % 16 + (match x.frames with | f :: _ => b2n f.remote * 16 | [] => 0))
  | 0x406 => BitVec.ofNat 64 (x.trap.retry.toNat + x.trap.lastCause.toNat * 2 ^ 16 + x.trap.lastDepth.toNat * 2 ^ 24 +
      (match x.frames with | f :: _ => b2n f.fail.isSome * 2 ^ 28 + f.retries % 2 ^ 16 * 2 ^ 32 | [] => 0))
  | 0x407 => x.trap.limit.zeroExtend 64
  | 0x408 => einjWord x.trap.einj
  | 0x500 => dieMapWord m.dmap
  | 0x501 => hvmapWord m i.toNat
  | 0x502 => lpctWord m i.toNat
  | 0x503 => pkgidWord m w.m
  | 0x504 =>
    (match (launchOf s w).bind (launchAt s) with
     | some l => BitVec.ofNat 64 (min l.rung 3 * 2 ^ 12 + min l.time (2 ^ 18 - 1) * 2 ^ 14 + (tget c.cnt 0 0).toNat * 2 ^ 32)
     | none => BitVec.ofNat 64 ((tget c.cnt 0 0).toNat * 2 ^ 32))
  | n =>
    let q := tget c.watch Watch.reset (n % 4)
    if 0x410 ≤ n && n ≤ 0x413 then
      BitVec.ofNat 64 (q.ty.toNat + b2n q.act * 4 + b2n q.hit * 8 + q.sel.toNat * 16 + q.idx.toNat * 2 ^ 7 +
        q.len.toNat * 2 ^ 13)
    else if 0x414 ≤ n && n ≤ 0x417 then q.val
    else 0

/-- A read of this CSR in task mode raises PRIVILEGE (R304). -/
def readPriv (n : Nat) : Bool :=
  (0x400 ≤ n && n ≤ 0x403) || n = 0x408 || (0x410 ≤ n && n ≤ 0x417) || (0x500 ≤ n && n ≤ 0x5FF)

/-- A write of this CSR in task mode raises PRIVILEGE (R304). -/
def writePriv (n : Nat) : Bool := 0x400 ≤ n && n ≤ 0x5FF

/-- CSRWR, CSRSET, CSRCLR. -/
inductive CsrOp where
  | wr | set | clr
deriving DecidableEq, Repr

/-- What a CSR instruction makes of a register's RW fields (R304). -/
def csrRw (op : CsrOp) (old x : Word) : Word :=
  match op with | .wr => x | .set => old ||| x | .clr => old &&& ~~~x

/-- The bits of its W1C fields that it clears (R304). -/
def csrW1c (op : CsrOp) (x : Word) : Word := match op with | .set => 0 | _ => x

/-- A task-mode write that would change a guarded field raises PRIVILEGE and changes nothing (R9, R193, R258). -/
def fieldPriv (s : State) (w : SlotRef) (n : Nat) (v : Word) : Bool :=
  let old := csrRead s w n 0
  let m : Word := match n with
    | 0x004 => 1
    | 0x202 => 0xFFFF8
    | 0x203 => 0xFFFFFFFFF8 &&& ~~~0x700000
    | 0x301 => 0xFFFFFFFF
    | 0x302 => 0xFFFF
    | _ => 0
  (v ^^^ old) &&& m != 0

/-- A write of value `v` to the RW fields of a CSR, clearing the W1C fields that `k` names. RO and RSV fields and
registers ignore it (R4). -/
def csrWrite (s : State) (w : SlotRef) (n : Nat) (v k : Word) : State :=
  let x := slotAt s w
  let c := coreOf s w
  let hr := hamOf (coreRefOf w)
  let h := hamAt s hr
  let csr := fun f : SlotCsr => setSlot s w { x with csr := f }
  let trap := fun t : TrapRegs => setSlot s w { x with trap := t }
  match n with
  | 0x001 => csr { x.csr with fflg := v.extractLsb' 0 7 }
  | 0x002 => csr { x.csr with fena := v.extractLsb' 0 5 }
  | 0x003 => csr { x.csr with frm := v.extractLsb' 0 2 }
  | 0x004 => csr { x.csr with rchk := v.getLsbD 0 }
  | 0x011 => csr { x.csr with ternidx := v.extractLsb' 0 6 }
  | 0x113 => setLevel s w (fieldOf v 1 0)
  | 0x201 => csr { x.csr with pkey := v.extractLsb' 0 32 }
  | 0x202 => writeLog s (coreRefOf w) false v
  | 0x203 => writeLog s (coreRefOf w) true v
  | 0x204 => writeSpill s (coreRefOf w) (v.extractLsb' 16 41) (v.extractLsb' 0 3) (k.getLsbD 3)
  | 0x301 => setHam s hr { h with millwt := v.extractLsb' 0 32 }
  | 0x302 => setHam s hr { h with millidle := v.extractLsb' 0 16 }
  | 0x303 =>
    let fl := { c.mflg with zrep := c.mflg.zrep && !k.getLsbD 0, ovf := c.mflg.ovf && !k.getLsbD 1,
                            res := c.mflg.res && !k.getLsbD 2 }
    setCoreOf s w { c with mflg := fl }
  | 0x304 => if k.getLsbD 63 then setCoreOf s w { c with mflg := clearPos c.mflg } else s
  | 0x400 => trap { x.trap with vec := v }
  | 0x401 => trap { x.trap with pc := v }
  | 0x402 => trap { x.trap with cause := v.extractLsb' 0 8, defer := v.getLsbD 8, esc := v.getLsbD 9 }
  | 0x403 => trap { x.trap with val := v }
  | 0x404 => setCoreOf s w { c with fsup0 := v.extractLsb' 0 32, fsup1 := v.extractLsb' 32 32 }
  | 0x407 => trap { x.trap with limit := v.extractLsb' 0 4 }
  | 0x408 => writeEinj s w v
  | n =>
    let q := tget c.watch Watch.reset (n % 4)
    if 0x410 ≤ n && n ≤ 0x413 then
      let q' := { q with ty := v.extractLsb' 0 2, act := v.getLsbD 2, hit := q.hit && !k.getLsbD 3,
                         sel := v.extractLsb' 4 3, idx := v.extractLsb' 7 6, len := v.extractLsb' 13 32 }
      setCoreOf s w { c with watch := tput c.watch (n % 4) q' }
    else if 0x414 ≤ n && n ≤ 0x417 then setCoreOf s w { c with watch := tput c.watch (n % 4) { q with val := v } }
    else s

end Sys2Proof.Machine
end

