-- ==== Sys2Proof/Machine/System.lean ====
section
/-!
DEFINITION. The system instructions (R302-R307): TRAP, ERET, BREAK, the CSR instructions, IFENCE, DLOG, RESUME.
-/

namespace Sys2Proof.Machine

/-- Cell bits [95:32] of an instruction: TRAPVAL of PRIVILEGE outside the CSR instructions (R282). -/
def cellHigh (i : Instr) : Word := match encode i with | some c => c.extractLsb' 32 64 | none => 0

/-- TRAP (R302). -/
def execTrap (g : Guard) (f : RForm) (s : State) : Out_ :=
  issue g [] false (fun _ => .fault .trapInstr ((f.imm.extractLsb' 0 16).zeroExtend 64)) s

/-- BREAK (R302). -/
def execBrk (g : Guard) (f : RForm) (s : State) : Out_ :=
  issue g [] false (fun _ => .fault .breakpoint ((f.imm.extractLsb' 0 16).zeroExtend 64 ||| (1#64 <<< 63))) s

/-- A failed access handled as R195's continue: its pending mark is cleared, or it is dropped. -/
def dropFailed (x : Slot) : Slot :=
  match x.failed with
  | .out o => { unmarkDst x o.dst with failed := .none }
  | _ => { x with failed := .none }

/-- ERET (R303). -/
def eretBody (g : Guard) (f : RForm) (s : State) : Eff :=
  let x := curSlot s
  if !x.supv || !x.trap.inh then .fault .privilege (cellHigh (.eret g f))
  else match checkPc x.trap.pc with
    | some c => .fault c x.trap.pc
    | none =>
      .goto (withCur s (fun x =>
        let y := if x.trap.defer then dropFailed x else { x with failed := .none }
        { y with trap := { x.trap with inh := false } })) x.trap.pc

/-- ERET (R303). -/
def execEret (g : Guard) (f : RForm) (s : State) : Out_ := issue g [] false (eretBody g f) s

/-- The CSR number of an instruction (R301). -/
def csrNum (f : RForm) : Nat := (f.imm.extractLsb' 0 12).toNat

/-- CSRRD (R304). -/
def csrrdBody (f : RForm) (s : State) : Eff :=
  let x := curSlot s
  let n := csrNum f
  if !x.supv && readPriv n then .fault .privilege (BitVec.ofNat 64 n)
  else .done (withCur s (fun y => sPut y f.d (csrRead s s.cur n (sGet x f.b))))

/-- CSRRD (R304). -/
def execCsrrd (g : Guard) (f : RForm) (s : State) : Out_ := issue g [.ds f.d, .s f.b] false (csrrdBody f) s

/-- CSRWR, CSRSET and CSRCLR (R304): the old value goes to the destination, then the CSR is written. -/
def csrBody (op : CsrOp) (f : RForm) (s : State) : Eff :=
  let w := s.cur
  let x := curSlot s
  let n := csrNum f
  let a := sGet x f.a
  let old := csrRead s w n 0
  let v := csrRw op old a
  if !x.supv && (writePriv n || fieldPriv s w n v) then .fault .privilege (BitVec.ofNat 64 n)
  else .done (csrWrite (withCur s (fun y => sPut y f.d old)) w n v (csrW1c op a))

/-- CSRWR (R304). -/
def execCsrwr (g : Guard) (f : RForm) (s : State) : Out_ := issue g [.ds f.d, .s f.a] false (csrBody .wr f) s

/-- CSRSET (R304). -/
def execCsrset (g : Guard) (f : RForm) (s : State) : Out_ := issue g [.ds f.d, .s f.a] false (csrBody .set f) s

/-- CSRCLR (R304). -/
def execCsrclr (g : Guard) (f : RForm) (s : State) : Out_ := issue g [.ds f.d, .s f.a] false (csrBody .clr f) s

/-- The slot's earlier stores to its own LOCAL window have drained (R220). -/
def localDrained (s : State) (w : SlotRef) : Bool :=
  let c := coreOf s w
  !(c.sbuf ++ c.fq).any (fun e => e.k = w.k && e.units.any (fun u => decide (normVa w u.va < 2 ^ 20)))

/-- The hamlet's constant cache is invalidated (R205). -/
def clearConst (s : State) (c : CoreRef) : State :=
  let h := hamOf c
  setHam s h { hamAt s h with cc := [] }

/-- IFENCE (R305). -/
def ifenceBody (s : State) : Eff :=
  if !localDrained s s.cur then .stall s
  else .done (withCur (clearConst s (coreRefOf s.cur)) (fun x => { x with ibuf := [] }))

/-- IFENCE (R305). -/
def execIfence (g : Guard) (_f : RForm) (s : State) : Out_ := issue g [] false ifenceBody s

/-- DLOG (R306): merges the core's log and counts the entries removed. -/
def dlogBody (f : RForm) (s : State) : Eff :=
  let c := coreRefOf s.cur
  let n := (coreAt s c).log.cnt
  .done (withCur (mergeLog s c n) (fun x => sPut x f.d (BitVec.ofNat 64 n)))

/-- DLOG (R306). -/
def execDlog (g : Guard) (f : RForm) (s : State) : Out_ := issue g [.ds f.d] false (dlogBody f) s

/-- RESUME (R307). -/
def resumeBody (g : Guard) (f : RForm) (s : State) : Eff :=
  let w := s.cur
  let x := curSlot s
  let e := (sGet x f.a).extractLsb' 0 32
  if !x.supv then .fault .privilege (cellHigh (.resume g f))
  else if epaBadSend e || epaPv e then .fault .engineCmd (e.zeroExtend 64)
  else .done { s with resumes := s.resumes ++
    [⟨w.m, epaFixed w e, (coreOf s w).launch, x.supv, f.sub.toNat, sGet x f.b⟩] }

/-- RESUME (R307). -/
def execResume (g : Guard) (f : RForm) (s : State) : Out_ := issue g [.s f.a, .s f.b] false (resumeBody g f) s

end Sys2Proof.Machine
end

