-- ==== Sys2Proof/Machine/Contain.lean ====
section
/-!
DEFINITION. The containment instructions (R291, R294, R299, R308-R313).
-/

namespace Sys2Proof.Machine

/-- LOCAL ranges that open frames hold for themselves: save areas and backups (R291). -/
def heldRanges (fs : List Frame) : List (Nat × Nat) :=
  (fs.map (fun f => (f.save.toNat, 0xA80) ::
    f.preserved.filterMap (fun p => p.backup.map (fun b => (b.toNat, p.len))))).flatten

/-- Preserved and output ranges of open frames. -/
def frameRanges (w : SlotRef) (fs : List Frame) : List (Nat × Nat) :=
  (fs.map (fun f => f.preserved.map (fun p => (normVa w p.start, p.len)) ++
    (f.outputs ++ f.handed).map (fun r => (normVa w r.start, r.len)))).flatten

/-- The range overlaps one of the list. -/
def hitsAny (a n : Nat) (rs : List (Nat × Nat)) : Bool := rs.any (overlaps (a, n))

/-- Stores `n` words of a list at a LOCAL address, as stores of the slot (R291, R309). -/
def putLocalWords (s : State) (c : CoreRef) (a : Nat) (ws : List Word) : State :=
  match ws with
  | [] => s
  | v :: r => putLocalWords (writeLocal s c (localFlat c a) 8 v.toNat) c (a + 8) r

/-- The faults of CDOPEN and RBEGIN in the order of R308. -/
def openCheck (w : SlotRef) (x : Slot) (a : Word) : Option (Cause × Word) :=
  if a.toNat % 64 != 0 then some (.dataAlign, a)
  else if 0x100000 < a.toNat + 0xA80 then some (.access, a)
  else if 8 ≤ x.frames.length then some (.containment, violation 3 a)
  else if x.outs.any (fun o => match o.kind with | .recv _ => true | _ => false) then some (.containment, violation 8 a)
  else if hitsAny a.toNat 0xA80 (heldRanges x.frames ++ frameRanges w x.frames) then
    some (.containment, violation 4 a)
  else none

/-- CDOPEN and RBEGIN (R308): writes the save area and pushes a frame. Its words, LOCAL stores of the slot, are made together once the
stores before them have left the core's store buffer (R208, R209, log 20). -/
def openBody (remote : Bool) (retry : Word → Word) (f : RForm) (s : State) : Eff :=
  let w := s.cur
  let x := curSlot s
  let a := sGet x f.a
  match openCheck w x a with
  | some (c, v) => .fault c v
  | none =>
    if !x.outs.isEmpty || !nearIdle s w then .stall s
    else
      let rp := retry x.pc
      let id := f.imm.extractLsb' 0 16
      let i := freshId s
      let s1 := putLocalWords i.2 (coreRefOf w) a.toNat (saveWords x rp id)
      .done (withCur s1 (fun x => { x with frames := ⟨i.1, remote, rp, id, a, [], [], [], 0, none⟩ :: x.frames }))

/-- The accesses of CDOPEN and RBEGIN for the watchpoints: the stores of the save area (R308, R320). -/
def openAccs (retry : Word → Word) (f : RForm) (s : State) : List Acc :=
  let x := curSlot s
  (saveWords x (retry x.pc) (f.imm.extractLsb' 0 16)).mapIdx (fun i v => .store (sGet x f.a + BitVec.ofNat 64 (8 * i)) 8 v)

/-- The retry PC of CDOPEN (R301). -/
def cdRetry (imm : BitVec 48) (pc : Word) : Word :=
  (pc &&& ~~~0x3F#64) + (imm.extractLsb' 19 29).signExtend 64 * 64 + 4 + 12 * (imm.extractLsb' 16 3).zeroExtend 64

/-- CDOPEN (R308). -/
def execCdopen (g : Guard) (f : RForm) (s : State) : Out_ :=
  issue g [.s f.a] false (openBody false (cdRetry f.imm) f) s (openAccs (cdRetry f.imm) f)

/-- RBEGIN (R308). -/
def execRbegin (g : Guard) (f : RForm) (s : State) : Out_ :=
  issue g [.s f.a] false (openBody true nextCell f) s (openAccs nextCell f)

/-- The innermost frame, when it is of the kind an instruction needs (R294 kind 6). -/
def innerFrame (x : Slot) (remote : Bool) : Option (Frame × List Frame) :=
  match x.frames with
  | f :: r => if f.remote = remote then some (f, r) else none
  | [] => none

/-- The checks of a copied range before those of kind 4 (R309). -/
def presCheck (sub : BitVec 3) (a b c : Word) : Option (Cause × Word) :=
  if sub = 0 then
    if a.toNat % 8 != 0 then some (.dataAlign, a)
    else if c.toNat % 8 != 0 then some (.dataAlign, c)
    else if b.toNat % 8 != 0 || b.toNat < 8 || 0x100000 < b.toNat then some (.containment, violation 4 a)
    else if 0x100000 < c.toNat + b.toNat then some (.access, c)
    else none
  else if b.toNat = 0 || 2 ^ 32 ≤ b.toNat then some (.containment, violation 4 a) else none

/-- The remaining conditions of kind 4 for a preserved range (R294, R309). -/
def presKind4 (w : SlotRef) (fs : List Frame) (f : Frame) (a : Word) (n : Nat) (backup : Option Word) : Option Word :=
  let na := normVa w a
  if 8 ≤ f.preserved.length || !oneRegion a n || hitsAny na n (heldRanges fs) then some (violation 4 a)
  else match backup with
    | none => none
    | some b =>
      if hitsAny b.toNat n ((na, n) :: heldRanges fs ++ frameRanges w fs) then some (violation 4 b) else none

/-- Attaches a preserved range to the innermost frame. -/
def attachPres (x : Slot) (p : Preserved) : Slot :=
  match x.frames with
  | f :: r => { x with frames := { f with preserved := f.preserved ++ [p] } :: r }
  | [] => x

/-- CDPRES (R309). A read that fails after issue is reported with the CDPRES as its instruction and its resume PC. -/
def cdpresBody (f : RForm) (s : State) : Eff :=
  let w := s.cur
  let x := curSlot s
  let a := sGet x f.a
  let b := sGet x f.b
  let c := sGet x f.c
  match innerFrame x false with
  | none => .fault .containment (violation 6 0)
  | some (fr, _) =>
    match presCheck f.sub a b c with
    | some (k, v) => .fault k v
    | none =>
      let n := b.toNat
      let backup := if f.sub = 0 then some c else none
      if fr.preserved.any (fun p => p.start = a && p.len = n && p.backup.isSome = backup.isSome) then .done s
      else match presKind4 w x.frames fr a n backup with
        | some v => .fault .containment v
        | none =>
          match backup with
          | none => .done (withCur s (fun x => attachPres x ⟨a, n, none⟩))
          | some bk =>
            if !(ownStores s w).isEmpty || !nearIdle s w then .stall s
            else match loadWords s w a (n / 8) with
              | .ok s' ws =>
                .done (withCur (putLocalWords s' (coreRefOf w) bk.toNat ws) (fun x => attachPres x ⟨a, n, some bk⟩))
              | .fail k v =>
                if inLocal v then .fault k v else .stay (raiseDeferred (failSeen s (whoOf s w) v) w k v x.pc .none)
              | .absent p v =>
                if roomGone s w p then .stay (raiseDeferred (withCur s (fun x => { x with waitFor := none })) w .residency v x.pc .none)
                else .stay (withCur (askFor s w p) (fun x => { x with swapReq := p :: x.swapReq }))
              | .wait => .stall s

/-- The accesses of a copying CDPRES for the watchpoints: its loads, and the stores to the backup of what they read (R309,
R320). -/
def cdpresAccs (f : RForm) (s : State) : List Acc :=
  let x := curSlot s
  let n := (sGet x f.b).toNat / 8
  let there := match innerFrame x false with
    | some (fr, _) => fr.preserved.any (fun p => p.start = sGet x f.a && p.len = (sGet x f.b).toNat && p.backup.isSome)
    | none => false
  if f.sub != 0 || there then []
  else
    let ws := match loadWords s s.cur (sGet x f.a) n with | .ok _ ws => ws | _ => []
    ((List.range n).map (fun i =>
      [.load (sGet x f.a + BitVec.ofNat 64 (8 * i)) 8,
       .store (sGet x f.c + BitVec.ofNat 64 (8 * i)) 8 (ws.getD i 0)])).flatten

/-- CDPRES (R309). -/
def execCdpres (g : Guard) (f : RForm) (s : State) : Out_ :=
  issue g [.s f.a, .s f.b, .s f.c] false (cdpresBody f) s (cdpresAccs f)

/-- CDOUT (R310). -/
def cdoutBody (f : RForm) (s : State) : Eff :=
  let w := s.cur
  let x := curSlot s
  let a := sGet x f.a
  let n := (sGet x f.b).toNat
  match innerFrame x false with
  | none => .fault .containment (violation 6 0)
  | some (fr, r) =>
    if n = 0 || 2 ^ 32 ≤ n then .fault .containment (violation 4 a)
    else if fr.outputs.any (fun o => o.start = a && o.len = n) then .done s
    else if 8 ≤ fr.outputs.length || !oneRegion a n || hitsAny (normVa w a) n (heldRanges x.frames) then
      .fault .containment (violation 4 a)
    else .done (withCur s (fun x => { x with frames := { fr with outputs := fr.outputs ++ [⟨a, n⟩] } :: r }))

/-- CDOUT (R310). -/
def execCdout (g : Guard) (f : RForm) (s : State) : Out_ := issue g [.s f.a, .s f.b] false (cdoutBody f) s

/-- Ranges handed to the nearest enclosing ordinary frame (R299). -/
def handDown (fs : List Frame) (rs : List Range) : List Frame :=
  match fs with
  | [] => []
  | f :: r => if f.remote then f :: handDown r rs else { f with handed := f.handed ++ rs } :: r

/-- A clean close of the innermost frame (R299). -/
def closeFrame (x : Slot) : Slot :=
  match x.frames with
  | [] => x
  | f :: r =>
    let copied := (f.preserved.filter (fun p => p.backup.isSome)).map (fun p => (⟨p.start, p.len⟩ : Range))
    { x with frames := handDown r (f.outputs ++ f.handed ++ copied) }

/-- A command issued while the frame was innermost has not completed (R311). -/
def frameCmds (s : State) (uid : Nat) : Bool := s.cmds.any (fun c => c.frame = some uid)

/-- CDCLOSE (R311). -/
def cdcloseBody (s : State) : Eff :=
  let w := s.cur
  let x := curSlot s
  match innerFrame x false with
  | none => .fault .containment (violation 6 0)
  | some (fr, _) =>
    if !onlyRecv x || frameCmds s fr.uid then .stall s
    else match fr.fail with
      | some (c, v) => .stay (raiseStop s w ⟨c, v, x.pc, x.pc, false, false, .close, some .innermost⟩)
      | none => .done (withCur s closeFrame)

/-- CDCLOSE (R311). -/
def execCdclose (g : Guard) (_f : RForm) (s : State) : Out_ := issue g [] false cdcloseBody s

/-- CDFAIL (R312). -/
def cdfailBody (s : State) : Eff :=
  let x := curSlot s
  if x.frames.isEmpty then .fault .containment (violation 6 0)
  else .stay (raiseStop s s.cur ⟨.none, 0, x.pc, x.pc, false, false, .none, some .innermost⟩)

/-- CDFAIL (R312). -/
def execCdfail (g : Guard) (_f : RForm) (s : State) : Out_ := issue g [] false cdfailBody s

/-- An access or command of a remote frame is not complete (R313). -/
def remoteBusy (s : State) (w : SlotRef) (uid : Nat) : Bool :=
  let c := coreOf s w
  (slotAt s w).outs.any (fun o => isAccess o && o.remote = some uid) ||
    (c.sbuf ++ c.fq).any (fun e => e.remote = some uid) || s.cmds.any (fun c => c.remote = some uid)

/-- RCOMMIT (R313). -/
def rcommitBody (s : State) : Eff :=
  let x := curSlot s
  match innerFrame x true with
  | none => .fault .containment (violation 6 0)
  | some (fr, r) =>
    if remoteBusy s s.cur fr.uid then .stall s else .done (withCur s (fun x => { x with frames := r }))

/-- RCOMMIT (R313). -/
def execRcommit (g : Guard) (_f : RForm) (s : State) : Out_ := issue g [] false rcommitBody s

end Sys2Proof.Machine
end

