-- ==== Sys2Proof/Machine/Copy.lean ====
section
/-!
DEFINITION. Copies that the device makes for a slot or a core: byte runs, the rows of a walk footprint (R155), and the
accesses made again by a resumption (R195).
-/

namespace Sys2Proof.Machine

/-- What a copy answers: finished, failed, its page absent, or held up; `left` bytes are not copied. -/
inductive CopyRes where
  | ok (s : State)
  | fail (s : State) (left : Nat) (c : Cause) (a : Word)
  | absent (s : State) (left : Nat) (p : PageRef)
  | wait (s : State) (left : Nat)

/-- Copies `n` bytes in rising order, in pieces that cross no 8-byte boundary; `k` bounds the pieces. -/
def copyBytes (s : State) (rd wr : Who) (src dst : Word) (n k : Nat) : CopyRes :=
  match k with
  | 0 => .ok s
  | k + 1 =>
    if n = 0 then .ok s
    else
      let q := min n (min (8 - src.toNat % 8) (8 - dst.toNat % 8))
      match perfRead s rd src q with
      | .fail c => .fail (failSeen s rd src) n c src
      | .absent p => .absent s n p
      | .wait => .wait s n
      | .ok s1 x =>
        match perfWrite s1 wr dst q x with
        | .fail c => .fail (failSeen s1 wr dst) n c dst
        | .absent p => .absent s n p
        | .wait => .wait s n
        | .ok s2 _ => copyBytes s2 rd wr (src + BitVec.ofNat 64 q) (dst + BitVec.ofNat 64 q) (n - q) k

/-- Fills a LOCAL range with unspecified bytes (R155). -/
def freeFill (s : State) (c : CoreRef) (a n : Nat) : State :=
  (List.range n).foldl (fun t i => writeLocal t c (localFlat c (a + i)) 1 (Config.freeByte s.clk i).toNat) s

/-! ### Writes that clear poison (R347) -/

/-- The flat address of a byte's line, when it lies in a page. -/
def lineFlat (s : State) (w : Who) (va : Word) : Option Nat :=
  match resolve s w va true with | .line f _ _ _ _ _ => some f | _ => none

/-- The lines that byte ranges touch, by number. -/
def linesTouched (rs : List (Nat × Nat)) : List Nat :=
  nubNat (rs.map (fun r => (List.range ((r.1 + r.2 + 127) / 128 - r.1 / 128)).map (r.1 / 128 + ·))).flatten

/-- An engine's writes to the ranges `all` that cover a line whole clear its poison; `new` are those of them just written. -/
def clearCovered (s : State) (w : Who) (all new : List (Nat × Nat)) : State :=
  ((linesTouched new).filter (fun q => covered all (128 * q) (128 * q + 128) (all.length + 1))).foldl (fun s q =>
    match lineFlat s w (BitVec.ofNat 64 (128 * q)) with
    | some f => clearPoison s f
    | none => s) s

/-- A write of one range clears the poison of the lines that it covers whole. -/
def clearWhole (s : State) (w : Who) (va : Word) (n : Nat) : State := clearCovered s w [(va.toNat, n)] [(va.toNat, n)]

/-! ### Footprints (R154, R155) -/

/-- Address of row `j` of a footprint for a tile. -/
def fpRow (f : Footprint) (tile : List Nat) (j : Nat) : Word :=
  let step := (List.range tile.length).foldl (fun a k => a + (tile.getD k 0 : Int) * f.stride.getD k 0) (0 : Int)
  f.base + BitVec.ofInt 64 (step + (j * f.pitch : Nat))

/-- LOCAL address of buffer `b` of a footprint. -/
def fpBuf (f : Footprint) (b : Nat) : Nat := f.dest + b * 64 * f.bufstride

/-- Rows of a footprint: memory address, LOCAL address and length. -/
def fpRows (f : Footprint) (tile : List Nat) (b : Nat) : List (Word × Nat × Nat) :=
  (List.range f.rows).map (fun j => (fpRow f tile j, fpBuf f b + j * f.rowlen, f.rowlen))

/-- Who the walker is: the launch's ASID, and `PKEY` as WALK read it (R155). -/
def walkWho (s : State) (c : CoreRef) (k : Walk) : Who :=
  let x := coreAt s c
  ⟨c, none, x.ident.asid, some k.pkey, (match x.launch.bind (launchAt s) with | some l => l.supv | none => false), x.launch, false, .slot⟩

/-- The 64 KiB pages that rows touch in the private and global regions (R200). -/
def rowPages (s : State) (w : Who) (rows : List (Word × Nat × Nat)) : List PageRef :=
  (rows.map (fun r => (List.range ((r.1.toNat % 65536 + r.2.2 + 65535) / 65536)).filterMap (fun i =>
    match placeOf w.asid (r.1 + BitVec.ofNat 64 (65536 * i)) with
    | .page tag a =>
      (match walkPage s w.c.m tag a with
       | .leaf e _ => if leafPs e = 0 then some (pageOf w.c.m tag a) else none
       | _ => none)
    | _ => none))).flatten.foldl (fun acc p => if acc.contains p then acc else acc ++ [p]) []

/-- Reads rows into the local store; the bytes not read after a failure are unspecified. -/
def readRows (s : State) (w : Who) (rows : List (Word × Nat × Nat)) : CopyRes :=
  match rows with
  | [] => .ok s
  | (m, a, n) :: r =>
    match copyBytes s w w m (BitVec.ofNat 64 a) n n with
    | .ok s' => readRows s' w r
    | .fail s' left c v =>
      .fail (r.foldl (fun s q => freeFill s w.c q.2.1 q.2.2) (freeFill s' w.c (a + n - left) left)) left c v
    | x => x

/-- Writes rows to memory: the state, the rows that failed with the first failure, the rows that have to wait, and an absent
page. -/
structure WroteRows where
  s : State
  failed : List (Word × Nat × Nat)
  why : Option (Cause × Word)
  waiting : List (Word × Nat × Nat)
  absent : Option PageRef

/-- Writes the rows of out-footprints, each as far as it can be. -/
def writeRows (s : State) (w : Who) (rows : List (Word × Nat × Nat)) : WroteRows :=
  rows.foldl (fun r q =>
      match copyBytes r.s w w (BitVec.ofNat 64 q.2.1) q.1 q.2.2 q.2.2 with
      | .ok s' => { r with s := s' }
      | .fail s' _ c v => { r with s := s', failed := r.failed ++ [q], why := some (r.why.getD (c, v)) }
      | .absent s' _ p => { r with s := s', waiting := r.waiting ++ [q], absent := some p }
      | .wait s' _ => { r with s := s', waiting := r.waiting ++ [q] })
    ⟨s, [], none, [], none⟩

/-- Number of tiles of a walk in each dimension (R155). -/
def walkTiles (k : Walk) : List Nat := List.zipWith ceilDiv k.dims k.tile

/-- A walked task has ended: pins released, buffer freed, the slot FREE; the walk is complete after its last task (R155). -/
def endWalked (s : State) (w : SlotRef) : State :=
  let s1 := match (slotAt s w).task with
    | .walked _ buf pins _ =>
      let c := coreOf s w
      let ps := pins.foldl (fun ps p => dropPin ps p 0 1) c.pins
      let walk := c.walk.bind (fun k =>
        if k.ended + 1 = (walkTiles k).foldl (· * ·) 1 then none
        else some { k with ended := k.ended + 1, bufs := k.bufs.filter (fun b => some b != buf) })
      setCoreOf s w { c with pins := ps, walk := walk }
    | _ => s
  freeSlot s1 w

/-! ### Accesses made again (R195) -/

/-- A store sent again: behind the stores of the core that meet it. -/
def resendStore (s : State) (w : SlotRef) (e : StEnt) : State :=
  let i := freshId s
  let j := freshId i.2
  let c := coreOf s w
  let p := e.units.partition (unitNear s w)
  let again := fun (id : Nat) (us : List AccUnit) => if us.isEmpty then [] else
    [{ e with id := id, grp := i.1, begun := false, units := us, k := w.k, pkey := (slotAt s w).csr.pkey,
              supv := (slotAt s w).supv }]
  setCoreOf j.2 w { c with sbuf := c.sbuf ++ again i.1 p.1, fq := c.fq ++ again j.1 p.2 }

/-- A load or atomic sent again with the address and data it had: its page is asked for anew, and an LDC reads the constant cache as
at this issue. -/
def resendOut (s : State) (w : SlotRef) (o : Out) : State :=
  let x := slotAt s w
  let r := match o.kind, o.units with
    | .ldc t _ _, u :: _ => (let q := ldcSnap s w u.va u.n; (OutKind.ldc t q.1 q.2.1, q.2.2))
    | k, _ => (k, s)
  let s := o.units.foldl (fun s u => match placeOf (coreOf s w).ident.asid u.va with
    | .page tag a => (let p := pageOf w.m tag a; if (pageAt s p).noRoom.isSome then setPage s p { pageAt s p with noRoom := none } else s)
    | _ => s) r.2
  setSlot s w { markDst x o.dst with outs := x.outs ++ [{ o with kind := r.1, pkey := x.csr.pkey, supv := x.supv }] }

/-- The copy engines' access for a core of a launch: the launch's ASID, no key (R146). -/
def exchWho (s : State) (c : CoreRef) : Who :=
  let x := coreAt s c
  ⟨c, none, x.ident.asid, none, false, x.launch, true, .engine c.d⟩

/-- What making an access again answers; `wait` when it has to wait for a page. -/
inductive Redo where
  | ok (s : State)
  | fail (s : State) (c : Cause) (a : Word)
  | wait (s : State)

/-- The answer of a copy as one of a redo. -/
def redoOf (r : CopyRes) : Redo :=
  match r with
  | .ok s => .ok s
  | .fail s _ c a => .fail s c a
  | .absent s _ p => .wait (askPage s p)
  | .wait s _ => .wait s

/-- The retry of R195, R146 and R155. -/
def redoAcc (s : State) (w : SlotRef) (acc : FailAcc) : Redo :=
  match acc with
  | .none | .close => .ok s
  | .out o => .ok (resendOut s w o)
  | .store e => .ok (resendStore s w e)
  | .exchange src dst len =>
    let who := exchWho s (coreRefOf w)
    (match redoOf (copyBytes s who who src dst len len) with
     | .ok s' => .ok (clearWhole s' who dst len)
     | r => r)
  | .footIn fp =>
    (match (slotAt s w).task, (coreOf s w).walk with
     | .walked tile buf _ _, some k =>
       (match k.fps[fp]? with
        | some f => redoOf (readRows s (walkWho s (coreRefOf w) k) (fpRows f tile (buf.getD 0)))
        | none => .ok s)
     | _, _ => .ok s)
  | .footOut rows =>
    (match (slotAt s w).task with
     | .walked tile buf pins left =>
       .ok (setSlot s w { slotAt s w with task := .walked tile buf pins (some (left.getD [] ++ rows)) })
     | _ => .ok s)

/-- The skip of R195: a destination takes 0, anything else is dropped. -/
def skipFailed (x : Slot) : Slot :=
  match x.failed with
  | .out o => { writeDst (unmarkDst x o.dst) o.dst 0 with failed := .none }
  | _ => { x with failed := .none }

end Sys2Proof.Machine
end

