-- ==== Sys2Proof/Machine/FpMath.lean ====
section
/-!
DEFINITION. 2^a and log2 a rounded once from the exact value (R99). The exact value of an argument that is no integer
power is irrational, so it is never a tie: it is enclosed between two fixed-point bounds until both have the same leading
digits (log 10).
-/

namespace Sys2Proof.Machine

/-- The sum of z^(2k+1)/(2k+1) from the `n` next terms, in units of 2^-p, each term rounded down. -/
def atanhSum (n p z2 t k acc : Nat) : Nat :=
  match n with
  | 0 => acc
  | j + 1 => atanhSum j p z2 (t * z2 / 2 ^ p) (k + 2) (acc + t / k)

/-- A lower bound of ln ((a + b) / (b - a)) = 2 atanh (a / b) in units of 2^-p, for a / b at most 1/3; the bound is
below the value by less than `lnErr p`. -/
def lnRatio (p a b : Nat) : Nat :=
  let z := a * 2 ^ p / b
  2 * atanhSum (p / 3 + 8) p (z * z / 2 ^ p) z 1 0

/-- More than the bounds of `lnRatio` and `expSum` may miss. -/
def lnErr (p : Nat) : Nat := 16 * p + 1024

/-- The sum of y^k/k! from the `n` next terms in units of 2^-p, each term rounded down. -/
def expSum (n p y t k acc : Nat) : Nat :=
  match n with
  | 0 => acc
  | j + 1 => let t' := t * y / 2 ^ p / k; expSum j p y t' (k + 1) (acc + t')

/-- A lower bound of 2^(fr / 2^p), between 2^p and 2^(p+1), for fr below 2^p. -/
def exp2Frac (p fr : Nat) : Nat := expSum (p / 3 + 16) p (fr * lnRatio p 1 3 / 2 ^ p) (2 ^ p) 1 (2 ^ p)

/-- The first precision of the list at which lower and upper bound agree in their leading `d` digits: those digits and
the exponent of their last place. The last precision is taken whatever its bounds. -/
def agree (d : Nat) (bounds : Nat → Nat × Nat) (ps : List Nat) : Nat × Int :=
  match ps with
  | [] => (0, 0)
  | p :: r =>
    let lo := (bounds p).1
    let hi := (bounds p).2
    let k := bitLen lo - d
    if lo / 2 ^ k = hi / 2 ^ k || r.isEmpty then (lo / 2 ^ k, (k : Int) - p) else agree d bounds r

/-- The precisions tried, in bits. -/
def precisions : List Nat := [160, 320, 1280]

/-- 2^a (R99). -/
def fpExp2 (f : FFmt) (rm : RMode) (x : Nat) : Nat × Flags :=
  match fpDecode f x with
  | .nan s => (canonNaN f, if s then flNV else 0)
  | .inf n => if n then (0, 0) else (infPat f false, 0)
  | .fin neg m e =>
    let big : Int := 5000
    if 0 ≤ e || m % 2 ^ (-e).toNat = 0 then
      -- an integer (its magnitude is cut where every format over- or underflows)
      let i : Int := if bitLen m + e > 14 then signedOf neg 5000
        else if 0 ≤ e then signedOf neg (m * 2 ^ e.toNat) else signedOf neg (m / 2 ^ (-e).toNat)
      fpRound f rm false false 1 (max (-big) (min big i)) false
    else
      let t := (-e).toNat
      let v := signedOf neg m
      let n : Int := v / 2 ^ t
      let fr := (v % 2 ^ t).toNat
      let b := fun p : Nat =>
        let lo := exp2Frac p (fr * 2 ^ p / 2 ^ t)
        (lo, min (lo + lnErr p) (2 ^ (p + 1) - 1))
      let r := agree (f.fb + 4) b precisions
      fpRound f rm false false r.1 (r.2 + max (-big) (min big n)) true

/-- log2 a (R99). -/
def fpLog2 (f : FFmt) (rm : RMode) (x : Nat) : Nat × Flags :=
  match fpDecode f x with
  | .nan s => (canonNaN f, if s then flNV else 0)
  | .inf n => if n then (canonNaN f, flNV) else (infPat f false, 0)
  | .fin neg m e =>
    if m = 0 then (infPat f true, flDZ)
    else if neg then (canonNaN f, flNV)
    else
      let top := bitLen m - 1
      let i : Int := e + top
      if m = 2 ^ top then fpRound f rm false (decide (i < 0)) i.natAbs 0 false
      else
        -- a = 2^i × s with s = m / 2^top between 1 and 2; ln s = 2 atanh ((s - 1) / (s + 1))
        let b := fun p : Nat =>
          let l := lnRatio p (m - 2 ^ top) (m + 2 ^ top)
          let l2 := lnRatio p 1 3
          let lo := l * 2 ^ p / (l2 + lnErr p)
          let hi := (l + lnErr p) * 2 ^ p / l2 + 1
          if 0 ≤ i then (i.toNat * 2 ^ p + lo, i.toNat * 2 ^ p + hi)
          else (i.natAbs * 2 ^ p - hi, i.natAbs * 2 ^ p - lo)
        let r := agree (f.fb + 4) b precisions
        fpRound f rm false (decide (i < 0)) r.1 r.2 true

end Sys2Proof.Machine
end

