-- ==== Sys2Proof/Machine/Scalar.lean ====
section
/-!
DEFINITION. The scalar integer and predicate instructions (R82-R90).
-/

namespace Sys2Proof.Machine

/-- Integer operand A, B and C by type (R82). -/
def intA (x : Slot) (f : RForm) : Int := intOf f.ty (sGet x f.a).toNat
def intB (x : Slot) (f : RForm) : Int := intOf f.ty (opB x f).toNat
def intC (x : Slot) (f : RForm) : Int := intOf f.ty (sGet x f.c).toNat

/-- The patterns of operands A and B (R86). -/
def patA (x : Slot) (f : RForm) : Nat := (sGet x f.a).toNat % 2 ^ tyBits f.ty
def patB (x : Slot) (f : RForm) : Nat := (opB x f).toNat % 2 ^ tyBits f.ty

/-- Writes an integer result of type `ty` to D with its flags (R51, R52). -/
def writeInt (f : RForm) (fl : Flags) (s : State) (r : Nat) : Eff :=
  .done (withCur s (fun x => raiseFl (sPut x f.d (extendTo f.ty r)) fl))

/-- An arithmetic instruction of R84 with fixed latency. -/
def arith (f : RForm) (checked : Bool) (op : Int → Int → Int → Int) (s : State) : Eff :=
  let x := curSlot s
  let r := narrow f.ty (f.sub = 1) (op (intA x f) (intB x f) (intC x f))
  if checked then finishChecked s 0 f.d (tyBits f.ty) r.1 (writeInt f r.2) else writeInt f r.2 s r.1

/-- A deferred result of the current slot that needs no access: it returns on its own (R17, R18). -/
def deferValue (s : State) (d : Dst) (v : VWord) : State :=
  let i := freshId s
  addOut i.2 ⟨i.1, (curSlot s).pc, .value v, [], d, [], none, (curSlot s).csr.pkey, (curSlot s).supv⟩

/-- A deferred arithmetic instruction: DIV, REM (R85). SAT is set when it issues; whether it comes with the result instead is not
stated (DESIGN CHOICE, log 21). -/
def arithDeferred (f : RForm) (op : Int → Int → Int) (s : State) : Eff :=
  let x := curSlot s
  let r := narrow f.ty (f.sub = 1) (op (intA x f) (intB x f))
  let s := withCur s (fun x => raiseFl x r.2)
  .done (deferValue s (sDst f.d) ((extendTo f.ty r.1).zeroExtend 512))

/-- An instruction on patterns (R86). -/
def bitop (f : RForm) (op : Slot → Nat → Nat) (s : State) : Eff :=
  let x := curSlot s
  writeInt f 0 s (op x (patA x f))

/-- A shift amount (R86). -/
def shamt (x : Slot) (f : RForm) : Nat := (opB x f).toNat % tyBits f.ty

/-- Quotient truncated toward zero; all ones in n bits for a zero divisor, which no clamp changes (R85). -/
def divTy (t : Ty) (a b : Int) : Int := if b = 0 then (if tySigned t then -1 else tyMax t) else a.tdiv b

/-- Remainder with the sign of the dividend; the dividend for a zero divisor (R85). -/
def remOp (a b : Int) : Int := if b = 0 then a else a.tmod b

/-- ADD (R84). -/
def execAdd (g : Guard) (f : RForm) (s : State) : Out_ := issue g (usesR f) false (arith f true (fun a b _ => a + b)) s

/-- SUB (R84). -/
def execSub (g : Guard) (f : RForm) (s : State) : Out_ := issue g (usesR f) false (arith f true (fun a b _ => a - b)) s

/-- MUL (R84). -/
def execMul (g : Guard) (f : RForm) (s : State) : Out_ := issue g (usesR f) false (arith f true (fun a b _ => a * b)) s

/-- MULH (R84): the high half of the product. -/
def execMulh (g : Guard) (f : RForm) (s : State) : Out_ :=
  issue g (usesR f) false (arith f false (fun a b _ => a * b / 2 ^ tyBits f.ty)) s

/-- MADD (R84). -/
def execMadd (g : Guard) (f : RForm) (s : State) : Out_ :=
  issue g (usesR f) false (arith f true (fun a b c => a * b + c)) s

/-- DIV (R85). -/
def execDiv (g : Guard) (f : RForm) (s : State) : Out_ := issue g (usesR f) true (arithDeferred f (divTy f.ty)) s

/-- REM (R85). -/
def execRem (g : Guard) (f : RForm) (s : State) : Out_ := issue g (usesR f) true (arithDeferred f remOp) s

/-- ABS (R84). -/
def execAbs (g : Guard) (f : RForm) (s : State) : Out_ :=
  issue g (usesR f) false (arith f false (fun a _ _ => if a < 0 then -a else a)) s

/-- MIN (R84). -/
def execMin (g : Guard) (f : RForm) (s : State) : Out_ := issue g (usesR f) false (arith f false (fun a b _ => min a b)) s

/-- MAX (R84). -/
def execMax (g : Guard) (f : RForm) (s : State) : Out_ := issue g (usesR f) false (arith f false (fun a b _ => max a b)) s

/-- AND (R86). -/
def execAnd (g : Guard) (f : RForm) (s : State) : Out_ :=
  issue g (usesR f) false (bitop f (fun x u => Nat.land u (patB x f))) s

/-- OR (R86). -/
def execOr (g : Guard) (f : RForm) (s : State) : Out_ :=
  issue g (usesR f) false (bitop f (fun x u => Nat.lor u (patB x f))) s

/-- XOR (R86). -/
def execXor (g : Guard) (f : RForm) (s : State) : Out_ :=
  issue g (usesR f) false (bitop f (fun x u => Nat.xor u (patB x f))) s

/-- The inverted pattern of operand B. -/
def patNotB (x : Slot) (f : RForm) : Nat := 2 ^ tyBits f.ty - 1 - patB x f

/-- ANDN (R86). -/
def execAndn (g : Guard) (f : RForm) (s : State) : Out_ :=
  issue g (usesR f) false (bitop f (fun x u => Nat.land u (patNotB x f))) s

/-- ORN (R86). -/
def execOrn (g : Guard) (f : RForm) (s : State) : Out_ :=
  issue g (usesR f) false (bitop f (fun x u => Nat.lor u (patNotB x f))) s

/-- SHL (R86). -/
def execShl (g : Guard) (f : RForm) (s : State) : Out_ :=
  issue g (usesR f) false (bitop f (fun x u => u * 2 ^ shamt x f % 2 ^ tyBits f.ty)) s

/-- SHR (R86). -/
def execShr (g : Guard) (f : RForm) (s : State) : Out_ :=
  issue g (usesR f) false (bitop f (fun x u => u / 2 ^ shamt x f)) s

/-- SAR (R86): the top bit is the sign, whatever the type. -/
def execSar (g : Guard) (f : RForm) (s : State) : Out_ :=
  issue g (usesR f) false (bitop f (fun x u => wrapTo (tyBits f.ty) (sintOf (tyBits f.ty) u / 2 ^ shamt x f))) s

/-- A pattern of `n` bits rotated left by `k` below `n`. -/
def rotl (n u k : Nat) : Nat := (u * 2 ^ k + u / 2 ^ (n - k)) % 2 ^ n

/-- ROT (R86). -/
def execRot (g : Guard) (f : RForm) (s : State) : Out_ :=
  issue g (usesR f) false (bitop f (fun x u =>
    let n := tyBits f.ty
    rotl n u (if f.sub = 0 then shamt x f else (n - shamt x f) % n))) s

/-- CLZ (R86). -/
def execClz (g : Guard) (f : RForm) (s : State) : Out_ :=
  issue g (usesR f) false (bitop f (fun _ u => clzOf (tyBits f.ty) u)) s

/-- CTZ (R86). -/
def execCtz (g : Guard) (f : RForm) (s : State) : Out_ :=
  issue g (usesR f) false (bitop f (fun _ u => ctzOf (tyBits f.ty) u)) s

/-- POPC (R86). -/
def execPopc (g : Guard) (f : RForm) (s : State) : Out_ :=
  issue g (usesR f) false (bitop f (fun _ u => popCount (tyBits f.ty) u)) s

/-- BREV (R86). -/
def execBrev (g : Guard) (f : RForm) (s : State) : Out_ :=
  issue g (usesR f) false (bitop f (fun _ u => bitRevAux (tyBits f.ty) u 0)) s

/-- BSWAP (R86). -/
def execBswap (g : Guard) (f : RForm) (s : State) : Out_ :=
  issue g (usesR f) false (bitop f (fun _ u => byteRevAux (tyBits f.ty / 8) u 0)) s

/-- An instruction that writes one 64-bit value to D (R87). -/
def writeS (f : RForm) (op : Slot → Word) (s : State) : Eff := .done (withCur s (fun x => sPut x f.d (op x)))

/-- MOV (R87). -/
def execMov (g : Guard) (f : RForm) (s : State) : Out_ := issue g (usesR f) false (writeS f (fun x => sGet x f.a)) s

/-- MOVI (R87). -/
def execMovi (g : Guard) (f : RForm) (s : State) : Out_ :=
  issue g (usesR f) false (writeS f (fun _ => extendTo f.ty (f.imm.signExtend 64).toNat)) s

/-- MOVHI (R87). -/
def execMovhi (g : Guard) (f : RForm) (s : State) : Out_ :=
  issue g (usesR f) false (writeS f (fun x => f.imm.extractLsb' 0 16 ++ (sGet x f.a).extractLsb' 0 48)) s

/-- SEL (R87): C names a predicate. -/
def execSel (g : Guard) (f : RForm) (s : State) : Out_ :=
  issue g [.s f.a, .s f.b, .ds f.d] false (writeS f (fun x => if pGet x f.c.toNat then sGet x f.a else opB x f)) s

/-- The low `k` bits of `u`, sign-extended for TYPE 3 and zero-extended for TYPE 7 (R87). -/
def extendBits (t : Ty) (k u : Nat) : Word :=
  if tySigned t then BitVec.ofInt 64 (sintOf k u) else BitVec.ofNat 64 (u % 2 ^ k)

/-- EXT (R87). -/
def execExt (g : Guard) (f : RForm) (s : State) : Out_ :=
  issue g (usesR f) false (writeS f (fun x =>
    let k := (opB x f).toNat % 64
    extendBits f.ty (if k = 0 then 64 else k) (sGet x f.a).toNat)) s

/-- Position and length of BFX and BFI (R87). -/
def fieldPos (f : RForm) : Nat := (f.imm.extractLsb' 0 6).toNat
def fieldLen (f : RForm) : Nat := (f.imm.extractLsb' 6 6).toNat + 1

/-- BFX (R87). -/
def execBfx (g : Guard) (f : RForm) (s : State) : Out_ :=
  issue g (usesR f) false (writeS f (fun x => extendBits f.ty (fieldLen f) ((sGet x f.a).toNat / 2 ^ fieldPos f))) s

/-- BFI (R87). -/
def execBfi (g : Guard) (f : RForm) (s : State) : Out_ :=
  issue g (usesR f) false (writeS f (fun x =>
    let m : Word := BitVec.ofNat 64 ((2 ^ fieldLen f - 1) * 2 ^ fieldPos f)
    (sGet x f.a &&& ~~~m) ||| ((sGet x f.b <<< fieldPos f) &&& m))) s

/-- LEA (R87). -/
def execLea (g : Guard) (f : RForm) (s : State) : Out_ :=
  issue g (usesR f) false (writeS f (fun x =>
    sGet x f.a + (sGet x f.b <<< (f.sub.extractLsb' 0 2).toNat) + (f.imm.extractLsb' 0 32).signExtend 64)) s

/-- An instruction that writes one predicate. -/
def writeP (d : RegIx) (op : Slot → Bool) (s : State) : Eff := .done (withCur s (fun x => pPut x d.toNat (op x)))

/-- The condition of CMP (R88). -/
def cmpCond (sub : Nat) (a b : Int) : Bool :=
  match sub with
  | 0 => decide (a = b) | 1 => decide (a ≠ b) | 2 => decide (a < b) | 3 => decide (a ≤ b) | 4 => decide (a > b)
  | _ => decide (a ≥ b)

/-- CMP (R88). -/
def execCmp (g : Guard) (f : RForm) (s : State) : Out_ :=
  issue g [.s f.a, .s f.b, .dp f.d] false (writeP f.d (fun x => cmpCond f.sub.toNat (intA x f) (intB x f))) s

/-- TEST (R88). -/
def execTest (g : Guard) (f : RForm) (s : State) : Out_ :=
  issue g [.s f.a, .s f.b, .dp f.d] false (writeP f.d (fun x =>
    let any := Nat.land (patA x f) (patB x f) != 0
    if f.sub = 0 then any else !any)) s

/-- ADDC (R88): sum or difference of patterns with the carry of `P[C]`, and the new carry. -/
def addcBody (f : RForm) (s : State) : Eff :=
  let x := curSlot s
  let n := tyBits f.ty
  let ci : Int := if pGet x f.c.toNat then 1 else 0
  let t : Int := if f.sub = 0 then (patA x f : Int) + patB x f + ci else (patA x f : Int) - patB x f - ci
  let co := if f.sub = 0 then decide (t ≥ 2 ^ n) else decide (t < 0)
  finishChecked s 0 f.d n (wrapTo n t)
    (fun s r => .done (withCur s (fun x => pPut (sPut x f.d (extendTo f.ty r)) f.c.toNat co)))

/-- ADDC (R88). -/
def execAddc (g : Guard) (f : RForm) (s : State) : Out_ :=
  issue g [.s f.a, .s f.b, .ds f.d, .dp f.c] false (addcBody f) s

/-- NOP (R89). -/
def execNop (g : Guard) (_f : RForm) (s : State) : Out_ := issue g [] false (fun s => .done s) s

/-- Predicate operands A and B, inverted as SUB says (R90). -/
def predA (x : Slot) (f : RForm) : Bool := pGet x f.a.toNat != f.sub.getLsbD 0
def predB (x : Slot) (f : RForm) : Bool := pGet x f.b.toNat != f.sub.getLsbD 1

/-- PAND (R90). -/
def execPand (g : Guard) (f : RForm) (s : State) : Out_ := issue g [.dp f.d] false (writeP f.d (fun x => predA x f && predB x f)) s

/-- POR (R90). -/
def execPor (g : Guard) (f : RForm) (s : State) : Out_ := issue g [.dp f.d] false (writeP f.d (fun x => predA x f || predB x f)) s

/-- PXOR (R90). -/
def execPxor (g : Guard) (f : RForm) (s : State) : Out_ := issue g [.dp f.d] false (writeP f.d (fun x => predA x f != predB x f)) s

/-- PSET (R90). -/
def execPset (g : Guard) (f : RForm) (s : State) : Out_ :=
  issue g [.s f.a, .dp f.d] false (writeP f.d (fun x => opAI x f != 0)) s

/-- PGET (R90). -/
def execPget (g : Guard) (f : RForm) (s : State) : Out_ :=
  issue g [.ds f.d] false (writeS f (fun x =>
    if f.sub = 0 then (if pGet x f.a.toNat then 1 else 0)
    else BitVec.ofNat 64 ((List.range 8).foldl (fun a i => a + (if pGet x i then 2 ^ i else 0)) 0))) s

end Sys2Proof.Machine
end

