-- ==== Sys2Proof/Machine/Float.lean ====
section
/-!
DEFINITION. The scalar floating-point instructions (R94-R102).
-/

namespace Sys2Proof.Machine

/-- Operand patterns of the format's width (R94). -/
def fpA (x : Slot) (f : RForm) : Nat := (sGet x f.a).toNat % 2 ^ tyBits f.ty
def fpB (x : Slot) (f : RForm) : Nat := (opB x f).toNat % 2 ^ tyBits f.ty
def fpC (x : Slot) (f : RForm) : Nat := (sGet x f.c).toNat % 2 ^ tyBits f.ty

/-- Writes a floating-point result zero-extended, with its flags (R57, R94). -/
def writeFp (f : RForm) (fl : Flags) (s : State) (r : Nat) : Eff :=
  finishFl s fl (fun x => sPut x f.d (BitVec.ofNat 64 r))

/-- A fixed-latency instruction on up to three operands. -/
def fpArith (f : RForm) (op : FFmt → RMode → Nat → Nat → Nat → Nat × Flags) (s : State) : Eff :=
  let x := curSlot s
  let r := op (fmtOf f.ty) (rmOf x f.sub) (fpA x f) (fpB x f) (fpC x f)
  writeFp f r.2 s r.1

/-- As `fpArith`, under residue checking for f32 and f64 (R289). -/
def fpArithChecked (f : RForm) (op : FFmt → RMode → Nat → Nat → Nat → Nat × Flags) (s : State) : Eff :=
  let x := curSlot s
  let r := op (fmtOf f.ty) (rmOf x f.sub) (fpA x f) (fpB x f) (fpC x f)
  if f.ty = .f32 || f.ty = .f64 then finishChecked s 0 f.d (tyBits f.ty) r.1 (writeFp f r.2) else writeFp f r.2 s r.1

/-- A deferred floating-point result (R101): an enabled flag faults precisely; while `FENA` is set the slot is held until
the result returns. -/
def deferFl (s : State) (fl : Flags) (d : Dst) (v : VWord) : Eff :=
  let x := curSlot s
  let s1 := deferValue (withCur s (fun x => raiseFl x fl)) d v
  if ieee fl &&& x.csr.fena != 0 then
    .faultIn (withCur s (fun x => raiseFl x ((ieee fl).zeroExtend 7))) .fpException ((ieee fl).zeroExtend 64)
      (some (curSlot s1))
  else if x.csr.fena = 0 then .done s1 else .hold s1 s.nextId

/-- A deferred instruction on up to two operands. -/
def fpDeferred (f : RForm) (op : FFmt → RMode → Nat → Nat → Nat × Flags) (s : State) : Eff :=
  let x := curSlot s
  let r := op (fmtOf f.ty) (rmOf x f.sub) (fpA x f) (fpB x f)
  deferFl s r.2 (sDst f.d) (BitVec.ofNat 512 r.1)

/-- FADD (R94). -/
def execFadd (g : Guard) (f : RForm) (s : State) : Out_ :=
  issue g (usesR f) false (fpArith f (fun t rm a b _ => fpAdd t rm a b)) s

/-- FSUB (R94). -/
def execFsub (g : Guard) (f : RForm) (s : State) : Out_ :=
  issue g (usesR f) false (fpArith f (fun t rm a b _ => fpSub t rm a b)) s

/-- FMUL (R94). -/
def execFmul (g : Guard) (f : RForm) (s : State) : Out_ :=
  issue g (usesR f) false (fpArithChecked f (fun t rm a b _ => fpMul t rm a b)) s

/-- FFMA (R94). -/
def execFfma (g : Guard) (f : RForm) (s : State) : Out_ := issue g (usesR f) false (fpArithChecked f fpFma) s

/-- FDIV (R94). -/
def execFdiv (g : Guard) (f : RForm) (s : State) : Out_ := issue g (usesR f) true (fpDeferred f fpDiv) s

/-- FSQRT (R94). -/
def execFsqrt (g : Guard) (f : RForm) (s : State) : Out_ :=
  issue g (usesR f) true (fpDeferred f (fun t rm a _ => fpSqrt t rm a)) s

/-- FMIN (R95). -/
def execFmin (g : Guard) (f : RForm) (s : State) : Out_ :=
  issue g (usesR f) false (fpArith f (fun t _ a b _ => fpMinMax t false a b)) s

/-- FMAX (R95). -/
def execFmax (g : Guard) (f : RForm) (s : State) : Out_ :=
  issue g (usesR f) false (fpArith f (fun t _ a b _ => fpMinMax t true a b)) s

/-- FCMP (R96). -/
def fcmpBody (f : RForm) (s : State) : Eff :=
  let x := curSlot s
  let r := fpCmp (fmtOf f.ty) f.sub.toNat (fpA x f) (fpB x f)
  finishFl s r.2 (fun x => pPut x f.d.toNat r.1)

/-- FCMP (R96). -/
def execFcmp (g : Guard) (f : RForm) (s : State) : Out_ := issue g [.s f.a, .s f.b, .dp f.d] false (fcmpBody f) s

/-- FCLASS (R97). -/
def execFclass (g : Guard) (f : RForm) (s : State) : Out_ :=
  issue g (usesR f) false (writeS f (fun x => BitVec.ofNat 64 (2 ^ fpClass (fmtOf f.ty) (fpA x f)))) s

/-- The source type and SAT of a conversion (R98). -/
def cvtSrc (f : RForm) : Ty := tyOf (f.imm.extractLsb' 0 4).toNat
def cvtSat (f : RForm) : Bool := f.imm.getLsbD 4

/-- Operand A at the width of the source type. -/
def cvtA (x : Slot) (f : RForm) : Nat := (sGet x f.a).toNat % 2 ^ tyBits (cvtSrc f)

/-- FCVT (R98, R58, R62). -/
def fcvtBody (f : RForm) (s : State) : Eff :=
  let x := curSlot s
  let r := fpCvt (fmtOf f.ty) (fmtOf (cvtSrc f)) (rmOf x f.sub) (cvtSat f) (cvtA x f)
  -- equal formats without SAT copy the input, NaNs aside, so e5m2 infinities and e4m3 values pass unchanged
  writeFp f r.2 s r.1

/-- FCVT (R98). -/
def execFcvt (g : Guard) (f : RForm) (s : State) : Out_ := issue g (usesR f) false (fcvtBody f) s

/-- FCVTI (R98, R59). -/
def fcvtiBody (f : RForm) (s : State) : Eff :=
  let x := curSlot s
  let r := fpCvtInt f.ty (fmtOf (cvtSrc f)) (rmOf x f.sub) (cvtA x f)
  finishFl s r.2 (fun x => sPut x f.d (extendTo f.ty r.1))

/-- FCVTI (R98). -/
def execFcvti (g : Guard) (f : RForm) (s : State) : Out_ := issue g (usesR f) false (fcvtiBody f) s

/-- ICVTF (R98, R60). -/
def icvtfBody (f : RForm) (s : State) : Eff :=
  let x := curSlot s
  let r := intCvtFp (fmtOf f.ty) (rmOf x f.sub) (cvtSat f) (intOf (cvtSrc f) (cvtA x f))
  writeFp f r.2 s r.1

/-- ICVTF (R98). -/
def execIcvtf (g : Guard) (f : RForm) (s : State) : Out_ := issue g (usesR f) false (icvtfBody f) s

/-- FRCP (R99). -/
def execFrcp (g : Guard) (f : RForm) (s : State) : Out_ :=
  issue g (usesR f) true (fpDeferred f (fun t rm a _ => fpRcp t rm a)) s

/-- FRSQ (R99). -/
def execFrsq (g : Guard) (f : RForm) (s : State) : Out_ :=
  issue g (usesR f) true (fpDeferred f (fun t rm a _ => fpRsq t rm a)) s

/-- FEXP2 (R99). -/
def execFexp2 (g : Guard) (f : RForm) (s : State) : Out_ :=
  issue g (usesR f) true (fpDeferred f (fun t rm a _ => fpExp2 t rm a)) s

/-- FLOG2 (R99). -/
def execFlog2 (g : Guard) (f : RForm) (s : State) : Out_ :=
  issue g (usesR f) true (fpDeferred f (fun t rm a _ => fpLog2 t rm a)) s

/-- FSGN (R100): bits are copied and no flag raised. -/
def execFsgn (g : Guard) (f : RForm) (s : State) : Out_ :=
  issue g (usesR f) false (writeS f (fun x => BitVec.ofNat 64 (fpSgn (fmtOf f.ty) f.sub.toNat (fpA x f) (fpB x f)))) s

end Sys2Proof.Machine
end

