-- ==== Sys2Proof/Machine/Vector.lean ====
section
/-!
DEFINITION. The vector instructions on registers (R107-R115, R126) and the mask instructions (R127).
-/

namespace Sys2Proof.Machine

/-- The mask of a vector form (R108). -/
def vMask (x : Slot) (f : VForm) : BitVec 64 := mGet x f.mask.toNat

/-- The immediate of a vector form (R33). -/
def vImm (f : VForm) : Word := f.vimm.signExtend 64

/-- Element `j` of operand B: of the register, or of the immediate (R109). -/
def vElemB (x : Slot) (f : VForm) (n j : Nat) : Nat := if f.i then (vImm f).toNat % 2 ^ n else elemOf n (vGet x f.b) j

/-- The operand registers of a vector form with operands A and B, or A, B and C; an immediate has no register. -/
def usesV2 (f : VForm) : List Use := .v f.a :: .dv f.d :: (if f.i then [] else [.v f.b])
def usesV1 (f : VForm) : List Use := [.v f.a, .dv f.d]
def usesV3 (f : VForm) : List Use := .v f.c :: usesV2 f

/-- Element results of an instruction: each active element `j` gets `op j`, the others are kept or zeroed (R108); with
the OR of the active elements' flags. -/
def mapActive (n : Nat) (mask : BitVec 64) (zm : Bool) (old : VWord) (op : Nat → Nat × Flags) : VWord × Flags :=
  let rs := (List.range (lanes n)).map (fun j =>
    if mask.getLsbD j then op j else (if zm then 0 else elemOf n old j, (0 : Flags)))
  (packElems n (rs.map (·.1)), rs.foldl (fun a r => a ||| r.2) 0)

/-- Some element of an instruction of width `n` is active. -/
def anyActive (n : Nat) (mask : BitVec 64) : Bool := (List.range (lanes n)).any (fun j => mask.getLsbD j)

/-- The lowest active element. -/
def lowActive (n : Nat) (mask : BitVec 64) : Nat := ((List.range (lanes n)).find? (fun j => mask.getLsbD j)).getD 0

/-- Ends an instruction that writes V[D] (R57, R109). -/
def writeV (f : VForm) (fl : Flags) (s : State) (v : VWord) : Eff := finishFl s fl (fun x => vPut x f.d v)

/-- As `writeV`, under residue checking (R289): an injection is due only with an active element, and strikes the lowest
one (R290). -/
def writeVChecked (f : VForm) (n : Nat) (mask : BitVec 64) (fl : Flags) (s : State) (v : VWord) : Eff :=
  let x := curSlot s
  if !anyActive n mask then writeV f fl s v
  else if flipDue x then
    .faultIn (withCur s disarm) .residue (64 + f.d.zeroExtend 64) (effSlot s.cur (writeV f fl s v))
  else match x.flip with
    | some b =>
      if x.csr.rchk then writeV f fl s v
      else writeV f fl (withCur s (fun x => { x with flip := none }))
        (v ^^^ (1#512 <<< (n * lowActive n mask + b % n)))
    | none => writeV f fl s v

/-- The element operation of an arithmetic instruction: by type an integer or a floating-point one. -/
def vecVal (f : VForm) (x : Slot) (iop : Int → Int → Int → Int) (sat : Bool)
    (fop : FFmt → RMode → Nat → Nat → Nat → Nat × Flags) (j : Nat) : Nat × Flags :=
  let n := tyBits f.ty
  let a := elemOf n (vGet x f.a) j
  let b := vElemB x f n j
  let c := elemOf n (vGet x f.c) j
  if tyIsInt f.ty then narrow f.ty sat (iop (intOf f.ty a) (intOf f.ty b) (intOf f.ty c))
  else fop (fmtOf f.ty) (rmOf x f.sub) a b c

/-- A fixed-latency element instruction. -/
def vecArith (f : VForm) (checked : Bool) (iop : Int → Int → Int → Int) (sat : Bool)
    (fop : FFmt → RMode → Nat → Nat → Nat → Nat × Flags) (s : State) : Eff :=
  let x := curSlot s
  let n := tyBits f.ty
  let r := mapActive n (vMask x f) f.zm (vGet x f.d) (vecVal f x iop sat fop)
  if checked then writeVChecked f n (vMask x f) r.2 s r.1 else writeV f r.2 s r.1

/-- A deferred element instruction (R111, R126). -/
def vecDeferred (f : VForm) (iop : Int → Int → Int → Int) (fop : FFmt → RMode → Nat → Nat → Nat → Nat × Flags)
    (s : State) : Eff :=
  let x := curSlot s
  let r := mapActive (tyBits f.ty) (vMask x f) f.zm (vGet x f.d) (vecVal f x iop false fop)
  if tyIsInt f.ty then .done (deferValue s (.vreg f.d) r.1) else deferFl s r.2 (.vreg f.d) r.1

/-- Floating-point operations without a meaning for the type are never reached: their TYPE is refused (R111). -/
def noFp : FFmt → RMode → Nat → Nat → Nat → Nat × Flags := fun _ _ a _ _ => (a, 0)

/-- VADD (R111). -/
def execVadd (g : Guard) (f : VForm) (s : State) : Out_ :=
  issue g (usesV2 f) false
    (vecArith f (tyIsInt f.ty) (fun a b _ => a + b) false (fun t rm a b _ => fpAdd t rm a b)) s

/-- VSUB (R111). -/
def execVsub (g : Guard) (f : VForm) (s : State) : Out_ :=
  issue g (usesV2 f) false
    (vecArith f (tyIsInt f.ty) (fun a b _ => a - b) false (fun t rm a b _ => fpSub t rm a b)) s

/-- The types of VMUL and VFMA that residue checking covers (R289). -/
def mulChecked (t : Ty) : Bool := tyIsInt t || t = .f32 || t = .f64

/-- VMUL (R111). -/
def execVmul (g : Guard) (f : VForm) (s : State) : Out_ :=
  issue g (usesV2 f) false
    (vecArith f (mulChecked f.ty) (fun a b _ => a * b) false (fun t rm a b _ => fpMul t rm a b)) s

/-- VMULH (R111). -/
def execVmulh (g : Guard) (f : VForm) (s : State) : Out_ :=
  issue g (usesV2 f) false (vecArith f false (fun a b _ => a * b / 2 ^ tyBits f.ty) false noFp) s

/-- VFMA (R111). -/
def execVfma (g : Guard) (f : VForm) (s : State) : Out_ :=
  issue g (usesV3 f) false (vecArith f (mulChecked f.ty) (fun a b c => a * b + c) false fpFma) s

/-- VDIV (R111). -/
def execVdiv (g : Guard) (f : VForm) (s : State) : Out_ :=
  issue g (usesV2 f) true (vecDeferred f (fun a b _ => divTy f.ty a b) (fun t rm a b _ => fpDiv t rm a b)) s

/-- VSQRT (R111). -/
def execVsqrt (g : Guard) (f : VForm) (s : State) : Out_ :=
  issue g (usesV1 f) true (vecDeferred f (fun a _ _ => a) (fun t rm a _ _ => fpSqrt t rm a)) s

/-- VMIN (R111). -/
def execVmin (g : Guard) (f : VForm) (s : State) : Out_ :=
  issue g (usesV2 f) false (vecArith f false (fun a b _ => min a b) false (fun t _ a b _ => fpMinMax t false a b)) s

/-- VMAX (R111). -/
def execVmax (g : Guard) (f : VForm) (s : State) : Out_ :=
  issue g (usesV2 f) false (vecArith f false (fun a b _ => max a b) false (fun t _ a b _ => fpMinMax t true a b)) s

/-- VABS (R111): the sign bit cleared for floating point. -/
def execVabs (g : Guard) (f : VForm) (s : State) : Out_ :=
  issue g (usesV1 f) false
    (vecArith f false (fun a _ _ => if a < 0 then -a else a) false (fun t _ a _ _ => (a % 2 ^ (t.w - 1), 0))) s

/-- VSGN (R111). -/
def execVsgn (g : Guard) (f : VForm) (s : State) : Out_ :=
  issue g (usesV2 f) false
    (vecArith f false (fun a _ _ => a) false (fun t _ a b _ => (fpSgn t f.sub.toNat a b, 0))) s

/-- VADDS (R111). -/
def execVadds (g : Guard) (f : VForm) (s : State) : Out_ :=
  issue g (usesV2 f) false (vecArith f false (fun a b _ => a + b) true noFp) s

/-- VSUBS (R111). -/
def execVsubs (g : Guard) (f : VForm) (s : State) : Out_ :=
  issue g (usesV2 f) false (vecArith f false (fun a b _ => a - b) true noFp) s

/-- An instruction on element patterns that raises no flag (R112, R114). -/
def vecBits (f : VForm) (op : Slot → Nat → Nat) (s : State) : Eff :=
  .done (withCur s (fun x => vPut x f.d
    (mapActive (tyBits f.ty) (vMask x f) f.zm (vGet x f.d) (fun j => (op x j, 0))).1))

/-- Element `j` of operands A and B at the instruction's width. -/
def vA (x : Slot) (f : VForm) (j : Nat) : Nat := elemOf (tyBits f.ty) (vGet x f.a) j
def vB (x : Slot) (f : VForm) (j : Nat) : Nat := vElemB x f (tyBits f.ty) j

/-- VAND (R112). -/
def execVand (g : Guard) (f : VForm) (s : State) : Out_ :=
  issue g (usesV2 f) false (vecBits f (fun x j => Nat.land (vA x f j) (vB x f j))) s

/-- VOR (R112). -/
def execVor (g : Guard) (f : VForm) (s : State) : Out_ :=
  issue g (usesV2 f) false (vecBits f (fun x j => Nat.lor (vA x f j) (vB x f j))) s

/-- VXOR (R112). -/
def execVxor (g : Guard) (f : VForm) (s : State) : Out_ :=
  issue g (usesV2 f) false (vecBits f (fun x j => Nat.xor (vA x f j) (vB x f j))) s

/-- VANDN (R112). -/
def execVandn (g : Guard) (f : VForm) (s : State) : Out_ :=
  issue g (usesV2 f) false (vecBits f (fun x j => Nat.land (vA x f j) (2 ^ tyBits f.ty - 1 - vB x f j))) s

/-- VSHL (R112). -/
def execVshl (g : Guard) (f : VForm) (s : State) : Out_ :=
  issue g (usesV2 f) false (vecBits f (fun x j => vA x f j * 2 ^ (vB x f j % tyBits f.ty) % 2 ^ tyBits f.ty)) s

/-- VSHR (R112). -/
def execVshr (g : Guard) (f : VForm) (s : State) : Out_ :=
  issue g (usesV2 f) false (vecBits f (fun x j => vA x f j / 2 ^ (vB x f j % tyBits f.ty))) s

/-- VSAR (R112). -/
def execVsar (g : Guard) (f : VForm) (s : State) : Out_ :=
  issue g (usesV2 f) false (vecBits f (fun x j =>
    wrapTo (tyBits f.ty) (sintOf (tyBits f.ty) (vA x f j) / 2 ^ (vB x f j % tyBits f.ty)))) s

/-- VPOPC (R112). -/
def execVpopc (g : Guard) (f : VForm) (s : State) : Out_ :=
  issue g (usesV1 f) false (vecBits f (fun x j => popCount (tyBits f.ty) (vA x f j))) s

/-- A mask from its bits below `L`. -/
def maskOf (l : Nat) (p : Nat → Bool) : BitVec 64 :=
  BitVec.ofNat 64 ((List.range l).foldl (fun a j => a + (if p j then 2 ^ j else 0)) 0)

/-- VCMP (R113). -/
def vcmpBody (f : VForm) (s : State) : Eff :=
  let x := curSlot s
  let n := tyBits f.ty
  let m := vMask x f
  let r := fun j : Nat =>
    if tyIsInt f.ty then (cmpCond f.sub.toNat (intOf f.ty (vA x f j)) (intOf f.ty (vB x f j)), (0 : Flags))
    else fpCmp (fmtOf f.ty) f.sub.toNat (vA x f j) (vB x f j)
  let fl := (List.range (lanes n)).foldl (fun a j => if m.getLsbD j then a ||| (r j).2 else a) (0 : Flags)
  let old := mGet x f.d.toNat
  let v := maskOf (lanes n) (fun j => if m.getLsbD j then (r j).1 else !f.zm && old.getLsbD j)
  finishFl s fl (fun x => mPut x f.d.toNat v)

/-- VCMP (R113): D names a mask. -/
def execVcmp (g : Guard) (f : VForm) (s : State) : Out_ :=
  issue g (.dm f.d :: .v f.a :: (if f.i then [] else [.v f.b])) false (vcmpBody f) s

/-- Writes all of V[D] from its elements, without a mask. -/
def vecAll (f : VForm) (op : Slot → Nat → Nat) (s : State) : Eff :=
  .done (withCur s (fun x => vPut x f.d
    (packElems (tyBits f.ty) ((List.range (lanes (tyBits f.ty))).map (op x)))))

/-- VSEL (R114). -/
def execVsel (g : Guard) (f : VForm) (s : State) : Out_ :=
  issue g (usesV2 f) false
    (vecAll f (fun x j => if (mGet x f.c.toNat).getLsbD j then vA x f j else vB x f j)) s

/-- VBCAST (R114): A is scalar. -/
def execVbcast (g : Guard) (f : VForm) (s : State) : Out_ :=
  issue g [.s f.a, .dv f.d] false
    (vecBits f (fun x _ => (if f.i then vImm f else sGet x f.a).toNat % 2 ^ tyBits f.ty)) s

/-- The scalar operand B of VEXT, VINS and VROT, unsigned (R114). -/
def vScalB (x : Slot) (f : VForm) : Nat := (if f.i then vImm f else sGet x f.b).toNat

/-- VEXT (R114): D and B are scalar. -/
def execVext (g : Guard) (f : VForm) (s : State) : Out_ :=
  issue g [.v f.a, .s f.b, .ds f.d] false (fun s =>
    .done (withCur s (fun x => sPut x f.d (extendTo f.ty (vA x f (vScalB x f % lanes (tyBits f.ty))))))) s

/-- VINS (R114): A and B are scalar. -/
def execVins (g : Guard) (f : VForm) (s : State) : Out_ :=
  issue g [.s f.a, .s f.b, .dv f.d] false
    (vecAll f (fun x j =>
      let n := tyBits f.ty
      if j = vScalB x f % lanes n then (sGet x f.a).toNat % 2 ^ n else elemOf n (vGet x f.d) j)) s

/-- VPERM (R114). -/
def execVperm (g : Guard) (f : VForm) (s : State) : Out_ :=
  issue g (usesV2 f) false (vecBits f (fun x j => vA x f (vB x f j % lanes (tyBits f.ty)))) s

/-- VROT (R114): B is scalar. -/
def execVrot (g : Guard) (f : VForm) (s : State) : Out_ :=
  issue g [.v f.a, .s f.b, .dv f.d] false
    (vecBits f (fun x j => vA x f ((j + vScalB x f) % lanes (tyBits f.ty)))) s

/-- VMOVI (R114). -/
def execVmovi (g : Guard) (f : VForm) (s : State) : Out_ :=
  issue g [.dv f.d] false
    (vecBits f (fun _ j =>
      wrapTo (tyBits f.ty) ((f.vimm.extractLsb' 0 22).toInt + j * (f.vimm.extractLsb' 22 21).toInt))) s

/-! ### Reductions (R79, R80, R115) -/

/-- One level of the tree: lane `i` combined with lane `i + w`, for the first `w` lanes. -/
def treeLevel (op : Nat → Nat → Nat × Flags) (w : Nat) (xs : List Nat) : List Nat × Flags :=
  let rs := (List.range w).map (fun i => op (xs.getD i 0) (xs.getD (i + w) 0))
  (rs.map (·.1), rs.foldl (fun a r => a ||| r.2) 0)

/-- The tree of R79 over `2 ^ k` lanes. -/
def treeFold (op : Nat → Nat → Nat × Flags) (k : Nat) (xs : List Nat) (fl : Flags) : Nat × Flags :=
  match k with
  | 0 => (xs.getD 0 0, fl)
  | j + 1 => let r := treeLevel op (2 ^ j) xs; treeFold op j r.1 (fl ||| r.2)

/-- The sequential scan of R80 from the accumulated value on. -/
def scanFold (op : Nat → Nat → Nat × Flags) (acc : Nat) (xs : List Nat) (fl : Flags) : List Nat × Flags :=
  match xs with
  | [] => ([], fl)
  | y :: r =>
    let z := op acc y
    let t := scanFold op z.1 r (fl ||| z.2)
    (z.1 :: t.1, t.2)

/-- Addition of the reductions: wrapping, saturating or rounded (R115). -/
def redAdd (x : Slot) (f : VForm) (a b : Nat) : Nat × Flags :=
  if tyIsInt f.ty then narrow f.ty (f.sub = 1) (intOf f.ty a + intOf f.ty b)
  else fpAdd (fmtOf f.ty) (rmOf x f.sub) a b

/-- Minimum or maximum of the reductions (R115). -/
def redMinMax (f : VForm) (isMax : Bool) (a b : Nat) : Nat × Flags :=
  if tyIsInt f.ty then
    (wrapTo (tyBits f.ty) (if isMax then max (intOf f.ty a) (intOf f.ty b) else min (intOf f.ty a) (intOf f.ty b)), 0)
  else fpMinMax (fmtOf f.ty) isMax a b

/-- The identities of R115. -/
def idAdd (t : Ty) : Nat := if tyIsInt t then 0 else signBit (fmtOf t) true
def idMin (t : Ty) : Nat := if tyIsInt t then wrapTo (tyBits t) (tyMax t) else infPat (fmtOf t) false
def idMax (t : Ty) : Nat := if tyIsInt t then wrapTo (tyBits t) (tyMin t) else infPat (fmtOf t) true

/-- The lanes of V[A], inactive ones as the identity. -/
def redLanes (x : Slot) (f : VForm) (ident : Nat) : List Nat :=
  (List.range (lanes (tyBits f.ty))).map (fun j => if (vMask x f).getLsbD j then vA x f j else ident)

/-- A reduction to a scalar (R115). -/
def reduceBody (f : VForm) (op : Nat → Nat → Nat × Flags) (ident : Nat) (s : State) : Eff :=
  let x := curSlot s
  let r := treeFold op (Nat.log2 (lanes (tyBits f.ty))) (redLanes x f ident) 0
  finishFl s r.2 (fun x => sPut x f.d (extendTo f.ty r.1))

/-- VREDSUM (R115): D is scalar. -/
def execVredsum (g : Guard) (f : VForm) (s : State) : Out_ :=
  issue g [.v f.a, .ds f.d] false (fun s => reduceBody f (redAdd (curSlot s) f) (idAdd f.ty) s) s

/-- VREDMIN (R115). -/
def execVredmin (g : Guard) (f : VForm) (s : State) : Out_ :=
  issue g [.v f.a, .ds f.d] false (reduceBody f (redMinMax f false) (idMin f.ty)) s

/-- VREDMAX (R115). -/
def execVredmax (g : Guard) (f : VForm) (s : State) : Out_ :=
  issue g [.v f.a, .ds f.d] false (reduceBody f (redMinMax f true) (idMax f.ty)) s

/-- VSCAN (R115). -/
def vscanBody (f : VForm) (s : State) : Eff :=
  let x := curSlot s
  let n := tyBits f.ty
  match redLanes x f (idAdd f.ty) with
  | [] => .done s
  | y :: r =>
    let t := scanFold (redAdd x f) y r 0
    let v := mapActive n (vMask x f) f.zm (vGet x f.d) (fun j => ((y :: t.1).getD j 0, 0))
    writeV f t.2 s v.1

/-- VSCAN (R115). -/
def execVscan (g : Guard) (f : VForm) (s : State) : Out_ := issue g (usesV1 f) false (vscanBody f) s

/-- VRCP (R126). -/
def execVrcp (g : Guard) (f : VForm) (s : State) : Out_ :=
  issue g (usesV1 f) true (vecDeferred f (fun a _ _ => a) (fun t rm a _ _ => fpRcp t rm a)) s

/-- VRSQ (R126). -/
def execVrsq (g : Guard) (f : VForm) (s : State) : Out_ :=
  issue g (usesV1 f) true (vecDeferred f (fun a _ _ => a) (fun t rm a _ _ => fpRsq t rm a)) s

/-- VEXP2 (R126). -/
def execVexp2 (g : Guard) (f : VForm) (s : State) : Out_ :=
  issue g (usesV1 f) true (vecDeferred f (fun a _ _ => a) (fun t rm a _ _ => fpExp2 t rm a)) s

/-- VLOG2 (R126). -/
def execVlog2 (g : Guard) (f : VForm) (s : State) : Out_ :=
  issue g (usesV1 f) true (vecDeferred f (fun a _ _ => a) (fun t rm a _ _ => fpLog2 t rm a)) s

/-! ### Masks (R127) -/

/-- Mask operands A and B, inverted as SUB says. -/
def maskA (x : Slot) (f : VForm) : BitVec 64 := if f.sub.getLsbD 0 then ~~~mGet x f.a.toNat else mGet x f.a.toNat
def maskB (x : Slot) (f : VForm) : BitVec 64 := if f.sub.getLsbD 1 then ~~~mGet x f.b.toNat else mGet x f.b.toNat

/-- Writes a mask. -/
def writeM (d : RegIx) (op : Slot → BitVec 64) (s : State) : Eff := .done (withCur s (fun x => mPut x d.toNat (op x)))

/-- MAND (R127). -/
def execMand (g : Guard) (f : VForm) (s : State) : Out_ := issue g [.dm f.d] false (writeM f.d (fun x => maskA x f &&& maskB x f)) s

/-- MOR (R127). -/
def execMor (g : Guard) (f : VForm) (s : State) : Out_ := issue g [.dm f.d] false (writeM f.d (fun x => maskA x f ||| maskB x f)) s

/-- MXOR (R127). -/
def execMxor (g : Guard) (f : VForm) (s : State) : Out_ := issue g [.dm f.d] false (writeM f.d (fun x => maskA x f ^^^ maskB x f)) s

/-- MNOT (R127). -/
def execMnot (g : Guard) (f : VForm) (s : State) : Out_ := issue g [.dm f.d] false (writeM f.d (fun x => ~~~mGet x f.a.toNat)) s

/-- MPOP (R127). -/
def execMpop (g : Guard) (f : VForm) (s : State) : Out_ :=
  issue g [.ds f.d] false (fun s =>
    .done (withCur s (fun x => sPut x f.d (BitVec.ofNat 64 (popCount 64 (mGet x f.a.toNat).toNat))))) s

/-- MFIRST (R127). -/
def execMfirst (g : Guard) (f : VForm) (s : State) : Out_ :=
  issue g [.ds f.d] false (fun s =>
    .done (withCur s (fun x => sPut x f.d (BitVec.ofNat 64 (ctzOf 64 (mGet x f.a.toNat).toNat))))) s

/-- MMOV by SUB (R127). -/
def mmovBody (f : VForm) (s : State) : Eff :=
  match f.sub.toNat with
  | 0 => writeM f.d (fun x => if f.i then vImm f else sGet x f.a) s
  | 1 => .done (withCur s (fun x => sPut x f.d (mGet x f.a.toNat)))
  | _ => writeM f.d (fun x => mGet x f.a.toNat) s

/-- MMOV (R127). -/
def execMmov (g : Guard) (f : VForm) (s : State) : Out_ :=
  issue g (match f.sub.toNat with | 0 => [.s f.a, .dm f.d] | 1 => [.ds f.d] | _ => [.dm f.d]) false (mmovBody f) s

end Sys2Proof.Machine
end

