-- ==== Sys2Proof/Machine/VecMem.lean ====
section
/-!
DEFINITION. The vector memory instructions (R128-R132).
-/

namespace Sys2Proof.Machine

/-- How an instruction places its elements (R128). -/
inductive VAddr where
  | contiguous | strided | indexed | single
deriving DecidableEq, Repr

/-- Base address (R128): with a vector index B is no part of it. -/
def vBase (x : Slot) (f : MForm) (k : VAddr) : Word :=
  match k with
  | .contiguous | .single => eaOf x f
  | _ => sGet x f.a + f.off.signExtend 64

/-- The index x_j of a gather or scatter (R128). -/
def vIndex (x : Slot) (f : MForm) (j : Nat) : Word :=
  let n := tyBits f.ty
  let e := elemOf n (vGet x f.b) j
  match f.ty with
  | .z8 | .z16 | .z32 | .z64 => BitVec.ofNat 64 e
  | _ => BitVec.ofInt 64 (sintOf n e)

/-- Address of element `j` (R128). -/
def vAddrOf (x : Slot) (f : MForm) (k : VAddr) (j : Nat) : Word :=
  let b := vBase x f k
  match k with
  | .contiguous => b + BitVec.ofNat 64 (j * tyBytes f.ty)
  | .single => b
  | .strided => b + BitVec.ofNat 64 j * (sGet x f.b <<< f.scale.toNat)
  | .indexed => b + (vIndex x f j <<< f.scale.toNat)

/-- The active elements with their addresses, in ascending order. -/
def vActive (x : Slot) (f : MForm) (k : VAddr) : List (Nat × Word) :=
  let m := mGet x f.mask.toNat
  ((List.range (lanes (tyBits f.ty))).filter (fun j => m.getLsbD j)).map (fun j => (j, vAddrOf x f k j))

/-- The region of R129 step 3: LOCAL, private, global, or one core's window. -/
def vRegion (a : Nat) : Option Nat :=
  if 0x100000000000000 ≤ a && a < 0x100000200000000 then some (3 + a / 2 ^ 20) else regionOf a

/-- The checks of R129, in order; the failing cause with its TRAPVAL. A footprint wholly inside the window of a core number of 384
or more lies in one window, so it passes step 3 and fails at step 4, with the first active element's address: the rule does
not say which of the two steps takes it (DESIGN CHOICE, log 32). -/
def vCheck (asid : BitVec 16) (x : Slot) (f : MForm) (k : VAddr) : Option (Cause × Word) :=
  let n := tyBytes f.ty
  let es := vActive x f k
  let ea := vBase x f k
  let free := k = .contiguous || k = .single
  if es.isEmpty then none
  else if free && ea.toNat % n != 0 then some (.dataAlign, ea)
  else match es.findSome? (fun e =>
      if e.2.extractLsb' 57 7 != 0 then some (Cause.access, e.2)
      else if !free && e.2.toNat % n != 0 then some (.dataAlign, e.2) else none) with
    | some r => some r
    | none =>
      let a := match es.head? with | some (_, v) => v.toNat | none => 0
      let b := (match es.getLast? with | some (_, v) => v.toNat | none => 0) + n - 1
      if k = .contiguous && (vRegion a = none || vRegion a != vRegion b) then some (.access, ea)
      else es.findSome? (fun e => if addrBad asid e.2 then some (.access, e.2) else none)

/-- The atomic units of the active elements (R131): a naturally aligned 8-byte word of contiguous active elements is one,
any other element stands alone. `n` bounds the elements left. -/
def vUnits (w8 : Nat) (merge : Bool) (es : List (Nat × Word)) (n : Nat) : List (Nat × Word × Nat) :=
  match n, es with
  | 0, _ | _, [] => []
  | k + 1, (j, a) :: r =>
    let q := 8 / w8
    let run := ((j, a) :: r).take q
    if merge && decide (w8 < 8) && a.toNat % 8 = 0 && run.length = q && run.map (·.1) = (List.range q).map (· + j) then
      (j, a, 8) :: vUnits w8 merge (((j, a) :: r).drop q) k
    else (j, a, w8) :: vUnits w8 merge r k

/-- The units of an instruction with their places in the register. -/
def vAccUnits (x : Slot) (f : MForm) (k : VAddr) (data : Option VWord) : List AccUnit :=
  let w8 := tyBytes f.ty
  let es := if k = .single then (vActive x f k).take 1 else vActive x f k
  (vUnits w8 (k = .contiguous) es es.length).map (fun u =>
    let off := if k = .single then 0 else u.1 * tyBits f.ty
    ⟨u.2.1, u.2.2, off, data.map (fun d => (d.extractLsb' off (8 * u.2.2)).zeroExtend 128)⟩)

/-- The register after a vector load (R108, R128): the loaded elements merged into the old value. -/
def vMerge (t : Ty) (zm : Bool) (mask : BitVec 64) (bcast : Bool) (old : VWord) (us : List AccUnit) : VWord :=
  let n := tyBits t
  let got : VWord := us.foldl (fun a u => a ||| ((u.val.getD 0).zeroExtend 512 <<< u.off)) 0
  packElems n ((List.range (lanes n)).map (fun j =>
    if mask.getLsbD j then elemOf n got (if bcast then 0 else j) else if zm then 0 else elemOf n old j))

/-- All active elements lie in the LOCAL window (R130). -/
def vLocal (x : Slot) (f : MForm) (k : VAddr) : Bool := (vActive x f k).all (fun e => inLocal e.2)

/-- Reads units of the LOCAL window in order: the first address that meets an uncorrectable word, else the units filled. -/
def vLocalUnits (s : State) (w : SlotRef) (us : List AccUnit) : Except Word (List AccUnit × State) :=
  match us with
  | [] => .ok ([], s)
  | u :: r =>
    match localRead s w u.va u.n false with
    | none => .error u.va
    | some (v, s') =>
      match vLocalUnits s' w r with
      | .error a => .error a
      | .ok (us', s'') => .ok ({ u with val := some (BitVec.ofNat 128 v) } :: us', s'')

/-- A vector load: deferred unless every active element is LOCAL and it is no gather. -/
def vDeferred (f : MForm) (k : VAddr) (s : State) : Bool := k = .indexed || !vLocal (curSlot s) f k

/-- A vector load (R128-R131). -/
def vLoadBody (f : MForm) (k : VAddr) (s : State) : Eff :=
  let w := s.cur
  let x := curSlot s
  let mask := mGet x f.mask.toNat
  let us := vAccUnits x f k none
  let bc := k = .single
  if ldaOut x then .stall s
  else match vCheck (coreOf s w).ident.asid x f k with
    | some (c, v) => .fault c v
    | none =>
      if !vDeferred f k s then
        if !localFree s w us then .stall s
        else match vLocalUnits s w us with
        | .error a => .fault .poison a
        | .ok (us', s') => .done (withCur s' (fun x => vPut x f.d (vMerge f.ty f.zm mask bc (vGet x f.d) us')))
      else
        .done (sendAccess s (.vload f.ty f.zm mask bc) us (.vreg f.d))

/-- A vector store (R128-R132). -/
def vStoreBody (f : MForm) (k : VAddr) (s : State) : Eff :=
  let w := s.cur
  let x := curSlot s
  if ldaOut x then .stall s
  else match vCheck (coreOf s w).ident.asid x f k with
    | some (c, v) => .fault c v
    | none =>
      match confine w x ((vActive x f k).map (fun e => (e.2, tyBytes f.ty))) with
      | some v => .fault .containment v
      | none =>
        match bufferBoth s (vAccUnits x f k (some (vGet x f.c))) none none with
        | none => .stall s
        | some s' => .done s'

/-- The accesses of the active elements, for the watchpoints (R320). -/
def vLoadAccs (f : MForm) (k : VAddr) (s : State) : List Acc :=
  (vActive (curSlot s) f k).map (fun e => .load e.2 (tyBytes f.ty))
def vStoreAccs (f : MForm) (k : VAddr) (s : State) : List Acc :=
  (vActive (curSlot s) f k).map (fun e =>
    .store e.2 (tyBytes f.ty) (BitVec.ofNat 64 (elemOf (tyBits f.ty) (vGet (curSlot s) f.c) e.1)))

/-- VLD (R128). -/
def execVld (g : Guard) (f : MForm) (s : State) : Out_ :=
  issue g (.dv f.d :: usesM f) (vDeferred f .contiguous s) (vLoadBody f .contiguous) s (vLoadAccs f .contiguous)

/-- VLDB (R128). -/
def execVldb (g : Guard) (f : MForm) (s : State) : Out_ :=
  issue g (.dv f.d :: usesM f) (vDeferred f .single s) (vLoadBody f .single) s (vLoadAccs f .single)

/-- VLDS (R128). -/
def execVlds (g : Guard) (f : MForm) (s : State) : Out_ :=
  issue g (.dv f.d :: usesM f) (vDeferred f .strided s) (vLoadBody f .strided) s (vLoadAccs f .strided)

/-- VGATHER (R128). -/
def execVgather (g : Guard) (f : MForm) (s : State) : Out_ :=
  issue g [.dv f.d, .s f.a, .v f.b] true (vLoadBody f .indexed) s (vLoadAccs f .indexed)

/-- VST (R128). -/
def execVst (g : Guard) (f : MForm) (s : State) : Out_ :=
  issue g (.v f.c :: usesM f) false (vStoreBody f .contiguous) s (vStoreAccs f .contiguous)

/-- VSTS (R128). -/
def execVsts (g : Guard) (f : MForm) (s : State) : Out_ :=
  issue g (.v f.c :: usesM f) false (vStoreBody f .strided) s (vStoreAccs f .strided)

/-- VSCATTER (R128, R132). -/
def execVscatter (g : Guard) (f : MForm) (s : State) : Out_ :=
  issue g [.v f.c, .s f.a, .v f.b] false (vStoreBody f .indexed) s (vStoreAccs f .indexed)

end Sys2Proof.Machine
end

