-- ==== Sys2Proof/Machine/EvSlot.lean ====
section
/-!
DEFINITION. The events of a slot: results that return or fail, faults and traps taken, resumptions, rollbacks, and page
faults (R18, R194-R199, R283-R286, R296).
-/

namespace Sys2Proof.Machine

/-! ### Results -/

/-- The value of an outstanding result whose parts are all there. -/
def outValue (x : Slot) (o : Out) : Option VWord :=
  let v := ((o.units.head?.bind (·.val)).getD 0).toNat
  if o.units.any (·.val.isNone) then none
  else match o.kind with
    | .value y => some y
    | .load t _ | .ldc t _ _ | .amo _ t _ _ | .cas t _ _ _ => some (loadVal t v)
    | .ldp | .cas2 .. => some (BitVec.ofNat 512 v)
    | .vload t zm m bc => some (match o.dst with | .vreg r => vMerge t zm m bc (vGet x r) o.units | _ => 0)
    | .recv e => e
    | .send st | .cmd _ st => st.map (·.zeroExtend 512)

/-- A result is written, its pending mark cleared, and a park or an end that waited for it may go on (R18, R20, R101, R177).
While a rollback or an end waits, the result is discarded (R296, R177). -/
def returnOut (s : State) (w : SlotRef) (o : Out) (v : VWord) : State :=
  let x := slotAt s w
  let drop := (match x.stop with | some st => st.roll.isSome | none => false) ||
    (match x.st with | .ending _ => true | _ => x.wasEnding.isSome)
  let x := unmarkDst x o.dst
  let x := if drop then x else writeDst x o.dst v
  let outs := x.outs.filter (fun p => p.id != o.id)
  let st := match x.st with
    | .parked .defer sw => if outs.isEmpty then .ready else .parked .defer sw
    | .parked (.result id) sw =>
      if id != o.id then .parked (.result id) sw else if sw && !outs.isEmpty then .parked .defer false else .ready
    | t => t
  slotEnd (unstall (setSlot s w { x with outs := outs, st := st }) (coreRefOf w)) w

/-- Unit `j` of an access is performed here, not at a lender (R365). -/
def performHere (s : State) (w : SlotRef) (i j : Nat) : State :=
  match (slotAt s w).outs.find? (fun o => o.id = i) with
  | none => s
  | some o =>
    match o.units[j]? with
    | some u => if isRemote s (whoAs s w o.pkey o.supv) u.va then s else performUnit s w o j
    | none => s

/-- DEFERRED_RESULT_RETURN (R18): one unit of an access is performed, or with none the units left are, and the result
returns. -/
def execDeferredResultReturn (w : SlotRef) (i : Nat) (unit : Option Nat) (s : State) : Out_ :=
  match unit with
  | some j => .next (settleArrivals (performHere s w i j) (coreRefOf w))
  | none =>
    let n := match (slotAt s w).outs.find? (fun o => o.id = i) with | some o => o.units.length | none => 0
    let s := (List.range n).foldl (fun s j => performHere s w i j) s
    match (slotAt s w).outs.find? (fun o => o.id = i) with
    | none => .next s
    | some o =>
      match outValue (slotAt s w) o with
      | some v => .next (settleArrivals (returnOut s w o v) (coreRefOf w))
      | none => .next s

/-! ### Failures -/

/-- A failed store is reported to the slot that issued it, to its swapped context, or to nobody when the slot has ended
(R194). -/
def failStore (s : State) (c : CoreRef) (e : StEnt) (k : Cause) (va : Word) : State :=
  if e.k < 4 then raiseDeferred s (slotOf c e.k) k va e.pc (.store e)
  else
    let x := coreAt s c
    setCore s c { x with swapped := x.swapped.map (fun t =>
      if t.id + 8 = e.k then
        { t with slot := { t.slot with held := t.slot.held ++ [⟨k, va, e.pc, t.slot.pc, .store e⟩] } }
      else t) }

/-- The whole store of an entry's instruction: what is made again after its failure. -/
def wholeStore (s : State) (c : CoreRef) (e : StEnt) : StEnt :=
  if e.begun then e else { e with units := (groupOf s (slotOf c 0) e).flatMap (·.units) }

/-- A failed store is removed: every access of its instruction, unless one is already performed (R129, R194). -/
def dropStore (s : State) (c : CoreRef) (e : StEnt) : State :=
  let keep := fun d : StEnt => if e.begun then d.id != e.id else !(d.grp = e.grp && d.k = e.k)
  let x := coreAt s c
  liftVeils (setCore s c { x with sbuf := x.sbuf.filter keep, fq := x.fq.filter keep })

/-- A store reports a failure and is removed; the home has translated the page (R190, R194). -/
def reportStore (s : State) (c : CoreRef) (e : StEnt) (k : Cause) (va : Word) : State :=
  let s1 := failSeen s (whoAs s (slotOf c 0) e.pkey e.supv) va
  unstall (settleArrivals (failStore (dropStore s1 c e) c (wholeStore s c e) k va) c) c

/-- What a buffered store fails with, if it does: one of which nothing is written yet with the first access of its whole instruction
that fails, any other with the first of these units that has what it must follow behind it (R129, R194). -/
def storeFailure (s : State) (c : CoreRef) (e : StEnt) (us : List AccUnit) : Option (Cause × Word) :=
  let w := slotOf c 0
  let us := us.filter (storeOrder s w e)
  if us.isEmpty then none
  else if e.begun then us.findSome? (fun u => match tryStore s w e u with | .fail k => some (k, u.va) | _ => none)
  else groupFailure s w e

/-- The failure that a buffered store meets, reported. -/
def failOrStay (s : State) (c : CoreRef) (e : StEnt) (us : List AccUnit) : State :=
  match storeFailure s c e us with | some (k, va) => reportStore s c e k va | none => s

/-- DEFERRED_FAILURE (R194): the access named meets its failing check. A failed load leaves its destination pending; a failed
store is removed. -/
def execDeferredFailure (a : AccRef) (s : State) : Out_ :=
  match a with
  | .out w i =>
    (match (slotAt s w).outs.find? (fun o => o.id = i) with
     | none => .next s
     | some o =>
       match outFailure s w o with
       | none => .next s
       | some (c, va) =>
         let x := slotAt s w
         let s1 := setSlot (failSeen s (whoAs s w o.pkey o.supv) va) w { x with outs := x.outs.filter (fun p => p.id != i) }
         .next (unstall (settleArrivals (raiseDeferred s1 w c va o.pc (.out o)) (coreRefOf w)) (coreRefOf w)))
  | .near c =>
    (match (coreAt s c).sbuf with
     | e :: _ => .next (failOrStay s c e (e.units.take 1))
     | [] => .next s)
  | .far c i =>
    (match (coreAt s c).fq.find? (fun e => e.id = i) with
     | none => .next s
     | some e => .next (failOrStay s c e e.units))

/-! ### Faults, traps and rollbacks -/

/-- FAULT_DELIVERY (R283): a task-mode slot whose results have returned enters FAULTED. -/
def execFaultDelivery (w : SlotRef) (s : State) : Out_ :=
  match (slotAt s w).stop with
  | some st => .next (if st.roll.isNone && !(slotAt s w).supv then settleStop s w else s)
  | none => .next s

/-- LOCAL_TRAP_ENTRY (R286). -/
def execLocalTrapEntry (w : SlotRef) (s : State) : Out_ :=
  match (slotAt s w).stop with
  | some st => .next (if st.roll.isNone && (slotAt s w).supv then settleStop s w else s)
  | none => .next s

/-- CD_ROLLBACK (R296). -/
def execCdRollback (w : SlotRef) (s : State) : Out_ :=
  match (slotAt s w).stop with
  | some st => .next (if st.roll.isSome then settleStop s w else s)
  | none => .next s

/-- The cause of a code (R282). -/
def causeOf (n : Nat) : Cause :=
  ([.none, .illegalInstr, .illegalLine, .lineParity, .fetchAlign, .branchTarget, .pendingAccess, .dataAlign, .access,
    .residency, .fpException, .format, .containment, .residue, .poison, .barrier, .engineCmd, .remoteFailure, .leaseRevoked,
    .breakpoint, .watchpoint, .trapInstr] : List Cause).getD n .privilege

/-- A resumed slot goes on: an EXIT or TEND goes on ending, and a held failure is reported before anything else (R177,
R285). -/
def goOn (s : State) (w : SlotRef) : State :=
  let x := slotAt s w
  let out := match x.failed with | .footOut _ => true | _ => false
  let x := { x with st := (match x.wasEnding with | some t => .ending t | none => if out then .ending true else .ready),
                    failed := .none, wasEnding := none, stalled := false }
  let s := setSlot s w x
  match x.st with
  | .ending _ => if x.held.isEmpty then slotEnd s w else reportHeld s w
  | _ => s

/-- A resumption at a given PC, checked under R14 and reported in the slot. -/
def goAt (s : State) (w : SlotRef) (pc : Word) : State :=
  let x := slotAt s w
  let s := setSlot s w (bufferJump { x with st := .ready, failed := .none, wasEnding := none, pc := pc, stalled := false } pc)
  let s' := fixFetch s w pc
  match checkTarget s w pc with
  | none => s'
  | some c => raisePrecise s' w c pc

/-- A skipped instruction: the PC moves to the next cell. -/
def skipCell (s : State) (w : SlotRef) : State :=
  goOn (setSlot s w { slotAt s w with pc := nextCell (slotAt s w).pc, failed := .none }) w

/-- Actions 0 to 2 of R285 on a FAULTED slot; none while an access made again has to wait for its page. -/
def resumeAct (s : State) (w : SlotRef) (act : Nat) (pc : Word) : State × Bool :=
  let x := slotAt s w
  let t := x.trap
  let cause := if t.cause = 12 && t.val.toNat / 2 ^ 60 = 7 then Cause.none else causeOf t.cause.toNat
  if t.esc then
    match act, x.failed with
    | 0, acc =>
      let fs := x.frames.map (fun f => { f with retries := 0 })
      (raiseStop (setSlot s w { x with st := .ready, frames := fs }) w
        ⟨cause, if cause = .none then 0 else t.val, t.pc, x.pc, t.defer, false, acc, some .innermost⟩, true)
    | 1, .close => (skipCell (setSlot s w (closeFrame x)) w, true)
    | 1, _ =>
      -- the failed access's instruction is skipped: the slot goes on at the cell after it, nothing pending (log 26)
      if t.defer then (skipCell (setSlot s w (bufferJump { dropFailed x with pc := t.pc } (nextCell t.pc))) w, true)
      else (skipCell s w, true)
    | _, _ => (goAt (setSlot s w (dropFailed x)) w pc, true)
  else if t.defer then
    match act with
    | 0 =>
      (match redoAcc s w x.failed with
       | .ok s' => (goOn s' w, true)
       | .fail s' c a =>
         let s' := goOn s' w
         (raiseDeferred s' w c a t.pc x.failed, true)
       | .wait s' => (s', false))
    | 1 => (goOn (setSlot s w (match x.failed with | .footOut _ => x | _ => skipFailed x)) w, true)
    | _ =>
      (match x.failed, x.wasEnding with
       | .footOut _, _ => (goOn s w, true)
       | _, some _ => (goOn (setSlot s w (skipFailed x)) w, true)
       | _, none => (goAt (setSlot s w (dropFailed x)) w pc, true))
  else match act with
    | 0 => (goOn s w, true)
    | 1 => (skipCell s w, true)
    | _ => (goAt s w pc, true)

/-- `.killtask` (R285): a RECV of a slot that ends claims nothing (R171, R177). -/
def killTask (s : State) (w : SlotRef) : State :=
  let s := withdraw s w
  match (slotAt s w).task with
  | .walked .. => endWalked s w
  | _ => freeSlot s w

/-- The slot an EPA of die 0 to 15 names on a module. -/
def pokeSlot (p : Poke) : SlotRef := epaTarget ⟨p.dest, 0, 0, 0⟩ p.epa

/-- A launch that is saved, or on its way there, takes no RESUME: it is held until the restore (R317). -/
def launchAway (s : State) (w : SlotRef) : Bool :=
  match (launchOf s w).bind (launchAt s) with
  | some l => l.phase = .saving || l.phase = .saved
  | none => false

/-- A RESUME for a FAULTED slot of a saved launch is kept with that launch until its restore; any other is discarded (R307,
R317). -/
def holdResume (s : State) (w : SlotRef) (p : Poke) : State :=
  let l := s.launches.map (fun q =>
    if q.2.phase = .saved && (tget q.2.slots Slot.reset (slotKey w)).st = .faulted then
      (q.1, { q.2 with resumes := q.2.resumes ++ [p] })
    else q)
  { s with launches := l }

/-- RESUME_DELIVERY (R285, R307): the `i`-th RESUME in flight reaches its slot. -/
def execResumeDelivery (i : Nat) (s : State) : Out_ :=
  match s.resumes[i]? with
  | none => .next s
  | some p =>
    let w := pokeSlot p
    let s1 := { s with resumes := dropAt s.resumes i }
    if !corePresent (modAt s w.m) w.d w.c then .next s1
    else if (coreOf s w).launch.isNone || (slotAt s w).st != .faulted then .next (holdResume s1 w p)
    else if launchAway s w then .next s
    else if p.act = 3 then .next (killTask s1 w)
    else if p.act = 4 then .next (killOf s1 w 2)
    else
      let r := resumeAct s1 w p.act p.pc
      .next (if r.2 then r.1 else { r.1 with resumes := s.resumes })

/-! ### Page faults -/

/-- The page is not present (R190). -/
def pageAbsent (s : State) (p : PageRef) : Bool :=
  match walkPage s p.m p.tag (p.pn * 65536) with | .absent _ => true | _ => false

/-- The result can wait in a saved context: a RECV, or an access that has found its page absent or follows one of the
slot that has (R196). -/
def canSwap (s : State) (w : SlotRef) (o : Out) : Bool :=
  match o.kind with
  | .recv none => true
  | .recv _ | .value _ | .send _ | .cmd .. => false
  | _ =>
    o.units.any (·.val.isNone) &&
    (List.range o.units.length).all (fun j =>
      match o.units[j]? with
      | some u => u.val.isSome || selfAfter s w o j ||
          (unitReady s w o j && (match tryUnit s w o u with | .absent _ => true | _ => false))
      | none => true)

/-- Entries of the inbox and ring addressed to a slot, or bound to its context since an earlier swap, are bound to the context
(R197). -/
def bindEntries (s : State) (w : SlotRef) (id : Nat) : State :=
  let c := coreOf s w
  let old := (slotAt s w).bindId
  let ring := c.spill.bound.mapIdx (fun i b => match b with
    | none => if c.spill.dests.getD i 4 = w.k then some id else none
    | some j => if old = some j then some id else some j)
  setCoreOf s w { c with
    inbox := c.inbox.map (fun e => if entryFor w.k e then { e with bound := some id } else e),
    spill := { c.spill with bound := ring } }

/-- CONTEXT_SWAP_OUT (R196): the context is saved and its slot FREE. -/
def execContextSwapOut (w : SlotRef) (s : State) : Out_ :=
  let x := slotAt s w
  let live := match x.st with | .ready | .parked _ _ | .ending _ => true | _ => false
  if !live || x.swapReq.isEmpty || x.stop.isSome || !x.outs.all (canSwap s w) then .next s
  else
    let i := freshId s
    let s := bindEntries i.2 w i.1
    let c := coreOf s w
    let own := fun e : StEnt => if e.k = w.k then { e with k := i.1 + 8 } else e
    let me := epaOf w false
    let net := s.net.map (fun m =>
      if m.src = w && entryKind m.raw = 1 && (m.epa = me || epaTarget w m.epa = w) then { m with ctx := some i.1 } else m)
    let s := setCoreOf { s with net := net } w { c with
      swapped := c.swapped ++ [⟨i.1, x, w.k⟩], sbuf := c.sbuf.map own, fq := c.fq.map own }
    let cmds := s.cmds.map (fun k => if k.w = w && k.ctx.isNone then { k with ctx := some i.1 } else k)
    .next (setSlot { s with cmds := cmds } w Slot.reset)

/-- Row of block `k` of a module in tray `t`. -/
def rowOfBlock (t k : Nat) : Nat :=
  8 * (k / 6) + ((List.range 8).filter (fun v => v != t && v != (t + 7) % 8)).getD (k % 6) 0

/-- The block number of a protected page. -/
def blockOf (x : Mod) (p : PageRef) : Option Nat := (x.protNum.find? (fun q => q.1 = p)).map (·.2)

/-- A page that firmware protects is given a number that is unique in the module (R375); which one is not stated (log 17). -/
def numberPage (s : State) (p : PageRef) (e : Word) : State :=
  let x := modAt s p.m
  if !leafV e || !leafProt e || (blockOf x p).isSome then s
  else
    let k := Config.freePick (s.clk + p.pn)
    let n := if x.protNum.any (fun q => q.2 = k) then x.protNum.foldl (fun n q => max n (q.2 + 1)) 0 else k
    setMod s p.m { x with protNum := x.protNum ++ [(p, n)] }

/-- A leaf that firmware writes gives its page a number; the governing leaf of a 16 MiB page gives 256 (R375). -/
def numberPages (s : State) (p : PageRef) (e : Word) : State :=
  if leafPs e = 1 then
    if p.pn % 256 = 0 then (List.range 256).foldl (fun s i => numberPage s { p with pn := p.pn + i } e) s else s
  else numberPage s p e

/-- An outstanding LDC whose page was not present at its issue takes the value that its location holds as the page comes in: none was
known before (R205). -/
def fillSnap (s : State) (w : SlotRef) (o : Out) : Out :=
  match o.kind, o.units with
  | .ldc t none false, u :: _ =>
    (match ldcPlace s w u.va with
     | .line f _ _ _ _ _ =>
       if poisonAt s f || eccBad s f u.n then { o with kind := .ldc t none true }
       else { o with kind := .ldc t (some (memRead s.mem f u.n)) false }
     | .hostMem f _ => { o with kind := .ldc t (some (memRead s.mem f u.n)) false }
     | _ => o)
  | _, _ => o

/-- A page has come in: LDCs that found it not present take its contents (R205). -/
def fillSnaps (s : State) : State :=
  { s with
    slots := s.slots.map (fun q => (q.1, { q.2 with
      outs := q.2.outs.map (fillSnap s (slotOf ⟨q.1 / 4 / 512 / 16, q.1 / 4 / 512 % 16, q.1 / 4 % 512⟩ (q.1 % 4))) })),
    cores := s.cores.map (fun q => (q.1, { q.2 with
      swapped := q.2.swapped.map (fun t => { t with slot := { t.slot with
        outs := t.slot.outs.map (fillSnap s (slotOf ⟨q.1 / 512 / 16, q.1 / 512 % 16, q.1 % 512⟩ 0)) } }) })) }

/-- Every page that the context waits for has been answered (R196). -/
def ctxReady (s : State) (c : CoreRef) (t : Ctx) : Bool :=
  t.slot.swapReq.all (fun p => !pageAbsent s p || (pageAt s p).noRoom.isSome) &&
    t.slot.outs.all (fun o => o.units.all (fun u => u.val.isSome ||
      (match resolve s (whoAs s (slotOf c 0) o.pkey o.supv) u.va false with
       | .absent p => (match (pageAt s p).noRoom with | some b => decide (o.id < b) | none => false)
       | _ => true)))

/-- A context of the core can be restored: it takes precedence over task dispatch (R196). -/
def ctxWaiting (s : State) (c : CoreRef) : Bool := (coreAt s c).swapped.any (ctxReady s c)

/-- The entry addressed to slot `k`. -/
def readdress (e : VWord) (k : Nat) : VWord :=
  (e &&& ~~~((0xFF#8).zeroExtend 512 <<< 40)) ||| ((BitVec.ofNat 512 k) <<< 40)

/-- The FREE slots of a core, one of them chosen freely. -/
def anyFree (s : State) (c : CoreRef) : Option SlotRef :=
  match (slotsOf c).filter (fun w => (slotAt s w).st = .free) with
  | [] => none
  | l => l[Config.freePick s.clk % l.length]?

/-- The waiting RECVs of a slot claim what is there (R171, R197). -/
def claimAll (s : State) (w : SlotRef) : State :=
  ((slotAt s w).outs.filter waitingRecv).foldl (fun s _ => claimEntry s w) s

/-- Entries of the ring bound to a context are readdressed in ring memory to the slot that it comes back into. -/
def readdressRing (s : State) (w : SlotRef) (id : Nat) : State :=
  let c := coreOf s w
  let s := (List.range c.spill.bound.length).foldl (fun s i =>
    if c.spill.bound.getD i none = some id then
      devWrite s (deviceOf s w) ((c.spill.base.zeroExtend 64 <<< 16) +
        BitVec.ofNat 64 ((c.spill.head + i) % (1024 * 2 ^ c.spill.size.toNat) * 64 + 5)) 1 w.k
    else s) s
  let c := coreOf s w
  setCoreOf s w { c with spill := { c.spill with
    dests := c.spill.dests.mapIdx (fun i k => if c.spill.bound.getD i none = some id then w.k else k) } }

/-- The RECVs of a context that comes back claim the inbox entries bound to it, oldest first (R197). -/
def claimBound (s : State) (w : SlotRef) (id n : Nat) : State :=
  match n with
  | 0 => s
  | n + 1 =>
    let c := coreOf s w
    match (slotAt s w).outs.find? waitingRecv, c.inbox.findIdx? (fun e => e.bound = some id) with
    | some o, some i =>
      (match c.inbox[i]? with
       | some e => claimBound (putOut (setCoreOf s w { c with inbox := dropAt c.inbox i }) w
           { o with kind := .recv (some (readdress e.raw w.k)) }) w id n
       | none => s)
    | _, _ => s

/-- What a parked slot waited for may have come while its context was away (R169, R173, R174, R245). -/
def recheckPark (s : State) (w : SlotRef) : State :=
  let x := slotAt s w
  match x.st with
  | .parked (.waitb n) sw => if (coreOf s w).closed.length ≤ n.toNat then setSlot s w (endPark x sw) else s
  | .parked (.barrier b n) sw =>
    (match barOf s w b with
     | some (_, _, q) => if n.toNat ≤ q.r then setSlot s w (endPark x sw) else s
     | none => s)
  | .parked (.waita ..) _ => recheckWait (setSlot s w { x with pendingWake := false }) w x.pendingWake
  | _ => s

/-- Puts a saved context into a FREE slot (R196, R197): its RECVs claim first what is bound to it. -/
def restoreCtx (s : State) (w : SlotRef) (t : Ctx) : State :=
  let s := readdressRing s w t.id
  let c := coreOf s w
  let own := fun e : StEnt => if e.k = t.id + 8 then { e with k := w.k } else e
  let s := setCoreOf s w { c with
    swapped := c.swapped.filter (fun u => u.id != t.id), sbuf := c.sbuf.map own, fq := c.fq.map own }
  let cmds := s.cmds.map (fun k => if k.ctx = some t.id then { k with ctx := none, w := w } else k)
  let s := setSlot { s with cmds := cmds } w { t.slot with
    swapReq := [], stalled := false, bindId := some t.id, waitFor := t.slot.waitFor.bind (fun q => match (pageAt s q.1).noRoom with
      | some b => if q.2 < b then some q else none
      | none => none) }
  let s := claimBound s w t.id t.slot.outs.length
  let c := coreOf s w
  let s := setCoreOf s w { c with inbox := c.inbox.map (fun e =>
    if e.bound = some t.id then { e with bound := none, raw := readdress e.raw w.k } else e) }
  let s := recheckPark (claimAll s w) w
  if t.slot.st != .ready && !t.slot.held.isEmpty && !t.slot.trap.inh then reportHeld s w else s

/-- CONTEXT_RESTORE (R196, R197): the context with identity `i`. -/
def execContextRestore (c : CoreRef) (i : Nat) (s : State) : Out_ :=
  match (coreAt s c).swapped.find? (fun t => t.id = i), anyFree s c with
  | some t, some w => .next (if ctxReady s c t then restoreCtx s w t else s)
  | _, _ => .next s

end Sys2Proof.Machine
end

