-- ==== Sys2Proof/Machine/EvMem.lean ====
section
/-!
DEFINITION. The events of a core's buffers, messages and registers: stores that drain, the log merge, messages, the spill
ring, wakes, accesses at a lender, and the writes of `EINJ` and of the registers with a delayed effect (R149-R152, R174,
R197, R203, R208, R290, R365-R366).
-/

namespace Sys2Proof.Machine

/-! ### Stores -/

/-- The entry without unit `j`. -/
def dropUnit (e : StEnt) (j : Nat) : StEnt := { e with units := dropAt e.units j }

/-- The entries of a buffer with one replaced, or removed when no unit is left. -/
def putEntry (l : List StEnt) (e : StEnt) : List StEnt :=
  if e.units.isEmpty then l.filter (fun d => d.id != e.id) else l.map (fun d => if d.id = e.id then e else d)

/-- A unit of a buffered store is gone: what waited for it may go on. -/
def storeGone (s : State) (c : CoreRef) (e : StEnt) : State :=
  let x := coreAt s c
  unstall (settleArrivals (liftVeils (setCore s c { x with sbuf := putEntry x.sbuf e, fq := putEntry x.fq e })) c) c

/-- One access of a store's instruction is performed: its other entries go on by themselves. -/
def beginGroup (s : State) (c : CoreRef) (e : StEnt) : State :=
  let go := fun d : StEnt => if d.grp = e.grp && d.k = e.k then { d with begun := true } else d
  let x := coreAt s c
  setCore s c { x with sbuf := x.sbuf.map go, fq := x.fq.map go }

/-- Performs unit `j` of a buffered store that has what it must follow behind it, when the accesses of its whole instruction pass
their checks (R129, R194); no earlier unit of it may meet the same byte (R132). A page that is not present is asked for
(R198). -/
def performStore (s : State) (c : CoreRef) (e : StEnt) (j : Nat) : State :=
  let w := slotOf c 0
  match e.units[j]? with
  | none => s
  | some u =>
    if dieStopped (modAt s c.m) c.d || !storeOrder s w e u || unitsMeet w (e.units.take j) [u] then s
    else match e.flush with
      | some all =>
        (match lineHome s (whoAs s w e.pkey e.supv) u.va all with
         | some s' => storeGone s' c (dropUnit e j)
         | none => s)
      | none =>
        match tryStore s w e u with
        | .ok s' _ =>
          if groupReady s w e then storeGone (beginGroup s' c e) c { dropUnit e j with begun := true } else askGroup s w e
        | .absent p => askPage s p
        | _ => s

/-- STORE_BUFFER_DRAIN (R208): the head of the store buffer performs, unit by unit. -/
def execStoreBufferDrain (c : CoreRef) (s : State) : Out_ :=
  match (coreAt s c).sbuf with
  | e :: _ => .next (performStore s c e 0)
  | [] => .next s

/-- FAR_STORE_DRAIN (R208): a unit of any entry of the far store queue performs, if it is not a lender's to perform. -/
def execFarStoreDrain (c : CoreRef) (i : Nat) (unit : Nat) (s : State) : Out_ :=
  match (coreAt s c).fq.find? (fun e => e.id = i) with
  | none => .next s
  | some e =>
    match e.units[unit]? with
    | none => .next s
    | some u =>
      if e.flush.isNone && isRemote s (whoAs s (slotOf c 0) e.pkey e.supv) u.va then .next s
      else .next (performStore s c e unit)

/-- REMOTE_ACCESS_ARRIVAL (R365, R366): a unit of an access to a peer's memory is checked and performed at the lender;
direct accesses of one core to one line in issue order. -/
def execRemoteAccessArrival (a : AccRef) (unit : Nat) (s : State) : Out_ :=
  let turn := fun (w : SlotRef) (who : Who) (id : Nat) (va : Word) =>
    isRemote s who va && (!isDirect s who va || lineTurn s w id va)
  match a with
  | .out w i =>
    (match (slotAt s w).outs.find? (fun o => o.id = i) with
     | none => .next s
     | some o =>
       match o.units[unit]? with
       | none => .next s
       | some u =>
         if turn w (whoAs s w o.pkey o.supv) i u.va then .next (settleArrivals (performUnit s w o unit) (coreRefOf w))
         else .next s)
  | .near _ => .next s
  | .far c i =>
    (match (coreAt s c).fq.find? (fun e => e.id = i) with
     | none => .next s
     | some e =>
       match e.units[unit]? with
       | none => .next s
       | some u =>
         if e.flush.isNone && turn (slotOf c 0) (whoAs s (slotOf c 0) e.pkey e.supv) i u.va then
           .next (performStore s c e unit)
         else .next s)

/-- LOG_MERGE (R203): the hamlet agent merges `n` entries once the log is half full. -/
def execLogMerge (c : CoreRef) (n : Nat) (s : State) : Out_ :=
  let d := (coreAt s c).log
  if logSize d ≤ 2 * d.cnt && d.cnt != 0 then .next (mergeLog s c n) else .next s

/-! ### Messages -/

/-- The neighbour of a torus module in direction 1 to 6 (R363). -/
def torusNbr (m dir : Nat) : Nat :=
  let x := m % 2
  let y := m / 2 % 4
  let z := m / 8
  match dir with
  | 1 | 2 => (x + 1) % 2 + 2 * y + 8 * z
  | 3 => x + 2 * ((y + 1) % 4) + 8 * z
  | 4 => x + 2 * ((y + 3) % 4) + 8 * z
  | 5 => x + 2 * y + 8 * ((z + 1) % 4)
  | _ => x + 2 * y + 8 * ((z + 3) % 4)

/-- Two modules are neighbours in torus mode. -/
def torusNear (s : State) (a b : Nat) : Bool :=
  (modAt s a).torus && ((List.range 6).any (fun d => torusNbr a (d + 1) = b))

/-- Messages between these two slots keep their order (R152, R364). -/
def msgOrdered (s : State) (a b : Msg) : Bool :=
  entryKind a.raw = 0 && entryKind b.raw = 0 && a.src = b.src && msgSlot a = msgSlot b &&
    ((a.src.m = a.dest && a.src.d = (msgSlot a).d) || (a.src.m != a.dest && torusNear s a.src.m a.dest))

/-- The context a message is bound to on arrival (R197): its own while that is swapped; none when a slot is live at the
index; else the one that left that index last. -/
def bindFor (s : State) (w : SlotRef) (ctx : Option Nat) : Option Nat :=
  let sw := (coreOf s w).swapped
  match ctx.bind (fun i => sw.find? (fun t => t.id = i)) with
  | some t => some t.id
  | none =>
    if isLive (slotAt s w) then none else ((sw.filter (fun t => t.left = w.k)).getLast?).map (·.id)

/-- Address of entry `i` of the spill ring from its head. -/
def ringAddr (p : Spill) (i : Nat) : Word :=
  (p.base.zeroExtend 64 <<< 16) + BitVec.ofNat 64 ((p.head + i) % (1024 * 2 ^ p.size.toNat) * 64)

/-- Entries that RECVs of a core have claimed and not yet returned: they keep their places in the inbox (R149, R171). -/
def claimedCount (s : State) (c : CoreRef) : Nat :=
  ((slotsOf c).map (fun w => ((slotAt s w).outs.filter (fun o =>
    match o.kind with | .recv (some _) => true | _ => false)).length)).sum

/-- Places an arrival (R150): the state and the status, or none while a ring page has to be made resident. -/
def placeMsg (s : State) (w : SlotRef) (raw : VWord) (ctx : Option Nat) : State × Option Nat :=
  let c := coreOf s w
  let b := bindFor s w ctx
  if c.inbox.length + claimedCount s (coreRefOf w) < 64 && c.spill.bound.isEmpty then
    (claimAll (setCoreOf s w { c with inbox := c.inbox ++ [⟨raw, b⟩] }) w, some 0)
  else if c.spill.base = 0 || 1024 * 2 ^ c.spill.size.toNat ≤ c.spill.bound.length then (s, some 2)
  else match perfWrite s (deviceOf s w) (ringAddr c.spill c.spill.bound.length) 64 raw.toNat with
    | .ok s' _ =>
      let c := coreOf s' w
      (setCoreOf s' w { c with spill := { c.spill with
        bound := c.spill.bound ++ [b], dests := c.spill.dests ++ [entrySlot raw] } }, some 1)
    | .fail _ => (s, some 2)
    | .absent p => (askPage s p, none)
    | .wait => (s, none)

/-- The core takes no message (R170, R283). -/
def noReceiver (s : State) (m : Msg) (w : SlotRef) : Bool :=
  !modUp s m.dest || !corePresent (modAt s w.m) w.d w.c ||
    (match (coreOf s w).launch with | none => true | l => m.restricted && l != m.task)

/-- An entry sent on to another endpoint: source EPA, slot byte, and a fault record's own copy of the EPA (R284). -/
def reroute (raw : VWord) (me : Option (BitVec 32)) (k : Nat) : VWord :=
  let ws := wordsOf 8 raw
  let ws := match me with
    | none => ws
    | some e => ws.mapIdx (fun i v => if i = 0 || i = 5 then (v &&& 0xFFFFFFFF00000000#64) ||| e.zeroExtend 64 else v)
  readdress (packWords ws) k

/-- A status reaches an outstanding result, in its slot or its swapped context (R170, R242). -/
def answerOut (s : State) (w : SlotRef) (id : Nat) (f : OutKind → OutKind) : State :=
  let upd := fun x : Slot => { x with outs := x.outs.map (fun o => if o.id = id then { o with kind := f o.kind } else o) }
  let s := if (slotAt s w).outs.any (fun o => o.id = id) then setSlot s w (upd (slotAt s w)) else s
  let c := coreOf s w
  if c.swapped.isEmpty then s
  else setCoreOf s w { c with swapped := c.swapped.map (fun t => { t with slot := upd t.slot }) }

/-- What the sender hears (R170, R283, R374). -/
def answerMsg (s : State) (m : Msg) (st : Nat) : State :=
  match m.why with
  | .send w out => answerOut s w out (fun _ => .send (some (BitVec.ofNat 64 st)))
  | .fault w second =>
    let ep1 := (coreOf s w).fsup1
    if st < 2 then s
    else if second || ep1 = 0 then killOf s w 2
    else
      deviceSend s w ep1 (reroute m.raw (some (epaOf w (epaMod w.m ep1 != w.m))) (epaSlot ep1)) (.fault w true)
  | .event ep1 =>
    if st < 2 || ep1 = 0 then s
    else { s with net := s.net ++ [⟨m.src, epaMod m.dest ep1, ep1, reroute m.raw none (epaSlot ep1), none, false, .none,
      none⟩] }
  | .none => s

/-- MESSAGE_ARRIVAL (R149-R152, R170): the `i`-th message in flight reaches its core; a module whose lasers are off takes none, and
the message waits until that module boots or is declared failed (R390), and one for a stopped die until that is declared failed
(R385). -/
def execMessageArrival (i : Nat) (s : State) : Out_ :=
  match s.net[i]? with
  | none => .next s
  | some m =>
    let w := msgSlot m
    if (s.net.take i).any (fun a => msgOrdered s a m) || (modUp s m.dest && (modAt s m.dest).fenced) ||
        (modUp s m.dest && dieStopped (modAt s w.m) w.d) then .next s
    else
      let s1 := { s with net := dropAt s.net i }
      if noReceiver s m w then .next (answerMsg s1 m 3)
      else match placeMsg s1 w m.raw m.ctx with
        | (s2, some st) => .next (answerMsg s2 m st)
        | (s2, none) => .next { s2 with net := s.net }

/-- The ring moves past its head; a write of BASE and SIZE that waits takes effect when it is empty (R151). -/
def ringPast (p : Spill) : Spill :=
  let p := { p with bound := p.bound.drop 1, dests := p.dests.drop 1, head := (p.head + 1) % (1024 * 2 ^ p.size.toNat) }
  match p.bound, p.next with
  | [], some (b, z) => { p with base := b, size := z, head := 0, next := none }
  | _, _ => p

/-- An entry that has come out of the ring joins the inbox: bound to a swapped context still, or for the slot that the context was
restored into, whose oldest RECV claims it (R197), or for the slot that it names. -/
def fromRing (s : State) (c : CoreRef) (raw : VWord) (b : Option Nat) : State :=
  let x := coreAt s c
  let bound := b.bind (fun i => if x.swapped.any (fun t => t.id = i) then b else none)
  let mine := b.bind (fun i => (slotsOf c).find? (fun w => (slotAt s w).bindId = some i))
  match mine with
  | some w =>
    let e := readdress raw w.k
    (match (slotAt s w).outs.find? waitingRecv with
     | some o => putOut s w { o with kind := .recv (some e) }
     | none => setCore s c { x with inbox := x.inbox ++ [⟨e, none⟩] })
  | none => claimAll (setCore s c { x with inbox := x.inbox ++ [⟨raw, bound⟩] }) (slotOf c (entrySlot raw))

/-- SPILL_RING_MOVE (R150, R151). -/
def execSpillRingMove (c : CoreRef) (s : State) : Out_ :=
  let w := slotOf c 0
  let x := coreAt s c
  let a := ringAddr x.spill 0
  match x.spill.bound with
  | [] => .next s
  | b :: _ =>
    if 64 ≤ x.inbox.length + claimedCount s c || dieStopped (modAt s c.m) c.d then .next s
    else match perfRead s (deviceOf s w) a 64 with
      | .ok s' v =>
        let raw : VWord := BitVec.ofNat 512 (devOver s' (deviceOf s w) a 64 v)
        let x := coreAt s' c
        .next (fromRing (setCore s' c { x with spill := ringPast x.spill }) c raw b)
      | .fail _ => .next (setCore (failSeen s (deviceOf s w) a) c { x with spill := { ringPast x.spill with lost := true } })
      | .absent p => .next (askPage s p)
      | .wait => .next s

/-- WAKE_DELIVERY (R174, R197). -/
def execWakeDelivery (i : Nat) (s : State) : Out_ :=
  match s.wakes[i]? with
  | none => .next s
  | some p =>
    let w := pokeSlot p
    if dieStopped (modAt s w.m) w.d then .next s
    else
    let s := { s with wakes := dropAt s.wakes i }
    let c := coreOf s w
    let x := slotAt s w
    if !corePresent (modAt s w.m) w.d w.c || c.launch.isNone || c.launch != p.launch then .next s
    else match x.st with
      | .parked (.waita ..) _ => .next (recheckWait s w true)
      | .free =>
        (match bindFor s w none with
         | none => .next s
         | some id => .next (setCoreOf s w { c with swapped := c.swapped.map (fun t =>
             if t.id = id then { t with slot := { t.slot with pendingWake := true } } else t) }))
      | _ => .next (setSlot s w { x with pendingWake := true })

/-! ### Register writes with an effect of their own -/

/-- A write of `EINJ` that arms an injection of one kind (R287, R290). -/
def armEinj (k : Nat) (w : SlotRef) (x : Word) (s : State) : State :=
  let e := einjOf x
  if e.arm && e.kind.toNat = k then writeEinj s w x else s

/-- EINJ_RESULT_ARM (R290). -/
def execEinjResultArm (w : SlotRef) (x : Word) (s : State) : Out_ := .next (armEinj 1 w x s)

/-- EINJ_STORE_SINGLE_FLIP (R290). -/
def execEinjStoreSingleFlip (w : SlotRef) (x : Word) (s : State) : Out_ := .next (armEinj 2 w x s)

/-- EINJ_STORE_DOUBLE_FLIP (R290). -/
def execEinjStoreDoubleFlip (w : SlotRef) (x : Word) (s : State) : Out_ := .next (armEinj 3 w x s)

/-- EINJ_ACCUMULATOR_ARM (R290). -/
def execEinjAccumulatorArm (w : SlotRef) (x : Word) (s : State) : Out_ := .next (armEinj 4 w x s)

/-- LOG_REGISTER_WRITE (R203). -/
def execLogRegisterWrite (c : CoreRef) (lim : Bool) (x : Word) (s : State) : Out_ := .next (writeLog s c lim x)

/-- SPILLBASE_WRITE (R151). -/
def execSpillbaseWrite (c : CoreRef) (x : Word) (s : State) : Out_ :=
  .next (writeSpill s c (x.extractLsb' 16 41) (x.extractLsb' 0 3) (x.getLsbD 3))

/-- MFLGPOS_CLEAR (R258). -/
def execMflgposClear (c : CoreRef) (s : State) : Out_ :=
  .next (setCore s c { coreAt s c with mflg := clearPos (coreAt s c).mflg })

end Sys2Proof.Machine
end

