-- ==== Sys2Proof/Machine/Fetch.lean ====
section
/-!
DEFINITION. Fetching the next cell of a slot (R11-R14, R38), choosing which slot a core issues from (R158, R179), and the
plan of a move.
-/

namespace Sys2Proof.Machine

/-- The line of a legal PC as the slot's next cell meets it. The line word is checked with the first cell to issue from the line; a
later cell, and a line fetched once more for its cell, are judged without checking it again: the model's choice, since R13 does
not say whether the line word of a refetched line is checked (log 32). -/
def fetchLine (s : State) (w : SlotRef) (pc : Word) : Except Cause LineView :=
  if (slotAt s w).lwAt = some (lineOfPc pc) then .ok (lineView s w (lineOfPc pc)) else checkLine s w pc

/-- The instruction at a PC, or the fault of R11, R13 or R38 with its TRAPVAL. -/
def fetchAt (s : State) (w : SlotRef) (pc : Word) : Except (Cause × Word) Instr :=
  match checkPc pc, cellIx pc with
  | some c, _ => .error (c, pc)
  | none, none => .error (.fetchAlign, pc)
  | none, some k =>
    match fetchLine s w pc with
    | .error c => .error (c, BitVec.ofNat 64 (lineOfPc pc))
    | .ok v =>
      let v := if cellBad v k then freshLine s (coreRefOf w) (lineOfPc pc) else v
      if cellBad v k then .error (.lineParity, pc)
      else match decode (cellOf v k) with
        | some i => .ok i
        | none => .error (.illegalInstr, (cellOf v k).extractLsb' 32 64)

/-- The state after the fetch of a cell: words that the fetch, or the refetch of R13, corrected are written back (R27), and a line
word that passed with a cell that goes on to issue is not checked again while the slot stays in the line. -/
def fetched (s : State) (w : SlotRef) (pc : Word) : State :=
  let x := slotAt s w
  let a := lineOfPc pc
  let v := lineView s w a
  if (checkPc pc).isSome then s
  else
    let again := (x.lwAt != some a && lwBad v) || cellBad v ((cellIx pc).getD 0)
    let s' := if again then fixLine s (coreRefOf w) a else fixFetch s w pc
    match fetchAt s w pc with
    | .error _ => s'
    | .ok _ => setSlot s' w { x with lwAt := some a, lwNew := x.lwAt != some a }

/-- The target of a branch cell, as far as the slot's registers name it now. -/
def branchTo (x : Slot) (pc : Word) : Instr → Option Word
  | .br _ f | .call _ f | .loop _ f => some (branchTarget pc f)
  | .bri _ f | .calli _ f => some (sGet x f.a)
  | .ret _ _ => some (sGet x 63)
  | _ => none

/-- The lines that the instruction buffer of a slot may hold (R23), none outside the LOCAL window (R11): the current one, its successor, and the target line of the first
branch of the current line that has not been resolved. -/
def bufferLines (s : State) (w : SlotRef) : List Nat :=
  let x := slotAt s w
  let a := lineOfPc x.pc
  let v := lineView s w a
  let k := (cellIx x.pc).getD 0
  let t := (List.range (5 - k)).findSome? (fun i =>
    (decode (cellOf v (k + i))).bind (branchTo x (BitVec.ofNat 64 (a + 4 + 12 * (k + i)))))
  ([a, a + 64] ++ (match t with | some t => [lineOfPc t] | none => [])).filter (fun b => decide (b < 0x100000))

/-- The slot's buffer without the lines that it may no longer hold (R23). -/
def bufferTrim (s : State) (w : SlotRef) : State :=
  let x := slotAt s w
  if x.ibuf.isEmpty then s
  else
    let keep := bufferLines s w
    setSlot s w { x with ibuf := x.ibuf.filter (fun p => keep.contains p.1) }

/-- The launch of a core lets its slots issue: it is running or draining, no die of it has failed, and it is not to end
(R160, R316, R335). -/
def launchRuns (s : State) (l : Option LaunchRef) : Bool :=
  match l with
  | none => true
  | some l =>
    match launchAt s l with
    | none => true
    | some x => (x.phase = .running || x.phase = .draining) && !x.dieLost && x.kill.isNone

/-- Every die of the launch is mapped: none has been declared failed and awaits its recovery, without whose cores no domain, barrier
or launch comes to its end (R335). -/
def launchWhole (s : State) (l : LaunchRef) (x : Launch) : Bool := x.record.dies.all (dieMapped (modAt s l.m).dmap)

/-- The die of a core takes part: it is mapped, hardware has not stopped it, and it is not evacuated (R335, R348, R385). -/
def dieRuns (s : State) (m d : Nat) : Bool :=
  let x := modAt s m
  x.present && !x.fenced && dieMapped x.dmap d && !(dieSt x d).stopped && !(dieSt x d).evacuating

/-- The slot can issue now. -/
def slotRuns (s : State) (w : SlotRef) : Bool :=
  let x := slotAt s w
  x.st = .ready && x.stop.isNone && !x.stalled && x.swapReq.isEmpty && launchRuns s (coreOf s w).launch && dieRuns s w.m w.d

/-- The slot has yielded, and another slot that can issue has not done so since (R179). -/
def passedOver (s : State) (w : SlotRef) : Bool :=
  match (slotAt s w).yielded with
  | none => false
  | some l => (slotsOf (coreRefOf w)).any (fun v => v.k != w.k && !l.contains v.k && slotRuns s v)

/-- The slot that a core issues from: round robin among the slots that can, after the one that issued last; a slot that has yielded
is passed over (R158, R179). -/
def pickSlot (s : State) (c : CoreRef) : Option SlotRef :=
  let n := (coreAt s c).lastSlot
  let ring := (List.range 4).map (fun i => slotOf c ((n + 1 + i) % 4))
  match ring.find? (fun w => slotRuns s w && !passedOver s w) with
  | some w => some w
  | none => ring.find? (slotRuns s)

/-- A slot is about to issue: those of its core that have yielded note it, its own YIELD is over (R179), and a slot that waits tries
its instruction again afterwards. -/
def noteIssue (s : State) (w : SlotRef) : State :=
  (slotsOf (coreRefOf w)).foldl (fun s v =>
    let x := slotAt s v
    let y := match x.yielded with
      | none => x
      | some l => { x with yielded := if v.k = w.k then none else some (w.k :: l) }
    if x.yielded.isNone && !x.stalled then s else setSlot s v { y with stalled := false }) s

/-- Every slot that waits tries its instruction again: an event may have ended what it waits for (R158, R175, R233). -/
def tryAgain (s : State) : State :=
  if s.slots.any (fun q => q.2.stalled) then { s with slots := s.slots.map (fun q => (q.1, { q.2 with stalled := false })) } else s

/-- What a step does: run one row of the table in a state, answer what an event's meaning has answered, or reach a state. -/
inductive Plan where
  | run (i : Instr) (s : State)
  | did (o : Out_)
  | rest (s : State)

/-- The state in which a slot fetches: it is the current one, and its buffer holds only the lines of R23. -/
def atFetch (s : State) (w : SlotRef) : State :=
  bufferTrim (noteIssue (setCoreOf { s with cur := w } w { coreOf s w with lastSlot := w.k }) w) w

/-- The slot is about to issue: a held failure is reported first (R194), then the cell is fetched. -/
def planIssue (s : State) (w : SlotRef) : Plan :=
  let s := atFetch s w
  let x := slotAt s w
  if !x.held.isEmpty && !x.trap.inh then .rest (reportHeld s w)
  else match fetchAt s w x.pc with
    | .error (c, v) => .rest (raisePrecise (fetched s w x.pc) w c v)
    | .ok i => .run i (fetched s w x.pc)

/-- A move of the agenda. -/
def planMove (s : State) (m : Move) : Plan :=
  match m with
  | .ev i => .run i (tryAgain s)
  | .issue c => match pickSlot s c with | some w => planIssue s w | none => .rest s
  | .bufferLine w a =>
    let s := bufferTrim s w
    .rest (if (bufferLines s w).contains (a / 64 * 64) then bufferTake s w (a / 64 * 64) else s)
  | .dropLine w a => .rest (setSlot s w { slotAt s w with ibuf := (slotAt s w).ibuf.filter (fun p => p.1 != a) })
  | .device i => .rest (devRetry s i)

/-- Time passes in a step (R4, R28): by how much is not stated (log 2). -/
def passTime (s : State) : State := { s with tick := s.tick + Config.freeTicks s.clk, clk := s.clk + 1 }

/-- The line word for a line whose cell 0 holds `w`, a legal target, and whose other cells are zero (R10). -/
def lineWordFor (w : CellWord) : Nat :=
  let cellp := popCount 96 w.toNat % 2
  let low := 1 + 256 * cellp
  low + 2 ^ 13 * ((1 + cellp) % 2)

/-- The state with a cell where the next step fetches: cell 0 of the line at LOCAL 0 of the current core, whose slot is
READY at it in task mode, and the issue of that core the next move. It stands for a launch's image and entry (log 13). -/
def placeWord (s : State) (w : CellWord) : State :=
  let c := s.cur
  let x := slotAt s c
  let s := writeFlat { s with agenda := [.issue (coreRefOf c)] } (localFlat (coreRefOf c) 0) 64 (lineWordFor w + 2 ^ 32 * w.toNat)
  let s := setSlot s c
    { x with
      st := .ready, pc := 4, stalled := false, stop := none, held := [], ibuf := [], lwAt := none, lwNew := false }
  setCoreOf s c { coreOf s c with lastSlot := (c.k + 3) % 4 }

end Sys2Proof.Machine
end

