-- ==== Sys2Proof/Machine/EvPar.lean ====
section
/-!
DEFINITION. The events of tasks, the tile walker, supersteps and barriers (R142-R148, R154-R156, R218).
-/

namespace Sys2Proof.Machine

/-! ### Tasks -/

/-- The slots and the walker of a core go on: its launch runs and its die takes part. -/
def coreRuns (s : State) (c : CoreRef) : Bool := launchRuns s (coreAt s c).launch && dieRuns s c.m c.d

/-- Footprints of MODE 1 to 3, which take a buffer (R155). -/
def usesBuffer (k : Walk) : List Footprint := k.fps.filter (fun f => f.mode != 0)

/-- The buffer the next task of a walk takes: none outside means it has to wait, none inside that the walk has no
buffers. Which free buffer that is R155 does not say: a free value picks it (log 39). -/
def nextBuffer (clk : Nat) (k : Walk) : Option (Option Nat) :=
  match usesBuffer k with
  | [] => some none
  | f :: r =>
    let n := r.foldl (fun m g => min m g.nbuf) f.nbuf
    match (List.range n).filter (fun b => !k.bufs.contains b) with
    | [] => none
    | bs => some bs[Config.freePick clk % bs.length]?

/-- A tile of the walk that no task has yet (R155). -/
def tileOpen (k : Walk) (tile : List Nat) : Bool :=
  let n := walkTiles k
  tile.length = n.length && (List.range n.length).all (fun i => decide (tile.getD i 0 < n.getD i 0)) &&
    !k.issued.contains tile

/-- Reads the in-footprints of a task: the state and the footprints that failed, or none while a page has to be made
resident. -/
def readFootprints (s : State) (w : Who) (fps : List (Nat × Footprint)) (tile : List Nat) (b : Nat)
    (bad : List (Nat × Cause × Word)) : State × Option (List (Nat × Cause × Word)) :=
  match fps with
  | [] => (s, some bad)
  | (i, f) :: r =>
    match readRows s w (fpRows f tile b) with
    | .ok s' => readFootprints s' w r tile b bad
    | .fail s' _ c v => readFootprints s' w r tile b (bad ++ [(i, c, v)])
    | .absent _ _ p => (askPage s p, none)
    | .wait _ _ => (s, none)

/-- The slot of a walked task (R155). -/
def walkedSlot (s : State) (w : SlotRef) (k : Walk) (tile : List Nat) (buf : Option Nat) (pins : List PageRef) : Slot :=
  let x := newSlot s w k.body
  let x := (List.range 4).foldl (fun x i =>
    sPut x (BitVec.ofNat 6 (i + 1)) (match k.fps[i]? with
      | some f => if f.mode = 0 then 0 else BitVec.ofNat 64 (fpBuf f (buf.getD 0))
      | none => 0)) x
  let csr := { x.csr with taskid := BitVec.ofNat 32 k.issued.length,
                          tidx := (List.range tile.length).map (fun i => (i, BitVec.ofNat 32 (tile.getD i 0))) }
  { x with csr := csr, task := .walked tile buf pins none }

/-- WALK_TASK_DISPATCH (R155): walked and queued tasks share the free slots round robin (R156). -/
def execWalkTaskDispatch (c : CoreRef) (tile : List Nat) (s : State) : Out_ :=
  let x := coreAt s c
  match x.walk, anyFree s c with
  | some k, some w =>
    if !coreRuns s c || ctxWaiting s c || !tileOpen k tile || (x.rrTask && !x.tasks.isEmpty) then .next s
    else match nextBuffer s.clk k with
      | none => .next s
      | some buf =>
        let who := walkWho s c k
        let b := buf.getD 0
        let ins := (k.fps.mapIdx (fun i f => (i, f))).filter (fun p => p.2.mode = 1 || p.2.mode = 3)
        let pins := rowPages s who (ins.map (fun p => fpRows p.2 tile b)).flatten
        if 184 < pinCount x + pins.length then .next s
        else match readFootprints s who ins tile b [] with
          | (s', none) => .next s'
          | (s', some bad) =>
            let y := coreAt s' c
            let k' := { k with issued := k.issued ++ [tile], bufs := (match buf with | some b => b :: k.bufs | none => k.bufs) }
            let s1 := setCore s' c { y with walk := some k', rrTask := true,
                                            pins := pins.foldl (fun ps p => addPin ps p 0 1) y.pins }
            let s2 := startSlot s1 w (walkedSlot s1 w k tile buf pins)
            .next (bad.foldl (fun s q => raiseDeferred s w q.2.1 q.2.2 k.body (.footIn q.1)) s2)
  | _, _ => .next s

/-- Tile number `i` of a walk with `n` tiles in each dimension. -/
def tileNo (n : List Nat) (i : Nat) : List Nat :=
  match n with
  | [] => []
  | d :: r => i % d :: tileNo r (i / d)

/-- The walker of a core has a task to dispatch: a buffer is free, and the pins of the first open tile fit and its in-footprints can
be read or fail at once (R155, R200). -/
def walkHas (s : State) (c : CoreRef) : Bool :=
  let x := coreAt s c
  match x.walk with
  | none => false
  | some k =>
    match nextBuffer s.clk k,
      ((List.range (k.issued.length + 1)).map (tileNo (walkTiles k))).find? (tileOpen k) with
    | some buf, some tile =>
      let who := walkWho s c k
      let ins := (k.fps.mapIdx (fun i f => (i, f))).filter (fun p => p.2.mode = 1 || p.2.mode = 3)
      let pins := rowPages s who (ins.map (fun p => fpRows p.2 tile (buf.getD 0))).flatten
      decide (pinCount x + pins.length ≤ 184) && (readFootprints s who ins tile (buf.getD 0) []).2.isSome
    | _, _ => false

/-- QUEUED_TASK_DISPATCH (R156): on the walker's turn only when the walker has nothing to dispatch (R162). -/
def execQueuedTaskDispatch (c : CoreRef) (s : State) : Out_ :=
  let x := coreAt s c
  match x.tasks, anyFree s c with
  | q :: r, some w =>
    if !coreRuns s c || ctxWaiting s c || (!x.rrTask && walkHas s c) then .next s
    else
      let y := newSlot s w q.pc
      let y := sPut (sPut y 1 q.a1) 2 q.a2
      .next (startSlot (setCore s c { x with tasks := r, rrTask := false }) w
        { y with csr := { y.csr with taskid := q.id }, task := .queued })
  | _, _ => .next s

/-- FOOTPRINT_WRITE_OUT (R155): at TEND of a walked task, once its results have returned and its LOCAL stores drained. -/
def execFootprintWriteOut (w : SlotRef) (s : State) : Out_ :=
  let x := slotAt s w
  match x.st, x.task, (coreOf s w).walk with
  | .ending true, .walked tile buf pins left, some k =>
    if !x.outs.isEmpty || x.stop.isSome || !x.held.isEmpty || !localDrained s w then .next s
    else
      let all := ((k.fps.filter (fun f => f.mode = 2 || f.mode = 3)).map (fun f => fpRows f tile (buf.getD 0))).flatten
      let r := writeRows s (walkWho s (coreRefOf w) k) (left.getD all)
      let s1 := match r.absent with | some p => askPage r.s p | none => r.s
      let s2 := setSlot s1 w { slotAt s1 w with task := .walked tile buf pins (some r.waiting) }
      match r.why with
      | some (c, v) => .next (raiseDeferred s2 w c v x.pc (.footOut r.failed))
      | none => .next (if r.waiting.isEmpty then endWalked s2 w else s2)
  | _, _, _ => .next s

/-! ### Supersteps -/

/-- A slot parked in SYNC at a level counts once its results have returned; RECVs, MSTATs and command statuses are
excepted (R165). -/
def slotSynced (x : Slot) (k : Nat) : Bool :=
  (match x.st with | .parked (.sync l) _ => l = k | _ => false) &&
    x.outs.all (fun o => match o.kind with | .recv _ | .cmd .. => true | _ => false)

/-- The core has arrived at the SYNC of a level (R142, R218). -/
def coreArrived (s : State) (k : Nat) (c : CoreRef) : Bool :=
  let x := coreAt s c
  (slotsOf c).all (fun w => !isLive (slotAt s w) || slotSynced (slotAt s w) k) && x.swapped.isEmpty && x.walk.isNone &&
    x.tasks.isEmpty && x.sbuf.isEmpty && x.fq.isEmpty && x.openB.isEmpty

/-- A slot of the core is parked in SYNC at a level. -/
def hasSync (s : State) (k : Nat) (c : CoreRef) : Bool :=
  (slotsOf c).any (fun w => match (slotAt s w).st with | .parked (.sync l) _ => l = k | _ => false)

/-- The present cores of the domain of a mesh position, with its corner. -/
def domainCores (s : State) (l : LaunchRef) (r : Rec) (k x y : Nat) : List CoreRef := coresIn s l.m r (domainAt r k x y)

/-- An exchange of the domain is under way. -/
def exchangeOf (l : Launch) (k x y : Nat) : Option Exchange :=
  let q := domainAt l.record k x y
  l.exch.find? (fun e => e.level = k && e.x = q.1 && e.y = q.2.1)

/-- SYNC_DOMAIN_COMPLETE (R142, R144): every present core of the domain has arrived, and its exchange phase begins with the
votes cast. A domain in which every core counts as arrived and no slot is parked in SYNC stays as it is: R142 does not say
that an exchange with nobody to resume does not run (DESIGN CHOICE, log 39). -/
def execSyncDomainComplete (l : LaunchRef) (level x y : Nat) (s : State) : Out_ :=
  match launchAt s l with
  | none => .next s
  | some y' =>
    let q := domainAt y'.record level x y
    let cs := domainCores s l y'.record level x y
    if !launchRuns s (some l) || !launchWhole s l y' || (exchangeOf y' level x y).isSome || y'.record.nlev < level then .next s
    else if cs.all (coreArrived s level) && cs.any (hasSync s level) then
      let e : Exchange := ⟨level, q.1, q.2.1, cs.foldl (fun a c => a ||| (coreAt s c).corvote) 0,
        cs.foldl (fun a c => a &&& (coreAt s c).candvote) 0xFFFF⟩
      .next (setLaunch s l { y' with exch := y'.exch ++ [e] })
    else .next s

/-- Word `i` of a plan entry: read from the state before the exchange or from the one in which the entry began, where that can be
read, and else as it is now (R146). -/
def exchWord (s s0 sE : State) (w : Who) (e : PlanEntry) (i : Nat) (early : Bool) : Res Unit :=
  let src := e.src + BitVec.ofNat 64 (8 * i)
  match perfRead s w src 8 with
  | .ok s1 now =>
    let v := match perfRead (if early then s0 else sE) w src 8 with | .ok _ v => v | _ => now
    perfWrite s1 w (e.dst + BitVec.ofNat 64 (8 * i)) 8 v
  | .fail c => .fail c
  | .absent p => .absent p
  | .wait => .wait

/-- What one entry answers: its failure at an address, or a page to wait for. -/
inductive ExchRes where
  | ok (s : State)
  | fail (c : Cause) (a : Word)
  | wait (p : Option PageRef)

/-- Copies `n` words of an entry from word `i` on. -/
def exchWords (s s0 sE : State) (w : Who) (e : PlanEntry) (i n : Nat) : ExchRes :=
  match n with
  | 0 => .ok s
  | k + 1 =>
    match exchWord s s0 sE w e i ((Config.freeByte s.clk i).toNat % 2 = 0) with
    | .ok s' _ => exchWords s' s0 sE w e (i + 1) k
    | .fail c =>
      -- the read or the write of the word failed: the address is the one that did
      let src := e.src + BitVec.ofNat 64 (8 * i)
      .fail c (match perfRead s w src 8 with | .fail _ => src | _ => e.dst + BitVec.ofNat 64 (8 * i))
    | .absent p => .wait (some p)
    | .wait => .wait none

/-- An abandoned entry: each word of its destination keeps its value or takes the one it would have had (R146). -/
def exchTorn (s s0 sE : State) (w : Who) (e : PlanEntry) : State :=
  (List.range (e.len / 8)).foldl (fun t i =>
      if (Config.freeByte (s.clk + 1) i).toNat % 2 = 0 then t
      else match exchWord t s0 sE w e i ((Config.freeByte s.clk i).toNat % 2 = 0) with | .ok t' _ => t' | _ => t)
    s

/-- The entries of an exchange, in some order; the failures with the core and entry. None when a page has to be made
resident first. -/
def runPlan (s s0 : State) (m : Nat) (r : Rec) (es : List PlanEntry) (bad : List (CoreRef × PlanEntry × Cause × Word)) :
    State × Option (List (CoreRef × PlanEntry × Cause × Word)) :=
  match es with
  | [] => (s, some bad)
  | e :: rest =>
    let c := coreAtMesh m r e.x e.y
    let w := exchWho s c
    match exchWords s s0 s w e 0 (e.len / 8) with
    | .ok s' => runPlan (clearWhole s' w e.dst e.len) s0 m r rest bad
    | .fail k a => runPlan (exchTorn s s0 s w e) s0 m r rest (bad ++ [(c, e, k, a)])
    | .wait (some p) => (askPage s0 p, none)
    | .wait none => (s0, none)

/-- The list in the order of a list of indexes, then what those leave out. -/
def permuted {α : Type} (l : List α) (order : List Nat) : List α :=
  let o := nubNat (order.filter (fun i => decide (i < l.length)))
  (o ++ (List.range l.length).filter (fun i => !o.contains i)).filterMap (fun i => l[i]?)

/-- A core after a completed SYNC (R142, R166): counter, votes, instruction buffers, and the slots that were parked. -/
def syncCore (s : State) (e : Exchange) (c : CoreRef) : State :=
  let x := coreAt s c
  let s := setCore s c { x with cnt := tput x.cnt e.level (tget x.cnt 0 e.level + 1), vor := e.vor, vand := e.vand,
                                corvote := 0, candvote := 0xFFFF }
  let s := clearConst s c
  (slotsOf c).foldl (fun s w =>
      let y := slotAt s w
      if !isLive y then s
      else match y.st with
        | .parked (.sync k) sw => if k = e.level then setSlot s w { endPark y sw with ibuf := [] }
            else setSlot s w { y with ibuf := [] }
        | _ => setSlot s w { y with ibuf := [] })
    s

/-- The failure of an entry is reported in the issuing core's lowest slot that was parked in the SYNC (R146). -/
def reportExchange (s0 s : State) (l : LaunchRef) (level : Nat) (b : CoreRef × PlanEntry × Cause × Word) : State :=
  match (slotsOf b.1).find? (fun w => match (slotAt s0 w).st with | .parked (.sync k) _ => k = level | _ => false) with
  | some w => raiseDeferred s w b.2.2.1 b.2.2.2 (slotAt s0 w).pc (.exchange b.2.1.src b.2.1.dst b.2.1.len)
  | none => killLaunch s l 2

/-- The launch that a CKPT command names (R273). -/
def cutLaunch (c : Cmd) : LaunchRef := ⟨c.w.m, bf c.blk 2 3 0, bf c.blk 2 30 4⟩

/-- The launch stops at this level-0 boundary: it is pre-empted, it is to halt, or a checkpoint cut waits (R316, R322,
R323, R328). -/
def stopsHere (s : State) (l : LaunchRef) (x : Launch) : Bool :=
  x.preempt || x.haltReq ||
    (match x.haltAt with
     | some n => (coresIn s l.m x.record (domainAt x.record 0 0 0)).any (fun c =>
         (tget (coreAt s c).cnt 0 0).toNat = n % 2 ^ 16)
     | none => false) ||
    s.cmds.any (fun c => cutLaunch c = l && c.op = .ckpt && c.sub = 0 && c.st = .begun && c.prog = 0)

/-- The launch holds cores. -/
def holdsCores (x : Launch) : Bool := !(x.phase = .ended || x.phase = .saved || x.phase = .reset)

/-- EXCHANGE_COMPLETE (R146, R218): the copies are made, the members resume, and the level-0 boundary may hold the launch. -/
def execExchangeComplete (l : LaunchRef) (level x y : Nat) (order : List Nat) (s : State) : Out_ :=
  match launchAt s l with
  | none => .next s
  | some z =>
    match exchangeOf z level x y with
    | none => .next s
    | some e =>
      let cs := domainCores s l z.record level x y
      let inDom := fun p : PlanEntry => p.v = e.vor.toNat % 4 && p.level = level &&
        (let a := domainAt z.record level p.x p.y; a.1 = e.x && a.2.1 = e.y)
      if !holdsCores z then .next s
      else match runPlan s s l.m z.record (permuted (z.plan.filter inDom) order) [] with
      | (s', none) => .next s'
      | (s', some bad) =>
        let s1 := cs.foldl (fun s c => syncCore s e c) s'
        let s2 := bad.foldl (fun t b => reportExchange s t l level b) s1
        match launchAt s2 l with
        | none => .next s2
        | some z2 =>
          let z3 := { z2 with exch := z2.exch.filter (fun d => !(d.level = e.level && d.x = e.x && d.y = e.y)) }
          let goes := z3.phase = .running || z3.phase = .draining
          .next (setLaunch s2 l (if level = 0 && goes && stopsHere s2 l z3 then { z3 with phase := .held } else z3))

/-- A member has arrived in the slot's sync domain, whose exchange has not begun: the time of R143 runs. A core with no live slot
counts as arrived for R142, but does not start that time: the rule does not say whether it does (DESIGN CHOICE, log 39). -/
def syncWaits (s : State) (w : SlotRef) (level : Nat) : Bool :=
  match launchOf s w with
  | none => false
  | some l =>
    match launchAt s l with
    | none => false
    | some x =>
      let id := (coreOf s w).ident
      (exchangeOf x level id.x id.y).isNone &&
        (domainCores s l x.record level id.x id.y).any (fun c => coreArrived s level c && hasSync s level c)

/-- SYNC_TIMEOUT (R143): code 5 on a slot parked in SYNC or BARW of a launch with a SYNCTO. -/
def execSyncTimeout (w : SlotRef) (s : State) : Out_ :=
  let on := match recOf s w with | some r => r.syncto != 0 | none => false
  match (slotAt s w).st with
  | .parked (.sync k) _ => .next (if on && syncWaits s w k then raisePrecise s w .barrier 5 else s)
  | .parked (.barrier _ _) _ => .next (if on then raisePrecise s w .barrier 5 else s)
  | _ => .next s

/-! ### Barriers -/

/-- Slots of a core parked in BARW for a released phase go on (R148, R169). -/
def releaseWaiters (s : State) (c : CoreRef) (b r : Nat) : State :=
  (slotsOf c).foldl (fun s w =>
      let x := slotAt s w
      match x.st with
      | .parked (.barrier i n) sw => if i = b && decide (n.toNat ≤ r) then setSlot s w (endPark x sw) else s
      | _ => s)
    s

/-- BARRIER_RELEASE (R148). -/
def execBarrierRelease (l : LaunchRef) (b : Nat) (s : State) : Out_ :=
  match launchAt s l with
  | none => .next s
  | some x =>
    match x.record.bars[b]? with
    | none => .next s
    | some q =>
      let cs := coresIn s l.m x.record q
      let k := tget x.bars Bar.reset b
      if holdsCores x && b < x.record.nbar && launchWhole s l x && cs.length != 0 && k.c0 = cs.length then
        let k' : Bar := ⟨!k.phase, k.c1, 0, k.r + 1⟩
        .next (cs.foldl (fun s c => releaseWaiters s c b k'.r) (setLaunch s l { x with bars := tput x.bars b k' }))
      else .next s

end Sys2Proof.Machine
end

