-- ==== Sys2Proof/Machine/Complete.lean ====
section
/-!
DEFINITION. The completion of an engine command (R240-R242, R245, R295, R300): its status, its message, its batch, and what
it means for the containment frames of its slot.
-/

namespace Sys2Proof.Machine

/-- The status word (R240). -/
def cmdStatus (c : Cmd) : Word :=
  BitVec.ofNat 64 (c.code % 2 ^ 8 + b2n c.zrep * 2 ^ 8 + b2n c.ovf * 2 ^ 9 + b2n c.res * 2 ^ 10 +
    (hdrTag c.blk).toNat * 2 ^ 16 + c.count % 2 ^ 32 * 2 ^ 32)

/-- The engine's own EPA, DIE 31 resolved, without a PEER that the command named, and with its module and PV toward another module:
R241 says only "the engine's EPA" (DESIGN CHOICE, log 30). -/
def cmdEpa (c : Cmd) (cross : Bool) : BitVec 32 :=
  let e := c.epa.toNat
  let d := if epaDie c.epa = 31 then c.w.d else epaDie c.epa
  BitVec.ofNat 32 (e / 2 ^ 28 * 2 ^ 28 + d * 2 ^ 23 + e / 2 ^ 11 % 2 ^ 12 * 2 ^ 11 + (if cross then c.w.m * 64 + 32 else 0))

/-- An update of the context that issued a command: its slot, or its swapped context (R242). -/
def withIssuer (s : State) (c : Cmd) (f : Slot → Slot) : State :=
  match c.ctx with
  | none => setSlot s c.w (f (slotAt s c.w))
  | some i =>
    let x := coreOf s c.w
    setCoreOf s c.w { x with swapped := x.swapped.map (fun t => if t.id = i then { t with slot := f t.slot } else t) }

/-- The context that issued a command. -/
def issuerOf (s : State) (c : Cmd) : Option Slot :=
  match c.ctx with
  | none => some (slotAt s c.w)
  | some i => ((coreOf s c.w).swapped.find? (fun t => t.id = i)).map (·.slot)

/-- The status reaches the outstanding result of the command, if its context still has one (R240, R242). -/
def answerCmd (s : State) (c : Cmd) (v : Word) : State :=
  let put := fun o : Out => match o.kind with
    | .cmd i _ => if i = c.id then { o with kind := .cmd i (some v) } else o
    | _ => o
  withIssuer s c (fun x => { x with outs := x.outs.map put })

/-- The cause of a sticky failure of R295, if the command is one under a policy. -/
def stickyCause (pol : BitVec 16) (c : Cmd) : Option Cause :=
  if c.res then some .residue
  else if c.zrep || c.code = 4 then some .poison
  else if c.code = 5 && (pol.getLsbD 4 || pol.getLsbD 5) then some .format
  else if pol.getLsbD 4 && 2 ≤ c.code then some .engineCmd
  else none

/-- Marks a frame FAIL; its first failure stands (R295). -/
def markFrame (x : Slot) (uid : Nat) (k : Cause) (v : Word) : Slot :=
  { x with frames := x.frames.map (fun f => if f.uid = uid && f.fail.isNone then { f with fail := some (k, v) } else f) }

/-- The policy of a command's launch. -/
def cmdPol (s : State) (c : Cmd) : BitVec 16 :=
  match c.launch.bind (launchAt s) with | some l => l.record.cdpol | none => 0

/-- The outstanding status of a command. -/
def statusOut (c : Cmd) (x : Slot) : Option Out := x.outs.find? (fun o => match o.kind with | .cmd i _ => i = c.id | _ => false)

/-- The context still waits for the status: it has not ended (R242). -/
def issuedHere (c : Cmd) (x : Slot) : Bool := (statusOut c x).isSome

/-- The PC of the command instruction (R281). -/
def issuePc (c : Cmd) (x : Slot) : Word := match statusOut c x with | some o => o.pc | none => x.pc

/-- A deferred failure of the issuing context, held while that is swapped. -/
def failIssuer (s : State) (c : Cmd) (k : Cause) (v : Word) : State :=
  match c.ctx, issuerOf s c with
  | none, some x => if issuedHere c x then raiseDeferred s c.w k v (issuePc c x) .none else s
  | some _, some _ => withIssuer s c (fun x => { x with held := x.held ++ [⟨k, v, issuePc c x, x.pc, .none⟩] })
  | _, none => s

/-- What a completion does to the containment of its slot: the sticky mark, a FORMAT of a group record (`answer`), and LEASE
inside a remote region (R295, R300). -/
def containCmd (s : State) (c : Cmd) : State :=
  let pol := cmdPol s c
  let v := cmdStatus c
  let s := match c.frame, stickyCause pol c with
    | some u, some k => withIssuer s c (fun x => markFrame x u k v)
    | _, _ => s
  match issuerOf s c with
  | none => s
  | some x =>
    if c.code = 5 && c.answer != 0 then
      match x.frames.find? (fun f => !f.remote), pol.getLsbD 5 with
      | some f, true => withIssuer s c (fun x => markFrame x f.uid .format v)
      | _, _ => failIssuer s c .format c.failVa
    else if c.code = 9 && x.frames.any (·.remote) then failIssuer s c .leaseRevoked v
    else s

/-- The command leaves its batch; a WAITB that waited goes on, and a stalled slot tries again (R245). -/
def retireBatch (s : State) (c : Cmd) : State :=
  let r := coreRefOf c.w
  let x := coreAt s r
  let gone := fun l : List Nat => l.filter (fun i => i != c.id)
  let closed := (x.closed.map gone).filter (fun b => !b.isEmpty)
  let s := setCore s r { x with openB := gone x.openB, closed := closed }
  unstall ((slotsOf r).foldl (fun s w =>
    match (slotAt s w).st with
    | .parked (.waitb n) sw => if closed.length ≤ n.toNat then setSlot s w (endPark (slotAt s w) sw) else s
    | _ => s) s) r

/-- The completion message (R241); a FORMAT is no failing access. -/
def notifyCmd (s : State) (c : Cmd) : State :=
  let n := hdrNotify c.blk
  if n = 0 then s
  else deviceSend s c.w n
    (mkEntry (cmdEpa c (epaMod c.w.m n != c.w.m)) 1 (epaSlot n) [cmdStatus c, if c.code = 5 then 0 else c.failVa, c.blk.getD 0 0, 0, 0, 0, 0]) .none

/-- A command completes: exactly one completion (R240). -/
def completeCmd (s : State) (c : Cmd) : State :=
  let s := { s with cmds := s.cmds.filter (fun d => d.id != c.id) }
  match c.op with
  | .accflip => s
  | .mstat => unstall (answerCmd s c c.answer) (coreRefOf c.w)
  | _ => containCmd (retireBatch (notifyCmd (answerCmd s c (cmdStatus c)) c) c) c

/-- COMMAND_COMPLETION (R240): a command that has finished completes. -/
def execCommandCompletion (id : Nat) (s : State) : Out_ :=
  match s.cmds.find? (fun c => c.id = id) with
  | some c => .next (if c.st = .done then completeCmd s c else s)
  | none => .next s

end Sys2Proof.Machine
end

