-- ==== Sys2Proof/Machine/Control.lean ====
section
/-!
DEFINITION. The control transfers (R91-R93).
-/

namespace Sys2Proof.Machine

/-- A transfer to `t`: a failing check is reported on this instruction with TRAPVAL the target (R14, R92). -/
def transfer (t : Word) (wr : Slot → Slot) (s : State) : Eff :=
  match checkTarget s s.cur t with
  | some c => .faultIn (fixFetch s s.cur t) c t none
  | none => .goto (withCur s wr) t

/-- BR (R92). -/
def execBr (g : Guard) (f : BForm) (s : State) : Out_ :=
  issue g [] false (fun s => transfer (branchTarget (curSlot s).pc f) id s) s

/-- BRI (R92). -/
def execBri (g : Guard) (f : RForm) (s : State) : Out_ :=
  issue g [.s f.a] false (fun s => transfer (sGet (curSlot s) f.a) id s) s

/-- The link write of a call. -/
def writeLink (pc : Word) (x : Slot) : Slot := sPut x 63 (nextCell pc)

/-- CALL (R92). -/
def execCall (g : Guard) (f : BForm) (s : State) : Out_ :=
  issue g [.ds 63] false (fun s => transfer (branchTarget (curSlot s).pc f) (writeLink (curSlot s).pc) s) s

/-- CALLI (R92): the target is read before the link is written. -/
def execCalli (g : Guard) (f : RForm) (s : State) : Out_ :=
  issue g [.s f.a, .ds 63] false (fun s => transfer (sGet (curSlot s) f.a) (writeLink (curSlot s).pc) s) s

/-- RET (R92). -/
def execRet (g : Guard) (_f : RForm) (s : State) : Out_ :=
  issue g [.s 63] false (fun s => transfer (sGet (curSlot s) 63) id s) s

/-- LOOP (R92): counts down, and falls through unchecked at zero. -/
def loopBody (f : BForm) (s : State) : Eff :=
  let x := curSlot s
  let c := sGet x f.a - 1
  if c = 0 then .done (withCur s (fun x => sPut x f.a 0))
  else transfer (branchTarget x.pc f) (fun x => sPut x f.a c) s

/-- LOOP (R92). -/
def execLoop (g : Guard) (f : BForm) (s : State) : Out_ := issue g [.ds f.a] false (loopBody f) s

end Sys2Proof.Machine
end

