-- ==== Sys2Proof/Machine/Launch.lean ====
section
/-!
DEFINITION. Launch records: the launch unit's reads, the fields of R136, and validation (R137, R138, R145, R351).
-/

namespace Sys2Proof.Machine

/-- What a check of the launch unit answers: a value, the check's code, or a wait, for a page if one has to be made
resident (R138). -/
inductive Chk (α : Type) where
  | ok (x : α)
  | err (n : Nat)
  | hold (p : Option PageRef)

/-- A check after another. -/
def Chk.and {α β : Type} (c : Chk α) (f : α → Chk β) : Chk β :=
  match c with
  | .ok x => f x
  | .err n => .err n
  | .hold p => .hold p

/-- A condition with its code. -/
def need (b : Bool) (n : Nat) : Chk Unit := if b then .ok () else .err n

/-- Who the launch unit reads as on a module (R138, R159). -/
def luWho (m : Nat) (asid : BitVec 16) : Who := ⟨⟨m, 0, 0⟩, none, asid, none, true, none, true, .device⟩

/-- `n` bytes at `va` read by the launch unit; what cannot be read fails with `code`; `exec` asks for X (R138, R190). It reads
through no LOCAL window. A code image in a CORE window or in host memory, where no leaf has an X bit, cannot be read either:
R138 does not say (DESIGN CHOICE, log 39). `k` bounds the pieces. -/
def luRead (s : State) (w : Who) (exec : Bool) (code : Nat) (va : Word) (n k : Nat) : Chk Nat :=
  match k with
  | 0 => .ok 0
  | k + 1 =>
    if n = 0 then .ok 0
    else
      let q := min n (8 - va.toNat % 8)
      let go := fun f : Nat =>
        if veiled s w (resolve s w va false) va q then .hold none
        else if poisonAt s f || eccBad s f q then .err code
        else (luRead s w exec code (va + BitVec.ofNat 64 q) (n - q) k).and
          (fun r => .ok (memRead s.mem f q + 256 ^ q * r))
      match placeOf w.asid va, resolve s w va false with
      | .lcl _, _ => .err code
      | _, .line f _ e _ _ _ => if exec && !leafX e then .err code else go f
      | _, .lstore _ f => if exec then .err code else go f
      | _, .hostMem f _ => if exec then .err code else go f
      | _, .fail _ => .err code
      | _, .absent p => .hold (some p)
      | _, .wait => .hold none

/-- The words of a value of `n` bytes. -/
def valWords (n x : Nat) : List Word := (List.range ((n + 7) / 8)).map (fun i => BitVec.ofNat 64 (x / 2 ^ (64 * i)))

/-- `n` bytes as words. -/
def luWords (s : State) (w : Who) (code : Nat) (va : Word) (n : Nat) : Chk (List Word) :=
  (luRead s w false code va n n).and (fun x => .ok (valWords n x))

/-! ### Layout records (R351) -/

/-- A layout record from its 8 words, or none when it is ill-formed. -/
def layoutOf (ws : List Word) (owner : Option LaunchRef) : Option Layout :=
  let nd := bytesAt ws 3 1
  let mask := bytesAt ws 4 2
  let gx := bytesAt ws 6 1
  let gy := bytesAt ws 7 1
  let base := bytesAt ws 8 8
  let d := fun k => bytesAt ws (0x10 + 4 * k) 4
  let t := fun k => bytesAt ws (0x20 + 4 * k) 4
  let bytes := 2 ^ bytesAt ws 2 1 * (List.range nd).foldl (fun a k => a * max (d k) 1) 1
  if bytesAt ws 0 2 = 1 && decide (bytesAt ws 2 1 ≤ 3) && decide (1 ≤ nd) && decide (nd ≤ 4) && mask != 0 &&
      gx != 0 && gy != 0 && gx * gy = (maskDies mask).length && base % 4096 = 0 &&
      (List.range 4).all (fun k => if k < nd then d k != 0 && t k != 0 && decide (t k ≤ d k) else d k = 0 && t k = 0) &&
      ws.getD 6 0 = 0 && ws.getD 7 0 = 0 &&
      (regionOf base = some 1 || regionOf base = some 2) && regionOf base = regionOf (base + bytes - 1) then
    some ⟨bytesAt ws 2 1, nd, mask, gx, gy, base, (List.range nd).map d, (List.range nd).map t, owner⟩
  else none

/-! ### Records (R136) -/

/-- The fields of a record from its 32 words; the preload entries are read later. -/
def recFields (ws : List Word) : Rec :=
  let b := bytesAt ws
  { asid := BitVec.ofNat 16 (b 2 2), prio := b 4 1 % 8, holes := b 5 1 % 2 = 1, cdpol := BitVec.ofNat 16 (b 6 2),
    code := BitVec.ofNat 64 (b 8 8), codelen := b 0x10 4, entry := BitVec.ofNat 64 (b 0x14 4), preload := [],
    nlev := b 0x22 1 % 4, nbar := b 0x23 1, dies := maskDies (b 0x24 2), dgx := b 0x26 1, rx := b 0x28 1, ry := b 0x29 1,
    rw := b 0x2A 1, rh := b 0x2B 1, doms := (List.range 3).map (fun k => (b (0x2C + 4 * k) 2, b (0x2E + 4 * k) 2)),
    bars := (List.range 16).map (fun i => (b (0x38 + 8 * i) 2, b (0x3A + 8 * i) 2, b (0x3C + 8 * i) 2, b (0x3E + 8 * i) 2)),
    xplan := BitVec.ofNat 64 (b 0xB8 8), layouts := BitVec.ofNat 64 (b 0xC0 8), idtens := BitVec.ofNat 64 (b 0xC8 8),
    fsup0 := BitVec.ofNat 32 (b 0xD0 4), fsup1 := BitVec.ofNat 32 (b 0xD4 4), t1 := b 0xD8 4, t2 := b 0xDC 4,
    preds := (List.range 4).filterMap (fun i =>
      let p := b (0xE0 + 4 * i) 4
      if 2 ^ 31 ≤ p then some (p % 16, p / 16 % 2 ^ 27) else none),
    patience := b 0xF0 4, syncto := b 0xF4 4, nlayout := b 0xF8 1 }

/-- FERR 1: FMT and the reserved bits (R136, R300). -/
def recFmt (ws : List Word) : Bool :=
  let b := bytesAt ws
  b 0 2 = 1 && decide (b 4 1 < 8) && decide (b 5 1 < 2) && decide (b 6 2 < 64) && decide (b 0x22 1 < 4) && b 0x27 1 = 0 &&
    b 0xF9 7 = 0

/-- FERR 2. -/
def recCode (r : Rec) : Bool :=
  r.code.toNat % 64 = 0 && r.codelen % 64 = 0 && decide (64 ≤ r.codelen) && decide (r.codelen ≤ 0x100000) &&
    (checkPc r.entry).isNone && decide (r.entry.toNat < r.codelen)

/-- Where the preload table stands, and its number of entries (R136). -/
def preAt (ws : List Word) : Word × Nat := (BitVec.ofNat 64 (bytesAt ws 0x18 8), bytesAt ws 0x20 2)

/-- The entries of a preload table: source, LOCAL offset and length. -/
def preEntries (ts : List Word) (n : Nat) : List (Word × Nat × Nat) :=
  (List.range n).map (fun i =>
    (BitVec.ofNat 64 (bytesAt ts (16 * i) 8), bytesAt ts (16 * i + 8) 4, bytesAt ts (16 * i + 12) 4))

/-- FERR 3: the preload table (R136). -/
def recPreload (s : State) (w : Who) (ws : List Word) (r : Rec) : Chk (List (Word × Nat × Nat)) :=
  let va := (preAt ws).1
  let n := (preAt ws).2
  (need (decide (n ≤ 64) && va.toNat % 16 = 0 && (n != 0 || va = 0)) 3).and (fun _ =>
  (luWords s w 3 va (16 * n)).and (fun ts =>
    let es := preEntries ts n
    (need (es.all (fun e => e.2.2 % 8 = 0 && decide (r.codelen ≤ e.2.1) && decide (e.2.1 + e.2.2 ≤ 0x100000)) &&
      disjoint (es.map (fun e => (e.2.1, e.2.2)))) 3).and (fun _ => .ok es)))

/-- FERR 4: the dies and the rectangle (R134). -/
def recMesh (x : Mod) (r : Rec) : Bool :=
  r.dies != [] && r.dies.all (dieMapped x.dmap) && decide (1 ≤ r.dgx) && decide (r.dgx ≤ 16) && r.dies.length % r.dgx = 0 &&
    r.rw != 0 && r.rh != 0 && decide (r.rx + r.rw ≤ 32) && decide (r.ry + r.rh ≤ 12)

/-- All cores of the launch mesh, holes included, with their mesh positions (R134). -/
def meshCores (m : Nat) (r : Rec) : List (Nat × Nat × CoreRef) :=
  let d := meshDim r
  ((List.range d.2).map (fun y => (List.range d.1).map (fun x => (x, y, coreAtMesh m r x y)))).flatten

/-- FERR 6: each domain divides the one before it (R137). -/
def recDoms (n : Nat) (px py : Nat) (ds : List (Nat × Nat)) : Bool :=
  match ds with
  | [] => true
  | (x, y) :: t =>
    match n with
    | 0 => x = 0 && y = 0 && recDoms 0 px py t
    | k + 1 => x != 0 && y != 0 && px % x = 0 && py % y = 0 && recDoms k x y t

/-- FERR 7: the barriers. -/
def recBars (r : Rec) : Bool :=
  let d := meshDim r
  decide (r.nbar ≤ 16) && (List.range 16).all (fun i =>
    let q := r.bars.getD i (0, 0, 0, 0)
    if i < r.nbar then q.2.2.1 != 0 && q.2.2.2 != 0 && decide (q.1 + q.2.2.1 ≤ d.1) && decide (q.2.1 + q.2.2.2 ≤ d.2)
    else q = (0, 0, 0, 0))

/-! ### Exchange plans (R145) -/

/-- The mesh position of a core of the launch. -/
def meshPos (m : Nat) (r : Rec) (d c : Nat) : Option (Nat × Nat) :=
  ((meshCores m r).find? (fun q => q.2.2.d = d && q.2.2.c = c)).map (fun q => (q.1, q.2.1))

/-- An end of an entry is legal: a CORE window of the level's domain, or one of the translated regions; LOCAL for a source
only (R145). -/
def planEnd (m : Nat) (r : Rec) (e : PlanEntry) (va : Word) (src : Bool) : Bool :=
  va.toNat % 8 = 0 &&
  (match placeOf 0 va with
   | .lcl off => src && decide (off + e.len ≤ 0x100000)
   | .page _ _ => oneRegion va e.len
   | .core d c off => decide (off + e.len ≤ 0x100000) &&
       (match meshPos m r d c with
        | some p => domainAt r e.level p.1 p.2 = domainAt r e.level e.x e.y
        | none => false)
   | .bad => false)

/-- One entry from its four words. -/
def planEntryOf (v : Nat) (ws : List Word) (o : Nat) : PlanEntry :=
  let b := fun i n => bytesAt ws (o + i) n
  ⟨v, BitVec.ofNat 64 (b 0 8), BitVec.ofNat 64 (b 8 8), b 0x10 4, b 0x14 2, b 0x16 2, b 0x18 2⟩

/-- An entry is well formed. -/
def planOk (s : State) (m : Nat) (r : Rec) (ws : List Word) (o : Nat) (e : PlanEntry) : Bool :=
  let d := meshDim r
  decide (8 ≤ e.len) && decide (e.len ≤ 0x100000) && e.len % 8 = 0 && decide (e.level ≤ r.nlev) && bytesAt ws (o + 0x1A) 6 = 0 &&
    decide (e.x < d.1) && decide (e.y < d.2) &&
    (let c := coreAtMesh m r e.x e.y; corePresent (modAt s m) c.d c.c) &&
    planEnd m r e e.src true && planEnd m r e e.dst false

/-- The entries of variants `v` on, or code 8. -/
def planVariants (s : State) (w : Who) (m : Nat) (r : Rec) (hd : List Word) (v n : Nat) : Chk (List PlanEntry) :=
  match n with
  | 0 => .ok []
  | k + 1 =>
    let off := bytesAt hd (8 * v) 4
    let cnt := bytesAt hd (8 * v + 4) 4
    (need (off % 32 = 0) 8).and (fun _ =>
    (luWords s w 8 (r.xplan + BitVec.ofNat 64 off) (32 * cnt)).and (fun ws =>
      let es := (List.range cnt).map (fun i => planEntryOf v ws (32 * i))
      let ok := (List.range cnt).all (fun i => planOk s m r ws (32 * i) (planEntryOf v ws (32 * i)))
      let apart := (List.range 4).all (fun l =>
        disjoint ((es.filter (fun e => e.level = l)).map (fun e => (e.dst.toNat, e.len))))
      (need (ok && apart) 8).and (fun _ =>
      (planVariants s w m r hd (v + 1) k).and (fun rest => .ok (es ++ rest)))))

/-- FERR 8. -/
def recPlan (s : State) (w : Who) (m : Nat) (r : Rec) : Chk (List PlanEntry) :=
  if r.xplan = 0 then .ok []
  else
    (need (r.xplan.toNat % 64 = 0) 8).and (fun _ =>
    (luWords s w 8 r.xplan 64).and (fun hd =>
    (need ((List.range 4).all (fun i => hd.getD (4 + i) 0 = 0)) 8).and (fun _ => planVariants s w m r hd 0 4)))

/-- A layout record at an address, or code 9. -/
def readLayout (s : State) (w : Who) (va : Word) (owner : Option LaunchRef) : Chk Layout :=
  (need (va.toNat % 64 = 0) 9).and (fun _ =>
  (luWords s w 9 va 64).and (fun ws => match layoutOf ws owner with | some l => .ok l | none => .err 9))

/-- The records of LAYOUTS. -/
def readLayouts (s : State) (w : Who) (va : Word) (owner : Option LaunchRef) (n : Nat) : Chk (List Layout) :=
  match n with
  | 0 => .ok []
  | k + 1 => (readLayout s w va owner).and (fun l =>
      (readLayouts s w (va + 64) owner k).and (fun r => .ok (l :: r)))

/-- The word of a queue descriptor, read with the global tag (R159), with what the launch unit still has to write. -/
def queueWord (s : State) (m : Nat) (q : Queue) (off : Nat) : Option Nat :=
  let a := q.desc + BitVec.ofNat 64 off
  match luRead s (luWho m 0) false 0 a 8 8 with | .ok v => some (devOver s (luWho m 0) a 8 v) | _ => none

/-- A queue's descriptor cannot be read now: its page, if one has to be made resident; it also waits while it holds a release that the
launch unit does not see yet (R215). -/
def descHeld (s : State) (m : Nat) (q : Queue) : Option (Option PageRef) :=
  match luRead s (luWho m 0) false 0 q.desc 64 64 with | .hold p => some p | _ => none

/-- The page that a wait names is asked for. -/
def askAny (s : State) (p : Option PageRef) : State := match p with | some p => askPage s p | none => s

/-- FERR 11: the predecessors. -/
def predsKnown (s : State) (m : Nat) (ps : List (Nat × Nat)) : Chk Unit :=
  match ps with
  | [] => .ok ()
  | p :: r =>
    match tfind (modAt s m).queues p.1 with
    | none => .err 11
    | some q =>
      match descHeld s m q with
      | some h => .hold h
      | none => (need (decide (p.2 < (queueWord s m q 0x10).getD 0)) 11).and (fun _ => predsKnown s m r)

/-- The preload sources can be read. -/
def readSources (s : State) (w : Who) (es : List (Word × Nat × Nat)) : Chk Unit :=
  match es with
  | [] => .ok ()
  | e :: r => (luRead s w false 12 e.1 e.2.2 e.2.2).and (fun _ => readSources s w r)

/-- What a validated record gives: its fields and words, its exchange plan, its layout records and its identity tensor. -/
structure Valid where
  r : Rec
  raw : List Word
  plan : List PlanEntry
  lays : List Layout
  ident : Option Layout

/-- Validation of a record's words in the order of R138. -/
def validate (s : State) (l : LaunchRef) (ws : List Word) : Chk Valid :=
  let m := l.m
  let x := modAt s m
  let r := recFields ws
  let w := luWho m r.asid
  let d := meshDim r
  (need (recFmt ws) 1).and (fun _ =>
  (need (recCode r) 2).and (fun _ =>
  (recPreload s w ws r).and (fun pre =>
  (need (recMesh x r) 4).and (fun _ =>
  (need (r.holes || (meshCores m r).all (fun q => corePresent x q.2.2.d q.2.2.c)) 5).and (fun _ =>
  (need (recDoms r.nlev d.1 d.2 r.doms) 6).and (fun _ =>
  (need (recBars r) 7).and (fun _ =>
  (recPlan s w m r).and (fun plan =>
  (need ((r.nlayout = 0) = (r.layouts = 0)) 9).and (fun _ =>
  (readLayouts s w r.layouts (some l) r.nlayout).and (fun lays =>
  (if r.idtens = 0 then .ok none else (readLayout s w r.idtens none).and (fun i => .ok (some i))).and (fun ident =>
  (need (lays.all (fun y => (maskDies y.diemask).all (dieMapped x.dmap))) 9).and (fun _ =>
  (need (r.fsup0 != 0 && decide (epaType r.fsup0 < 7) && decide (epaType r.fsup1 < 7)) 10).and (fun _ =>
  (predsKnown s m r.preds).and (fun _ =>
  (luRead s w true 12 r.code r.codelen r.codelen).and (fun _ =>
  (readSources s w pre).and (fun _ =>
  .ok ⟨{ r with preload := pre }, ws, plan, lays, ident⟩))))))))))))))))

/-! ### What the reads leave (R188, R190) -/

/-- The home's translations for `n` bytes that the launch unit reads, line by line up to the first that cannot be read; `k` bounds
the lines. -/
def luTouch (s : State) (w : Who) (va : Word) (n k : Nat) : State :=
  match k with
  | 0 => s
  | k + 1 =>
    let q := min n (128 - va.toNat % 128)
    let on := fun s : State => luTouch s w (va + BitVec.ofNat 64 q) (n - q) k
    if n = 0 then s
    else match resolve s w va false, placeOf w.asid va with
      | .line f l _ at_ own _, _ => on (readFlat (translate s w va l at_ own) f q).2
      | .hostMem f own, .page tag a => on (readFlat (touchPage s (pageOf w.c.m tag a) own) f q).2
      | .lstore _ f, _ => on (readFlat s f q).2
      | .fail _, _ => failSeen s w va
      | _, _ => s

/-- What the checks with codes up to `code` read for a record (R138), in their order. -/
def recReads (s : State) (w : Who) (ws : List Word) (code : Nat) : List (Word × Nat) :=
  let q := fun p : Nat × Nat => (tfind (modAt s w.c.m).queues p.1).map (fun u => (u.desc, 64))
  let r := recFields ws
  let p := preAt ws
  let hd := match luWords s w 8 r.xplan 64 with | .ok hd => hd | _ => []
  let ts := match luWords s w 3 p.1 (16 * min p.2 64) with | .ok ts => ts | _ => []
  (if 3 ≤ code then [(p.1, 16 * min p.2 64)] else []) ++
  (if 8 ≤ code && r.xplan != 0 then (r.xplan, 64) :: (List.range 4).map (fun v =>
    (r.xplan + BitVec.ofNat 64 (bytesAt hd (8 * v) 4), 32 * bytesAt hd (8 * v + 4) 4)) else []) ++
  (if 9 ≤ code then [(r.layouts, 64 * r.nlayout), (r.idtens, if r.idtens = 0 then 0 else 64)] else []) ++
  (if 11 ≤ code then r.preds.filterMap q else []) ++
  (if 12 ≤ code then (r.code, r.codelen) :: (preEntries ts (min p.2 64)).map (fun e => (e.1, e.2.2)) else [])

/-- The state after the reads of a validation that passed or failed with `code`. -/
def recSeen (s : State) (m : Nat) (ws : List Word) (code : Nat) : State :=
  let w := luWho m (recFields ws).asid
  (recReads s w ws code).foldl (fun s r => luTouch s w r.1 r.2 (r.2 / 128 + 2)) s

end Sys2Proof.Machine
end

