-- ==== Sys2Proof/Machine/Frame.lean ====
section
/-!
DEFINITION. The save frame (R314, R315): what the device writes of a launch's cores and mills to its save area, and how a
restore reads it back. What a restore alone reads is kept as data beside the frame (log 7).
-/

namespace Sys2Proof.Machine

/-! ### The cores and mills of a launch -/

/-- All cores of the launch's rectangle, holes included. -/
def claimedCores (m : Nat) (r : Rec) : List CoreRef :=
  let d := meshDim r
  ((List.range d.2).map (fun y => (List.range d.1).map (fun x => coreAtMesh m r x y))).flatten

/-- Its present cores, ascending by logical die and LCORE (R314). -/
def launchCores (s : State) (m : Nat) (r : Rec) : List CoreRef :=
  let cs := (claimedCores m r).filter (fun c => corePresent (modAt s m) c.d c.c)
  ((List.range 16).map (fun d => (List.range 384).filterMap (fun c => cs.find? (fun q => q.d = d && q.c = c)))).flatten

/-- The present cores of a hamlet. -/
def hamCores (s : State) (h : HamRef) : List CoreRef :=
  ((List.range 8).map (fun i => (⟨h.m, h.d, 8 * h.h + i⟩ : CoreRef))).filter (fun c => corePresent (modAt s h.m) c.d c.c)

/-- A launch holds every present core of a hamlet (R251). -/
def holdsMill (s : State) (l : LaunchRef) (h : HamRef) : Bool :=
  (hamCores s h).all (fun c => (coreAt s c).launch = some l)

/-- The hamlets of a list of cores, ascending. -/
def hamsOf (cs : List CoreRef) : List HamRef :=
  cs.foldl (fun a c => if a.contains (hamOf c) then a else a ++ [hamOf c]) []

/-- The mills that a launch holds, ascending by die and hamlet. -/
def heldMills (s : State) (l : LaunchRef) (cs : List CoreRef) : List HamRef := (hamsOf cs).filter (holdsMill s l)

/-! ### Device words -/

/-- The first page of `n` bytes that the device cannot reach now, for it to be asked for if it is not present. The device writes and
reads the records of a launch in one step, once all of their pages can be reached (log 31). -/
def rangeHeld (s : State) (d : Who) (va : Word) (n : Nat) (write : Bool) : Option (Option PageRef) :=
  let starts := va :: (List.range ((va.toNat % 65536 + n + 65535) / 65536 - 1)).map (fun i =>
    BitVec.ofNat 64 ((va.toNat / 65536 + 1 + i) * 65536))
  starts.findSome? (fun a => match resolve s d a write with
    | .absent p => some (some p)
    | .wait => some none
    | _ => none)

/-- Words put from an address up, as far as it is mapped. -/
def devPuts (s : State) (d : Who) (a : Word) (ws : List Word) : State :=
  match ws with
  | [] => s
  | v :: r => devPuts (devWrite s d a 8 v.toNat) d (a + 8) r

/-- Words written from an address up, as far as it is mapped; they clear the poison of the lines that they cover whole (R347). -/
def devWords (s : State) (d : Who) (a : Word) (ws : List Word) : State := clearWhole (devPuts s d a ws) d a (8 * ws.length)

/-- `n` words whose form only a restore reads: unspecified bytes (log 7). -/
def devFill (s : State) (d : Who) (a : Word) (n : Nat) : State :=
  (List.range n).foldl (fun t i =>
    devWrite t d (a + BitVec.ofNat 64 (8 * i)) 8
      ((List.range 8).foldl (fun x j => x + (Config.freeByte s.clk (8 * i + j)).toNat * 256 ^ j) 0)) s

/-- `n` words of a core's local store, from word `i` on, copied to an address. -/
def devLocal (s : State) (d : Who) (c : CoreRef) (a : Word) (i n : Nat) : State :=
  match n with
  | 0 => s
  | k + 1 => devLocal (devWrite s d (a + BitVec.ofNat 64 (8 * i)) 8 (memRead s.mem (localFlat c (8 * i)) 8)) d c a (i + 1) k

/-- A word of the frame, or `x` where it cannot be read. -/
def frameWord (s : State) (d : Who) (a : Word) (x : Nat) : Nat :=
  match perfRead s d a 8 with | .ok _ v => devOver s d a 8 v | _ => x

/-! ### Slot images -/

/-- State code of a slot image; an ending slot is one that runs (R315). -/
def stCode : SlotSt → Nat
  | .free => 0 | .ready => 1 | .parked _ _ => 2 | .faulted => 3 | .ending _ => 1

/-- The CSR numbers of the words at 0xA60, in order; the pending wake follows (R315). -/
def imageCsrs : List Nat :=
  [0x001, 0x002, 0x003, 0x004, 0x011, 0x201, 0x120, 0x121, 0x122, 0x123, 0x124, 0x400, 0x401, 0x402, 0x403, 0x407, 0x406,
    0x405, 0x408]

/-- The words 0x000 to 0xAFF of a slot image (R315); the codes of park causes are not stated (log 7). -/
def slotWords (s : State) (w : SlotRef) : List Word :=
  let x := slotAt s w
  let cause := match x.st with | .parked _ _ => Config.freePick s.clk % 32 | _ => 0
  (saveWords x 0 0).take 328 ++
  [BitVec.ofNat 64 ((List.range 8).foldl (fun a i => a + (if pGet x i then 2 ^ i else 0)) 0 + stCode x.st * 2 ^ 8 +
      cause * 2 ^ 11),
   x.pc, x.pendS, BitVec.ofNat 64 (x.pendV.toNat + x.outs.length % 64 * 2 ^ 32)] ++
  imageCsrs.map (fun n => csrRead s w n 0) ++ [BitVec.ofNat 64 (b2n x.pendingWake)]

/-- The state of a restored slot: the saved one while the image names it, else the one that the code names. -/
def stOfCode (st : SlotSt) (code : Nat) : SlotSt :=
  if stCode st = code then st else match code with | 0 => .free | 1 => .ready | 3 => .faulted | _ => st

/-- A slot from its image: the documented words `ws`, the rest from the saved slot `x` (R315, R317). -/
def slotOfWords (x : Slot) (ws : List Word) : Slot :=
  let g := fun i => ws.getD i 0
  let y := restoreRegs x (ws.take 329)
  let c := fun i => g (332 + i)
  { y with
    st := stOfCode x.st ((g 328).toNat / 2 ^ 8 % 8), pc := g 329, pendS := g 330, pendV := (g 331).extractLsb' 0 32,
    csr := { y.csr with
      fflg := (c 0).extractLsb' 0 7, fena := (c 1).extractLsb' 0 5, frm := (c 2).extractLsb' 0 2, rchk := (c 3).getLsbD 0,
      ternidx := (c 4).extractLsb' 0 6, pkey := (c 5).extractLsb' 0 32, taskid := (c 6).extractLsb' 0 32,
      tidx := (List.range 4).map (fun i => (i, (c (7 + i)).extractLsb' 0 32)) },
    trap := { y.trap with
      vec := c 11, pc := c 12, cause := (c 13).extractLsb' 0 8, defer := (c 13).getLsbD 8, esc := (c 13).getLsbD 9,
      inh := (c 13).getLsbD 10, val := c 14, limit := (c 15).extractLsb' 0 4, retry := (c 16).extractLsb' 0 16,
      lastCause := (c 16).extractLsb' 16 8, lastDepth := (c 16).extractLsb' 24 4, einj := einjOf (c 18) },
    pendingWake := (c 19).getLsbD 0 }

/-! ### Records -/

/-- Offset of core record `i` and, with `n` core records, of hamlet record `j` (R314). -/
def coreRecOff (i : Nat) : Nat := 0x11000 + 0x120000 * i
def hamRecOff (n j : Nat) : Nat := 0x11000 + 0x120000 * n + 0x300000 * j

/-- The device's address at an offset of the save area. -/
def savAt (base : Word) (off : Nat) : Word := base + BitVec.ofNat 64 off

/-- The inbox of a core as 64 entries of 8 words, unused ones zero. -/
def inboxWords (c : Core) : List Word :=
  ((List.range 64).map (fun i => match c.inbox[i]? with | some e => wordsOf 8 e.raw | none => List.replicate 8 0)).flatten

/-- Writes a core record (R315). -/
def writeCoreRec (s : State) (d : Who) (c : CoreRef) (a : Word) : State :=
  let s := (slotsOf c).foldl (fun s w =>
      devFill (devWords s d (savAt a (0x4000 * w.k)) (slotWords s w)) d (savAt a (0x4000 * w.k + 0xB00)) 0x6A0) s
  let s := devLocal s d c (savAt a 0x10000) 0 0x20000
  devFill (devWords s d (savAt a 0x110000) (inboxWords (coreAt s c))) d (savAt a 0x111000) 0x1E00

/-- Writes a hamlet record (R315). -/
def writeHamRec (s : State) (d : Who) (h : HamRef) (a : Word) : State :=
  let x := hamAt s h
  let e := fun i => tget x.acc AccEntry.reset i
  let s := devWords s d a ((List.range 0x40000).map (fun i => (e i).e))
  let s := devWords s d (savAt a 0x200000) ((List.range 0x2000).map (fun i =>
    BitVec.ofNat 64 ((List.range 32).foldl (fun n j => n + (e (32 * i + j)).res.toNat * 4 ^ j) 0)))
  let s := devWords s d (savAt a 0x210000) ((List.range 4).map (fun i =>
    BitVec.ofNat 64 ((List.range 4).foldl (fun n j =>
      n + ((tget x.aexp 0 (4 * i + j)).toNat + b2n (x.auto.getLsbD (4 * i + j)) * 2 ^ 15) * 2 ^ (16 * j)) 0)))
  let s := devWords s d (savAt a 0x210100) ((List.range 2).map (fun i =>
    BitVec.ofNat 64 ((List.range 8).foldl (fun n j => n + (tget x.wrote 0 (8 * i + j)).toNat * 256 ^ j) 0)))
  let s := devFill s d (savAt a 0x220000) 0x14000
  devWords s d (savAt a 0x2C0000) [x.millwt.zeroExtend 64, x.millidle.zeroExtend 64]

/-- The frame header as 512 words (R314), with the rung of the save under way (R316). -/
def headerWords (s : State) (l : LaunchRef) (x : Launch) (cs : List CoreRef) (nham : Nat) : List Word :=
  let step : Word := match cs with | c :: _ => sstepWord (coreAt s c) | [] => 0
  [BitVec.ofNat 64 (1 + x.climb * 2 ^ 16 + (l.q % 16 + l.s % 2 ^ 27 * 16) * 2 ^ 32), step,
   BitVec.ofNat 64 (cs.length + nham * 2 ^ 32), s.tick] ++ List.replicate 28 0 ++
  ((List.range 16).map (fun i =>
    let b := tget x.bars Bar.reset i
    [BitVec.ofNat 64 (b2n b.phase + b.c0 * 2 ^ 32), BitVec.ofNat 64 (b.c1 + b.r % 2 ^ 32 * 2 ^ 32)])).flatten ++
  List.replicate 448 0

/-- Who the device writes a launch's save area as. -/
def saveWho (l : LaunchRef) (x : Launch) : Who := luWho l.m x.record.asid

/-- Writes the core and hamlet records of a launch at an address. -/
def writeRecords (s : State) (d : Who) (a : Word) (cs : List CoreRef) (hs : List HamRef) : State :=
  let s := (cs.mapIdx (fun i c => (i, c))).foldl (fun s p => writeCoreRec s d p.2 (savAt a (coreRecOff p.1))) s
  (hs.mapIdx (fun i h => (i, h))).foldl (fun s p => writeHamRec s d p.2 (savAt a (hamRecOff cs.length p.1))) s

/-- Writes the save frame of a launch to its save area (R314). -/
def writeFrame (s : State) (l : LaunchRef) (x : Launch) : State :=
  let cs := launchCores s l.m x.record
  let hs := heldMills s l cs
  let d := saveWho l x
  writeRecords (devWords s d (savAt x.save 0x10000) (headerWords s l x cs hs.length)) d x.save cs hs

/-- Bytes that the records of a launch take in AREA, as the core and hamlet records of R314 (log 18). -/
def recordBytes (s : State) (l : LaunchRef) (r : Rec) : Nat :=
  let cs := launchCores s l.m r
  0x120000 * cs.length + 0x300000 * (heldMills s l cs).length

/-- The first page of a launch's save area that cannot be reached now (R314). -/
def areaHeld (s : State) (l : LaunchRef) (x : Launch) (write : Bool) : Option (Option PageRef) :=
  rangeHeld s (saveWho l x) x.save (coreRecOff 0 + recordBytes s l x.record) write

/-! ### Images -/

/-- The images of a launch: slots, cores, hamlets, and the bytes of its local stores. -/
def imagesOf (s : State) (cs : List CoreRef) (hs : List HamRef) : Tbl Slot × Tbl Core × Tbl Ham × Memory :=
  ((cs.map slotsOf).flatten.foldl (fun t w => tput t (slotKey w) (slotAt s w)) [],
   cs.foldl (fun t c => tput t (coreKey c.m c.d c.c) (coreAt s c)) [],
   hs.foldl (fun t h => tput t (hamKey h.m h.d h.h) (hamAt s h)) [],
   s.mem.filter (fun p => cs.any (fun c => p.1 / 2 ^ 20 = coreKey c.m c.d c.c)))

/-- A launch with the images of its present state. -/
def withImages (s : State) (l : LaunchRef) (x : Launch) : Launch :=
  let cs := launchCores s l.m x.record
  let i := imagesOf s cs (heldMills s l cs)
  { x with slots := i.1, cores := i.2.1, hams := i.2.2.1, locals := i.2.2.2 }

/-- `n` words of a local store from word `i` on, restored from the frame. -/
def restoreLocal (s : State) (d : Who) (c : CoreRef) (img : Memory) (a : Word) (i n : Nat) : State :=
  match n with
  | 0 => s
  | k + 1 =>
    let v := frameWord s d (a + BitVec.ofNat 64 (8 * i)) (memRead img (localFlat c (8 * i)) 8)
    restoreLocal (writeFlat s (localFlat c (8 * i)) 8 v) d c img a (i + 1) k

/-- Restores a core from its record and its image (R317). -/
def restoreCore (s : State) (l : LaunchRef) (x : Launch) (d : Who) (c : CoreRef) (a : Word) : State :=
  let o := tget x.cores Core.reset (coreKey c.m c.d c.c)
  let inbox := o.inbox.mapIdx (fun i e =>
    { e with raw := packWords ((List.range 8).map (fun j =>
      BitVec.ofNat 64 (frameWord s d (savAt a (0x110000 + 64 * i + 8 * j)) ((wordsOf 8 e.raw).getD j 0).toNat))) })
  let s := setCore s c { o with launch := some l, inbox := inbox }
  let s := restoreLocal s d c x.locals (savAt a 0x10000) 0 0x20000
  (slotsOf c).foldl (fun s w =>
      let y := tget x.slots Slot.reset (slotKey w)
      let s := setSlot s w y
      let ws := slotWords s w
      let ws := ws.mapIdx (fun i v => BitVec.ofNat 64 (frameWord s d (savAt a (0x4000 * w.k + 8 * i)) v.toNat))
      let z := slotOfWords y ws
      setSlot s w (if z.st = .free then Slot.reset else z))
    s

/-- Restores a mill from its record and its image. -/
def restoreHam (s : State) (x : Launch) (d : Who) (h : HamRef) (a : Word) : State :=
  let o := tget x.hams Ham.reset (hamKey h.m h.d h.h)
  let e := fun i => tget o.acc AccEntry.reset i
  let word := fun off v => frameWord s d (savAt a off) v
  let acc := (List.range 0x40000).foldl (fun t i =>
      let v : Word := BitVec.ofNat 64 (word (8 * i) (e i).e.toNat)
      let q := word (0x200000 + i / 32 * 8)
        ((List.range 32).foldl (fun n j => n + (e (i / 32 * 32 + j)).res.toNat * 4 ^ j) 0)
      let r : BitVec 2 := BitVec.ofNat 2 (q / 4 ^ (i % 32))
      if v = 0 && r = 0 then t else t ++ [(i, ⟨v, r⟩)]) []
  let ax := fun t => word (0x210000 + t / 4 * 8)
    ((List.range 4).foldl (fun n j => n + ((tget o.aexp 0 (t / 4 * 4 + j)).toNat +
      b2n (o.auto.getLsbD (t / 4 * 4 + j)) * 2 ^ 15) * 2 ^ (16 * j)) 0) / 2 ^ (16 * (t % 4)) % 2 ^ 16
  let wr := fun t => word (0x210100 + t / 8 * 8)
    ((List.range 8).foldl (fun n j => n + (tget o.wrote 0 (t / 8 * 8 + j)).toNat * 256 ^ j) 0) / 256 ^ (t % 8) % 256
  setHam s h { hamAt s h with
    acc := acc, planes := o.planes, marks := o.marks,
    aexp := (List.range 16).map (fun t => (t, BitVec.ofNat 10 (ax t))),
    auto := (List.range 16).foldl (fun n t => if (ax t).testBit 15 then n ||| (1#16 <<< t) else n) 0,
    wrote := (List.range 16).map (fun t => (t, BitVec.ofNat 8 (wr t))),
    millwt := BitVec.ofNat 32 (word 0x2C0000 o.millwt.toNat),
    millidle := BitVec.ofNat 16 (word 0x2C0008 o.millidle.toNat) }

/-- Restores every core and mill of a launch (R317). -/
def restoreFrame (s : State) (l : LaunchRef) (x : Launch) : State :=
  let cs := launchCores s l.m x.record
  let d := saveWho l x
  let n := recordBytes s l x.record
  let s := luTouch s d (savAt x.save (coreRecOff 0)) n (n / 128 + 2)
  let s := (cs.mapIdx (fun i c => (i, c))).foldl (fun s p => restoreCore s l x d p.2 (savAt x.save (coreRecOff p.1))) s
  ((heldMills s l cs).mapIdx (fun i h => (i, h))).foldl (fun s p =>
    restoreHam s x d p.2 (savAt x.save (hamRecOff cs.length p.1))) s

end Sys2Proof.Machine
end

