-- ==== Sys2Proof/Machine/EvLaunch.lean ====
section
/-!
DEFINITION. The events of the launch unit: its pass, the start and the end of a launch, pre-emption and restore, halts and
dumps (R139, R159-R161, R316, R317, R322, R323, R325, R326, R352).
-/

namespace Sys2Proof.Machine

/-! ### Recalling lines -/

/-- The line of a key of `lines`. -/
def lineOfKey (k : Nat) : LineRef := ⟨k / 2 ^ 50 / 65537, k / 2 ^ 50 % 65537, k % 2 ^ 50⟩

/-- The tokens of a line are recalled, with written data, which set D (R192, R204); not while its page is frozen, when no holder
sends any (R346). -/
def recallLine (s : State) (l : LineRef) : State :=
  let ln := settleFlight (lineAt s l)
  if (pageAt s (pageOfLine l)).frozen || tokensStuck s ln none true then s
  else
    let s := match walkPage s l.m l.tag (l.ln * 128) with
      | .leaf _ at' => settleD s ln at'
      | _ => s
    setLine s l (tokHome ln)

/-- Recalls the lines that a test names. -/
def recallLines (s : State) (f : LineRef → Bool) : State :=
  s.lines.foldl (fun s p => if f (lineOfKey p.1) then recallLine s (lineOfKey p.1) else s) s

/-- A hamlet returns its tokens of a line to the home, with its data if it holds the owner token (R204, R344); not while the page is
frozen (R346). -/
def returnHam (s : State) (l : LineRef) (h : Nat) : State :=
  if (pageAt s (pageOfLine l)).frozen || stoppedHam s h then s else
  let ln := settleFlight (lineAt s l)
  let s := match walkPage s l.m l.tag (l.ln * 128) with
    | .leaf _ at' => if ln.owner = some h then settleD s ln at' else s
    | _ => s
  setLine s l (tokReturn l.m ln h)

/-- The hamlets of one module return the tokens of the lines that a test names. -/
def returnLines (s : State) (m : Nat) (f : LineRef → Bool) : State :=
  s.lines.foldl (fun s p =>
    if f (lineOfKey p.1) then
      (p.2.held.map (·.1)).foldl (fun s h => if h / 64 / 16 = m then returnHam s (lineOfKey p.1) h else s) s
    else s) s

/-- The lines at the lender of a page that borrows (R365). -/
def lentLine (s : State) (p : PageRef) (l : LineRef) : Bool :=
  match walkPage s p.m p.tag (p.pn * 65536) with
  | .leaf e _ =>
    let pa := leafPa e (p.pn * 65536)
    leafMode e = 2 && l.m = leafPeer e && l.tag = globalTag &&
      (match leaseFor (modAt s p.m) (leafPeer e) pa false with
       | some q => (q.lva.toNat + (pa - q.pbase)) / 65536 = l.ln / 512
       | none => false)
  | _ => false

/-- Recalls every line of a page (R192), those that it borrows included. -/
def recallPage (s : State) (p : PageRef) : State :=
  returnLines (recallLines s (fun l => l.m = p.m && l.tag = p.tag && l.ln / 512 = p.pn)) p.m (lentLine s p)

/-! ### Memory as the device reads and fills it -/

/-- What a read of words by the device answers. -/
inductive Words where
  | ok (ws : List Nat)
  | fail (c : Cause) (va : Word)
  | hold (p : Option PageRef)

/-- `n` words at a global address, as the device of module `m` reads them, with what it still has to write there. -/
def wordsAt (s : State) (m : Nat) (va : Word) (n : Nat) : Words :=
  let part := fun (a : Word) (q : Nat) => match perfRead s (luWho m 0) a q with
    | .ok _ x => Words.ok [devOver s (luWho m 0) a q x]
    | .fail c => .fail c a
    | .absent p => .hold (some p)
    | .wait => .hold none
  match n with
  | 0 => .ok []
  | k + 1 =>
    let q := 8 - va.toNat % 8
    match part va q, (if q < 8 then part (va + BitVec.ofNat 64 q) (8 - q) else .ok [0]) with
    | .ok x, .ok y => (match wordsAt s m (va + 8) k with | .ok r => .ok ((x.headD 0 + y.headD 0 * 256 ^ q) :: r) | r => r)
    | .ok _, r | r, _ => r

/-- What a read of `n` words leaves, as far as it comes (R190). -/
def wordsSeen (s : State) (m : Nat) (va : Word) (n : Nat) : State := luTouch s (luWho m 0) va (8 * n) (n / 16 + 2)

/-- `n` bytes at a global address can be written by the device of module `m`: the first page of them that cannot says why. -/
def areaCheck (s : State) (m : Nat) (va : Word) (n : Nat) : Words :=
  let starts := va :: (List.range ((va.toNat % 65536 + n + 65535) / 65536 - 1)).map (fun i =>
    BitVec.ofNat 64 ((va.toNat / 65536 + 1 + i) * 65536))
  (starts.findSome? (fun a => match resolve s (luWho m 0) a true with
    | .fail c => some (Words.fail c a)
    | .absent p => some (.hold (some p))
    | .wait => some (.hold none)
    | _ => none)).getD (.ok [])

/-- Bytes written over 64 KiB from a flat address, with good words and no poison. -/
def fillFrame (s : State) (a : Nat) (bytes : Memory) : State :=
  let s := (List.range 512).foldl (fun s i => clearPoison s (a + 128 * i)) s
  (List.range 8192).foldl (fun s i => writeFlat s (a + 8 * i) 8 (memRead bytes (8 * i) 8)) s

/-- Words written from a flat address up, as good words of lines without poison. -/
def fillWords (s : State) (a : Nat) (ws : List Nat) : State :=
  (ws.mapIdx (fun i x => (i, x))).foldl (fun s p => writeFlat (clearPoison s (a + 8 * p.1)) (a + 8 * p.1) 8 p.2) s

/-- Where the engines find the bytes of a page under its leaf. -/
def pageSource (s : State) (p : PageRef) (e : Word) (at_ : Nat) (write : Bool) : Tgt :=
  let va := p.pn * 65536
  if pageHeld s p write then .wait
  else if leafLocal e then
    (if tierStopped (modAt s p.m) p.tag va (leafPa e va) then .wait else .hostMem (physFlat p.m (leafPa e va)) at_)
  else resolvePeer s p.m va e at_ write

/-! ### Queues -/

/-- Writes a word of a queue descriptor (R159). -/
def putQueueWord (s : State) (m : Nat) (q : Queue) (off v : Nat) : State :=
  devWrite s (luWho m 0) (q.desc + BitVec.ofNat 64 off) 8 v

/-- The launch unit is to make a pass (R161). -/
def askPass (s : State) (m : Nat) : State := setMod s m { modAt s m with passDue := true }

/-- QSTAT (R160) of an ended launch. -/
def qstatOf (x : Launch) : Nat :=
  x.kill.getD 0 % 16 + x.ferr % 256 * 2 ^ 4 + min x.rung 3 * 2 ^ 12 + min x.time (2 ^ 18 - 1) * 2 ^ 14 +
    x.endStep % 2 ^ 16 * 2 ^ 32

/-- The launch has ended. -/
def launchEnded (s : State) (l : LaunchRef) : Bool := match launchAt s l with | some x => x.phase = .ended | none => false

/-- DONE after the launches that have ended from `d` on, at most `n` of them. -/
def doneFrom (s : State) (m q d n : Nat) : Nat :=
  match n with
  | 0 => d
  | k + 1 => if launchEnded s ⟨m, q, d⟩ then doneFrom s m q (d + 1) k else d

/-- DONE advances over the launches that have ended, and QSTAT is that of launch DONE − 1 (R159). While the descriptor cannot be
reached, that is left to a later pass. -/
def advanceDone (s : State) (m q : Nat) : State :=
  match tfind (modAt s m).queues q with
  | none => s
  | some u =>
    match descHeld s m u with
    | some p => askPass (askAny s p) m
    | none =>
      let d := (queueWord s m u 0x20).getD 0
      let d' := doneFrom s m q d s.launches.length
      if d' = d then s
      else
        let st := match launchAt s ⟨m, q, d' - 1⟩ with | some x => qstatOf x | none => 0
        putQueueWord (putQueueWord s m u 0x28 st) m u 0x20 d'

/-- A launch that has ended, in its queue: its status, and the pass that follows (R161). -/
def ended (s : State) (l : LaunchRef) (x : Launch) (status ferr : Nat) : State :=
  askPass (advanceDone (setLaunch s l
    { x with phase := .ended, kill := some status, ferr := ferr, slots := [], cores := [], hams := [], locals := [],
             guards := [], exch := [], resumes := [], dump := [] }) l.m l.q) l.m

/-- A record as it starts, with SAVE as the descriptor holds it (R159). -/
def newLaunch (r : Rec) (raw : List Word) (u : Queue) (save : Word) (order : Nat) : Launch :=
  { record := r, raw := raw, supv := u.supv, save := save, phase := .starting, order := order, kill := none, rung := 0,
    climb := 0, time := 0,
    bars := [], exch := [], haltReq := false, haltAt := none, preempt := false, slots := [], cores := [], hams := [],
    locals := [], guards := [], resumes := [], dieLost := false, ferr := 0, endStep := 0, plan := [], dump := [] }

/-- The record of a queue's HEAD moves past it: failed, or ended with no run (R159, R160). -/
def failHead (s : State) (m q : Nat) (u : Queue) (h status ferr : Nat) : State :=
  let s := putQueueWord s m u 0x18 (h + 1)
  let s := setMod s m { modAt s m with queues := tput (modAt s m).queues q { u with patienceDue := false } }
  ended s ⟨m, q, h⟩ (newLaunch (recFields []) [] u 0 0) status ferr

/-- Where record `h` of a queue stands (R159). -/
def ringSlot (s : State) (m : Nat) (u : Queue) (h : Nat) : Word :=
  BitVec.ofNat 64 ((queueWord s m u 0).getD 0) + BitVec.ofNat 64 (256 * (h % 2 ^ ((queueWord s m u 8).getD 0 % 256)))

/-- The record in a ring slot, read with the global tag (R159), and validated (R138). All its words are read in one step: R159
leaves the moment of each word's read open, and a producer that writes a slot too early could also be seen in part (DESIGN CHOICE,
log 39). -/
def headRecord (s : State) (m q : Nat) (u : Queue) (h : Nat) : Chk Valid :=
  (luWords s (luWho m 0) 12 (ringSlot s m u h) 256).and (fun ws => validate s ⟨m, q, h⟩ ws)

/-- The state after the launch unit has read a descriptor and the record in a ring slot, and what the checks up to `code` read. -/
def headSeen (s : State) (m : Nat) (u : Queue) (h code : Nat) : State :=
  let va := ringSlot s m u h
  let s' := luTouch (luTouch s (luWho m 0) u.desc 64 1) (luWho m 0) va 256 3
  match luWords s (luWho m 0) 12 va 256 with
  | .ok ws => recSeen s' m ws code
  | _ => s'

/-- HEAD and TAIL of a queue. -/
def headOf (s : State) (m : Nat) (u : Queue) : Nat := (queueWord s m u 0x18).getD 0
def tailOf (s : State) (m : Nat) (u : Queue) : Nat := (queueWord s m u 0x10).getD 0

/-- Every valid predecessor is complete (R159). -/
def predsDone (s : State) (m : Nat) (r : Rec) : Bool :=
  r.preds.all (fun p => match tfind (modAt s m).queues p.1 with
    | some u => decide (p.2 < (queueWord s m u 0x20).getD 0)
    | none => false)

/-- A predecessor ended with a status other than 0 (R160). -/
def predFailed (s : State) (m : Nat) (r : Rec) : Bool :=
  r.preds.any (fun p => match launchAt s ⟨m, p.1, p.2⟩ with | some x => x.kill.getD 0 != 0 | none => false)

/-! ### Layouts (R352) -/

/-- The bytes of a layout's tensor. -/
def layBytes (l : Layout) : Nat := 2 ^ l.esize * l.dims.foldl (fun a b => a * max b 1) 1

/-- The table of a layout record: that of its region. -/
def layTag (asid : BitVec 16) (l : Layout) : Nat := if regionOf l.base = some 2 then globalTag else asid.toNat

/-- Sets the layout table of a tag. -/
def putLayouts (x : Mod) (tag : Nat) (ls : List Layout) : Mod :=
  if tag = globalTag then { x with layG := ls } else { x with layA := tput x.layA tag ls }

/-- Registers layout records; none when a table lacks space or ranges overlap. -/
def addLayouts (x : Mod) (asid : BitVec 16) (ls : List Layout) : Option Mod :=
  match ls with
  | [] => some x
  | l :: r =>
    let t := layoutsOf x (layTag asid l)
    if 256 ≤ t.length || t.any (fun o => overlaps (o.base, layBytes o) (l.base, layBytes l)) then none
    else addLayouts (putLayouts x (layTag asid l) (t ++ [l])) asid r

/-- The line lies in a granule of one of the layouts. -/
def layHolds (m : Nat) (asid : BitVec 16) (ls : List Layout) (l : LineRef) : Bool :=
  l.m = m && ls.any (fun y => l.tag = layTag asid y && layoutCovers y (l.ln / 32))

/-- A line of a granule of the layouts belongs to a frozen page, or a stopped die holds tokens of it, so that they cannot be recalled
now (R346, R352). -/
def layFrozen (s : State) (m : Nat) (asid : BitVec 16) (ls : List Layout) : Bool :=
  s.lines.any (fun p => layHolds m asid ls (lineOfKey p.1) &&
    ((pageAt s (pageOfLine (lineOfKey p.1))).frozen || tokensStuck s p.2 none true))

/-- The layouts that a launch has registered. -/
def ownLayouts (s : State) (l : LaunchRef) (x : Launch) : List Layout :=
  ((modAt s l.m).layG ++ layoutsOf (modAt s l.m) x.record.asid.toNat).filter (fun y => y.owner = some l)

/-- The granules of a launch's layouts cannot move back yet. -/
def layoutsWait (s : State) (l : LaunchRef) (x : Launch) : Bool := layFrozen s l.m x.record.asid (ownLayouts s l x)

/-- Unregisters the records of a launch; their granules move back (R352). -/
def dropLayouts (s : State) (l : LaunchRef) (x : Launch) : State :=
  let keep := fun ls : List Layout => ls.filter (fun y => y.owner != some l)
  let s := recallLines s (layHolds l.m x.record.asid (ownLayouts s l x))
  let o := modAt s l.m
  setMod s l.m { o with layG := keep o.layG, layA := tput o.layA x.record.asid.toNat (keep (tget o.layA [] x.record.asid.toNat)) }

/-! ### Starting (R139, R140, R251) -/

/-- Identity extents and origins of a core (R140). -/
def extentsOf (ident : Option Layout) (mx my x y : Nat) : Tbl Word × Tbl Word :=
  match ident with
  | none => ([], [])
  | some i =>
    let dim := fun k => max (i.dims.getD k 1) 1
    let part := fun n p k =>
      let t := ceilDiv n p
      let o := min (k * t) n
      (min t (n - o), o)
    let a := part (dim 0) mx x
    let b := part (dim 1) my y
    ([(0, BitVec.ofNat 64 a.1), (1, BitVec.ofNat 64 b.1), (2, BitVec.ofNat 64 (dim 2)), (3, BitVec.ofNat 64 (dim 3))],
     [(0, BitVec.ofNat 64 a.2), (1, BitVec.ofNat 64 b.2)])

/-- A present core as a launch finds it (R139 step 2). What is not named there keeps its value; the ring is emptied with the
inbox. -/
def startCore (s : State) (l : LaunchRef) (r : Rec) (ident : Option Layout) (q : Nat × Nat × CoreRef) : State :=
  let c := q.2.2
  let d := meshDim r
  let e := extentsOf ident d.1 d.2 q.1 q.2.1
  let o := coreAt s c
  let p := o.spill
  let ring := match p.next with | some (b, z) => { p with base := b, size := z, head := 0, bound := [], dests := [], next := none }
                                | none => { p with head := 0, bound := [], dests := [] }
  let s := setCore s c { o with
    launch := some l, ident := ⟨true, q.1, q.2.1, d.1, d.2, e.1, e.2, r.asid⟩, cnt := [], vor := 0, vand := 0, level := 0,
    corvote := 0, candvote := 0xFFFF, inbox := [], spill := ring, tasks := [], taskCount := 0, walk := none,
    rrTask := false, pins := [], arrived := [], arrivals := [], openB := [], closed := [], actFmt := .bf16,
    shFmt := .bf16, fsup0 := r.fsup0, fsup1 := r.fsup1, swapped := [], lastSlot := 3 }
  (slotsOf c).foldl (fun s w => setSlot s w Slot.reset) s

/-- A mill that a launch comes to hold (R251). -/
def startMill (s : State) (h : HamRef) : State :=
  let s := setHam s h { hamAt s h with acc := [], aexp := [], auto := 0, wrote := [], marks := [], planes := [], rrQueue := 7, rrLeft := 0 }
  (hamCores s h).foldl (fun s c => setCore s c { coreAt s c with mflg := Core.reset.mflg }) s

/-- The code and preload images in a core (R139 step 3). -/
def placeImages (s : State) (c : CoreRef) (imgs : List (Nat × Nat × Nat)) : State :=
  imgs.foldl (fun s i => writeFlat s (localFlat c i.1) i.2.1 i.2.2) s

/-- The images of a record: LOCAL address, length and bytes. -/
def imagesRead (s : State) (m : Nat) (r : Rec) : List (Nat × Nat × Nat) :=
  let rd := fun va n => match luRead s (luWho m r.asid) false 12 va n n with | .ok v => v | _ => 0
  (0, r.codelen, rd r.code r.codelen) :: r.preload.map (fun e => (e.2.1, e.2.2, rd e.1 e.2.2))

/-- Claims the cores of a launch, holes included. -/
def claimCores (s : State) (l : LaunchRef) (r : Rec) : State :=
  (claimedCores l.m r).foldl (fun s c => setCore s c { coreAt s c with launch := some l }) s

/-- The layout tables take the records of a validated head record (R352). -/
def layoutsFit (s : State) (m : Nat) (v : Valid) : Bool := (addLayouts (modAt s m) v.r.asid v.lays).isSome

/-- Starts a validated record (R139 steps 1 to 3, R352), or fails it with FERR 9. -/
def startLaunch (s : State) (m q : Nat) (u : Queue) (h : Nat) (v : Valid) : State :=
  let l : LaunchRef := ⟨m, q, h⟩
  match addLayouts (modAt s m) v.r.asid v.lays with
  | none => failHead s m q u h 1 9
  | some y =>
    let s := recallLines s (layHolds m v.r.asid v.lays)
    let y := { y with queues := tput y.queues q { u with patienceDue := false } }
    let s := putQueueWord (setMod s m y) m u 0x18 (h + 1)
    let i := freshId s
    let x := { newLaunch v.r v.raw u (BitVec.ofNat 64 ((queueWord s m u 0x30).getD 0)) i.1 with plan := v.plan }
    let imgs := imagesRead s m v.r
    let s := claimCores (setLaunch i.2 l x) l v.r
    let s := (meshCores m v.r).foldl (fun s c =>
        if corePresent (modAt s m) c.2.2.d c.2.2.c then placeImages (startCore s l v.r v.ident c) c.2.2 imgs else s) s
    let s := (heldMills s l (launchCores s m v.r)).foldl startMill s
    devWords s (saveWho l x) x.save [0, 0, 0]

/-! ### Pre-emption and release -/

/-- The launch starts up the ladder (R316). T1 = 0 skips the drain; one that is only starting then saves as its slots start. -/
def preemptLaunch (s : State) (l : LaunchRef) : State :=
  match launchAt s l with
  | none => s
  | some x =>
    let skip := x.record.t1 = 0
    let on := { x with preempt := true, rung := max x.rung (if skip then 2 else 1), climb := if skip then 2 else 0 }
    let up := fun p : LPhase => setLaunch s l { on with phase := if skip then .saving else p }
    match x.phase with
    | .running => up .draining
    | .held | .halted => if x.preempt then s else up .held
    | .starting => if x.preempt then s else setLaunch s l on
    | _ => s

/-- A core given up by its launch: nothing of it stays in the core. -/
def releaseCore (s : State) (c : CoreRef) : State :=
  let s := setCore s c { coreAt s c with
    launch := none, inbox := [], tasks := [], walk := none, pins := [], arrivals := [], sbuf := [], fq := [], openB := [],
    closed := [], swapped := [] }
  (slotsOf c).foldl (fun s w => setSlot s w Slot.reset) s

/-- All cores of a launch given up. -/
def releaseCores (s : State) (l : LaunchRef) (r : Rec) : State :=
  (claimedCores l.m r).foldl (fun s c => if (coreAt s c).launch = some l then releaseCore s c else s) s

/-- Every command of a launch completes with a code (R244, R316). -/
def endCmds (s : State) (l : LaunchRef) (code : Nat) (f : Cmd → Bool) : State :=
  (s.cmds.filter (fun c => c.launch = some l && f c)).foldl (fun s c => completeCmd s { c with code := code, st := .done }) s

/-- The launch is at its boundary and nothing holds it there any more (R316, R322). -/
def unhold (s : State) (l : LaunchRef) : State :=
  match launchAt s l with
  | none => s
  | some x => if x.phase = .held && !stopsHere s l x then setLaunch s l { x with phase := .running } else s

/-- Pages of a module take writes again, but for those that another cut under way has still to copy (R328). -/
def freePages (s : State) (m : Nat) (ps : List PageRef) : State :=
  let held := ((modAt s m).cuts.filter (fun k => !k.committed)).flatMap (·.left)
  ps.foldl (fun s p => setPage s p { pageAt s p with withheld := held.contains p }) s

/-- The uncommitted cuts of a module whose command is no longer there go: their pages take writes again (R328). -/
def sweepCuts (s : State) (m : Nat) : State :=
  let gone := fun k : Cut => !k.committed && !s.cmds.any (fun c => c.id = k.cmd && c.st != .done)
  let ks := (modAt s m).cuts.filter gone
  let s := setMod s m { modAt s m with cuts := (modAt s m).cuts.filter (fun k => !gone k) }
  let s := freePages s m (ks.map (·.left)).flatten
  ks.foldl (fun s k => unhold s k.launch) s

/-- A command that waits for a GSET that will not come (R244). -/
def guardWaits (c : Cmd) : Bool := c.g.isSome && c.guardVal.isNone && c.st != .done

/-- The commands of a launch whose engines are reset complete: with DISCARDED where they wait for a GSET, else with RESET (R244,
R316). -/
def resetCmds (s : State) (l : LaunchRef) : State := endCmds (endCmds s l 1 guardWaits) l 8 (fun c => c.st != .done)

/-- CNT0 of a launch. -/
def cnt0Of (s : State) (l : LaunchRef) (x : Launch) : Nat :=
  match launchCores s l.m x.record with | c :: _ => (tget (coreAt s c).cnt 0 0).toNat | [] => 0

/-- The dirty logs of a launch are merged (R203): those that a saved launch holds in its images, where it has no cores. -/
def mergeLogs (s : State) (l : LaunchRef) (x : Launch) : State :=
  (launchCores s l.m x.record).foldl (fun s c =>
    if x.phase = .saved then
      let d := (tget x.cores Core.reset (coreKey c.m c.d c.c)).log
      (List.range d.cnt).foldl (fun s i => mergeEntry s c.m (memRead x.locals (localFlat c (logAddr d i)) 8)) s
    else if (coreAt s c).launch = some l then mergeLog s c (coreAt s c).log.cnt else s) s

/-- Rung 3 (R316): the commands complete, and the state is abandoned but for the dirty logs, which are merged as at an end of the
launch (R203, log 39). -/
def resetLaunch (s : State) (l : LaunchRef) : State :=
  match launchAt s l with
  | none => s
  | some x =>
    let step := cnt0Of s l x
    let s := mergeLogs (resetCmds s l) l x
    let s := sweepCuts (releaseCores s l x.record) l.m
    askPass (setLaunch s l { x with phase := .reset, rung := 3, climb := 0, endStep := step, exch := [], preempt := false,
                                    haltReq := false, haltAt := none, slots := [], cores := [], hams := [], locals := [],
                                    guards := [] }) l.m

/-! ### The pass (R161) -/

/-- A candidate of a queue: a saved launch, which goes first, or its validated head record. -/
inductive Cand where
  | saved (l : LaunchRef) (r : Rec)
  | head (h : Nat) (u : Queue) (v : Valid)

/-- The record of a candidate. -/
def Cand.record : Cand → Rec
  | .saved _ r => r
  | .head _ _ v => v.r

/-- The saved launch of a queue (R317). -/
def savedOf (s : State) (m q : Nat) : Option (LaunchRef × Rec) :=
  (s.launches.find? (fun p => p.2.phase = .saved && p.1 / 2 ^ 28 = m * 16 + q)).map
    (fun p => (⟨m, q, p.1 % 2 ^ 28⟩, p.2.record))

/-- Heads of the queues: failed records move on; the rest are candidates. A page that has to be made resident first is asked
for, and the pass comes again. A launch with a failed and an incomplete predecessor waits for the latter before it ends with
STATUS 5: R160 does not say (DESIGN CHOICE, log 39). -/
def passHeads (s : State) (m : Nat) (qs : List (Nat × Queue)) (cs : List (Nat × Cand)) (failed : Bool) :
    State × List (Nat × Cand) × Bool :=
  match qs with
  | [] => (s, cs, failed)
  | (q, u) :: r =>
    match savedOf s m q with
    | some (l, y) => passHeads s m r (cs ++ [(q, .saved l y)]) failed
    | none =>
      let h := headOf s m u
      if let some p := descHeld s m u then passHeads (askPass (askAny s p) m) m r cs failed
      else if tailOf s m u ≤ h then passHeads (luTouch s (luWho m 0) u.desc 64 1) m r cs failed
      else match headRecord s m q u h with
        | .err n => passHeads (failHead (headSeen s m u h n) m q u h 1 n) m r cs true
        | .hold p =>
          let s := headSeen s m u h 0
          passHeads (askPass (askAny s p) m) m r cs failed
        | .ok v =>
          let s' := headSeen s m u h 12
          if predsDone s m v.r && predFailed s m v.r then passHeads (failHead s' m q u h 5 0) m r cs true
          else passHeads s' m r (cs ++ [(q, .head h u v)]) failed

/-- Candidates of one priority, round robin after the queue that started last (R161). -/
def candsAt (m : Nat) (s : State) (cs : List (Nat × Cand)) (p : Nat) : List (Nat × Cand) :=
  let last := tget (modAt s m).lastQ 15 p
  let here := cs.filter (fun c => c.2.record.prio = p)
  here.filter (fun c => decide (last < c.1)) ++ here.filter (fun c => decide (c.1 ≤ last))

/-- Lower-priority launches that hold one of a record's cores. -/
def lowerHolders (s : State) (m : Nat) (r : Rec) : List LaunchRef :=
  (claimedCores m r).foldl (fun a c => match (coreAt s c).launch with
    | some l => (match launchAt s l with
      | some x => if x.record.prio < r.prio && !a.contains l then a ++ [l] else a
      | none => a)
    | none => a) []

/-- One candidate of the pass, and whether its record failed (R161): the round robin moves on past a queue that starts a launch. -/
def passCand (s : State) (m : Nat) (c : Nat × Cand) : State × Bool :=
  let r := c.2.record
  let free := (claimedCores m r).all (fun k => (coreAt s k).launch.isNone) &&
    r.dies.all (fun k => dieMapped (modAt s m).dmap k && !(dieSt (modAt s m) k).evacuating)
  let turn := fun s : State => setMod s m { modAt s m with lastQ := tput (modAt s m).lastQ r.prio c.1 }
  match c.2 with
  | .saved l _ => (if free then turn (claimCores s l r) else s, false)
  | .head h u v =>
    if !predsDone s m r then (s, false)
    else if free then
      if !layoutsFit s m v then (startLaunch s m c.1 u h v, true)
      else if layFrozen s m r.asid v.lays then (askPass s m, false)
      else (turn (startLaunch s m c.1 u h v), false)
    else if (match tfind (modAt s m).queues c.1 with | some w => w.patienceDue | none => false) then
      ((lowerHolders s m r).foldl preemptLaunch s, false)
    else (s, false)

/-- The procedure of R161, at once again after a pass in which a record failed; `n` bounds the repeats. -/
def passLoop (s : State) (m n : Nat) : State :=
  match n with
  | 0 => askPass s m
  | k + 1 =>
    let s := setMod s m { modAt s m with passDue := false }
    let s := (modAt s m).queues.foldl (fun s q => advanceDone s m q.1) s
    let g := passHeads s m (modAt s m).queues [] false
    let cs := g.2.1
    let g' := (List.range 8).foldl (fun g i => (candsAt m g.1 cs (7 - i)).foldl (fun g c =>
      let r := passCand g.1 m c
      (r.1, g.2 || r.2)) g) (g.1, g.2.2)
    if g'.2 then passLoop g'.1 m k else g'.1

/-- A write has performed on a TAIL since the last pass, whatever it wrote (R159, R161). -/
def tailChanged (s : State) (m : Nat) : Bool := (modAt s m).queues.any (fun q => q.2.tailHit)

/-- The pass has seen the TAILs. -/
def seeTails (s : State) (m : Nat) : State :=
  setMod s m { modAt s m with queues := (modAt s m).queues.map (fun q => (q.1, { q.2 with tailHit := false })) }

/-- LAUNCH_UNIT_PASS (R161). -/
def execLaunchUnitPass (m : Nat) (s : State) : Out_ :=
  if !modUp s m || !((modAt s m).passDue || tailChanged s m) then .next s
  else .next (passLoop (seeTails s m) m 65536)

/-- LAUNCH_ENTRY (R139 step 4): slot 0 of every present core becomes READY at ENTRY; the start is a level-0 boundary. -/
def execLaunchEntry (l : LaunchRef) (s : State) : Out_ :=
  match launchAt s l with
  | none => .next s
  | some x =>
    if x.phase != .starting || x.dieLost then .next s
    else
      let cs := launchCores s l.m x.record
      let at_ := if !stopsHere s l x then .running else if x.preempt && x.record.t1 = 0 then .saving else .held
      let s := setLaunch s l { x with phase := at_ }
      .next (cs.foldl (fun s c => startSlot (clearConst s c) (slotOf c 0) (newSlot s (slotOf c 0) x.record.entry)) s)

/-! ### The end -/

/-- Nothing of a core runs or waits any more, its buffers included. -/
def coreIdle (s : State) (c : CoreRef) : Bool :=
  let x := coreAt s c
  (slotsOf c).all (fun w => !isLive (slotAt s w)) && x.swapped.isEmpty && x.walk.isNone && x.tasks.isEmpty

/-- The stores of a core have drained. -/
def coreDrained (s : State) (c : CoreRef) : Bool := (coreAt s c).sbuf.isEmpty && (coreAt s c).fq.isEmpty

/-- Ends a launch: logs merged, pins and layouts released, cores given up, its status recorded (R159, R203, R219, R352). -/
def endLaunch (s : State) (l : LaunchRef) (x : Launch) (status : Nat) : State :=
  let step := cnt0Of s l x
  let s := releaseCores (mergeLogs (endCmds s l 1 (fun _ => true)) l x) l x.record
  ended (dropLayouts s l x) l { x with endStep := step } status 0

/-- LAUNCH_END (R219): every core has ended, or the launch has been killed; stores and commands are done. -/
def execLaunchEnd (l : LaunchRef) (s : State) : Out_ :=
  match launchAt s l with
  | none => .next s
  | some x =>
    let cs := launchCores s l.m x.record
    let alive := match x.phase with | .running | .draining | .held | .halted | .saving | .starting => true | _ => false
    if !alive || !launchWhole s l x || layoutsWait s l x || !cs.all (coreDrained s) || s.cmds.any (fun c => c.launch = some l && !guardWaits c) then .next s
    else match x.kill with
      | some k => .next (endLaunch s l x k)
      | none =>
        if (x.phase = .running || x.phase = .draining) && x.exch.isEmpty && cs.all (coreIdle s) then
          .next (endLaunch s l x 0)
        else .next s

/-- PATIENCE_EXPIRY (R161): a head record whose predecessors are complete has waited longer than its PATIENCE (log 8). -/
def execPatienceExpiry (m q : Nat) (s : State) : Out_ :=
  match tfind (modAt s m).queues q with
  | none => .next s
  | some u =>
    let h := headOf s m u
    if let some p := descHeld s m u then .next (askAny s p)
    else if tailOf s m u ≤ h || (savedOf s m q).isSome then .next s
    else match headRecord s m q u h with
      | .hold p => .next (askAny (headSeen s m u h 0) p)
      | .ok v =>
        let s := headSeen s m u h 12
        if v.r.patience != 0 && predsDone s m v.r then
          .next (askPass (setMod s m { modAt s m with
            queues := tput (modAt s m).queues q { u with patienceDue := true } }) m)
        else .next s
      | _ => .next s

/-! ### The ladder (R316-R318) -/

/-- An engine command that waits on a guard, or behind one of its core that does (R244): it cannot complete while its slots stop, and is
saved with its core's guard waits (R315). -/
def guardHeld (s : State) (c : Cmd) : Bool :=
  c.st = .queued && (guardWaits c || s.cmds.any (fun g => guardWaits g && g.st = .queued && g.launch = c.launch &&
    coreRefOf g.w = coreRefOf c.w && g.epa = c.epa && decide (g.id < c.id)))

/-- The launch's commands that are not complete, but for those that a guard holds. -/
def launchCmds (s : State) (l : LaunchRef) : Bool := s.cmds.any (fun c => c.launch = some l && !guardHeld s c)

/-- The guard waits of a launch (R315). -/
def launchGuards (s : State) (l : LaunchRef) : List Cmd := s.cmds.filter (fun c => c.launch = some l && guardHeld s c)

/-- DRAIN_BOUNDARY_HOLD (R316): every core is held at the boundary after `us` µs, within T1, and the save begins. -/
def execDrainBoundaryHold (l : LaunchRef) (us : Nat) (s : State) : Out_ :=
  match launchAt s l with
  | none => .next s
  | some x =>
    if x.phase = .held && x.preempt && !launchCmds s l && decide (us ≤ x.record.t1) then
      .next (setLaunch s l { x with phase := .saving, climb := 1, time := x.time + us })
    else .next s

/-- DRAIN_LIMIT_EXPIRY (R316): T1 has passed. -/
def execDrainLimitExpiry (l : LaunchRef) (s : State) : Out_ :=
  match launchAt s l with
  | none => .next s
  | some x =>
    if x.preempt && (x.phase = .draining || x.phase = .held) then
      .next (setLaunch s l { x with phase := .saving, rung := max x.rung 2, climb := 2, time := x.time + x.record.t1 })
    else .next s

/-- The results of a slot have returned, or are held as owed accesses: they wait for an absent page, or follow one that does (R196,
R316). -/
def slotSettled (s : State) (w : SlotRef) : Bool :=
  (slotAt s w).outs.all (fun o => match o.kind with
    | .send none | .cmd _ none => false
    | .send _ | .cmd .. | .recv _ | .value _ => true
    | _ => o.units.all (·.val.isSome) || canSwap s w o)

/-- Nothing that a swapped context is owed has yet to be sent an answer. -/
def ctxSettled (t : Ctx) : Bool :=
  t.slot.outs.all (fun o => match o.kind with | .send none | .cmd _ none => false | _ => true)

/-- SAVE_COMPLETE (R316): the save area is written after `us` µs, within T2, and the cores are released; its pages are made resident
first. -/
def execSaveComplete (l : LaunchRef) (us : Nat) (s : State) : Out_ :=
  match launchAt s l with
  | none => .next s
  | some x =>
    let cs := launchCores s l.m x.record
    if x.phase != .saving || x.kill.isSome || x.record.t2 < us || launchCmds s l || !x.exch.isEmpty || !cs.all (coreDrained s) ||
        !cs.all (fun c => (slotsOf c).all (slotSettled s) && (coreAt s c).swapped.all ctxSettled) then .next s
    else match areaHeld s l x true with
      | some p => .next (askAny s p)
      | none =>
        let y := withImages s l { x with time := x.time + us, phase := .saved, preempt := false, endStep := cnt0Of s l x,
                                         guards := launchGuards s l }
        let s := { s with cmds := s.cmds.filter (fun c => !(c.launch = some l && guardHeld s c)) }
        .next (askPass (releaseCores (writeFrame (setLaunch s l y) l y) l x.record) l.m)

/-- SAVE_LIMIT_EXPIRY (R316): T2 has passed. -/
def execSaveLimitExpiry (l : LaunchRef) (s : State) : Out_ :=
  match launchAt s l with
  | none => .next s
  | some x =>
    if x.phase = .saving then .next (resetLaunch (setLaunch s l { x with time := x.time + x.record.t2 }) l) else .next s

/-- The RESUMEs that a saved launch was sent are delivered after its restore (R317). -/
def releaseResumes (s : State) (l : LaunchRef) : State :=
  match launchAt s l with
  | none => s
  | some x => { setLaunch s l { x with resumes := [] } with resumes := s.resumes ++ x.resumes }

/-- LAUNCH_RESTORE (R317): a pass has given the saved launch its cores again; the pages of its save area are made resident first. -/
def execLaunchRestore (l : LaunchRef) (s : State) : Out_ :=
  match launchAt s l with
  | none => .next s
  | some x =>
    if x.phase = .saved && (claimedCores l.m x.record).all (fun c => (coreAt s c).launch = some l) then
      match areaHeld s l x false with
      | some p => .next (askAny s p)
      | none =>
        let s := restoreFrame { s with cmds := s.cmds ++ x.guards } l x
        .next (releaseResumes (setLaunch s l { x with phase := .running, climb := 0, slots := [], cores := [], hams := [],
                                                      locals := [], guards := [] }) l)
    else .next s

/-- The cut that a launch's cut names with PREV, and those before it, newest first (R327, R328); `n` bounds them. -/
def chainOf (s : State) (k : Cut) (n : Nat) : List Cut :=
  match n with
  | 0 => [k]
  | n + 1 => k :: (match k.prev.bind (fun g => (modAt s k.launch.m).cuts.find? (fun d =>
      d.committed && d.launch = k.launch && d.gen = g)) with
    | some d => chainOf s d n
    | none => [])

/-- Where the newest committed copy of a page along the PREV chain of a cut stands (R328). -/
def copyAlong (s : State) (k : Cut) (p : PageRef) : Option Word :=
  (chainOf s k (modAt s k.launch.m).cuts.length).findSome? (fun d => (d.copies.find? (fun q => q.1 = p)).map (·.2))

/-- The words can be read, at once or later. -/
def Words.readable : Words → Bool
  | .fail .. => false
  | _ => true

/-- What a restore reads can be read: the cut's records, and its pages along the chain (R347, R349). -/
def cutReadable (s : State) (k : Cut) : Bool :=
  (wordsAt s k.launch.m k.area (k.recs / 8)).readable &&
    k.scope.all (fun p => match copyAlong s k p with | some va => (wordsAt s p.m va 8192).readable | none => true)

/-- The newest committed cut of a launch that can be restored: one whose copies are lost is passed over (log 18). -/
def newestCut (s : State) (l : LaunchRef) : Option Cut :=
  ((modAt s l.m).cuts.filter (fun c => c.committed && c.launch = l && cutReadable s c)).getLast?

/-- What a restore answers: the state with the pages written, a failure, or a wait. -/
inductive Restored where
  | done (s : State) (n : Nat)
  | fail (s : State) (n : Nat) (c : Cause) (va : Word)
  | hold (p : Option PageRef)

/-- One page more of a cut, from its newest committed copy; a page that is no longer mapped is not in scope (R327, R328). -/
def restorePage (k : Cut) (r : Restored) (p : PageRef) : Restored :=
  match r with
  | .done s n =>
    (match copyAlong s k p, walkPage s p.m p.tag (p.pn * 65536) with
     | none, _ | _, .unmapped => .done s n
     | some _, .absent _ => .hold (some p)
     | some va, .leaf e at_ =>
       match wordsAt s p.m va 8192, pageSource s p e at_ true with
       | .ok ws, .line f _ _ _ _ _ | .ok ws, .hostMem f _ | .ok ws, .lstore _ f =>
         .done (setLeafBits (fillWords (recallPage (wordsSeen s p.m va 8192) p) f ws) at_ (bitA + bitD))
           (if leafPs e = 1 && p.pn % 256 != 0 then n else n + 1)
       | .ok _, .fail c => .fail (wordsSeen s p.m va 8192) n c (BitVec.ofNat 64 (p.pn * 65536))
       | .ok _, _ => .hold none
       | .fail c a, _ => .fail (wordsSeen s p.m va 8192) n c a
       | .hold q, _ => .hold q)
  | r => r

/-- Places the records of a cut in the queue's save area, and its images, barriers and guard waits with the launch (R314, R328). -/
def placeCut (s : State) (n : Nat) (l : LaunchRef) (x : Launch) (k : Cut) : Restored :=
  let seen := wordsSeen s l.m k.area (k.recs / 8)
  match wordsAt s l.m k.area (k.recs / 8), areaHeld s l x true with
  | .ok ws, none => .done (setLaunch (devWords seen (saveWho l x) (savAt x.save (coreRecOff 0)) (ws.map (BitVec.ofNat 64))) l
      { x with slots := k.slots, cores := k.cores, hams := k.hams, locals := k.locals, bars := k.bars, guards := k.guards }) n
  | .fail c a, _ => .fail seen n c a
  | .hold p, _ | .ok _, some p => .hold p

/-- A launch's memory and records as a cut holds them (R328). -/
def restoreCut (s : State) (l : LaunchRef) (x : Launch) (k : Cut) : Restored :=
  match k.scope.foldl (restorePage k) (.done s 0) with
  | .done s n => placeCut s n l x k
  | r => r

/-! ### Halts and dumps -/

/-- DEBUG_HALT (R322, R323): the launch, held at its boundary by a match with ACT = 0, halts; in a debug group, only once every
member halts there, at the CNT0 that was set: one held below it, by another match, runs on. -/
def execDebugHalt (l : LaunchRef) (s : State) : Out_ :=
  match launchAt s l with
  | none => .next s
  | some x =>
    if x.phase != .held || x.preempt then .next s
    else match x.haltAt with
      | some n =>
        if cnt0Of s l x = n % 2 ^ 16 then .next (setLaunch s l { x with phase := .halted })
        else .next (unhold (setLaunch s l { x with haltReq := false }) l)
      | none =>
        if x.haltReq && decide ((debugGroup s l).length ≤ 1) then .next (setLaunch s l { x with phase := .halted })
        else .next s

/-- DEBUG_CONTINUE (R322). -/
def execDebugContinue (l : LaunchRef) (s : State) : Out_ :=
  match launchAt s l with
  | none => .next s
  | some x =>
    if x.phase = .halted then
      .next (setLaunch s l { x with phase := if x.preempt then .held else .running, haltReq := false, haltAt := none })
    else .next s

/-- The launch stands at a boundary of its debug group. -/
def groupStopped (x : Launch) : Bool := x.phase = .held || x.phase = .halted

/-- The launches form a debug group; how firmware forms one is not stated (log 39). -/
def formGroup (s : State) (ls : List LaunchRef) : State :=
  { s with groups := ls :: s.groups.filter (fun g => !g.any ls.contains) }

/-- DEBUG_GROUP_HALT (R323): the launches are a debug group, and a halt request reaches every member; once all are held, those below
the largest CNT0 run on to it and every member halts there. A member that has ended reports no CNT0: R323 does not say (DESIGN
CHOICE, log 39). -/
def execDebugGroupHalt (ls : List LaunchRef) (s : State) : Out_ :=
  let s := formGroup s ls
  let xs := (ls.filterMap (fun l => (launchAt s l).map (fun x => (l, x)))).filter (fun p => p.2.phase != .ended)
  if xs.any (fun p => !groupStopped p.2) then
    .next (xs.foldl (fun s p => if groupStopped p.2 || p.2.haltAt.isSome then s
      else setLaunch s p.1 { p.2 with haltReq := true }) s)
  else
    let n := xs.foldl (fun a p => max a (cnt0Of s p.1 p.2)) 0
    .next (xs.foldl (fun s p =>
      if cnt0Of s p.1 p.2 = n then setLaunch s p.1 { p.2 with phase := .halted, haltReq := true, haltAt := none }
      else setLaunch s p.1 { p.2 with phase := .running, haltReq := false, haltAt := some n }) s)

/-- The launch is at a level-0 boundary: held there, or its level-0 exchange is under way. -/
def atBoundary (x : Launch) : Bool := x.phase = .held || x.phase = .halted || x.exch.any (fun e => e.level = 0)

/-- BOUNDARY_DUMP (R326). -/
def execBoundaryDump (l : LaunchRef) (s : State) : Out_ :=
  match launchAt s l with
  | none => .next s
  | some x =>
    if !atBoundary x then .next s
    else match areaHeld s l x true with
      | some p => .next (askAny s p)
      | none => .next (writeFrame s l x)

/-- FORCED_DUMP (R326): the frame, and the buffered stores of each core, near ones in FIFO order and far ones in issue order;
then the launch goes on, or is killed. The form of the lists is not stated (log 7). -/
def execForcedDump (l : LaunchRef) (kill : Bool) (s : State) : Out_ :=
  match launchAt s l with
  | none => .next s
  | some x =>
    let on := match x.phase with | .running | .draining | .held | .halted | .saving => true | _ => false
    if !on then .next s
    else if let some p := areaHeld s l x true then .next (askAny s p)
    else
      let s1 := setLaunch (writeFrame s l x) l { x with dump := (launchCores s l.m x.record).map (fun c =>
        (c, (coreAt s c).sbuf, (coreAt s c).fq)) }
      .next (if kill then killLaunch s1 l 2 else s1)

/-- A trace record (R324) of a core of module `m`, with the next number of its source; it may be lost on its way to the ring, or
come out of order. Which core sends it, its code and its data are not stated (log 6). -/
def emitTrace (s : State) (m : Nat) : State :=
  let f := fun i => Config.freePick (s.clk + i)
  let c : CoreRef := ⟨m, f 0 % 16, f 1 % 384⟩
  let src := epaOf (slotOf c (f 2 % 4)) false
  let key := m * 2 ^ 32 + src.toNat
  let n := tget s.traceSeq 0 key
  let r : TraceRec := ⟨m, src, BitVec.ofNat 32 n, tget (coreAt s c).cnt 0 0, c.d, c.c, s.tick, BitVec.ofNat 16 (f 3),
    BitVec.ofNat 64 (f 4)⟩
  if !corePresent (modAt s m) c.d c.c then s
  else
    let i := f 5 % (s.trace.length + 1)
    { s with traceSeq := tput s.traceSeq key (n + 1),
             trace := if f 6 % 2 = 0 then s.trace.take i ++ [r] ++ s.trace.drop i else s.trace }

/-- A trace record as 32 bytes; the order of its fields is that in which R324 names them (log 39). -/
def traceWords (r : TraceRec) : List Word :=
  [r.src.zeroExtend 64 ||| (r.seqno.zeroExtend 64 <<< 32),
   BitVec.ofNat 64 (r.cnt0.toNat + r.lcore * 2 ^ 16 + r.die * 2 ^ 25 + r.code.toNat * 2 ^ 32), r.tick, r.data]

/-- COUNTER_SNAPSHOT (R324, R325): the grid stores the header and each link's counts, with the period `k` that firmware has set, and
a trace record is sent; how far the counts have advanced is not stated (log 6). -/
def execCounterSnapshot (g : SnapArg) (s : State) : Out_ :=
  let m := g.m
  let k := g.k
  let x := modAt s m
  if !modUp s m || k < 16 || 30 < k then .next s
  else
    let fl := (List.range (Config.linkCount * 8)).map
      (fun i => (i, (tget x.flits 0 i + Config.freePick (s.clk + i)) % 2 ^ 64))
    let snap : Snap := ⟨s.tick, k, x.snaps, (List.range Config.linkCount).map (fun i =>
      i :: (List.range 8).map (fun j => tget fl 0 (8 * i + j)))⟩
    .next (emitTrace (setMod s m { x with snapK := k, flits := fl, snaps := x.snaps + 1, counters := x.counters ++ [snap] }) m)

/-- QUEUE_REGISTRATION (R159, R383): firmware places a descriptor and registers its VA with the launch unit. -/
def execQueueRegistration (m q : Nat) (desc ring : Word) (log2n : Nat) (supv : Bool) (save : Word) (s : State) : Out_ :=
  let w := luWho m 0
  if !modUp s m || 16 ≤ q || desc.toNat % 64 != 0 || regionOf desc.toNat != some 2 || regionOf ring.toNat != some 2 ||
      log2n = 0 || 16 < log2n then .next s
  else
    let s := devWords s w desc [ring, BitVec.ofNat 64 (log2n + b2n supv * 2 ^ 8), 0, 0, 0, 0, save, 0]
    let x := modAt s m
    .next (setMod s m { x with queues := tput x.queues q ⟨desc, supv, false, false⟩ })

/-- PREEMPTION_REQUEST (R316). -/
def execPreemptionRequest (l : LaunchRef) (s : State) : Out_ := .next (preemptLaunch s l)

end Sys2Proof.Machine
end

