-- ==== Sys2Proof/Machine/EngRun.lean ====
section
/-!
DEFINITION. How an engine command runs: its arrival and the crier, the order of commands, the engines' accesses, watchdogs,
and the queries of ENGQ (R237, R239, R243-R248, R261, R277).
-/

namespace Sys2Proof.Machine

/-! ### Which engine -/

/-- The die that a command's EPA names. -/
def cmdDie (c : Cmd) : Nat := if epaDie c.epa = 31 then c.w.d else epaDie c.epa

/-- A member of the issuing core's mill queue. -/
def isMill (c : Cmd) : Bool :=
  match c.op with
  | .mloadw | .mswap | .mstream | .mzero | .accrd | .accwr | .mstat | .accflip => true
  | .engq => epaType c.epa = 1
  | _ => false

/-- Two commands go to the same engine; mill commands to the same queue. -/
def sameEngine (a b : Cmd) : Bool :=
  a.w.m = b.w.m && isMill a = isMill b &&
    (if isMill a then coreRefOf a.w = coreRefOf b.w
     else epaType a.epa = epaType b.epa && cmdDie a = cmdDie b && epaHam a.epa = epaHam b.epa)

/-- The engine is there: its die is mapped or has not failed, and a mill is held by the command's launch (R237, R251). -/
def engineThere (s : State) (c : Cmd) : Bool :=
  let x := modAt s c.w.m
  if isMill c then
    dieMapped x.dmap c.w.d && (match c.launch with
      | some l => holdsMill s l (hamOf (coreRefOf c.w))
      | none => false)
  else if cmdDie c < 16 then dieMapped x.dmap (cmdDie c)
  else !x.lostTier.contains (cmdDie c)

/-- A command replaced. -/
def putCmd (s : State) (c : Cmd) : State := { s with cmds := s.cmds.map (fun d => if d.id = c.id then c else d) }

/-- The commands merged into `c` (R247). -/
def mergedInto (s : State) (c : Cmd) : List Cmd := s.cmds.filter (fun d => d.st = .merged && d.group = c.id)

/-- A merged command with the status of the one that ran for it (R247). -/
def withStatus (c d : Cmd) : Cmd :=
  { d with st := c.st, code := c.code, count := c.count, res := c.res, ovf := c.ovf, zrep := c.zrep, failVa := c.failVa,
           answer := c.answer }

/-- A command has finished with a code, and those merged into it with the same status; their completions follow (R240, R247). The mill
commands merged into one act on queues of their own and end by themselves: those that are left go on alone. -/
def finishCmd (s : State) (c : Cmd) (code : Nat) : State :=
  let on := mergedInto s c
  let s := putCmd s { c with st := .done, code := code }
  if isMill c then on.foldl (fun s d => putCmd s { d with st := if c.st = .begun then .begun else .queued, group := 0 }) s
  else on.foldl (fun s d => putCmd s (withStatus { c with st := .done, code := code } d)) s

/-- The command named. -/
def cmdAt (s : State) (id : Nat) : Option Cmd := s.cmds.find? (fun c => c.id = id)

/-! ### Arrival (R239, R246) -/

/-- LOCAL window or a CORE window. -/
def inWindow (a : Word) : Bool := match placeOf 0 a with | .lcl _ | .core .. => true | _ => false

/-- Addresses that a command reads (R246). -/
def cmdSources (c : Cmd) : List Word :=
  let b := c.blk
  match c.op with
  | .mloadw => if isGrouped c.ty then [b.getD 1 0, b.getD 2 0] else [b.getD 1 0]
  | .mstream => if isGrouped c.ty then [b.getD 1 0, b.getD 3 0] else [b.getD 1 0]
  | .accwr | .cpy | .cpy2 | .cpyr | .coll | .ckpt => [b.getD 1 0]
  | .ecode => [b.getD 1 0, b.getD 5 0] ++ (if c.sub = 1 then [b.getD 6 0, b.getD 2 0] else [])
  | _ => []

/-- The crier may merge the command (R246). -/
def crierTakes (c : Cmd) : Bool :=
  c.g.isNone && !(c.op = .mstat || c.op = .accflip) && (cmdSources c).all (fun a => !inWindow a)

/-- Two EPAs name the same engine for the crier: those of the mill may differ in CORE (R246, R261). -/
def sameEpa (a b : Cmd) : Bool := a.epa = b.epa || (isMill a && isMill b && epaType a.epa = epaType b.epa && cmdDie a = cmdDie b &&
  epaHam a.epa = epaHam b.epa)

/-- Identical commands of different cores of one hamlet (R246): the EPA is the same, DIE too. Where they write a CORE window, which R184
checks by launch and mode, these have to be the same too, or merging would change a value (R247, log 30). -/
def identical (a b : Cmd) : Bool :=
  a.w.m = b.w.m && a.w.d = b.w.d && a.w.c / 8 = b.w.c / 8 && coreRefOf a.w != coreRefOf b.w && a.op = b.op &&
    a.ty = b.ty && a.sub = b.sub && sameEpa a b && a.blk = b.blk && a.asid = b.asid && a.pkey = b.pkey &&
    ((a.launch = b.launch && a.supv = b.supv) ||
      (cmdWrites a.op a.ty a.sub 1 a.blk).all (fun r => match placeOf 0 r.1 with | .core .. => false | _ => true))

/-- TAILs of the 16 queues as the launch unit sees them, and the records not yet started or failed up to them (R277). -/
def tailsOf (s : State) (m : Nat) : List Word :=
  (List.range 16).map (fun q => match tfind (modAt s m).queues q with
    | some u => BitVec.ofNat 64 (tailOf s m u)
    | none => 0)

/-- Records up to the given TAILs that have not been started or failed. -/
def recordsLeft (s : State) (m : Nat) (tails : List Word) : Nat :=
  (List.range 16).foldl (fun n q => match tfind (modAt s m).queues q with
    | some u => n + ((tails.getD q 0).toNat - headOf s m u)
    | none => n) 0

/-- Earlier commands of the core to the engine whose completion is still to come. -/
def earlierCmds (s : State) (c : Cmd) : List Cmd :=
  s.cmds.filter (fun d => decide (d.id < c.id) && coreRefOf d.w = coreRefOf c.w && sameEngine c d)

/-- Those of a list that are commands: an MSTAT and an accumulator flip have no status word (R267, R290). -/
def onlyCmds (l : List Cmd) : List Cmd := l.filter (fun d => d.op != .mstat && d.op != .accflip)

/-- Where a command stands: a merged one where the one that runs for it does (R247). -/
def standsAs (s : State) (c : Cmd) : CmdSt :=
  if c.st = .merged then (match cmdAt s c.group with | some l => l.st | none => .done) else c.st

/-- A `.q` that no guard holds completes as it reaches the engine (R277). -/
def queryOver (d : Cmd) : Bool := d.op = .engq && d.sub = 0 && (d.g.isNone || d.guardVal = some true)

/-- What ENGQ counts as it reaches the engine (R277): commands there that have not begun, or earlier ones of its core. -/
def engqCount (s : State) (c : Cmd) : Nat :=
  if c.sub = 0 then (onlyCmds (s.cmds.filter (fun d => standsAs s d = .queued && d.id != c.id && sameEngine c d &&
    !queryOver d))).length
  else (onlyCmds (earlierCmds s c)).length

/-- A command reaches its engine: NOENGINE, or DISCARDED by its guard, or it waits its turn. An ENGQ notes what it counts. -/
def engineArrive (s : State) (c : Cmd) : State :=
  if !engineThere s c then
    finishCmd s { c with answer := BitVec.allOnes 64 } 6
  else if c.guardVal = some false then finishCmd s c 1
  else if c.op = .engq then
    (if epaType c.epa = 4 then
      let ts := tailsOf s c.w.m
      putCmd s { c with st := .queued, blk := c.blk ++ ts, prog := recordsLeft s c.w.m ts }
    else putCmd s { c with st := .queued, prog := engqCount s c })
  else putCmd s { c with st := .queued }

/-- The issuing context's earlier stores and loads are performed: issuing was a release at pkg scope (R217). -/
def releaseMet (s : State) (c : Cmd) : Bool :=
  let x := coreOf s c.w
  let mine := fun e : StEnt => match c.ctx with | none => e.k = c.w.k | some i => e.k = i + 8
  match issuerOf s c with
  | none => true
  | some y =>
    !(x.sbuf ++ x.fq).any (fun e => decide (e.id < c.id) && (mine e || y.obs.contains e.id)) &&
      !y.outs.any (fun o => decide (o.id < c.id) && isAccess o && unperformed o)

/-- The query of the launch unit reads TAILs as it arrives: no sooner than its slot's earlier stores are visible (R217, R277), nor
while a descriptor cannot be read or a release of a TAIL is hidden (R215). -/
def mayArrive (s : State) (c : Cmd) : Bool :=
  !(c.op = .engq && epaType c.epa = 4) || (releaseMet s c && !(modAt s c.w.m).queues.any (fun q => (descHeld s c.w.m q.2).isSome))

/-- A query that has to wait for a descriptor asks for its page. -/
def askArrive (s : State) (c : Cmd) : State :=
  if c.op = .engq && epaType c.epa = 4 then
    ((modAt s c.w.m).queues.filterMap (fun q => descHeld s c.w.m q.2)).foldl askAny s
  else s

/-- ENGINE_COMMAND_ARRIVAL (R239): the command reaches the crier, which may hold it to be merged, or its engine. -/
def execEngineCommandArrival (id : Nat) (s : State) : Out_ :=
  match cmdAt s id with
  | none => .next s
  | some c =>
    if c.st != .net then .next s
    else if !crierTakes c then .next (if mayArrive s c then engineArrive s c else askArrive s c)
    else
      let waiting := s.cmds.filter (fun d => d.st = .crier && identical c d)
      let full := fun g : Nat => s.cmds.any (fun d => d.st = .crier && d.group = g && coreRefOf d.w = coreRefOf c.w)
      let g := match waiting.find? (fun d => !full d.group) with | some d => d.group | none => c.id
      .next (putCmd s { c with st := .crier, group := g })

/-- CRIER_WINDOW_EXPIRY (R246): the crier sends one command for the group of a command. ENGQs, which read nothing, and commands for an
engine that is not there are sent each by itself, which changes no status (R247). A command merged into one that has not begun may
still be sent by itself, as if its window had ended earlier: none waits for what stands before another (log 30). -/
def execCrierWindowExpiry (id : Nat) (s : State) : Out_ :=
  match cmdAt s id with
  | none => .next s
  | some c =>
    if c.st = .merged then
      .next (match cmdAt s c.group with
        | some l => if l.st = .queued then engineArrive s { c with group := 0 } else s
        | none => s)
    else
      let group := s.cmds.filter (fun d => d.st = .crier && d.group = c.group)
      if c.st != .crier then .next s
      else if !group.all (mayArrive s) then .next (group.foldl askArrive s)
      else
        match cmdAt s c.group with
        | none => .next s
        | some l =>
          if l.op = .engq || !engineThere s l then .next (group.foldl engineArrive s)
          else
            let s := (group.filter (fun d => d.id != l.id)).foldl (fun s d => putCmd s { d with st := .merged }) s
            .next (engineArrive s l)

/-! ### Order (R217, R239, R251) -/

/-- An earlier command of the core to the engine stands before this one (R239). -/
def standsBehind (s : State) (c : Cmd) : Bool :=
  (earlierCmds s c).any (fun d => standsAs s d != .done && (isMill c || standsAs s d != .begun))

/-- Hardware has not stopped the die of the command's engine (R385), and it is not a lost one whose recovery is still to come (R388). -/
def engineRuns (s : State) (c : Cmd) : Bool :=
  let x := modAt s c.w.m
  let d := if isMill c then c.w.d else cmdDie c
  !(dieSt x d).stopped && !lossDue x (32 + d)

/-- The command may begin, or has begun: its engine runs, for each core that it is for no earlier command stands before it, and its
guard holds. -/
def mayRun (s : State) (c : Cmd) : Bool :=
  engineRuns s c &&
  (c.st = .begun || (c.st = .queued && (c :: mergedInto s c).all (fun d => !standsBehind s d && releaseMet s d))) &&
    (c.g.isNone || c.guardVal = some true)

/-! ### Accesses (R248, R261) -/

/-- What a command writes to LOCAL bytes goes to the local store of each core whose command was merged into it (R247). -/
def spread (s : State) (c : Cmd) (va : Word) (n x : Nat) : State :=
  if decide (va.toNat < 2 ^ 20) then
    (mergedInto s c).foldl (fun s d => writeLocal s (coreRefOf d.w) (localFlat (coreRefOf d.w) va.toNat) n x) s
  else s

/-- Who an engine accesses memory as, for a command. -/
def cmdWho (c : Cmd) : Who :=
  ⟨coreRefOf c.w, none, c.asid, some c.pkey, c.supv, c.launch, true, if isMill c then .mill else .engine (cmdDie c)⟩

/-- The completion code of a cause (R240, R368). -/
def codeOf : Cause → Nat
  | .poison => 4
  | .remoteFailure => 8
  | .leaseRevoked => 9
  | _ => 3

/-- What a read of an engine answers: bytes, with a mark when some were uncorrectable, a failure, or a wait. -/
inductive ERd where
  | ok (s : State) (x : Nat) (bad : Bool)
  | fail (s : State) (c : Cause) (va : Word)
  | hold (s : State)

/-- Reads `n` bytes in pieces that cross no 8-byte boundary; uncorrectable bytes read as 0 with the mark. `k` bounds the
pieces. -/
def engRead (s : State) (w : Who) (va : Word) (n k : Nat) : ERd :=
  match k with
  | 0 => .ok s 0 false
  | k + 1 =>
    if n = 0 then .ok s 0 false
    else
      let q := min n (8 - va.toNat % 8)
      let rest := fun (s : State) (x : Nat) (b : Bool) =>
        match engRead s w (va + BitVec.ofNat 64 q) (n - q) k with
        | .ok s' y b' => .ok s' (x + 256 ^ q * y) (b || b')
        | r => r
      match perfRead s w va q with
      | .ok s' x => rest s' x false
      | .fail .poison => rest (failSeen s w va) 0 true
      | .fail c => .fail (failSeen s w va) c va
      | .absent p => .hold (askPage s p)
      | .wait => .hold s

/-- What the reads of a list answer: values in order, or the index of the first that fails. -/
inductive ERds where
  | ok (s : State) (xs : List (Nat × Bool))
  | fail (s : State) (i : Nat) (c : Cause) (va : Word)
  | hold (s : State)

/-- Reads a list of addresses and lengths. -/
def engReads (s : State) (w : Who) (l : List (Word × Nat)) (acc : List (Nat × Bool)) : ERds :=
  match l with
  | [] => .ok s acc.reverse
  | (va, n) :: r =>
    match engRead s w va n n with
    | .ok s' x b => engReads s' w r ((x, b) :: acc)
    | .fail s' c va' => .fail s' acc.length c va'
    | .hold s' => .hold s'

/-- What a write of an engine answers. -/
inductive EWr where
  | ok (s : State)
  | fail (s : State) (c : Cause) (va : Word)
  | hold (s : State)

/-- Writes `n` bytes in pieces that cross no 8-byte boundary. `k` bounds the pieces. -/
def engWrite (s : State) (w : Who) (va : Word) (n x k : Nat) : EWr :=
  match k with
  | 0 => .ok s
  | k + 1 =>
    if n = 0 then .ok s
    else
      let q := min n (8 - va.toNat % 8)
      match perfWrite s w va q x with
      | .ok s' _ => engWrite s' w (va + BitVec.ofNat 64 q) (n - q) (x / 256 ^ q) k
      | .fail c => .fail (failSeen s w va) c va
      | .absent p => .hold (askPage s p)
      | .wait => .hold s

/-- Writes a list of addresses and bytes, in order: the number of elements written before one failed. -/
inductive EWrs where
  | ok (s : State)
  | fail (s : State) (i : Nat) (c : Cause) (va : Word)
  | hold (s : State)

def engWrites (s : State) (w : Who) (l : List (Word × Nat × Nat)) (i : Nat) : EWrs :=
  match l with
  | [] => .ok s
  | (va, n, x) :: r =>
    match engWrite s w va n x n with
    | .ok s' => engWrites s' w r (i + 1)
    | .fail s' c va' => .fail s' i c va'
    | .hold s' => .hold s'

/-! ### Watchdogs (R243) and queries (R277) -/

/-- A debug halt suspends the watchdogs of a launch, and those of a held group member's peers (R243, R322, R323). -/
def watchdogOff (s : State) (c : Cmd) : Bool :=
  match c.launch with
  | none => false
  | some l => (debugGroup s l).any (fun m => match launchAt s m with
    | some x => x.phase = .halted || (x.phase = .held && x.haltReq) || x.haltAt.isSome
    | none => false)

/-- ENGQ_QUERY_RUN (R277): `.q` completes with what it counted as it reached the engine. -/
def execEngqQueryRun (id : Nat) (s : State) : Out_ :=
  match cmdAt s id with
  | none => .next s
  | some c =>
    if c.op != .engq || c.sub != 0 || c.st != .queued || !engineRuns s c || !(c.g.isNone || c.guardVal = some true) then .next s
    else .next (finishCmd s { c with count := c.prog } 0)

/-- ENGQ_DRAIN_COMPLETE (R277). -/
def execEngqDrainComplete (id : Nat) (s : State) : Out_ :=
  match cmdAt s id with
  | none => .next s
  | some c =>
    if c.op != .engq || c.sub != 1 || c.st != .queued || !engineRuns s c || !(c.g.isNone || c.guardVal = some true) then .next s
    else
      let left := if epaType c.epa = 4 then recordsLeft s c.w.m (c.blk.drop 1) else (onlyCmds (earlierCmds s c)).length
      .next (if left = 0 then finishCmd s { c with count := c.prog } 0 else s)

end Sys2Proof.Machine
end

