-- ==== Sys2Proof/Machine/VecConv.lean ====
section
/-!
DEFINITION. Vector conversions, ternary, sparse and grouped-integer instructions (R64-R69, R116-R125).
-/

namespace Sys2Proof.Machine

/-- The part number, source type and SAT of a conversion (R116, R117). -/
def convPart (f : VForm) : Nat := (f.vimm.extractLsb' 5 4).toNat
def convSrc (f : VForm) : Ty := tyOf (f.vimm.extractLsb' 0 4).toNat
def convSat (f : VForm) : Bool := f.vimm.getLsbD 4

/-- The conversion of R116 from width `ws` to width `wd` with part `p`: `op` converts one source element. -/
def convElems (ws wd p : Nat) (mask : BitVec 64) (zm : Bool) (old src : VWord) (op : Nat → Nat × Flags) :
    VWord × Flags :=
  let n := 512 / max ws wd
  let sb := if ws < wd then p * n else 0
  let db := if wd < ws then p * n else 0
  let rs := (List.range (512 / wd)).map (fun i =>
    if i < db || db + n ≤ i then (elemOf wd old i, (0 : Flags))
    else if mask.getLsbD (i - db) then op (elemOf ws src (sb + (i - db)))
    else (if zm then 0 else elemOf wd old i, 0))
  (packElems wd (rs.map (·.1)), rs.foldl (fun a r => a ||| r.2) 0)

/-- One element of VCVT (R117). -/
def cvtElem (dst src : Ty) (rm : RMode) (sat : Bool) (x : Nat) : Nat × Flags :=
  if tyIsInt src then
    if tyIsInt dst then
      (if tyBits dst = tyBits src then (x, 0) else narrow dst sat (intOf src x))
    else intCvtFp (fmtOf dst) rm sat (intOf src x)
  else if tyIsInt dst then fpCvtInt dst (fmtOf src) rm x
  else fpCvt (fmtOf dst) (fmtOf src) rm sat x

/-- VCVT (R117). -/
def vcvtBody (f : VForm) (s : State) : Eff :=
  let x := curSlot s
  let r := convElems (tyBits (convSrc f)) (tyBits f.ty) (convPart f) (vMask x f) f.zm (vGet x f.d) (vGet x f.a)
    (cvtElem f.ty (convSrc f) (rmOf x f.sub) (convSat f))
  writeV f r.2 s r.1

/-- VCVT (R117). -/
def execVcvt (g : Guard) (f : VForm) (s : State) : Out_ := issue g (usesV1 f) false (vcvtBody f) s

/-- The type of twice the width and the same signedness, for VPACK (R118). -/
def wideOf : Ty → Ty
  | .s8 => .s16 | .s16 => .s32 | .s32 => .s64 | .z8 => .z16 | .z16 => .z32 | .z32 => .z64 | t => t

/-- VPACK (R118). -/
def vpackBody (f : VForm) (s : State) : Eff :=
  let x := curSlot s
  let n := tyBits f.ty
  let h := lanes n / 2
  let r := mapActive n (vMask x f) f.zm (vGet x f.d) (fun j =>
    let e := if j < h then elemOf (2 * n) (vGet x f.a) j else elemOf (2 * n) (vGet x f.b) (j - h)
    narrow f.ty (f.sub = 1) (intOf (wideOf f.ty) e))
  writeV f r.2 s r.1

/-- VPACK (R118). -/
def execVpack (g : Guard) (f : VForm) (s : State) : Out_ := issue g (usesV2 f) false (vpackBody f) s

/-- VWIDEN (R119). -/
def execVwiden (g : Guard) (f : VForm) (s : State) : Out_ :=
  issue g (usesV1 f) false (vecBits f (fun x j =>
    let n := tyBits f.ty
    let e := elemOf (n / 2) (vGet x f.a) ((if f.vimm.getLsbD 0 then lanes n else 0) + j)
    if tySigned f.ty then wrapTo n (sintOf (n / 2) e) else e)) s

/-- Trit `i` of a ternary byte as 0, 1 or 2, by the multiply-and-shift steps of R120. -/
def tritOf (b i : Nat) : Int :=
  match i with
  | 0 => ((b - 3 * (b * 171 / 512) : Nat) : Int) - 1
  | k + 1 => tritOf (b * 171 / 512) k

/-- The byte that element `j` of VUNPACK3 draws from (R120). -/
def tritByte (base j : Nat) : Nat := (base + j / 5) % 64

/-- The lowest-numbered illegal byte that an active element draws from (R120). -/
def badTrit (x : Slot) (f : VForm) : Option Nat :=
  let n := tyBits f.ty
  let base := (f.vimm.extractLsb' 0 6).toNat
  let read := (List.range (lanes n)).filterMap (fun j =>
    if (vMask x f).getLsbD j then some (tritByte base j) else none)
  (List.range 64).find? (fun k => read.contains k && decide (242 < elemOf 8 (vGet x f.a) k))

/-- VUNPACK3 (R120, R69). -/
def vunpack3Body (f : VForm) (s : State) : Eff :=
  let x := curSlot s
  let n := tyBits f.ty
  let base := (f.vimm.extractLsb' 0 6).toNat
  let r := mapActive n (vMask x f) f.zm (vGet x f.d) (fun j =>
    let b := elemOf 8 (vGet x f.a) (tritByte base j)
    (if 242 < b then 0 else wrapTo n (tritOf b (j % 5)), 0))
  match badTrit x f with
  | none => .done (withCur s (fun x => vPut x f.d r.1))
  | some k =>
    if f.sub = 0 then .fault .format (BitVec.ofNat 64 k)
    else .done (withCur s (fun x =>
      let y := raiseFl (vPut x f.d r.1) flTERN
      { y with csr := { y.csr with ternidx := BitVec.ofNat 6 k } }))

/-- VUNPACK3 (R120). -/
def execVunpack3 (g : Guard) (f : VForm) (s : State) : Out_ := issue g (usesV1 f) false (vunpack3Body f) s

/-- The accumulated element of VDOT4 and VTACC (R121). -/
def accElems (f : VForm) (x : Slot) (sum : Nat → Int) : VWord × Flags :=
  mapActive 32 (vMask x f) f.zm (vGet x f.d) (fun j =>
    narrow .s32 (f.sub.getLsbD 0) (intOf .s32 (elemOf 32 (vGet x f.d) j) + sum j))

/-- The sum of `f` over the four bytes of element `j`. -/
def sum4 (t : Nat → Int) (j : Nat) : Int := t (4 * j) + t (4 * j + 1) + t (4 * j + 2) + t (4 * j + 3)

/-- VDOT4 (R121): SUB bit 0 `.sat`, bit 1 `.us`. -/
def vdot4Body (f : VForm) (s : State) : Eff :=
  let x := curSlot s
  let a := fun i : Nat =>
    if f.sub.getLsbD 1 then intOf .z8 (elemOf 8 (vGet x f.a) i) else intOf .s8 (elemOf 8 (vGet x f.a) i)
  let r := accElems f x (sum4 (fun i => a i * intOf .s8 (elemOf 8 (vGet x f.b) i)))
  writeVChecked f 32 (vMask x f) r.2 s r.1

/-- VDOT4 (R121). -/
def execVdot4 (g : Guard) (f : VForm) (s : State) : Out_ := issue g (usesV2 f) false (vdot4Body f) s

/-- VTACC (R121). -/
def vtaccBody (f : VForm) (s : State) : Eff :=
  let x := curSlot s
  let t := fun i : Nat => elemOf 8 (vGet x f.b) i
  let bad := (List.range 64).find? (fun i =>
    (vMask x f).getLsbD (i / 4) && t i != 0 && t i != 1 && t i != 0xFF)
  match bad with
  | some i => .fault .format (BitVec.ofNat 64 i)
  | none =>
    let r := accElems f x (sum4 (fun i =>
      let a := intOf .s8 (elemOf 8 (vGet x f.a) i)
      if t i = 1 then a else if t i = 0xFF then -a else 0))
    writeVChecked f 32 (vMask x f) r.2 s r.1

/-- VTACC (R121). -/
def execVtacc (g : Guard) (f : VForm) (s : State) : Out_ := issue g (usesV2 f) false (vtaccBody f) s

/-- Element `a` outranks element `b` in VSPARSE24 (R122): NaNs first, then by magnitude. -/
def outranks (t : Ty) (a b : Nat) : Bool :=
  if tyIsInt t then decide ((intOf t b).natAbs < (intOf t a).natAbs)
  else
    let f := fmtOf t
    let va := fpDecode f a
    let vb := fpDecode f b
    if isNan va then !isNan vb
    else if isNan vb then false
    else decide (b % 2 ^ (f.w - 1) < a % 2 ^ (f.w - 1))

/-- How many of the four elements of a group stand before element `i` in rank. -/
def rankIn (t : Ty) (e : Nat → Nat) (i : Nat) : Nat :=
  ((List.range 4).filter (fun k => outranks t (e k) (e i) || (k < i && !outranks t (e i) (e k)))).length

/-- The two kept indices of a group, lower first (R122). -/
def keptOf (t : Ty) (e : Nat → Nat) : Nat × Nat :=
  match (List.range 4).filter (fun i => decide (rankIn t e i < 2)) with
  | lo :: hi :: _ => (lo, hi)
  | _ => (0, 1)

/-- VSPARSE24 (R122): C names a mask pair. -/
def vsparseBody (f : VForm) (s : State) : Eff :=
  let x := curSlot s
  let n := tyBits f.ty
  let l := lanes n
  let kept := fun g : Nat => keptOf f.ty (fun i => vA x f (4 * g + i))
  let v := packElems n ((List.range l).map (fun j =>
    if j < l / 2 then vA x f (4 * (j / 2) + (if j % 2 = 0 then (kept (j / 2)).1 else (kept (j / 2)).2)) else 0))
  let mk := fun p : Nat × Nat → Nat => BitVec.ofNat 64
    ((List.range (l / 4)).foldl (fun a g => a + p (kept g) * 4 ^ g) 0)
  .done (withCur s (fun x => mPut (mPut (vPut x f.d v) f.c.toNat (mk (·.1))) (f.c.toNat + 1) (mk (·.2))))

/-- VSPARSE24 (R122). -/
def execVsparse24 (g : Guard) (f : VForm) (s : State) : Out_ := issue g (.dm f.c :: .dm (f.c + 1) :: usesV1 f) false (vsparseBody f) s

/-- VEXPAND24 (R123). -/
def execVexpand24 (g : Guard) (f : VForm) (s : State) : Out_ :=
  issue g (usesV1 f) false (vecAll f (fun x j =>
    let gr := j / 4
    let ix := fun m : Nat => ((mGet x m).toNat / 4 ^ gr) % 4
    if ix (f.c.toNat + 1) = j % 4 then vA x f (2 * gr + 1)
    else if ix f.c.toNat = j % 4 then vA x f (2 * gr) else 0)) s

/-! ### Group records (R65-R67) -/

/-- SCALE, ZP and GSIZE of a group record whose byte 0 is in bits [7:0]. -/
def recScale (r : Nat) : Nat := r % 2 ^ 16
def recZp (r : Nat) : Nat := r / 2 ^ 16 % 256
def recGsize (r : Nat) : Nat := r / 2 ^ 24 % 4

/-- An ill-formed record (R67). -/
def recBad (g4 : Bool) (r : Nat) : Bool :=
  decide (2 ^ 15 ≤ recScale r) || decide (0x7C00 ≤ recScale r % 2 ^ 15) || recGsize r = 3 ||
    r / 2 ^ 26 % 64 != 0 || (g4 && decide (16 ≤ recZp r))

/-- SCALE as m × 2^e (R65). -/
def recScaleVal (r : Nat) : Nat × Int :=
  match fpDecode (fmtOf .f16) (recScale r) with
  | .fin _ m e => (m, e)
  | _ => (0, 0)

/-- ±(num / den) rounded to an integer magnitude, and whether it was inexact. -/
def roundDiv (rm : RMode) (neg : Bool) (num den : Nat) : Nat × Bool :=
  let q := num / den
  let r := num % den
  let cmp := if 2 * r < den then 0 else if 2 * r = den then 1 else 2
  (if roundsUp rm neg (q % 2 = 1) cmp (r != 0) then q + 1 else q, r != 0)

/-- One code of VQUANT (R124). -/
def quantElem (g4 : Bool) (r : Nat) (src : FFmt) (rm : RMode) (x : Nat) : Nat × Flags :=
  let qmax : Int := if g4 then 15 else 255
  let clamp := fun q : Int =>
    if q < 0 then (0, flSAT) else if q > qmax then (qmax.toNat, flSAT) else (q.toNat, (0 : Flags))
  let sc := recScaleVal r
  match fpDecode src x with
  | .nan _ => (recZp r, flNV)
  | .inf neg => if sc.1 = 0 then (recZp r, 0) else if neg then (0, flSAT) else (qmax.toNat, flSAT)
  | .fin neg m e =>
    if sc.1 = 0 then (recZp r, 0)
    else
      let num := if sc.2 ≤ e then m * 2 ^ (e - sc.2).toNat else m
      let den := if sc.2 ≤ e then sc.1 else sc.1 * 2 ^ (sc.2 - e).toNat
      let n := roundDiv rm neg num den
      let q := clamp (signedOf neg n.1 + recZp r)
      (q.1, q.2 ||| (if n.2 then flNX else 0))

/-- Operand B of VQUANT and VDEQ: the low 32 bits of a scalar register. -/
def groupRec (x : Slot) (f : VForm) : Nat := (sGet x f.b).toNat % 2 ^ 32

/-- VQUANT (R124). -/
def vquantBody (f : VForm) (s : State) : Eff :=
  let x := curSlot s
  let r := groupRec x f
  let g4 : Bool := f.ty = .g4
  if recBad g4 r then .fault .format (BitVec.ofNat 64 r)
  else
    let v := convElems (tyBits (convSrc f)) (tyBits f.ty) (convPart f) (vMask x f) f.zm (vGet x f.d) (vGet x f.a)
      (quantElem g4 r (fmtOf (convSrc f)) (rmOf x f.sub))
    writeV f v.2 s v.1

/-- VQUANT (R124): B is scalar. -/
def execVquant (g : Guard) (f : VForm) (s : State) : Out_ :=
  issue g [.v f.a, .s f.b, .dv f.d] false (vquantBody f) s

/-- One element of VDEQ: SCALE × (q − ZP), rounded once (R66, R125). -/
def deqElem (r : Nat) (dst : FFmt) (rm : RMode) (q : Nat) : Nat × Flags :=
  let sc := recScaleVal r
  let d : Int := (q : Int) - recZp r
  if sc.1 = 0 || d = 0 then (0, 0) else fpRound dst rm false (decide (d < 0)) (d.natAbs * sc.1) sc.2 false

/-- VDEQ (R125). -/
def vdeqBody (f : VForm) (s : State) : Eff :=
  let x := curSlot s
  let r := groupRec x f
  if recBad (convSrc f = .g4) r then .fault .format (BitVec.ofNat 64 r)
  else
    let v := convElems (tyBits (convSrc f)) (tyBits f.ty) (convPart f) (vMask x f) f.zm (vGet x f.d) (vGet x f.a)
      (deqElem r (fmtOf f.ty) (rmOf x f.sub))
    writeV f v.2 s v.1

/-- VDEQ (R125): B is scalar. -/
def execVdeq (g : Guard) (f : VForm) (s : State) : Out_ :=
  issue g [.v f.a, .s f.b, .dv f.d] false (vdeqBody f) s

end Sys2Proof.Machine
end

