-- ==== Sys2Proof/Machine/EvMill.lean ====
section
/-!
DEFINITION. The mill (R70-R77, R251-R257, R262-R267): tile steps in weighted round robin, planes, streams, accumulator reads
and writes, the scrubber and sub-array gating.
-/

namespace Sys2Proof.Machine

/-! ### The accumulator (R70-R77) -/

/-- The bounds of E. -/
def eMax : Int := 2 ^ 63 - 1
def eMin : Int := -2 ^ 63

/-- An integer kept inside the bounds, and whether it had to be. -/
def clampE (x : Int) : Int × Bool := if x > eMax then (eMax, true) else if x < eMin then (eMin, true) else (x, false)

/-- E mod 3 (R70). -/
def resOf (x : Int) : BitVec 2 := BitVec.ofNat 2 (x % 3).toNat

/-- The addend of a value for an exponent, and OVF (R72, R73, R77, R78). An infinite product of two infinities, which R73 does not
name, takes the addend of any infinite product: the model's choice (log 32). -/
def addendOf (v : FVal) (aexp : Int) : Int × Bool :=
  match v with
  | .nan _ => (0, true)
  | .inf neg => (if neg then eMin else eMax, true)
  | .fin neg m e =>
    let k := e + 62 - aexp
    let mag : Nat := if k ≥ 0 then m * 2 ^ k.toNat else m / 2 ^ (-k).toNat
    clampE (signedOf neg mag)

/-- An entry with one addend, and OVF (R74, R75). -/
def accAdd (x : AccEntry) (a : Int) : AccEntry × Bool :=
  let s := clampE (x.e.toInt + a)
  (⟨BitVec.ofInt 64 s.1, if s.2 then resOf s.1 else BitVec.ofNat 2 ((x.res.toNat + (a % 3).toNat) % 3)⟩, s.2)

/-- RES fails the check of R75. -/
def accBad (x : AccEntry) : Bool := x.res != resOf x.e.toInt

/-- AEXP of a tile. -/
def aexpOf (h : Ham) (t : Nat) : Int := (tget h.aexp 0 t).toInt

/-- Entry at a row and column. -/
def accAt (h : Ham) (r j : Nat) : AccEntry := tget h.acc AccEntry.reset (r * 128 + j)

/-- Writes an entry; one of all zeros is not listed. -/
def accPut (h : Ham) (r j : Nat) (x : AccEntry) : Ham :=
  { h with acc := if x = AccEntry.reset then tdel h.acc (r * 128 + j) else tput h.acc (r * 128 + j) x }

/-- A queue has written a tile (R256), while the frames `us` were innermost in the slots of its core (R295). -/
def noteWrote (h : Ham) (t q : Nat) (us : List Nat) : Ham :=
  { h with wrote := tput h.wrote t (tget h.wrote 0 t ||| (1#8 <<< q)), marks := tput h.marks t (nubNat (tget h.marks [] t ++ us)) }

/-- The innermost frames of a core's slots. -/
def innermostOf (s : State) (c : CoreRef) : List Nat := (slotsOf c).filterMap (fun w => (slotAt s w).frames.head?.map (·.uid))

/-- A tile awaits `.auto`. -/
def awaitsAuto (h : Ham) (t : Nat) : Bool := h.auto.getLsbD t

/-- Sets AEXP of a tile, which then no longer waits. -/
def setAexp (h : Ham) (t : Nat) (a : Int) : Ham :=
  { h with aexp := tput h.aexp t (BitVec.ofInt 10 a), auto := h.auto &&& ~~~(1#16 <<< t) }

/-! ### Planes (R252) -/

/-- The active and the shadow plane of a queue. -/
def activeOf (h : Ham) (q : Nat) : Plane := tget h.planes Plane.reset (2 * q)
def shadowOf (h : Ham) (q : Nat) : Plane := tget h.planes Plane.reset (2 * q + 1)

/-- The exact value of an element code under a format and, for a grouped one, a group record (R66). -/
def elemVal (t : Ty) (rc : Nat) (x : Nat) : FVal :=
  if isGrouped t then
    let sc := recScaleVal rc
    let d : Int := (x : Int) - recZp rc
    .fin (decide (d < 0)) (d.natAbs * sc.1) sc.2
  else fpDecode (fmtOf t) x

/-- A weight of the plane is read with an uncorrectable error: two of its bits are flipped (R27, R257). -/
def weightBad (f : BitVec 16) : Bool := decide (2 ≤ popCount 16 f.toNat)

/-- The weight at a cell; one that was not loaded, or is read with an uncorrectable error, is zero (R257, R262). -/
def weightAt (p : Plane) (k j : Nat) : FVal :=
  match tfind p.w (k * 128 + j) with
  | none => .fin false 0 0
  | some x => if weightBad (tget p.flips 0 (k * 128 + j)) then .fin false 0 0
    else elemVal p.fmt (tget p.recs 0 (j * 64 + k / groupSize p.gs)).toNat x.toNat

/-! ### Turns (R254) -/

/-- The weight of a queue: 0 acts as 1 (R258). -/
def queueWeight (h : Ham) (q : Nat) : Nat := max (h.millwt.toNat / 16 ^ q % 16) 1

/-- The hamlet of a command. -/
def cmdHam (c : Cmd) : HamRef := hamOf (coreRefOf c.w)

/-- The queue of a command. -/
def cmdQueue (c : Cmd) : Nat := c.w.c % 8

/-- A queue has a command that can take a step now; one that waits for a page does not count until it is tried again. -/
def queueReady (s : State) (h : HamRef) (q : Nat) : Bool :=
  s.cmds.any (fun d => isMill d && d.op != .mstat && d.op != .engq && cmdHam d = h && cmdQueue d = q && mayRun s d && !d.suspended)

/-- Queue `q` may take the next tile step: no eligible queue stands before it in the round. -/
def millTurn (s : State) (h : HamRef) (q : Nat) : Bool :=
  let x := hamAt s h
  let order := (if x.rrLeft = 0 then [] else [x.rrQueue]) ++ (List.range 8).map (fun i => (x.rrQueue + 1 + i) % 8)
  (order.takeWhile (fun p => p != q)).all (fun p => !queueReady s h p)

/-- The round after a tile step of queue `q`; the sub-arrays that it needs are powered, and which those are is not stated
(R255). -/
def millServed (x : Ham) (q : Nat) : Ham :=
  let x := { x with gated := 0 }
  if q = x.rrQueue && x.rrLeft != 0 then { x with rrLeft := x.rrLeft - 1 }
  else { x with rrQueue := q, rrLeft := queueWeight x q - 1 }

/-- The command takes a tile step now. -/
def millGo (s : State) (c : Cmd) : Bool :=
  mayRun s c && dieRuns s c.w.m c.w.d && millTurn s (cmdHam c) (cmdQueue c)

/-- The step `f` of a command that the crier has merged into another, on its own requester's queue (R247): it goes on with the one that
reads for it, and by itself once that has ended. -/
def mergedStep (leader : Nat) (f : Cmd → State → State) (s : State) (d : Cmd) : State :=
  let h := cmdHam d
  let s := f { d with st := .begun } (setHam s h (millServed (hamAt s h) (cmdQueue d)))
  match cmdAt s leader, cmdAt s d.id with
  | some l, some e => if l.st = .begun && e.st = .begun then putCmd s { e with st := .merged, suspended := false } else s
  | _, _ => s

/-- A tile step of a command: its kind, and `f` the step. Commands merged into it take the same step with the same sources (R247). -/
def tileStep (op : CmdOp) (id : Nat) (f : Cmd → State → State) (s : State) : Out_ :=
  match cmdAt s id with
  | none => .next s
  | some c =>
    if c.op != op || !millGo s c then .next s
    else
      let h := cmdHam c
      let s1 := f { c with st := .begun, suspended := false } (setHam s h (millServed (hamAt s h) (cmdQueue c)))
      .next (if (cmdAt s1 id).any (·.suspended) then s1 else (mergedInto s c).foldl (mergedStep id f) s1)

/-- A step that has to wait for a page leaves everything as it was but the request. -/
def stepHeld (s s' : State) (c : Cmd) : State := putCmd { s with pages := s'.pages } { c with suspended := true }

/-! ### Flags (R256-R258) -/

/-- Sets `MFLG` bits in a core. -/
def setMflg (s : State) (c : CoreRef) (zrep ovf res : Bool) : State :=
  let x := coreAt s c
  setCore s c { x with mflg := { x.mflg with zrep := x.mflg.zrep || zrep, ovf := x.mflg.ovf || ovf, res := x.mflg.res || res } }

/-- An operand element replaced by zero; the first is recorded (R257). -/
def setZrep (s : State) (c : CoreRef) (row col src : Nat) : State :=
  let x := coreAt s c
  let m := { x.mflg with zrep := true }
  setCore s c { x with mflg := if m.posValid then m else
    { m with posRow := BitVec.ofNat 11 row, posCol := BitVec.ofNat 10 col, posSrc := BitVec.ofNat 2 src, posValid := true } }

/-! ### MLOADW and MSWAP -/

/-- An INVALID plane: zero weights and no format (R262); MSTAT reports the format of a plane after reset, bf16 with GS 0, for it: R267
states none (DESIGN CHOICE, log 32). -/
def Plane.none : Plane := { Plane.reset with invalid := true }

/-- Sets a plane of a hamlet. -/
def putPlane (s : State) (h : HamRef) (i : Nat) (p : Plane) : State :=
  setHam s h { hamAt s h with planes := tput (hamAt s h).planes i p }

/-- A load that fails leaves the shadow plane INVALID. -/
def loadFails (s : State) (c : Cmd) (code count : Nat) (va : Word) (rec' : Bool) : State :=
  finishCmd (putPlane s (cmdHam c) (2 * cmdQueue c + 1) Plane.none)
    { c with count := count, failVa := va, answer := if rec' then 1 else 0 } code

/-- Bytes of row 0 up to element `j`, and the code of element `j` in the bytes read there (R64). -/
def elemAt (t : Ty) (j : Nat) : Nat := if t = .g4 then j / 2 else j * tyBytes t
def elemCode (t : Ty) (j x : Nat) : Nat := if t = .g4 then x / 16 ^ (j % 2) % 16 else x

/-- What reading group records in order answers: the records read, the address of the first that is ill-formed or mis-sized, a
failure, or a wait. -/
inductive RecRd where
  | ok (s : State) (rs : List (Nat × Bool))
  | bad (s : State) (va : Word)
  | fail (s : State) (c : Cause) (va : Word)
  | hold (s : State)

/-- Reads group records in order, each checked as it is read (R67, R262, R264); an uncorrectable one is replaced (R257). -/
def recReadAll (s : State) (w : Who) (g4 : Bool) (gs : Nat) (l : List Word) (acc : List (Nat × Bool)) : RecRd :=
  match l with
  | [] => .ok s acc.reverse
  | va :: r =>
    match engRead s w va 4 4 with
    | .hold s' => .hold s'
    | .fail s' c va' => .fail s' c va'
    | .ok s' x b =>
      if !b && (recBad g4 x || recGsize x != gs) then .bad s' va else recReadAll s' w g4 gs r ((x, b) :: acc)

/-- MLOADW as a whole (R262). With `prog` set, an MLOADW behind it has been abandoned, which leaves the shadow plane INVALID. -/
def mloadwStep (c : Cmd) (s : State) : State :=
  let b := c.blk
  let t := c.ty
  let gs := bf b 0 1 0
  let ncol := bf b 3 47 41 + 1
  let nk := bf b 3 40 32 + 1
  let pitch := bf b 3 31 0
  let size := groupSize gs
  let g := if isGrouped t then ceilDiv nk size else 0
  let who := cmdWho c
  let me := coreRefOf c.w
  match recReadAll s who (t = .g4) gs ((List.range (ncol * g)).map (fun i => b.getD 2 0 + BitVec.ofNat 64 (4 * i))) [] with
  | .hold s' => stepHeld s s' c
  | .fail s' k va => loadFails s' c (codeOf k) 0 va false
  | .bad s' va => loadFails s' c 5 0 va true
  | .ok s' recs =>
      let n := if t = .g4 then 1 else tyBytes t
      let addr := fun i => b.getD 1 0 + BitVec.ofNat 64 (i / ncol * pitch + elemAt t (i % ncol))
      match engReads s' who ((List.range (nk * ncol)).map (fun i => (addr i, n))) [] with
      | .hold s'' => stepHeld s s'' c
      | .fail s'' i k va => loadFails s'' c (codeOf k) (i / ncol) va false
      | .ok s'' ws =>
        let recOf := fun (k j : Nat) => recs.getD (j * g + k / size) (0, false)
        -- (k, j, code) of the elements kept, and the places of those replaced
        let all := ws.mapIdx (fun i w => (i / ncol, i % ncol, w.1, w.2))
        let lost := all.filter (fun e => e.2.2.2)
        let kept := all.filter (fun e => !(e.2.2.2 || (isGrouped t && (recOf e.1 e.2.1).2)))
        let badRecs := (recs.mapIdx (fun i r => (i, r.2))).filter (·.2)
        let s3 := badRecs.foldl (fun s r => setZrep s me (r.1 % max g 1 * size) (r.1 / max g 1) 0) s''
        let s4 := lost.foldl (fun s e => setZrep s me e.1 e.2.1 0) s3
        let plane : Plane :=
        { fmt := t, gs := gs, invalid := false, flips := [],
          w := kept.map (fun e => (e.1 * 128 + e.2.1, BitVec.ofNat 16 (elemCode t e.2.1 e.2.2.1))),
          recs := recs.mapIdx (fun i r => (i / max g 1 * 64 + i % max g 1, BitVec.ofNat 32 r.1)) }
        finishCmd (putPlane s4 (cmdHam c) (2 * cmdQueue c + 1) (if c.prog = 0 then plane else Plane.none))
          { c with count := nk, zrep := !badRecs.isEmpty || !lost.isEmpty } 0

/-- MLOADW_RUN (R262). -/
def execMloadwRun (id : Nat) (s : State) : Out_ := tileStep .mloadw id mloadwStep s

/-- MSWAP_RUN (R263); with `prog` set, an MLOADW behind it has been abandoned, which leaves the shadow plane INVALID (R262). -/
def execMswapRun (id : Nat) (s : State) : Out_ :=
  tileStep .mswap id (fun c s =>
    let h := hamAt s (cmdHam c)
    let q := cmdQueue c
    let away := if c.prog = 0 then activeOf h q else Plane.none
    finishCmd (putPlane (putPlane s (cmdHam c) (2 * q) (shadowOf h q)) (cmdHam c) (2 * q + 1) away)
      { c with count := 1 } 0) s

/-- An MLOADW is abandoned (R243, R262): the plane that it would have loaded is INVALID, at its place in the queue: at once, or when the
last MSWAP or MLOADW before it is over. -/
def voidLoad (s : State) (c : Cmd) : State :=
  let before := (earlierCmds s c).filter (fun d => (d.op = .mswap || d.op = .mloadw) && d.st != .done)
  match before.foldl (fun b d => match b with | some e => if e.id < d.id then some d else b | none => some d) none with
  | some d => putCmd s { d with prog := 1 }
  | none => putPlane s (cmdHam c) (2 * cmdQueue c + 1) Plane.none

/-! ### MSTREAM (R253, R264) -/

/-- What reading a stream row answers: its values with what was replaced (column and source), or how the stream ends. -/
inductive RowRd where
  | ok (s : State) (acts : List FVal) (bad : List (Nat × Nat))
  | stop (s : State) (code : Nat) (va : Word) (rec' : Bool)
  | hold (s : State)

/-- Reads stream row `i` with its records. -/
def streamRow (s : State) (c : Cmd) (i : Nat) : RowRd :=
  let b := c.blk
  let t := c.ty
  let gs := bf b 0 10 9
  let nka := bf b 0 8 0 + 1
  let size := groupSize gs
  let g := if isGrouped t then ceilDiv nka size else 0
  let grec := b.getD 3 0 + BitVec.ofNat 64 (4 * (i * g))
  let src := b.getD 1 0 + BitVec.ofNat 64 (i * bf b 2 31 0)
  match recReadAll s (cmdWho c) false gs ((List.range g).map (fun k => grec + BitVec.ofNat 64 (4 * k))) [] with
  | .hold s' => .hold s'
  | .fail s' k va => .stop s' (codeOf k) va false
  | .bad s' va => .stop s' 5 va true
  | .ok s' recs =>
      let n := tyBytes t
      match engReads s' (cmdWho c) ((List.range nka).map (fun k => (src + BitVec.ofNat 64 (k * n), n))) [] with
      | .hold s'' => .hold s''
      | .fail s'' _ k va => .stop s'' (codeOf k) va false
      | .ok s'' xs =>
        let rec' := fun k => recs.getD (k / size) (0, false)
        .ok s''
          (xs.mapIdx (fun k x => if x.2 || (isGrouped t && (rec' k).2) then .fin false 0 0 else elemVal t (rec' k).1 x.1))
          (((recs.mapIdx (fun k r => (k * size, 0, r.2))).filter (·.2.2)).map (fun e => (e.1, e.2.1)) ++
            ((xs.mapIdx (fun k x => (k, 1, x.2))).filter (·.2.2)).map (fun e => (e.1, e.2.1)))

/-- Reads stream rows `i` on, `n` of them: the rows read, what was replaced, and how the stream ends if it does. -/
structure Rows where
  s : State
  rows : List (List FVal)
  bad : List (Nat × Nat × Nat)
  stop : Option (Nat × Word × Bool)
  held : Bool

def streamRows (s : State) (c : Cmd) (i n : Nat) : Rows :=
  match n with
  | 0 => ⟨s, [], [], none, false⟩
  | k + 1 =>
    match streamRow s c i with
    | .hold s' => ⟨s', [], [], none, true⟩
    | .stop s' code va r => ⟨s', [], [], some (code, va, r), false⟩
    | .ok s' acts bad =>
      let r := streamRows s' c (i + 1) k
      { r with rows := acts :: r.rows, bad := bad.map (fun e => (i, e.1, e.2)) ++ r.bad }

/-- |a| + |b| of exact magnitudes m × 2^e. -/
def magAdd (a b : Nat × Int) : Nat × Int :=
  let e := min a.2 b.2
  (a.1 * 2 ^ (a.2 - e).toNat + b.1 * 2 ^ (b.2 - e).toNat, e)

/-- The smallest B with m × 2^e < 2^B, when m is not 0 (R71). -/
def magTop (a : Nat × Int) : Int := a.2 + bitLen a.1

/-- The products of a row with a column of the plane; operands beyond those read are zero (R253). -/
def products (p : Plane) (acts : List FVal) (j : Nat) : List FVal :=
  (List.range (planeK p.fmt)).map (fun k => fpMulVal (acts.getD k (.fin false 0 0)) (weightAt p k j))

/-- AEXP of a tile that awaits `.auto`, from the rows streamed into it (R71), and whether it was clamped. -/
def autoExp (p : Plane) (rows : List (List FVal)) : Int × Bool :=
  let sums := (rows.map (fun r => (List.range 128).map (fun j =>
    (products p r j).foldl (fun a v => match v with | .fin _ m e => if m = 0 then a else magAdd a (m, e) | _ => a) (0, 0)))).flatten
  let tops := (sums.filter (fun a => a.1 != 0)).map magTop
  match tops with
  | [] => (0, false)
  | t :: r =>
    let b := r.foldl max t + 8
    if b > 511 then (511, true) else if b < -512 then (-512, true) else (b, false)

/-- The products of a column with a flip in one of them: its significand has a bit inverted, which changes its residue mod 3, so
that the check of R256 finds it. -/
def flipProduct (f : Option (Nat × Nat × Nat)) (j : Nat) (ps : List FVal) : List FVal × Bool :=
  match f with
  | some (k, j', bit) =>
    (match decide (j = j'), ps[k]? with
     | true, some (.fin neg m e) => (ps.set k (.fin neg (Nat.xor m (2 ^ bit)) e), true)
     | _, _ => (ps, false))
  | none => (ps, false)

/-- One entry with the addends of its products in an order (R72-R75). -/
def addProducts (x : AccEntry) (aexp : Int) (ps : List FVal) (order : List Nat) : AccEntry × Bool :=
  (permuted ps order).foldl (fun r v =>
      let a := addendOf v aexp
      let y := accAdd r.1 a.1
      (y.1, r.2 || a.2 || y.2)) (x, false)

/-- Adds rows from accumulator row `r0` on; the first one meets a flip that waits for a product. `order` gives, entry after entry,
the order of its addends, which the spec leaves open (R74). -/
def addRows (h : Ham) (p : Plane) (r0 : Nat) (rows : List (List FVal)) (order : List Nat) : Ham × Bool :=
  let k := planeK p.fmt
  (rows.mapIdx (fun i acts => (i, acts))).foldl (fun r e =>
      (List.range 128).foldl (fun r j =>
          let row := r0 + e.1
          let n := e.1 * 128 + j
          let y := addProducts (accAt r.1 row j) (aexpOf r.1 (row / 128)) 
            (flipProduct (if e.1 = 0 then h.prod else none) j (products p e.2 j)).1 ((order.drop (n * k)).take k)
          (accPut r.1 row j y.1, r.2 || y.2)) r)
    (h, false)

/-- The rows of a stream that fall in the tile of its next row (R254). -/
def mstreamStep (order : List Nat) (c : Cmd) (s : State) : State :=
  let b := c.blk
  let row0 := bf b 2 52 42
  let n := bf b 2 41 32 + 1
  let i := c.count
  let q := cmdQueue c
  let p := activeOf (hamAt s (cmdHam c)) q
  let t := (row0 + i) / 128
  let m := min (n - i) (128 - (row0 + i) % 128)
  if p.invalid || !pairOk p.fmt c.ty then finishCmd s c 5
  else
    let r := streamRows s c i m
    if r.held then stepHeld s r.s c
    else
      let me := coreRefOf c.w
      -- the weights are read once the first row is
      let lost := if r.rows.isEmpty then [] else
        (p.flips.filter (fun e => weightBad e.2)).map (fun e => (e.1 / 128, e.1 % 128, 0))
      let bad := r.bad.filter (·.1 = i) ++ lost ++ r.bad.filter (·.1 != i)
      let s1 := bad.foldl (fun s e => setZrep s me e.1 e.2.1 e.2.2) r.s
      let s1 := if r.rows.isEmpty || p.flips.isEmpty then s1
        else putPlane s1 (cmdHam c) (2 * q) { p with flips := p.flips.filter (fun e => weightBad e.2) }
      let h := hamAt s1 (cmdHam c)
      let res := !r.rows.isEmpty && (match h.prod with
        | some (_, j, _) => (flipProduct h.prod j (products p (r.rows.headD []) j)).2
        | none => false)
      let auto := awaitsAuto h t && !r.rows.isEmpty
      let ax := if auto then autoExp p r.rows else (0, false)
      let h := if auto then setAexp h t ax.1 else h
      let z := addRows h p (row0 + i) r.rows order
      let h := if r.rows.isEmpty then z.1 else noteWrote z.1 t q (innermostOf s1 me)
      let h := if r.rows.isEmpty then h else { h with prod := none }
      let s2 := setMflg (setHam s1 (cmdHam c) h) me false (z.2 || ax.2) res
      let c := { c with count := i + r.rows.length, ovf := c.ovf || z.2 || ax.2, res := c.res || res,
                        zrep := c.zrep || !bad.isEmpty }
      match r.stop with
      | some (code, va, rec') => finishCmd s2 { c with failVa := va, answer := if rec' then 1 else 0 } code
      | none => if i + m = n then finishCmd s2 c 0 else putCmd s2 c

/-- MSTREAM_TILE_STEP (R253, R264). -/
def execMstreamTileStep (id : Nat) (order : List Nat) (s : State) : Out_ := tileStep .mstream id (mstreamStep order) s

/-! ### MZERO, ACCRD, ACCWR -/

/-- A tile cleared; with `.auto` AEXP is left to its first stream (R71, R256, R265). -/
def clearTile (h : Ham) (t : Nat) (auto : Bool) (a : BitVec 10) : Ham :=
  { h with acc := h.acc.filter (fun p => p.1 / (128 * 128) != t), wrote := tput h.wrote t 0, marks := tput h.marks t [],
           aexp := if auto then h.aexp else tput h.aexp t a,
           auto := if auto then h.auto ||| (1#16 <<< t) else h.auto &&& ~~~(1#16 <<< t) }

/-- The next tile of TMASK, ascending (R265). -/
def mzeroStep (c : Cmd) (s : State) : State :=
  let mask := bf c.blk 1 15 0
  let left := (List.range 16).filter (fun t => mask.testBit t && decide (c.prog ≤ t))
  match left with
  | [] => finishCmd s c 0
  | t :: r =>
    let s1 := setHam s (cmdHam c) (clearTile (hamAt s (cmdHam c)) t (c.sub = 1) (BitVec.ofNat 10 (bf c.blk 1 25 16)))
    let c := { c with prog := t + 1, count := c.count + 1 }
    if r.isEmpty then finishCmd s1 c 0 else putCmd s1 c

/-- MZERO_TILE_STEP (R265). -/
def execMzeroTileStep (id : Nat) (s : State) : Out_ := tileStep .mzero id mzeroStep s

/-- The bits of an entry in the target of ACCRD, and OVF (R76). -/
def accOut (t : Ty) (aexp : Int) (x : AccEntry) : Nat × Bool :=
  if t = .s64 then (x.e.toNat, false)
  else
    let e := x.e.toInt
    let r := fpDeliver (fmtOf t) .rne false (.fin (decide (e < 0)) e.natAbs (aexp - 62))
    (r.1, r.2.getLsbD 2)

/-- The rows of an ACCRD that fall in one tile (R266). -/
def accrdStep (c : Cmd) (s : State) : State :=
  let b := c.blk
  let sz := accSize c.ty
  let n := bf b 2 53 43 + 1
  let row0 := bf b 2 42 32
  let ncol := bf b 3 14 8 + 1
  let col0 := bf b 3 6 0
  let i := c.count
  let t := (row0 + i) / 128
  let m := min (n - i) (128 - (row0 + i) % 128)
  let h := hamAt s (cmdHam c)
  let cells := ((List.range m).map (fun r => (List.range ncol).map (fun k => (r, k)))).flatten
  let out := cells.map (fun e => accOut c.ty (aexpOf h t) (accAt h (row0 + i + e.1) (col0 + e.2)))
  let ws := (cells.zip out).map (fun e =>
    (b.getD 1 0 + BitVec.ofNat 64 ((i + e.1.1) * bf b 2 31 0 + e.1.2 * sz), sz, e.2.1))
  -- rows whose lines the command has covered whole lose their poison
  let rows := fun (a z : Nat) => (List.range (z - a)).map (fun r => ((b.getD 1 0).toNat + (a + r) * bf b 2 31 0, ncol * sz))
  let clear := fun (s : State) (z : Nat) => clearCovered s (cmdWho c) (rows 0 z) (rows i z)
  -- entries up to the one whose write fails are read and converted
  let flags := fun (s : State) (c : Cmd) (n : Nat) =>
    let seen := (cells.zip out).take n
    let res := seen.any (fun e => accBad (accAt h (row0 + i + e.1.1) (col0 + e.1.2)))
    let ovf := seen.any (fun e => e.2.2)
    (setMflg s (coreRefOf c.w) false ovf res, { c with res := c.res || res, ovf := c.ovf || ovf })
  match engWrites s (cmdWho c) ws 0 with
  | .hold s' => stepHeld s s' c
  | .fail s' k cause va =>
    let f := flags (clear s' (i + k / ncol)) c (k + 1)
    finishCmd f.1 { f.2 with count := i + k / ncol, failVa := va } (codeOf cause)
  | .ok s' =>
    let f := flags (clear s' (i + m)) c (m * ncol)
    let c' := { f.2 with count := i + m }
    if i + m = n then finishCmd f.1 c' 0 else putCmd f.1 c'

/-- ACCRD_TILE_STEP (R266). -/
def execAccrdTileStep (id : Nat) (s : State) : Out_ := tileStep .accrd id accrdStep s

/-- An entry written from a source element (R77), and OVF. -/
def accIn (t : Ty) (aexp : Int) (x : Nat) : AccEntry × Bool :=
  if t = .s64 then
    let e : Word := BitVec.ofNat 64 x
    (⟨e, resOf e.toInt⟩, false)
  else
    let a := addendOf (fpDecode (fmtOf t) x) aexp
    let y := accAdd AccEntry.reset a.1
    (y.1, a.2 || y.2)

/-- The rows of an ACCWR that fall in one tile (R266). -/
def accwrStep (c : Cmd) (s : State) : State :=
  let b := c.blk
  let sz := accSize c.ty
  let n := bf b 2 53 43 + 1
  let row0 := bf b 2 42 32
  let ncol := bf b 3 14 8 + 1
  let col0 := bf b 3 6 0
  let i := c.count
  let t := (row0 + i) / 128
  let m := min (n - i) (128 - (row0 + i) % 128)
  let cells := ((List.range m).map (fun r => (List.range ncol).map (fun k => (r, k)))).flatten
  let rd := cells.map (fun e => (b.getD 1 0 + BitVec.ofNat 64 ((i + e.1) * bf b 2 31 0 + e.2 * sz), sz))
  -- writes the elements read, in order
  let put := fun (s : State) (c : Cmd) (xs : List (Nat × Bool)) =>
    let h := hamAt s (cmdHam c)
    let h := if awaitsAuto h t then setAexp h t 0 else h
    let ax := aexpOf h t
    let es := (cells.zip xs).map (fun e => (e.1, if e.2.2 then (AccEntry.reset, false) else accIn c.ty ax e.2.1))
    let h := es.foldl (fun h e => accPut h (row0 + i + e.1.1) (col0 + e.1.2) e.2.1) h
    let h := if xs.isEmpty then h else noteWrote h t (cmdQueue c) (innermostOf s (coreRefOf c.w))
    let bad := (cells.zip xs).filter (fun e => e.2.2)
    let ovf := es.any (fun e => e.2.2)
    let s := bad.foldl (fun s e => setZrep s (coreRefOf c.w) (row0 + i + e.1.1) (col0 + e.1.2) 2) (setHam s (cmdHam c) h)
    (setMflg s (coreRefOf c.w) false ovf false, { c with ovf := c.ovf || ovf, zrep := c.zrep || !bad.isEmpty })
  match engReads s (cmdWho c) rd [] with
  | .hold s' => stepHeld s s' c
  | .fail s' k cause va =>
    (match engReads s' (cmdWho c) (rd.take k) [] with
     | .ok s'' xs =>
       let f := put s'' c xs
       finishCmd f.1 { f.2 with count := i + k / ncol, failVa := va } (codeOf cause)
     | _ => finishCmd s' { c with failVa := va } (codeOf cause))
  | .ok s' xs =>
    let f := put s' c xs
    let c' := { f.2 with count := i + m }
    if i + m = n then finishCmd f.1 c' 0 else putCmd f.1 c'

/-- ACCWR_TILE_STEP (R266). -/
def execAccwrTileStep (id : Nat) (s : State) : Out_ := tileStep .accwr id accwrStep s

/-! ### MSTAT, the scrubber, gating, the injected flip -/

/-- What MSTAT answers (R267). -/
def mstatValue (h : Ham) (q sub t : Nat) : Nat :=
  let a := activeOf h q
  let d := shadowOf h q
  if sub = 0 then (tget h.aexp 0 t).toNat + b2n (awaitsAuto h t) * 2 ^ 10 + (tget h.wrote 0 t).toNat * 2 ^ 11
  else tyCode a.fmt + b2n a.invalid * 2 ^ 4 + tyCode d.fmt * 2 ^ 8 + b2n d.invalid * 2 ^ 12 + a.gs % 4 * 2 ^ 16 +
    d.gs % 4 * 2 ^ 20

/-- MSTAT_QUERY_RUN (R267). -/
def execMstatQueryRun (id : Nat) (s : State) : Out_ :=
  match cmdAt s id with
  | none => .next s
  | some c =>
    if c.op != .mstat || !(c.st = .queued) || (earlierCmds s c).any (fun d => d.st != .done) then .next s
    else
      let v := mstatValue (hamAt s (cmdHam c)) (cmdQueue c) c.sub (bf c.blk 0 3 0)
      .next (finishCmd s { c with answer := BitVec.ofNat 64 v } 0)

/-- A mismatch that the scrubber finds in a tile: `MFLG`.RES of the cores whose queues are recorded (R256), and a mark on the
frames that were innermost when these wrote it (R295). -/
def scrubFound (s : State) (h : HamRef) (t : Nat) : State :=
  let q := tget (hamAt s h).wrote 0 t
  let us := tget (hamAt s h).marks [] t
  (hamCores s h).foldl (fun s c =>
    if !q.getLsbD (c.c % 8) then s
    else
      (slotsOf c).foldl (fun s w =>
          setSlot s w (us.foldl (fun x u => markFrame x u .residue (BitVec.ofNat 64 (0x400 + t))) (slotAt s w)))
        (setMflg s c false false true)) s

/-- SCRUBBER_READ (R256): a tile step of its own, which changes no entry. -/
def execScrubberRead (h : HamRef) (tile : Nat) (s : State) : Out_ :=
  let x := hamAt s h
  if 16 ≤ tile || !dieRuns s h.m h.d then .next s
  else if x.acc.any (fun p => p.1 / (128 * 128) = tile && accBad p.2) then .next (scrubFound s h tile) else .next s

/-- MILL_SUBARRAY_GATING (R255): gating changes no value. -/
def execMillSubarrayGating (h : HamRef) (sub : Nat) (s : State) : Out_ :=
  let x := hamAt s h
  if x.millidle = 0 || 16 ≤ sub then .next s else .next (setHam s h { x with gated := x.gated ||| (1#16 <<< sub) })

/-- ACCUMULATOR_FLIP (R290). -/
def execAccumulatorFlip (id : Nat) (s : State) : Out_ :=
  tileStep .accflip id (fun c s =>
    let h := hamAt s (cmdHam c)
    let r := (c.blk.getD 0 0).toNat
    let j := (c.blk.getD 1 0).toNat
    let x := accAt h r j
    finishCmd (setHam s (cmdHam c) (accPut h r j { x with e := x.e ^^^ (1#64 <<< c.sub) })) c 0) s

end Sys2Proof.Machine
end

