-- ==== Sys2Proof/Machine/Pages.lean ====
section
/-!
DEFINITION. Pages as the device keeps them: frames and their placement (R356), moving a page to another frame (R192, R274, R355, R371),
and pages made not present and resident (R196, R199).
-/

namespace Sys2Proof.Machine

/-! ### The pages of a module -/

/-- The entries of a table frame that are not zero: index and word (R189). -/
def tableEntries (s : State) (m frame : Nat) : List (Nat × Word) :=
  let a := tableAt m frame 0
  let ix := (s.mem.filter (fun p => decide (a ≤ p.1) && decide (p.1 < a + 65536))).map (fun p => (p.1 - a) / 8)
  (nubNat ix).map (fun i => (i, BitVec.ofNat 64 (memRead s.mem (tableAt m frame i) 8)))

/-- The tables that the entries of a frame point to. -/
def nextTables (s : State) (m frame : Nat) : List (Nat × Nat) :=
  (tableEntries s m frame).filterMap (fun q => (pointerOf s m frame q.1).map (fun f => (q.1, f)))

/-- The resident pages under a tag: each page of 64 KiB, the leaf that governs it, and the address of that leaf. -/
def tagPages (s : State) (m tag root : Nat) : List (PageRef × Word × Nat) :=
  ((nextTables s m root).map (fun q3 => ((nextTables s m q3.2).map (fun q2 => ((nextTables s m q2.2).map (fun q1 =>
    (tableEntries s m q1.2).filterMap (fun q0 =>
      let p : PageRef := ⟨m, tag, q3.1 * 2 ^ 39 + q2.1 * 2 ^ 26 + q1.1 * 2 ^ 13 + q0.1⟩
      match walkPage s m tag (p.pn * 65536) with
      | .leaf e at_ => some (p, e, at_)
      | _ => none))).flatten)).flatten)).flatten

/-- Every resident page of a module. -/
def modPages (s : State) (m : Nat) : List (PageRef × Word × Nat) :=
  let x := modAt s m
  let tags := (if x.groot = 0 then [] else [(globalTag, x.groot - 1)]) ++
    (x.asidDir.filter (fun q => q.2 != 0)).map (fun q => (q.1, q.2 - 1))
  (tags.map (fun q => tagPages s m q.1 q.2)).flatten

/-! ### Frames (R191, R356) -/

/-- Tier of a number of MIGR (R274). -/
def tierNum (n : Nat) : Tier := match n with | 0 => .near | 1 => .lpddr | _ => .cxl

/-- The frames that a module's tables and leaves use. -/
def usedFrames (s : State) (m : Nat) : List Nat :=
  let x := modAt s m
  let roots := (if x.groot = 0 then [] else [x.groot - 1]) ++ (x.asidDir.filter (fun q => q.2 != 0)).map (fun q => q.2 - 1)
  let t2 := (roots.map (fun r => (nextTables s m r).map (·.2))).flatten
  let t1 := (t2.map (fun r => (nextTables s m r).map (·.2))).flatten
  let t0 := (t1.map (fun r => (nextTables s m r).map (·.2))).flatten
  let leaves := ((modPages s m).filter (fun q => leafMode q.2.1 = 0 || leafMode q.2.1 = 3)).map
    (fun q => leafPa q.2.1 (q.1.pn * 65536) / 65536)
  nubNat (roots ++ t2 ++ t1 ++ t0 ++ leaves)

/-- The frame lies in a region that the module lends. -/
def lentFrame (x : Mod) (f : Nat) : Bool :=
  x.lend.any (fun l => !l.revoked && decide (l.pbase ≤ f * 65536) && decide (f * 65536 < l.pbase + l.size * 2 ^ 30))

/-- A free frame: populated, not lost, not lent, and used by nothing. -/
def frameFree (x : Mod) (used : List Nat) (f : Nat) : Bool :=
  (tierOf x (f * 65536)).isSome && !lostSoon x (f * 65536) && !lentFrame x f && !used.contains f

/-- A range of frames: its first and their number. -/
abbrev Zone := Nat × Nat

/-- A run of `n` free frames of a zone, aligned to `n`: the first from run `k` on. A used frame spoils one run, so that many runs
are looked at. -/
def freeRun (x : Mod) (used : List Nat) (n k : Nat) (z : Zone) : Option Nat :=
  let lent := (x.lend.map (fun l => l.size * 2 ^ 14)).sum
  ((List.range (min (z.2 / n) (used.length + lent + 1))).map (fun i => z.1 + (k + i) % (z.2 / n) * n)).find?
    (fun f => (List.range n).all (fun i => frameFree x used (f + i)))

/-- A run of free frames in one of several zones that are equally good; `k` picks among them. -/
def freeIn (x : Mod) (used : List Nat) (n k : Nat) (g : List Zone) : Option Nat :=
  (g.drop (k % g.length) ++ g.take (k % g.length)).findSome? (freeRun x used n (k / 64))

/-- HBM4E stack `k`, the LPDDR-6 of far-tier die `d`, and the CXL.mem ports of that die. -/
def stackZone (k : Nat) : Zone := (k * 2 ^ 20, 2 ^ 20)
def lpddrZone (d : Nat) : Zone := (0x10000000 + (d - 28) * 2 ^ 24, 2 ^ 24)
def cxlZones (x : Mod) (d : Nat) : List Zone :=
  [2 * (d - 28), 2 * (d - 28) + 1].map (fun p => (0x20000000 + p * 2 ^ 26, tget x.cxl 0 p / 65536))

/-- The far-tier die for a home slice (R356). -/
def farDie (slice : Nat) : Nat := if slice % 6 < 3 then 28 else 29

/-- The free frames of a stack: those that nothing uses and that are not lent. -/
def stackFree (x : Mod) (used : List Nat) (k : Nat) : Nat :=
  if lostSoon x (k * 2 ^ 36) then 0
  else
    let cut := fun l : Lease => min (l.pbase + l.size * 2 ^ 30) ((k + 1) * 2 ^ 36) - max l.pbase (k * 2 ^ 36)
    2 ^ 20 - (used.filter (fun f => f / 2 ^ 20 = k && !lentFrame x f)).length -
      ((x.lend.filter (fun l => !l.revoked)).map (fun l => cut l / 65536)).sum

/-- The zones in which a page with a home slice may be placed in a tier, in groups of equally good ones, best first (R356). -/
def tierZones (x : Mod) (used : List Nat) (t : Tier) (slice : Nat) : List (List Zone) :=
  let d := farDie slice
  match t with
  | .near =>
    let most := (List.range 24).foldl (fun b k => max b (stackFree x used k)) 0
    [[stackZone (2 * slice), stackZone (2 * slice + 1)],
      ((List.range 24).filter (fun k => stackFree x used k = most)).map stackZone]
  | .lpddr => [[lpddrZone d], [lpddrZone (57 - d)]]
  | .cxl => [cxlZones x d, cxlZones x (57 - d)]

/-- The new frame of a page in a tier (R356); which free frame of the place is not stated (log 17). -/
def pickFrame (s : State) (m : Nat) (t : Tier) (slice : Nat) : Option Nat :=
  let x := modAt s m
  let used := usedFrames s m
  (tierZones x used t slice).findSome? (freeIn x used 1 (Config.freePick s.clk))

/-- The contents of a frame, with errors and poison, copied to another of the same module (R347). -/
def copyFrame (s : State) (a b : Nat) : State :=
  let s := (List.range 8192).foldl (fun s i => writeFlat s (b + 8 * i) 8 (memRead s.mem (a + 8 * i) 8)) s
  let ecc := (List.range 8192).foldl (fun t i => match tfind s.ecc (a / 8 + i) with
    | some e => tput t (b / 8 + i) e
    | none => tdel t (b / 8 + i)) s.ecc
  let poison := (List.range 512).foldl (fun t i =>
    if poisonAt s (a + 128 * i) then tput t (b / 128 + i) true else tdel t (b / 128 + i)) s.poison
  { s with ecc := ecc, poison := poison }

/-- The leaf with another frame. -/
def leafWithFrame (e : Word) (f : Nat) : Word := (e &&& 0xFFFFFFF#64) ||| (BitVec.ofNat 64 f <<< 28)

/-- Installs a leaf word after the recall of the page's lines: the three steps of R192. -/
def installLeaf (s : State) (p : PageRef) (at_ : Nat) (e : Word) : State :=
  let s := recallPage s p
  setPage { s with mem := memWrite s.mem at_ 8 e.toNat } p { pageAt s p with tlb := false, count := 0 }

/-- A leaf with MODE 0 and PEER 0 (R371 step 4). -/
def localLeaf (e : Word) : Word := e &&& ~~~0x1F00C0#64

/-- Moves a page whose bytes stand at `src` to a frame: contents copied, the leaf switched, with D set by the migration engine's
writes (R192, R204, R355). A page of a peer's memory becomes local as R371 has it (log 17). -/
def movePage (s : State) (p : PageRef) (at_ src f : Nat) : State :=
  let s := recallPage s p
  let e : Word := BitVec.ofNat 64 (memRead s.mem at_ 8)
  let s := copyFrame s src (physFlat p.m (f * 65536))
  installLeaf s p at_ (leafWithFrame (if leafLocal e then e else localLeaf e) f ||| BitVec.ofNat 64 bitD)

/-- A page that R274 and R355 let move. -/
def mayMove (s : State) (p : PageRef) (e : Word) : Bool := leafPs e = 0 && !leafNomig e && !pagePinned s p

/-- What moving a page answers. -/
inductive Moving where
  | moved (s : State)
  | skip
  | fail (c : Cause)
  | wait

/-- Moves a page to a tier when it may move, is not there, and a frame is free. -/
def migratePage (s : State) (p : PageRef) (t : Tier) : Moving :=
  match walkPage s p.m p.tag (p.pn * 65536) with
  | .leaf e at_ =>
    let x := modAt s p.m
    if !mayMove s p e || (leafLocal e && tierOf x (leafFrame e * 65536) = some t) then .skip
    else if pageStuck s p then .wait
    else match pageSource s p e at_ false, pickFrame s p.m t (liveSlice x (homeOf x p.tag (p.pn * 65536)).1) with
      | .fail c, _ => .fail c
      | .wait, _ | .absent _, _ => .wait
      | .line src _ _ _ _ _, some f | .hostMem src _, some f | .lstore _ src, some f => .moved (movePage s p at_ src f)
      | _, none => .skip
  | _ => .skip

/-- A line of the page is poisoned. -/
def pagePoisoned (s : State) (m : Nat) (e : Word) : Bool :=
  (List.range 512).any (fun i => poisonAt s (physFlat m (leafFrame e * 65536) + 128 * i))

/-- Poisons every line of a frame. -/
def poisonFrame (s : State) (m f : Nat) : State :=
  (List.range 512).foldl (fun s i => setPoison s (physFlat m (f * 65536) + 128 * i)) s

/-- Poisons every line of a page of 64 KiB under a leaf. -/
def poisonPage (s : State) (p : PageRef) (e : Word) : State :=
  poisonFrame s p.m (leafPa e (p.pn * 65536) / 65536)

/-! ### Pages made not present, and made resident (R196, R199) -/

/-- The bytes of a frame, by their place in it. -/
def pageBytes (s : State) (f : Nat) : Memory :=
  (s.mem.filter (fun p => decide (f ≤ p.1) && decide (p.1 < f + 65536))).map (fun p => ⟨p.1 - f, p.2⟩)

/-- Firmware keeps the contents of a resident 64 KiB page that a new leaf makes not present, poison included (R347), and gives them
back with the leaf that makes it resident again; an unmapped page keeps nothing. -/
def keepPage (s : State) (p : PageRef) (old new : Word) : State :=
  let x := pageAt s p
  let at_ := fun e : Word => physFlat p.m (leafFrame e * 65536)
  if leafV old && leafPs old = 0 && leafLocal old && !leafV new && new != 0 then
    let a := at_ old
    setPage s p { x with saved := some (pageBytes s a, (List.range 512).filter (fun i => poisonAt s (a + 128 * i))) }
  else match x.saved with
    | none => s
    | some (bytes, bad) =>
      if leafV new && leafPs new = 0 && leafLocal new then
        let s := fillFrame s (at_ new) bytes
        setPage (bad.foldl (fun s i => setPoison s (at_ new + 128 * i)) s) p { x with saved := none }
      else if new = 0 then setPage s p { x with saved := none }
      else s

/-- A resident 64 KiB page of the module: what the home may evict unless it is pinned. -/
def evictable (s : State) (q : PageRef × Word × Nat) : Bool :=
  leafPs q.2.1 = 0 && leafLocal q.2.1 && !pagePinned s q.1 && !pageStuck s q.1

/-- The pages that the contexts waiting for a page need with their owed accesses (R199). -/
def neededPages (s : State) (p : PageRef) : List PageRef :=
  let of := fun (m : Nat) (c : Core) (x : Slot) =>
    if x.swapReq.contains p then
      x.swapReq ++ (x.outs.map (·.units)).flatten.filterMap (fun u =>
        match placeOf c.ident.asid u.va with | .page tag a => some (pageOf m tag a) | _ => none)
    else []
  (s.slots.map (fun q => of (q.1 / 4 / 512 / 16) (tget s.cores Core.reset (q.1 / 4)) q.2)).flatten ++
    (s.cores.map (fun q => (q.2.swapped.map (fun t => of (q.1 / 512 / 16) q.2 t.slot)).flatten)).flatten

/-- The frames that launches have reserved for a tag's pages: 64 for each slot of each present core; for global pages those of every launch
of the module (R199). -/
def reservedFrames (s : State) (p : PageRef) : Nat :=
  256 * (s.cores.filter (fun q => q.1 / 512 / 16 = p.m && q.2.launch.isSome &&
    corePresent (modAt s p.m) (q.1 / 512 % 16) (q.1 % 512) &&
    (p.tag = globalTag || q.2.ident.asid.toNat = p.tag))).length

/-- The launch's resident 64 KiB pages, as far as the frames reserved go; for a global page those of the module. -/
def launchPages (s : State) (p : PageRef) : List (PageRef × Word × Nat) :=
  (modPages s p.m).filter (fun q => leafPs q.2.1 = 0 && (p.tag = globalTag || q.1.tag = p.tag))

/-- No frame can be freed for a page: the reserved ones are all in use, and every page in them is pinned or needed (R199). -/
def noFrame (s : State) (p : PageRef) : Bool :=
  let ps := launchPages s p
  decide (reservedFrames s p ≤ ps.length) && !ps.any (fun q => evictable s q && !(neededPages s p).contains q.1)

/-- Makes a page not present: the three steps of R192. The remaining bits of the leaf are firmware's: W stands, so that it is not
zero. -/
def evictPage (s : State) (q : PageRef × Word × Nat) : State :=
  let s := recallPage s q.1
  let e : Word := BitVec.ofNat 64 (memRead s.mem q.2.2 8)
  let gone := (e &&& ~~~1#64) ||| 2#64
  installLeaf (keepPage s q.1 e gone) q.1 q.2.2 gone

/-- The pages in the frame that a leaf names. -/
def inFrame (s : State) (m : Nat) (e : Word) : List (PageRef × Word × Nat) :=
  (modPages s m).filter (fun q => leafLocal q.2.1 && leafPa q.2.1 (q.1.pn * 65536) / 65536 = leafFrame e)

/-- PAGE_MADE_RESIDENT (R196, R199): firmware answers a request with the leaf it installs, for which the home may evict the
launch's page that has the frame; with 0 for an unmapped page; or with another leaf that is not present, when no frame can be freed. -/
def execPageMadeResident (p : PageRef) (leaf : Word) (s : State) : Out_ :=
  let va := p.pn * 65536
  let x := pageAt s p
  match walkPage s p.m p.tag va with
  | .absent at_ =>
    if !x.asked then .next s
    else if leaf = 0 || (leafV leaf && leafPs leaf = 0 && leafOk (modAt s p.m) va leaf) then
      let held := if leaf != 0 && leafLocal leaf then inFrame s p.m leaf else []
      let ps := launchPages s p
      if !held.all (fun q => ps.contains q && evictable s q && !(neededPages s p).contains q.1) then .next s
      else
        let s := numberPages (held.foldl evictPage s) p leaf
        let s := keepPage s p 0 leaf
        .next (fillSnaps (setPage { s with mem := memWrite s.mem at_ 8 leaf.toNat } p
          { pageAt s p with asked := false, tlb := false, noRoom := none }))
    else if !leafV leaf && leafPs leaf = 0 && noFrame s p then
      .next (setPage s p { x with asked := false, noRoom := some s.nextId })
    else .next s
  | _ => .next s

end Sys2Proof.Machine
end

