-- ==== Sys2Proof/Machine/Rows.lean ====
section
/-!
DEFINITION. Protected blocks and the rows of their stripe sets: the field of the code, the committed version of a block, parity and
its updates at a commit, lost blocks and what can be solved from the others (R272, R375-R378).
-/

namespace Sys2Proof.Machine

/-! ### The field (R272, R376) -/

/-- Multiplication in GF(2^8) modulo 0x11D; `k` bits of `b` from bit `i` up. -/
def gfMul (a b k : Nat) : Nat :=
  match k with
  | 0 => 0
  | k + 1 =>
    let a2 := if 2 * a ≥ 256 then Nat.xor (2 * a) 0x11D else 2 * a
    Nat.xor (if b % 2 = 1 then a else 0) (gfMul a2 (b / 2) k)

/-- The inverse of a nonzero element. -/
def gfInv (a : Nat) : Nat := ((List.range 256).find? (fun x => gfMul a x 8 = 1)).getD 0

/-- c[p][i] (R376): 1 for parity 0, 2^i for parity 1. -/
def parCoef (p i : Nat) : Nat := if p = 0 then 1 else 2 ^ i

/-- D with c ⊗ D = x. -/
def solveOne (c x : Nat) : Nat := gfMul (gfInv c) x 8

/-- D_a and D_b with D_a ⊕ D_b = x0 and c_a ⊗ D_a ⊕ c_b ⊗ D_b = x1. -/
def solveTwo (ca cb x0 x1 : Nat) : Nat × Nat :=
  let a := solveOne (Nat.xor ca cb) (Nat.xor x1 (gfMul cb x0 8))
  (a, Nat.xor x0 a)

/-! ### Rows and their members (R375) -/

/-- A row of a stripe set. -/
def rowAt (s : State) (j n : Nat) : RowSt := tget (modAt s j).rows RowSt.reset n

/-- Updates row `n` of stripe set `j`. -/
def putRow (s : State) (j n : Nat) (f : RowSt → RowSt) : State :=
  let x := modAt s j
  setMod s j { x with rows := tput x.rows n (f (tget x.rows RowSt.reset n)) }

/-- The tray of parity member `p` of row `n`. -/
def parTray (n p : Nat) : Nat := (n + p) % 8

/-- The trays of the data members, in the order of their index. -/
def dataTrays (n : Nat) : List Nat := (List.range 8).filter (fun t => t != parTray n 0 && t != parTray n 1)

/-- The data index of tray `t` in row `n`. -/
def dataIx (n t : Nat) : Nat := ((dataTrays n).findIdx? (· = t)).getD 0

/-- The page of a module whose block lies in row `n`. -/
def pageInRow (s : State) (m n : Nat) : Option PageRef :=
  ((modAt s m).protNum.find? (fun q => rowOfBlock (m / 4) q.2 = n)).map (·.1)

/-- Where the newest committed copy of a page stands (R377); with `eras`, the newest that parity covers. -/
def committedVa (s : State) (p : PageRef) (eras : Bool) : Option Word :=
  (((modAt s p.m).cuts.filter (fun k => k.committed && (!eras || k.eras))).reverse.findSome? (fun k =>
    (k.copies.find? (fun q => q.1 = p)).map (·.2)))

/-- The bytes of eight-byte words. -/
def bytesOfWords (ws : List Nat) : List Nat := ws.flatMap (fun w => (List.range 8).map (fun j => w / 256 ^ j % 256))

/-- The words of bytes, eight at a time; `n` words. -/
def wordsOfBytes (bs : List Nat) (n : Nat) : List Nat :=
  match n with
  | 0 => []
  | k + 1 => (bs.take 8).foldr (fun b a => b + 256 * a) 0 :: wordsOfBytes (bs.drop 8) k

/-- A block of zeros. -/
def zeroBlock : List Nat := List.replicate 65536 0

/-- A block of data that has a copy at an address: none when the copy cannot be read. -/
def blockAt (s : State) (m : Nat) (va : Word) : Option (List Nat) :=
  if !lasersOn s m then none else match wordsAt s m va 8192 with | .ok ws => some (bytesOfWords ws) | _ => none

/-- The committed version of a member's data block as its own copy gives it; a member that is absent from the pod, has no block in
the row, or has committed none, counts as zeros (R375), and one whose keys were erased cannot be read (R390). -/
def memberBlock (s : State) (j n t : Nat) : Option (List Nat) :=
  let m := 4 * t + j
  match pageInRow s m n with
  | none => some zeroBlock
  | some p => match committedVa s p false with
    | none => some zeroBlock
    | some va => if (rowAt s j n).gone.contains t then none else blockAt s m va

/-- Parity block `p` of a row as its member holds it; none when it is lost or its member is not there. -/
def parityBlock (s : State) (j n p : Nat) : Option (List Nat) :=
  let t := parTray n p
  let r := rowAt s j n
  if !lasersOn s (4 * t + j) || r.lost.contains t || r.gone.contains t then none
  else some ((List.range 65536).map (fun i => (memGet (if p = 0 then r.par0 else r.par1) i).toNat))

/-- The bytes of a block as memory lists them. -/
def blockMem (bs : List Nat) : Memory :=
  (bs.mapIdx (fun i b => ((i, BitVec.ofNat 8 b) : Host.Cell))).filter (fun c => c.2 != unlisted)

/-- Sum over the field of the members' blocks with the coefficients of parity `p`. -/
def rowSum (n p : Nat) (ds : List (Nat × List Nat)) : List Nat :=
  ds.foldl (fun a d => List.zipWith (fun x y => Nat.xor x (gfMul (parCoef p (dataIx n d.1)) y 8)) a d.2) zeroBlock

/-- A row is current: no block of it is stale (R377). -/
def rowCurrent (s : State) (j n : Nat) : Bool := (rowAt s j n).stale.isEmpty

/-- The committed version of the data block of tray `t`: from its own copy, or solved from the row's other blocks (R376, R378). -/
def rowBlock (s : State) (j n t : Nat) : Option (List Nat) :=
  match memberBlock s j n t with
  | some b => some b
  | none =>
    if !rowCurrent s j n then none
    else
      let ds := (dataTrays n).map (fun u => (u, memberBlock s j n u))
      let known := ds.filterMap (fun d => d.2.map (fun b => (d.1, b)))
      let left := fun (p : Nat) (b : List Nat) => List.zipWith Nat.xor b (rowSum n p known)
      match (ds.filter (·.2.isNone)).map (·.1), parityBlock s j n 0, parityBlock s j n 1 with
      | [_], some b, _ => some (left 0 b)
      | [_], none, some b => some ((left 1 b).map (solveOne (parCoef 1 (dataIx n t))))
      | [a, b], some b0, some b1 =>
        let r := List.zipWith (solveTwo (parCoef 1 (dataIx n a)) (parCoef 1 (dataIx n b))) (left 0 b0) (left 1 b1)
        some (r.map (fun x => if a = t then x.1 else x.2))
      | _, _, _ => none

/-- The committed version of a protected page, where a rebuild can have it: of a row that is current (R377, R378). -/
def committedBlock (s : State) (p : PageRef) : Option (List Nat) :=
  match committedVa s p false, blockOf (modAt s p.m) p with
  | some _, some k =>
    let n := rowOfBlock (p.m / 4) k
    if rowCurrent s (p.m % 4) n then rowBlock s (p.m % 4) n (p.m / 4) else none
  | _, _ => none

/-! ### Commits (R377) -/

/-- The far tier of a module is there, and not all lost. -/
def farUp (s : State) (m : Nat) : Bool :=
  lasersOn s m && !((modAt s m).lostTier.contains 28 && (modAt s m).lostTier.contains 29)

/-- Both parity members of every block's row acknowledge; one that is absent from the pod has nothing to hold (log 17). -/
def paritiesAck (s : State) (k : Cut) : Bool :=
  !k.eras || k.copies.all (fun q => match blockOf (modAt s q.1.m) q.1 with
    | none => true
    | some b =>
      let n := rowOfBlock (q.1.m / 4) b
      [0, 1].all (fun p => let m := 4 * parTray n p + q.1.m % 4; !(modAt s m).present || farUp s m))

/-- One parity block with c ⊗ d added, byte by byte. -/
def parityAdd (par : Memory) (c : Nat) (d : List Nat) : Memory :=
  blockMem (d.mapIdx (fun i x => Nat.xor (memGet par i).toNat (gfMul c x 8)))

/-- A block is committed: with parity, old ⊕ new is added at the parity members and the block is neither stale nor lost any more;
without, it makes its row stale. `old` is the version that parity covers. None when a copy can neither be read nor solved. -/
def commitBlock (s : State) (p : PageRef) (va : Word) (eras : Bool) : Option State :=
  match blockOf (modAt s p.m) p with
  | none => some s
  | some k =>
    let t := p.m / 4
    let n := rowOfBlock t k
    if !eras then
      some (putRow s (p.m % 4) n (fun r => { r with stale := if r.stale.contains t then r.stale else t :: r.stale }))
    else
      match (match committedVa s p true with
        | none => some zeroBlock
        | some o => (match (if (rowAt s (p.m % 4) n).gone.contains t then none else blockAt s p.m o) with | some b => some b | none => rowBlock s (p.m % 4) n t)), blockAt s p.m va with
      | some old, some new =>
        let d := List.zipWith Nat.xor old new
        some (putRow s (p.m % 4) n (fun r => { r with
          stale := r.stale.filter (fun u => u != t), lost := r.lost.filter (fun u => u != t),
          gone := r.gone.filter (fun u => u != t),
          par0 := parityAdd r.par0 (parCoef 0 (dataIx n t)) d, par1 := parityAdd r.par1 (parCoef 1 (dataIx n t)) d }))
      | _, _ => none

/-- The rows of a cut's blocks. -/
def commitRows (s : State) (k : Cut) : Option State :=
  k.copies.foldl (fun o q => o.bind (fun s => commitBlock s q.1 q.2 k.eras)) (some s)

/-! ### Lost blocks (R349, R378) -/

/-- The member of tray `t` is lost from a row. -/
def loseMember (s : State) (j n t : Nat) : State :=
  putRow s j n (fun r => if r.lost.contains t then r else { r with lost := r.lost ++ [t] })

/-- Block `k` of module `m` is lost. -/
def loseBlock (s : State) (m k : Nat) : State := loseMember s (m % 4) (rowOfBlock (m / 4) k) (m / 4)

/-- The rows of a stripe set in which some member has a block (R375). -/
def rowsUsed (s : State) (j : Nat) : List Nat :=
  nubNat ((List.range 8).map (fun t => (modAt s (4 * t + j)).protNum.map (fun q => rowOfBlock t q.2))).flatten

/-- Pages that wait to be rebuilt and no longer can be are poisoned, and wait no more (R349, R378). -/
def dropHopeless (s : State) : State :=
  s.pages.foldl (fun s q =>
    let p := pageOfKey q.1
    if q.2.rebuild && (committedBlock s p).isNone then
      let s := match walkPage s p.m p.tag (p.pn * 65536) with
        | .leaf e _ => poisonPage s p e
        | _ => s
      setPage s p { pageAt s p with rebuild := false }
    else s) s

end Sys2Proof.Machine
end

