-- ==== Sys2Proof/Machine/EvEngine.lean ====
section
/-!
DEFINITION. The copy, collective, checkpoint and migration engines (R248-R250, R268-R274, R327-R329, R377).
-/

namespace Sys2Proof.Machine

/-- A run event of a command of one kind that may run. -/
def engineRun (op : CmdOp) (id : Nat) (f : Cmd → State → State) (s : State) : Out_ :=
  match cmdAt s id with
  | none => .next s
  | some c => if c.op = op && mayRun s c && engineThere s c then .next (f c s) else .next s

/-- A command that has to wait for a page leaves everything but the request as it was. -/
def runHeld (s s' : State) : State := { s with pages := s'.pages }

/-! ### Copies (R268-R270) -/

/-- What a copy moves: rows of a length between pitches, its completion word, and the peer that its destination lies in. -/
structure CopyJob where
  rows : Nat
  len : Nat
  src : Word
  spitch : Nat
  dst : Word
  dpitch : Nat
  cw : Word
  cwval : Word
  peer : Option Nat

/-- The job of a CPY, CPY2 or CPYR command. -/
def copyJob (c : Cmd) : CopyJob :=
  let b := c.blk
  match c.op with
  | .cpy2 =>
    let dir := bf b 0 2 0
    ⟨bf b 3 63 32, bf b 3 31 0, b.getD 1 0, bf b 4 31 0, b.getD 2 0, bf b 4 63 32, b.getD 5 0, b.getD 6 0,
     if dir = 0 then none else some (torusNbr c.w.m dir)⟩
  | op => ⟨1, bf b 3 31 0, b.getD 1 0, 0, b.getD 2 0, 0, b.getD 4 0, b.getD 5 0,
           if op = .cpyr then some (epaPeer c.epa) else none⟩

/-- Source and destination of byte `i` of a job. -/
def srcOf (j : CopyJob) (i : Nat) : Word := j.src + BitVec.ofNat 64 (i / max j.len 1 * j.spitch + i % max j.len 1)
def dstOf (j : CopyJob) (i : Nat) : Word := j.dst + BitVec.ofNat 64 (i / max j.len 1 * j.dpitch + i % max j.len 1)

/-- The page of an address is the peer's (R270). -/
def inPeer (s : State) (w : Who) (va : Word) (peer : Nat) : Bool :=
  match placeOf w.asid va with
  | .page tag a =>
    (match walkPage s w.c.m tag a with
     | .leaf e _ => (leafMode e = 1 || leafMode e = 2) && leafPeer e = peer
     | .absent _ => true
     | .unmapped => false)
  | _ => false

/-- Bytes of a value, lowest first. -/
def bytesOf (n x : Nat) : List Byte := (List.range n).map (fun i => BitVec.ofNat 8 (x / 256 ^ i))

/-- The value of bytes. -/
def ofBytes (bs : List Byte) : Nat := bs.foldr (fun b n => b.toNat + 256 * n) 0

/-- The source of a job read from byte `i` on: its bytes, and the failure that ends them. `k` bounds the pieces. -/
def copySource (s : State) (w : Who) (j : CopyJob) (i k : Nat) (acc : List (List Byte)) :
    Option (State × List Byte × Option (Nat × Word)) × State :=
  match k with
  | 0 => (some (s, acc.reverse.flatten, none), s)
  | k + 1 =>
    let n := j.rows * j.len
    if n ≤ i then (some (s, acc.reverse.flatten, none), s)
    else
      let a := srcOf j i
      let q := min (j.len - i % max j.len 1) (8 - a.toNat % 8)
      match perfRead s w a q with
      | .ok s' x => copySource s' w j (i + q) k (bytesOf q x :: acc)
      | .fail c => (some (failSeen s w a, acc.reverse.flatten, some (codeOf c, a)), s)
      | .absent p => (none, askPage s p)
      | .wait => (none, s)

/-- The word at byte `i` is not one that the copy itself has written before this step: it may be read anew (R239, R261, R268). -/
def freshSource (c : Cmd) (j : CopyJob) (i q : Nat) : Bool :=
  let a := normVa c.w (srcOf j i)
  (List.range ((c.prog + max j.len 1 - 1) / max j.len 1)).all (fun r =>
    let n := min j.len (c.prog - r * j.len)
    !overlaps (a, q) (normVa c.w (dstOf j (r * j.len)), n))

/-- The source bytes that are to be written before byte `e`, as the engine reads them: a source word of which nothing has been
written yet is read at once, as it stood when the copy began or as it stands now (R261). -/
def copyFresh (s : State) (c : Cmd) (j : CopyJob) (e : Nat) : List Byte :=
  (List.range (e - c.prog)).foldl (fun b n =>
    let i := c.prog + n
    let a := srcOf j i
    let q := min (j.len - i % max j.len 1) (8 - a.toNat % 8)
    if (i % max j.len 1 != 0 && a.toNat % 8 != 0) || (Config.freeByte s.clk i).toNat % 2 = 0 || !freshSource c j i q then b
    else match perfRead s (cmdWho c) a q with
      | .ok _ v => b.take i ++ bytesOf q v ++ b.drop (i + q)
      | _ => b) c.buf

/-- The end of the run of destination bytes that byte `i` of a job lies in: of its row, or of all rows where they follow each other
without a gap. -/
def runEnd (c : Cmd) (j : CopyJob) (i : Nat) : Nat :=
  if j.dpitch = j.len then c.buf.length else min c.buf.length ((i / max j.len 1 + 1) * j.len)

/-- Where a step of a copy that writes `n` bytes or more ends: at the end of a destination word, or of its run (R213, R248). -/
def copyEnd (c : Cmd) (j : CopyJob) (n : Nat) : Nat :=
  let b := min (c.prog + max n 1) c.buf.length - 1
  min (runEnd c j b) (b + 8 - (dstOf j b).toNat % 8)

/-- The destination bytes from the first on that lie in pages of the peer as a copy begins, and one more when these are all and so does
the completion word (R270); `k` bounds the pages. -/
def peerBytes (s : State) (w : Who) (j : CopyJob) (p i k : Nat) : Nat :=
  let n := j.rows * j.len
  match k with
  | 0 => i
  | k + 1 =>
    if n ≤ i then (if j.cw = 0 || inPeer s w j.cw p then n + 1 else n)
    else
      let d := dstOf j i
      if inPeer s w d p then peerBytes s w j p (i + min (j.len - i % max j.len 1) (65536 - d.toNat % 65536)) k else i

/-- Why byte `i` of a copy to a peer, or with `i` at its end the completion word, cannot be written there: its page has left the peer
with a lease that was revoked during the copy, or was never the peer's (R270). -/
def strayCause (s : State) (c : Cmd) (j : CopyJob) (i : Nat) : Cause :=
  if decide (i < c.num) && (modAt s c.w.m).borrow.any (fun l => l.revoked && !l.host && j.peer = some l.lender) then .leaseRevoked
  else .access

/-- Writes bytes `i` to `i + n` of a job, each destination word that it writes whole at once (R213, R248), and to every core that
the command is for (R247). `k` bounds the pieces. -/
def copyOut (s : State) (c : Cmd) (j : CopyJob) (i n k : Nat) : EWrs :=
  match k with
  | 0 => .ok s
  | k + 1 =>
    if n = 0 then .ok s
    else
      let w := cmdWho c
      let d := dstOf j i
      let q := min n (min (runEnd c j i - i) (8 - d.toNat % 8))
      let x := ofBytes ((c.buf.drop i).take q)
      if (match j.peer with | some p => !inPeer s w d p | none => false) then .fail s i (strayCause s c j i) d
      else match perfWrite s w d q x with
        | .ok s' _ => copyOut (spread s' c d q x) c j (i + q) (n - q) k
        | .fail e => .fail (failSeen s w d) i e d
        | .absent p => .hold (askPage s p)
        | .wait => .hold s

/-- COUNT of a copy with `i` bytes done: bytes, or rows of the completed prefix for CPY2 (R259). -/
def copyCount (c : Cmd) (j : CopyJob) (i : Nat) : Nat := if c.op = .cpy2 then i / max j.len 1 else i

/-- The destination ranges of bytes `a` to `b` of a job. -/
def copyRanges (j : CopyJob) (a b : Nat) : List (Nat × Nat) :=
  let n := max j.len 1
  (List.range ((b + n - 1) / n - a / n)).map (fun r =>
    let lo := max a ((a / n + r) * n)
    ((dstOf j lo).toNat, min b ((a / n + r + 1) * n) - lo))

/-- The lines that the command has covered whole with bytes `a` to `b` lose their poison (R347). -/
def copyClears (s : State) (c : Cmd) (j : CopyJob) (a b : Nat) : State :=
  clearCovered s (cmdWho c) (copyRanges j 0 b) (copyRanges j a b)

/-- Begins a copy: the source as it stands (R268). `code` keeps a failure met behind the bytes read. -/
def copyBegin (c : Cmd) (j : CopyJob) (s : State) : State :=
  match j.peer with
  | some p =>
    if c.op = .cpy2 && !(modAt s c.w.m).torus then finishCmd s c 3
    else if !modUp s p || !hasRoute s c.w.m p then finishCmd s c 8
    else match copySource s (cmdWho c) j 0 (j.rows * j.len) [] with
      | (none, s') => runHeld s s'
      | (some (s', bs, f), _) =>
        putCmd s' { c with st := .begun, buf := bs, code := (f.map (·.1)).getD 0, failVa := (f.map (·.2)).getD 0,
                           num := peerBytes s (cmdWho c) j p 0 (j.rows * j.len + 1) }
  | none =>
    match copySource s (cmdWho c) j 0 (j.rows * j.len) [] with
    | (none, s') => runHeld s s'
    | (some (s', bs, f), _) =>
      putCmd s' { c with st := .begun, buf := bs, code := (f.map (·.1)).getD 0, failVa := (f.map (·.2)).getD 0 }

/-- A copy begins, then writes `n` bytes more, then its completion word. -/
def copyStep (n : Nat) (c : Cmd) (s : State) : State :=
  let j := copyJob c
  if c.st = .queued then copyBegin c j s
  else if c.prog < c.buf.length then
    let e := copyEnd c j n
    let c := { c with buf := copyFresh s c j e }
    match copyOut s c j c.prog (e - c.prog) (e - c.prog) with
    | .hold s' => runHeld s s'
    | .fail s' i e d =>
      finishCmd (copyClears s' c j c.prog i) { c with prog := i, count := copyCount c j i, failVa := d, buf := [] } (codeOf e)
    | .ok s' => putCmd (copyClears s' c j c.prog e) { c with prog := e, count := copyCount c j e }
  else
    let done := { c with buf := [] }
    if c.code != 0 then finishCmd s done c.code
    else if j.cw = 0 then finishCmd s done 0
    else if (match j.peer with | some p => !inPeer s (cmdWho c) j.cw p | none => false) then
      finishCmd s { done with failVa := j.cw } (codeOf (strayCause s c j (j.rows * j.len)))
    else match perfWrite s (cmdWho c) j.cw 8 j.cwval.toNat with
      | .ok s' _ => finishCmd (spread s' c j.cw 8 j.cwval.toNat) done 0
      | .fail e => finishCmd (failSeen s (cmdWho c) j.cw) { done with failVa := j.cw } (codeOf e)
      | .absent p => askPage s p
      | .wait => s

/-- CPY_RUN (R268). -/
def execCpyRun (id n : Nat) (s : State) : Out_ := engineRun .cpy id (copyStep n) s

/-- CPY2_RUN (R269). -/
def execCpy2Run (id n : Nat) (s : State) : Out_ := engineRun .cpy2 id (copyStep n) s

/-- CPYR_RUN (R270). -/
def execCpyrRun (id n : Nat) (s : State) : Out_ := engineRun .cpyr id (copyStep n) s

/-! ### Collectives (R249, R271) -/

/-- LEVEL of a COLL. -/
def collLevel (c : Cmd) : Nat := bf c.blk 0 1 0

/-- The members of a COLL's domain in rank order, with their commands of the same number as far as they are there. -/
def collMembers (s : State) (c : Cmd) : List (CoreRef × Option Cmd) :=
  (domCores s c.w (collLevel c)).map (fun k =>
    (k, s.cmds.find? (fun d => d.op = .coll && coreRefOf d.w = k && d.launch = c.launch && collLevel d = collLevel c &&
      d.num = c.num && (standsAs s d = .begun || mayRun s d || (d.st = .merged && (match cmdAt s d.group with
        | some l => mayRun s l
        | none => false))))))

/-- Two members' commands match (R249). -/
def collMatch (a b : Cmd) : Bool :=
  a.sub = b.sub && a.ty = b.ty && hdrCtl a.blk = hdrCtl b.blk && bf a.blk 3 41 0 = bf b.blk 3 41 0 &&
    (a.sub != 3 || bf a.blk 4 31 0 = bf b.blk 4 31 0)

/-- One reduced element and OVF (R51, R52, R78, R95, R271). `order` is that of the addends. -/
def reduceElem (t : Ty) (rop : Nat) (sat : Bool) (ex : Int) (xs : List Nat) (order : List Nat) : Nat × Bool :=
  if tyIsInt t then
    let vs := xs.map (intOf t)
    match rop with
    | 0 =>
      let sum := vs.foldl (· + ·) 0
      if sat then
        let k := if sum > tyMax t then tyMax t else if sum < tyMin t then tyMin t else sum
        (wrapTo (tyBits t) k, k != sum)
      else (wrapTo (tyBits t) sum, false)
    | 1 => (wrapTo (tyBits t) (vs.tail.foldl min (vs.headD 0)), false)
    | _ => (wrapTo (tyBits t) (vs.tail.foldl max (vs.headD 0)), false)
  else match rop with
    | 0 =>
      let r := addProducts AccEntry.reset ex (xs.map (fpDecode (fmtOf t))) order
      let o := accOut t ex r.1
      (o.1, r.2 || o.2)
    | k => (xs.tail.foldl (fun a b => (fpMinMax (fmtOf t) (k = 2) a b).1) (xs.headD 0), false)

/-- Every member finishes with a code and nothing written. -/
def collEnd (s : State) (cs : List Cmd) (code : Nat) : State :=
  cs.foldl (fun s c => finishCmd s { c with count := 0 } code) s

/-- The contributions of the members, in rank order: values, or the failures by member. Commands that the crier has merged read
their source once (R247); `done` lists the members read so far. -/
def collRead (s : State) (done cs : List Cmd) (data : List (List Nat)) (bad : List (Nat × Nat × Word)) :
    Option (State × List (List Nat) × List (Nat × Nat × Word)) × State :=
  match cs with
  | [] => (some (s, data, bad), s)
  | c :: r =>
    match done.findIdx? (fun d => d.group != 0 && d.group = c.group) with
    | some i =>
      let same := (bad.filter (fun b => (done[i]?).any (fun d => d.id = b.1))).map (fun b => (c.id, b.2))
      collRead s (done ++ [c]) r (data ++ [data.getD i []]) (bad ++ same)
    | none =>
      let sz := tyBytes c.ty
      let n := bf c.blk 3 31 0
      match engReads s (cmdWho c) ((List.range n).map (fun i => (c.blk.getD 1 0 + BitVec.ofNat 64 (i * sz), sz))) [] with
      | .hold s' => (none, s')
      | .fail s' _ e va => collRead s' (done ++ [c]) r (data ++ [[]]) (bad ++ [(c.id, codeOf e, va)])
      | .ok s' xs =>
        match xs.findIdx? (·.2) with
        | some i => collRead s' (done ++ [c]) r (data ++ [[]]) (bad ++ [(c.id, 4, c.blk.getD 1 0 + BitVec.ofNat 64 (i * sz))])
        | none => collRead s' (done ++ [c]) r (data ++ [xs.map (·.1)]) bad

/-- Writes each member's result; a write that fails is that member's alone (R249). A merged command whose destination is no core's
own takes the status of the one that writes it once (R247). None while a page has to be awaited. -/
def collWrite (s : State) (cs : List (Cmd × List Nat)) (ovf : Bool) : Option State × State :=
  match cs with
  | [] => (some s, s)
  | (c, xs) :: r =>
    let sz := tyBytes c.ty
    let st := c.st
    let c := { c with ovf := ovf }
    let dst := c.blk.getD 2 0
    if st = .merged && decide (2 ^ 20 ≤ dst.toNat) then collWrite s r ovf
    else match engWrites s (cmdWho c) (xs.mapIdx (fun i x => (dst + BitVec.ofNat 64 (i * sz), sz, x))) 0 with
    | .hold s' => (none, s')
    | .fail s' i e va => collWrite (finishCmd s' { c with count := i, failVa := va } (codeOf e)) r ovf
    | .ok s' =>
      collWrite (finishCmd (clearWhole s' (cmdWho c) dst (xs.length * sz)) { c with count := xs.length } 0) r ovf

/-- A collective runs once every member's command is there (R249). `order` gives, element after element, the order of the
addends of a floating-point sum (R74, R78). Every member's SRC is read, for .bcast too, so that one that cannot be read ends the
command of all: R271 does not say whether only the root's is read there (DESIGN CHOICE, log 30). -/
def collStep (order : List Nat) (c : Cmd) (s : State) : State :=
  let ms := collMembers s c
  let s := putCmd s { c with st := .begun }
  if ms.any (fun m => m.2.isNone) then s
  else
    let cs := ms.filterMap (·.2)
    let m := cs.length
    let n := bf c.blk 3 31 0
    let roots := (cs.mapIdx (fun i d => (i, d))).filter (fun p =>
      let id := (coreOf s p.2.w).ident
      id.x = bf c.blk 4 15 0 && id.y = bf c.blk 4 31 16)
    if cs.any (fun d => !collMatch c d) || (c.sub = 1 && n % m != 0) || (c.sub = 3 && roots.isEmpty) then collEnd s cs 7
    else match collRead s [] cs [] [] with
      | (none, s') => runHeld s s'
      | (some (s1, data, bad), _) =>
        match bad with
        | [] =>
          let ctl := hdrCtl c.blk
          let red := (List.range n).map (fun k => reduceElem c.ty (ctl / 8 % 4) (ctl.testBit 2)
            (BitVec.ofNat 10 (bf c.blk 3 41 32)).toInt (data.map (fun d => d.getD k 0)) ((order.drop (k * m)).take m))
          let sums := red.map (·.1)
          let root := (roots.head?.map (·.1)).getD 0
          let out := fun r : Nat => match c.sub with
            | 0 => sums
            | 1 => (sums.drop (r * (n / m))).take (n / m)
            | 2 => data.flatten
            | _ => data.getD root []
          (match collWrite s1 (cs.mapIdx (fun r d => (d, out r))) (decide (c.sub ≤ 1) && red.any (·.2)) with
           | (some s2, _) => s2
           | (none, s') => runHeld s s')
        | b :: r =>
          let pick := (b :: r)[Config.freePick s.clk % (r.length + 1)]?
          let vaOf := fun d : Cmd => match bad.find? (fun e => e.1 = d.id) with | some e => e.2.2 | none => 0
          cs.foldl (fun s d => finishCmd s { d with count := 0, failVa := vaOf d }
            (match pick with | some p => p.2.1 | none => 3)) s1

/-- COLL_RUN (R271). -/
def execCollRun (id : Nat) (order : List Nat) (s : State) : Out_ := engineRun .coll id (collStep order) s

/-! ### Erasure coding (R272) -/

/-- What one byte position answers. -/
inductive EcRes where
  | ok (s : State)
  | fail (s : State) (code : Nat) (va : Word)
  | hold (s : State)

/-- The parity bytes of a position in rising order: `out` gives each from what stands there, which `.upd` reads and writes in one step;
the address of one that cannot be read is the one that failed. -/
def ecodePar (s : State) (c : Cmd) (ps : List (Nat × Word)) (out : Nat → Nat → Nat) : EcRes :=
  match ps with
  | [] => .ok s
  | (p, a) :: r =>
    match (if c.sub = 1 then engRead s (cmdWho c) a 1 1 else .ok s 0 false) with
    | .hold s' => .hold s'
    | .fail s' e va => .fail s' (codeOf e) va
    | .ok s' _ true => .fail s' 4 a
    | .ok s' x false =>
      match engWrite s' (cmdWho c) a 1 (out p x) 1 with
      | .hold s'' => .hold s''
      | .fail s'' e va => .fail s'' (codeOf e) va
      | .ok s'' => ecodePar (spread s'' c a 1 (out p x)) c r out

/-- Byte position `i` of an ECODE; `s0` is the state in which the command began, `cs` its coefficients. -/
def ecodeByte (s s0 : State) (c : Cmd) (cs : List Nat) (i : Nat) : EcRes :=
  let b := c.blk
  let kd := bf b 3 41 39 + 1
  let mp := bf b 3 43 42 + 1
  let place := fun (base : Word) (k stride : Nat) => base + BitVec.ofNat 64 (k * stride + i)
  let coef := fun p k : Nat => cs.getD (p * kd + k) 0
  let w := cmdWho c
  let val := fun va : Word => match perfRead s0 w va 1 with | .ok _ x => x | _ => 0
  let ins := if c.sub = 1 then [b.getD 1 0 + BitVec.ofNat 64 i, b.getD 6 0 + BitVec.ofNat 64 i]
    else (List.range kd).map (fun k => place (b.getD 1 0) k (bf b 4 31 0))
  match engReads s w (ins.map (fun a => (a, 1))) [] with
  | .hold s' => .hold s'
  | .fail s' _ e va => .fail s' (codeOf e) va
  | .ok s1 xs =>
    match xs.findIdx? (·.2) with
    | some k => .fail s1 4 (ins.getD k 0)
    | none =>
      let d := Nat.xor (val (ins.getD 0 0)) (val (ins.getD 1 0))
      ecodePar s1 c ((List.range mp).map (fun p => (p, place (b.getD 2 0) p (bf b 4 63 32)))) (fun p x =>
        if c.sub = 1 then Nat.xor x (gfMul (coef p (bf b 3 46 44)) d 8)
        else (List.range kd).foldl (fun a k => Nat.xor a (gfMul (coef p k) (val (ins.getD k 0)) 8)) 0)

/-- Byte positions `i` on, `n` of them. -/
def ecodeBytes (s s0 : State) (c : Cmd) (cs : List Nat) (i n : Nat) : EcRes × Nat :=
  match n with
  | 0 => (.ok s, i)
  | k + 1 =>
    match ecodeByte s s0 c cs i with
    | .ok s' => ecodeBytes s' s0 c cs (i + 1) k
    | r => (r, i)

/-- ECODE as a whole. -/
def ecodeStep (c : Cmd) (s : State) : State :=
  let b := c.blk
  let kd := bf b 3 41 39 + 1
  let mp := bf b 3 43 42 + 1
  let len := bf b 3 31 0
  match engReads s (cmdWho c) ((List.range (mp * kd)).map (fun i => (b.getD 5 0 + BitVec.ofNat 64 i, 1))) [] with
  | .hold s' => runHeld s s'
  | .fail s' _ e va => finishCmd s' { c with failVa := va } (codeOf e)
  | .ok s1 xs =>
    match xs.findIdx? (·.2) with
    | some i => finishCmd s1 { c with failVa := b.getD 5 0 + BitVec.ofNat 64 i } 4
    | none =>
      match ecodeBytes s1 s1 c (xs.map (·.1)) 0 len with
      | (.hold s', _) => runHeld s s'
      | (.fail s' code va, i) => finishCmd s' { c with count := i, failVa := va } code
      | (.ok s', _) =>
        let s' := (List.range mp).foldl (fun s p =>
          clearWhole s (cmdWho c) (b.getD 2 0 + BitVec.ofNat 64 (p * bf b 4 63 32)) len) s'
        finishCmd s' { c with count := len } 0

/-- ECODE_RUN (R272). -/
def execEcodeRun (id : Nat) (s : State) : Out_ := engineRun .ecode id ecodeStep s

/-! ### Checkpoints (R273, R327-R329) -/

/-- AREA lies in the global region, and every page mapped there stands in a far-tier frame of the module (R327). -/
def areaOk (s : State) (m : Nat) (area : Word) (len : Nat) : Bool :=
  let a := area.toNat
  regionOf a = some 2 && regionOf (a + (len - 1)) = some 2 &&
    (modPages s m).all (fun q => q.1.tag != globalTag || !overlaps (a, len) (q.1.pn * 65536, 65536) ||
      (leafLocal q.2.1 && tierOf (modAt s m) (leafPa q.2.1 (q.1.pn * 65536)) != some .near))

/-- The committed cuts of a launch, oldest first. -/
def cutsOf (s : State) (l : LaunchRef) : List Cut := (modAt s l.m).cuts.filter (fun k => k.committed && k.launch = l)

/-- A descriptor's 8 words keep to the table of R327; PREV names one of the cuts `ks`, or is 0. Bytes 0x06 and 0x07, which the table does
not list, have to be zero: R327 does not say (DESIGN CHOICE, log 18). -/
def descOk (s : State) (m : Nat) (ks : List Cut) (ws : List Word) : Bool :=
  bytesAt ws 0 2 = 1 && decide (bytesAt ws 2 2 < 4) && bytesAt ws 6 2 = 0 && ws.getD 7 0 = 0 &&
    areaOk s m (ws.getD 1 0) (bytesAt ws 0x10 8) && (ws.getD 3 0 = 0 || ks.any (fun k => k.desc = ws.getD 3 0))

/-- Reads the descriptor of a command. -/
def readDesc (s : State) (c : Cmd) : ERd := engRead s (cmdWho c) (c.blk.getD 1 0) 64 64

/-- The pages in scope of a cut: protected ones of the launch's ASID, and global ones whose KEY is in KEYMASK (R327). -/
def scopePages (s : State) (l : LaunchRef) (asid : BitVec 16) (keymask : Nat) : List PageRef :=
  ((modAt s l.m).protNum.map (·.1)).filter (fun p =>
    match walkPage s p.m p.tag (p.pn * 65536) with
    | .leaf e _ => leafProt e && (p.tag = asid.toNat || (p.tag = globalTag && keymask.testBit (leafKey e)))
    | _ => false)

/-- D of a page's leaf. -/
def pageDirty (s : State) (p : PageRef) : Bool :=
  match walkPage s p.m p.tag (p.pn * 65536) with | .leaf e _ => e.getLsbD 4 | _ => false

/-- The uncommitted cut of a command goes: its pages take writes again, and the launch is not held for it (R328). -/
def dropCut (s : State) (c : Cmd) : State :=
  let x := modAt s c.w.m
  let mine := x.cuts.filter (fun k => k.cmd = c.id && !k.committed)
  let s := setMod s c.w.m { x with cuts := x.cuts.filter (fun k => !(k.cmd = c.id && !k.committed)) }
  unhold (freePages s c.w.m (mine.map (·.left)).flatten) (cutLaunch c)

/-- A cut that fails commits nothing. -/
def failCut (s : State) (c : Cmd) (code : Nat) (va : Word) : State :=
  dropCut (finishCmd s { c with failVa := va } code) c

/-- The running launch that a command names. -/
def cutTarget (s : State) (c : Cmd) : Option Launch :=
  (launchAt s (cutLaunch c)).bind (fun x => if x.phase = .ended then none else some x)

/-- Begins a cut: the descriptor is judged, and the launch stops at its next boundary. -/
def cutBegin (c : Cmd) (s : State) : State :=
  match cutTarget s c with
  | none => finishCmd s c 3
  | some _ =>
    if (modAt s c.w.m).cuts.any (fun k => k.launch = cutLaunch c && !k.committed) ||
        s.cmds.any (fun d => d.id != c.id && d.op = .ckpt && d.sub = 0 && d.st = .begun && cutLaunch d = cutLaunch c) then s
    else match readDesc s c with
      | .hold s' => runHeld s s'
      | .fail s' e va => finishCmd s' { c with failVa := va } (codeOf e)
      | .ok s' v bad =>
        if bad then finishCmd s' { c with failVa := c.blk.getD 1 0 } 4
        else if !descOk s' c.w.m (cutsOf s' (cutLaunch c)).getLast?.toList (valWords 64 v) then finishCmd s' c 5
        else putCmd s' { c with st := .begun }

/-- The boundary work of a cut (R328 step 1); it waits for pages in scope whose tokens cannot be recalled (R346). -/
def cutBoundary (c : Cmd) (x : Launch) (s : State) : State :=
  let l := cutLaunch c
  match readDesc s c with
  | .hold s' => runHeld s s'
  | .fail s' e va => failCut s' c (codeOf e) va
  | .ok s v _ =>
    let ws := valWords 64 v
    let cs := launchCores s l.m x.record
    let hs := heldMills s l cs
    let area := ws.getD 1 0
    let n := recordBytes s l x.record
    let scope := scopePages s l x.record.asid (bytesAt ws 4 2)
    if bytesAt ws 0x10 8 < n then failCut s c 3 area
    else match areaCheck s c.w.m area n with
      | .fail e va => failCut s c (codeOf e) va
      | .hold (some p) => askPage s p
      | .hold none => s
      | .ok _ =>
        if scope.any (pageStuck s) then s
        else
          let s := scope.foldl recallPage (mergeLogs s l x)
          let full := bytesAt ws 2 2 / 2 % 2 = 1 || ws.getD 3 0 = 0
          let set := if full then scope else scope.filter (pageDirty s)
          let im := imagesOf s cs hs
          let last := (cutsOf s l).getLast?
          let cut : Cut :=
          { launch := l, cmd := c.id, desc := c.blk.getD 1 0, area := area, arealen := bytesAt ws 0x10 8,
            commitVa := ws.getD 6 0, gen := match last with | some k => k.gen + 1 | none => 1,
            prev := if ws.getD 3 0 = 0 then none else last.map (·.gen), recs := n,
            cstep := match cs with | k :: _ => sstepWord (coreAt s k) | [] => 0,
            eras := bytesAt ws 2 2 % 2 = 1, scope := scope, copies := [], left := set, slots := im.1, cores := im.2.1,
            hams := im.2.2.1, locals := im.2.2.2, bars := x.bars, guards := launchGuards s l, committed := false }
          let s := writeRecords s (luWho c.w.m 0) (area - BitVec.ofNat 64 (coreRecOff 0)) cs hs
          let s := set.foldl (fun s p => setPage s p { pageAt s p with withheld := true }) s
          let m := modAt s l.m
          unhold (putCmd (setMod s l.m { m with cuts := m.cuts ++ [cut] }) { c with prog := 1 }) l

/-- CKPT_CUT_BOUNDARY (R328 step 1): a cut begins, and is taken once its launch stands at a level-0 boundary. -/
def execCkptCutBoundary (id : Nat) (s : State) : Out_ :=
  engineRun .ckpt id (fun c s =>
    if c.sub != 0 then s
    else if c.st = .queued then cutBegin c s
    else if c.prog != 0 then s
    else match cutTarget s c with
      | none => failCut s c 3 0
      | some x => if x.phase = .held || x.phase = .halted then cutBoundary c x s else s) s

/-- The cut of a command. -/
def cutOf (s : State) (c : Cmd) : Option Cut := (modAt s c.w.m).cuts.find? (fun k => k.cmd = c.id && !k.committed)

/-- Replaces the cut of a command. -/
def putCut (s : State) (c : Cmd) (k : Cut) : State :=
  let x := modAt s c.w.m
  setMod s c.w.m { x with cuts := x.cuts.map (fun d => if d.cmd = c.id && !d.committed then k else d) }

/-- A writer waits for a page: a buffered store or an atomic of the module, an engine's command that has begun, or a host's request
(R328 step 2). -/
def writerWaits (s : State) (p : PageRef) : Bool :=
  let hits := fun (asid : BitVec 16) (r : Word × Nat) => match placeOf asid r.1 with
    | .page tag a => tag = p.tag && overlaps (a, r.2) (p.pn * 65536, 65536)
    | _ => false
  s.cores.any (fun q => q.1 / 512 / 16 = p.m && (q.2.sbuf ++ q.2.fq).any (fun e => e.units.any (fun u =>
    hits q.2.ident.asid (u.va, u.n)))) ||
  s.slots.any (fun q => q.1 / 4 / 512 / 16 = p.m && q.2.outs.any (fun o => isAtomic o && o.units.any (fun u =>
    hits (tget s.cores Core.reset (q.1 / 4)).ident.asid (u.va, u.n)))) ||
  s.cmds.any (fun c => c.w.m = p.m && c.st = .begun && 
      (cmdWrites c.op c.ty c.sub (domCores s c.w (collLevel c)).length c.blk).any (hits c.asid)) ||
  s.devOut.any (fun e => e.c.m = p.m && hits e.asid (e.va, e.n)) ||
  s.hostHeld.any (fun q => q.1.m = p.m && (match q.2 with
    | .write data => hits 0 (q.1.va, data.length)
    | .read => false
    | .swap .. | .add _ => hits 0 (q.1.va, 8)))

/-- The words of a page that are to be copied: a failure, or a wait, where they cannot be had. -/
def pageWords (s : State) (p : PageRef) (e : Word) (at_ : Nat) : Words :=
  match pageSource s p e at_ false with
  | .line f _ _ _ _ _ | .hostMem f _ | .lstore _ f =>
    if (List.range 512).any (fun j => poisonAt s (f + 128 * j)) || eccBad s f 65536 then
      .fail .poison (BitVec.ofNat 64 (p.pn * 65536))
    else .ok ((List.range 8192).map (fun i => memRead s.mem (f + 8 * i) 8))
  | .fail c => .fail c (BitVec.ofNat 64 (p.pn * 65536))
  | .absent q => .hold (some q)
  | .wait => .hold none

/-- The pages of 64 KiB left to copy that the leaf at an address governs: one, or those of a 16 MiB page, which is copied as one page. -/
def piecesOf (s : State) (k : Cut) (at_ : Nat) : List PageRef :=
  k.left.filter (fun q => match walkPage s q.m q.tag (q.pn * 65536) with | .leaf _ a => a = at_ | _ => false)

/-- The words of several pages under one leaf. -/
def piecesWords (s : State) (ps : List PageRef) (e : Word) (at_ : Nat) : Words :=
  match ps with
  | [] => .ok []
  | p :: r =>
    match pageWords s p e at_ with
    | .ok ws => (match piecesWords s r e at_ with | .ok xs => .ok (ws ++ xs) | x => x)
    | x => x

/-- CKPT_PAGE_COPY (R328 step 2): the page of the `i`-th one left is copied, its D cleared, and its tokens released. -/
def execCkptPageCopy (id i : Nat) (s : State) : Out_ :=
  engineRun .ckpt id (fun c s =>
    match cutOf s c with
    | none => s
    | some k =>
      match k.left[i]? with
      | none => s
      | some p =>
        let spot := k.area + BitVec.ofNat 64 (k.recs + 65536 * k.copies.length)
        if !writerWaits s p && k.left.any (writerWaits s) then s
        else match walkPage s p.m p.tag (p.pn * 65536) with
          | .leaf e at_ =>
            let ps := piecesOf s k at_
            let n := 65536 * ps.length
            if k.arealen < k.recs + 65536 * k.copies.length + n then failCut s c 3 spot
            else
              (match areaCheck s c.w.m spot n, piecesWords s ps e at_ with
               | .fail x va, _ | .ok _, .fail x va => failCut s c (codeOf x) va
               | .hold (some q), _ | .ok _, .hold (some q) => askPage s q
               | .hold none, _ | .ok _, .hold none => s
               | .ok _, .ok ws =>
                 let s1 := devWords s (luWho c.w.m 0) spot (ws.map (BitVec.ofNat 64))
                 let s2 := { s1 with mem := memWrite s1.mem at_ 8 (memRead s1.mem at_ 8 - (if e.getLsbD 4 then bitD else 0)) }
                 let k' := { k with copies := k.copies ++ ps.mapIdx (fun i q => (q, spot + BitVec.ofNat 64 (65536 * i))),
                                    left := k.left.filter (fun q => !ps.contains q) }
                 putCmd (freePages (putCut (setLeafBits s2 at_ bitA) c k') c.w.m ps) { c with count := c.count + 1 })
          | .absent _ => askPage s p
          | .unmapped =>
            -- the page went away: there is nothing to copy
            freePages (putCut s c { k with left := dropAt k.left i }) c.w.m [p]) s

/-- CKPT_COMMIT (R328 step 3, R377): both parity members acknowledge, and GEN, CSTEP and the commit word, whose value is not stated
(log 6), are written. -/
def execCkptCommit (id : Nat) (s : State) : Out_ :=
  engineRun .ckpt id (fun c s =>
    match cutOf s c with
    | none => s
    | some k =>
      if !k.left.isEmpty || !paritiesAck s k then s
      else
        let ws := [(k.desc + 0x20, 8, k.gen), (k.desc + 0x28, 8, k.cstep.toNat)] ++
          (if k.commitVa = 0 then [] else [(k.commitVa, 8, Config.freePick s.clk % 2 ^ 64)])
        match engWrites s (cmdWho c) ws 0 with
        | .hold s' => runHeld s s'
        | .fail s' _ e va => failCut s' c (codeOf e) va
        | .ok s' =>
          match commitRows s' k with
          | none => failCut s' c 4 k.area
          | some s' => dropHopeless (finishCmd (putCut s' c { k with committed := true }) c 0)) s

/-- CKPT_RESTORE_RUN (R273, R328): the pages in scope of the newest committed cut that DESC names are written back from their newest
copies, and its records placed in the save area. A DESC that names no committed cut of the launch completes with FORMAT (log 18). -/
def execCkptRestoreRun (id : Nat) (s : State) : Out_ :=
  engineRun .ckpt id (fun c s =>
    let l := cutLaunch c
    if c.sub != 1 then s
    else match cutTarget s c with
      | none => finishCmd s c 3
      | some x =>
        match readDesc s c with
        | .hold s' => runHeld s s'
        | .fail s' e va => finishCmd s' { c with failVa := va } (codeOf e)
        | .ok s' v bad =>
          if bad then finishCmd s' { c with failVa := c.blk.getD 1 0 } 4
          else if !descOk s' c.w.m (cutsOf s' l) (valWords 64 v) then finishCmd s' c 5
          else match ((cutsOf s' l).filter (fun k => k.desc = c.blk.getD 1 0)).getLast? with
            | none => finishCmd s' c 5
            | some k =>
              match restoreCut s' l x k with
              | .done s' n => finishCmd s' { c with count := n } 0
              | .fail s' n e va => finishCmd s' { c with count := n, failVa := va } (codeOf e)
              | .hold (some p) => askPage s p
              | .hold none => s) s

/-! ### Migration (R274) -/

/-- The moves of a MIGR: the state, the pages moved, and what stops it. -/
inductive MigrRes where
  | going (s : State) (n : Nat)
  | fail (s : State) (n : Nat) (c : Cause) (p : PageRef)
  | wait

/-- One page more of a MIGR. -/
def migrNext (t : Tier) (r : MigrRes) (p : PageRef) : MigrRes :=
  match r with
  | .going s n =>
    (match migratePage s p t with
     | .moved s' => .going s' (n + 1)
     | .skip => .going s n
     | .fail c => .fail s n c p
     | .wait => .wait)
  | r => r

/-- MIGR_RUN (R274): every resident 64 KiB page of the range moves to the tier, but for those that R274 skips; it waits for pages
whose lines are frozen. -/
def execMigrRun (id : Nat) (s : State) : Out_ :=
  engineRun .migr id (fun c s =>
    let b := c.blk
    let va := (b.getD 1 0).toNat
    let tag := if regionOf va = some 2 then globalTag else bf b 2 47 32
    match ((List.range (bf b 2 31 0)).map (fun i => (⟨c.w.m, tag, va / 65536 + i⟩ : PageRef))).foldl
        (migrNext (tierNum (bf b 3 1 0))) (.going s 0) with
    | .going s' n => finishCmd s' { c with count := n } 0
    | .fail s' n k p => finishCmd s' { c with count := n, failVa := BitVec.ofNat 64 (p.pn * 65536) } (codeOf k)
    | .wait => s) s

/-- ENGINE_WATCHDOG_EXPIRY (R243): the command is abandoned with TIMEOUT; how much time has passed is not counted (log 8). -/
def execEngineWatchdogExpiry (id : Nat) (s : State) : Out_ :=
  match cmdAt s id with
  | none => .next s
  | some c =>
    if !(c.st = .queued || c.st = .begun) || c.op = .accflip || c.op = .mstat || watchdogOff s c then .next s
    else
      let done := match c.op with
        | .engq => if c.sub = 0 then 0 else c.prog - (if epaType c.epa = 4 then recordsLeft s c.w.m (c.blk.drop 1)
            else (onlyCmds (earlierCmds s c)).length)
        | _ => c.count
      let s := finishCmd s { c with count := done, buf := [] } 2
      .next (match c.op with
        | .ckpt => dropCut s c
        | .mloadw => voidLoad s c
        | .mswap => if c.prog = 0 then s else voidLoad s c
        | _ => s)

end Sys2Proof.Machine
end

