-- ==== Sys2Proof/Machine/Recover.lean ====
section
/-!
DEFINITION. Recoveries in their order (R335, R386, R388), what the loss of a tier die or an HBM4E stack takes with it (R349, R391), and
the restart of a launch from its newest cut (R318).
-/

namespace Sys2Proof.Machine

/-! ### Recoveries in order (R335, R386, R388) -/

/-- Updates a module's service complex. -/
def putService (s : State) (m : Nat) (f : Service → Service) : State :=
  setMod s m { modAt s m with sp := f (modAt s m).sp }

/-- Replaces the list of a module's recoveries. -/
def setWork (s : State) (m : Nat) (w : List Recov) : State := putService s m (fun p => { p with work := w })

/-- Launches of a module with a test, in the order of their table. -/
def launchesOf (s : State) (m : Nat) (f : Launch → Bool) : List LaunchRef :=
  (s.launches.filter (fun q => q.1 / 2 ^ 28 / 16 = m && f q.2)).map
    (fun q => ⟨m, q.1 / 2 ^ 28 % 16, q.1 % 2 ^ 28⟩)

/-- The launches with a core of a die stop as at rung 3 (R316, R335, R348); `fail` when the die is lost, which also concerns those
already reset. -/
def stopLaunches (s : State) (m k : Nat) (fail : Bool) : State :=
  (launchesOf s m (fun x => x.record.dies.contains k && (holdsCores x || x.phase = .reset))).foldl (fun s l =>
    let s := match launchAt s l with | some x => if holdsCores x then resetLaunch s l else s | none => s
    match launchAt s l with
    | some x => if fail then setLaunch s l { x with dieLost := true } else s
    | none => s) s

/-- A recovery step has been taken: a fault of its first try counts no more (R384). -/
def stepDone (s : State) (m : Nat) : State := putService s m (fun p => { p with retried := [] })

/-- The engines of a die of a module are gone: commands that had begun end with RESET, the others with `code` (R237, R240). -/
def dropEngines (s : State) (m die code : Nat) : State :=
  (s.cmds.filter (fun c => c.w.m = m && !isMill c && cmdDie c = die && (c.st = .queued || c.st = .begun))).foldl (fun s c =>
    let s := finishCmd s c (if c.st = .begun then 8 else code)
    if c.op = .ckpt then dropCut s c else s) s

/-! ### Lost tier dies and stacks (R349, R391) -/

/-- The pages whose frames a loss has just taken (R349, R391): protected ones wait to be rebuilt where their row allows, the others
are poisoned; the blocks that they and lost copies held are lost (R378). `y` is the module before. -/
def loseFrames (s : State) (m : Nat) (y : Mod) : State :=
  let x := modAt s m
  let now := fun pa : Nat => lostPa x pa && !lostPa y pa
  let s := (modPages s m).foldl (fun s q =>
    let p := q.1
    if leafLocal q.2.1 && now (leafPa q.2.1 (p.pn * 65536)) then
      let s := recallPage s p
      match blockOf (modAt s m) p with
      | some k => loseBlock (setPage s p { pageAt s p with rebuild := true }) m k
      | none => poisonPage s p q.2.1
    else s) s
  -- committed copies that stood there
  let gone := fun (s : State) (va : Nat) => match walkPage s m globalTag va with
    | .leaf e _ => leafLocal e && now (leafPa e va)
    | _ => false
  let s := ((y.cuts.filter (·.committed)).map (·.copies)).flatten.foldl (fun s q =>
    match blockOf (modAt s m) q.1 with
    | some b => if gone s q.2.toNat || gone s (q.2.toNat + 65535) then loseBlock s m b else s
    | none => s) s
  dropHopeless s

/-- The lines of a home slice that is lost: rehomed; poisoned unless the memory copy survives and was the value (R349). -/
def loseSlice (s : State) (m slice : Nat) (y : Mod) : State :=
  s.lines.foldl (fun s q =>
    let l := lineOfKey q.1
    let sl := (homeOf y l.tag (l.ln * 128)).1
    if l.m != m || liveSlice y sl != slice then s
    else
      let ln := lineAt s l
      let s1 := setLine s l (tokHome ln)
      match ln.mvalid, walkPage s l.m l.tag (l.ln * 128) with
      | false, .leaf e _ => setPoison s1 (physFlat m (leafPa e (l.ln * 128)))
      | _, _ => s1) s

/-- Parity blocks that stood on a lost far-tier die, `both` when the other one is lost too: which of a module's parity blocks stand on
which of its two dies is not architectural (R375, log 6). -/
def loseParity (s : State) (m die : Nat) (both : Bool) : State :=
  (rowsUsed s (m % 4)).foldl (fun s n =>
    if (n % 8 = m / 4 || (n + 1) % 8 = m / 4) && (both || Config.parityDie m n % 2 = die - 28) then
      loseMember s (m % 4) n (m / 4)
    else s) s

/-- The recovery of a lost tier die, as 32 and its number, or of a lost HBM4E stack, as 64 and its number (R349, R391). -/
def loseTier (s : State) (m code : Nat) : State :=
  let y := modAt s m
  if 64 ≤ code then loseFrames (setMod s m { y with lostStacks := y.lostStacks ++ [code - 64] }) m y
  else
    let die := code - 32
    let s := dropEngines (setMod s m { y with lostTier := y.lostTier ++ [die] }) m die 6
    let s := if die < 28 then loseSlice s m (die - 16) y else loseParity s m die (y.lostTier.contains (57 - die))
    loseFrames s m y

/-! ### The order of recoveries -/

/-- Tokens of a lost die are still to be recovered (R335 step 2, R346). -/
def tokensDue (s : State) (m k : Nat) : Bool :=
  s.pages.any (fun q => q.2.recovering.contains (if (pageOfKey q.1).m = m then k else 64 + m * 16 + k))

/-- Launches that a die's failure has stopped are still to restart in its recovery, and in no later one (R335 step 5). -/
def restartsDue (s : State) (m k : Nat) (later : List Recov) : Bool :=
  !(launchesOf s m (fun x => x.dieLost && x.phase = .reset && x.record.dies.contains k &&
    !later.any (fun r => x.record.dies.contains r.die))).isEmpty

/-- The recovery at the head goes on as far as it can (R335, R388): it waits for the tokens, stops the launches, waits for a
takeover that is possible, and for the restarts. An evacuation is over with its reset, the loss of a tier die or a stack in one step.
`n` bounds the steps. -/
def advance (s : State) (m n : Nat) : State :=
  match n with
  | 0 => s
  | n + 1 =>
    let d := (modAt s m).dmap
    match (modAt s m).sp.work with
    | [] => s
    | r :: rest =>
      if r.reset then s
      else if 32 ≤ r.die then advance (loseTier (setWork s m rest) m r.die) m n
      else match r.stage with
        | 0 => if tokensDue s m r.die then s
          else advance (setWork (stopLaunches s m r.die true) m ({ r with stage := 1 } :: rest)) m n
        | 1 => if !dieMapped d r.die && takeoverFree d && (List.range 18).any (spareSite d) then s
          else advance (setWork s m ({ r with stage := 2 } :: rest)) m n
        | _ => if restartsDue s m r.die rest then s else advance (setWork s m rest) m n

/-- The recoveries of a module go on as far as they can. -/
def recover (s : State) (m : Nat) : State :=
  if (modAt s m).sp.work.isEmpty then s else advance s m (4 * (modAt s m).sp.work.length)

/-- A recovery of the launch's dies has not come to its restarts (R335, R388). -/
def recoveryDue (s : State) (l : LaunchRef) (x : Launch) : Bool :=
  (modAt s l.m).sp.work.any (fun r => x.record.dies.contains r.die && decide (r.stage < 2))

/-- CHECKPOINT_RESTART (R318, R335): a launch reset at rung 3 goes back to its newest committed cut, or ends with STATUS 3; one that
a die failure stopped is restarted once the recovery comes to it, is validated again, and ends with STATUS 4 when that fails or it
has no cut. -/
def execCheckpointRestart (l : LaunchRef) (s : State) : Out_ :=
  match launchAt s l with
  | none => .next s
  | some x =>
    let stop := fun status : Nat => Host.Outcome.next (recover (ended (dropLayouts (stepDone s l.m) l x) l x status 0) l.m)
    let ask := fun p : Option PageRef => Host.Outcome.next (askAny s p)
    let no := if x.dieLost then 4 else 3
    if x.phase != .reset || layoutsWait s l x then .next s
    else match x.kill, newestCut s l with
      | some k, _ => stop k
      | none, c =>
        if recoveryDue s l x then .next s
        else match (if x.dieLost then (validate s l x.raw).and (fun _ => .ok ()) else .ok ()), c with
          | .hold p, _ => ask p
          | .err _, _ | .ok _, none => stop no
          | .ok _, some k =>
            match restoreCut (if x.dieLost then recSeen s l.m x.raw 12 else s) l x k with
            | .hold p => ask p
            | .fail .. => stop no
            | .done s _ => .next (recover (askPass (match launchAt s l with
                | some z => setLaunch (stepDone s l.m) l { z with phase := .saved, dieLost := false }
                | none => s) l.m) l.m)

end Sys2Proof.Machine
end

