-- ==== Sys2Proof/Machine/EvDie.lean ====
section
/-!
DEFINITION. The events of dies and tokens: page table changes, threshold migration, the token protocol, the loss of dies and the
recovery of their tokens (R192, R332-R350, R355, R391).
-/

namespace Sys2Proof.Machine

/-! ### Page tables (R189, R192) -/

/-- The address of the entry that a walk for a page reads at a level: 0 for the leaf, 3 for the one entry under the root. -/
def entryAt (s : State) (p : PageRef) (level : Nat) : Option Nat :=
  let va := p.pn * 65536
  match rootOf (modAt s p.m) p.tag with
  | none => none
  | some r =>
    if level = 3 then some (tableAt p.m r (va / 2 ^ 55 % 2))
    else match pointerOf s p.m r (va / 2 ^ 55 % 2) with
      | none => none
      | some t2 =>
        if level = 2 then some (tableAt p.m t2 (va / 2 ^ 42 % 2 ^ 13))
        else match pointerOf s p.m t2 (va / 2 ^ 42 % 2 ^ 13) with
          | none => none
          | some t1 =>
            if level = 1 then some (tableAt p.m t1 (va / 2 ^ 29 % 2 ^ 13))
            else match pointerOf s p.m t1 (va / 2 ^ 29 % 2 ^ 13) with
              | none => none
              | some t0 => some (tableAt p.m t0 (va / 2 ^ 16 % 2 ^ 13))

/-- Pages that an entry of a level governs; a 16 MiB leaf governs 256. -/
def entryPages (level : Nat) (old new : Word) : Nat :=
  if level = 0 then (if leafPs old = 1 || leafPs new = 1 then 256 else 1) else 2 ^ (13 * level)

/-- The page is one of the `n` that the entry of page `p` governs. -/
def underEntry (p : PageRef) (n : Nat) (q : PageRef) : Bool := q.m = p.m && q.tag = p.tag && q.pn / n = p.pn / n

/-- Recalls the lines of all pages under an entry, those that they borrow included, and clears what the home's TLB holds of them
(R192). -/
def recallRange (s : State) (p : PageRef) (n : Nat) : State :=
  let s := ((modPages s p.m).filter (fun q => underEntry p n q.1 && leafMode q.2.1 = 2)).foldl
    (fun s q => returnLines s p.m (lentLine s q.1)) s
  let s := recallLines s (fun l => underEntry p n (pageOfLine l))
  { s with pages := s.pages.map (fun q =>
      if underEntry p n (pageOfKey q.1) then (q.1, { q.2 with tlb := false, count := 0, revoked := false }) else q) }

/-- The tokens of some page under an entry cannot be recalled now: no holder of a frozen one returns its tokens before the recovery is
over (R346), and none on a stopped die does (R385). -/
def rangeFrozen (s : State) (p : PageRef) (n : Nat) : Bool :=
  s.pages.any (fun q => q.2.frozen && underEntry p n (pageOfKey q.1)) ||
    s.lines.any (fun q => underEntry p n (pageOfLine (lineOfKey q.1)) && tokensStuck s q.2 none true)

/-- A change that R199 and R200 rule out: a pinned page leaves its frame, or a 16 MiB page is made not present. -/
def changeBarred (s : State) (p : PageRef) (old new : Word) : Bool :=
  leafV old && ((pagePinned s p && (!leafV new || leafFrame new != leafFrame old)) ||
    (leafPs old = 1 && !leafV new && new != 0))

/-- PAGE_TABLE_CHANGE (R192): firmware writes a leaf, a pointer entry or (level 4) a root, whose frame plus one is `entry`; the
lines under it are recalled first. -/
def execPageTableChange (p : PageRef) (level : Nat) (entry : Word) (s : State) : Out_ :=
  let x := modAt s p.m
  if !x.present then .next s
  else if 4 ≤ level then
    if rangeFrozen s p (2 ^ 41) then .next s
    else
      let s := recallRange s p (2 ^ 41)
      let x := modAt s p.m
      if p.tag = globalTag then .next (setMod s p.m { x with groot := entry.toNat })
      else if p.tag < 65536 then .next (setMod s p.m { x with asidDir := tput x.asidDir p.tag entry.toNat })
      else .next s
  else match entryAt s p level with
    | none => .next s
    | some a =>
      let old : Word := BitVec.ofNat 64 (memRead s.mem a 8)
      if (level = 0 && changeBarred s p old entry) || rangeFrozen s p (entryPages level old entry) then .next s
      else
        let s := recallRange s p (entryPages level old entry)
        if level != 0 then .next { s with mem := memWrite s.mem a 8 entry.toNat }
        else
          let s := keepPage s p old entry
          .next (fillSnaps (numberPages { s with mem := memWrite s.mem a 8 entry.toNat } p entry))

/-- THRESHOLD_MIGRATION (R355): a page whose translations have reached its threshold moves into the near tier; a move that cannot
be placed clears the count. -/
def execThresholdMigration (p : PageRef) (s : State) : Out_ :=
  match walkPage s p.m p.tag (p.pn * 65536) with
  | .leaf e _ =>
    let q := pageAt s p
    let pa := leafFrame e * 65536
    let x := modAt s p.m
    if leafMode e != 3 || !q.tlb || q.count < 2 ^ (leafThresh e + 4) || pa < 0x18000000000 || !mayMove s p e ||
        pagePoisoned s p.m e then .next s
    else
      if lostPa x pa then .next s
      else match migratePage s p .near with
        | .moved s' => .next s'
        | .wait => .next s
        | _ => .next (setPage s p { q with count := 0 })
  | _ => .next s

/-! ### Tokens (R342-R345) -/

/-- The page of a line is resident and not held for the request, and hamlet `h` can take its tokens: it stands on the home's module,
or on a module that borrows the line under a LEND lease (R350). A lease in reclaim gives no write tokens (R371). -/
def mayToken (s : State) (l : LineRef) (h : HamRef) (write : Bool) : Bool :=
  let va := l.ln * 128
  let home := match walkPage s l.m l.tag va with
    | .leaf e _ => leafLocal e && !tierStopped (modAt s l.m) l.tag va (leafPa e va)
    | _ => false
  home && lasersOn s l.m && lasersOn s h.m && dieMapped (modAt s h.m).dmap h.d && !dieStopped (modAt s h.m) h.d &&
    decide (h.h < 48) &&
    !pageHeld s (pageOfLine l) write &&
    (h.m = l.m || (l.tag = globalTag && (modAt s l.m).lend.any (fun q => q.borrower = h.m && !q.window && !q.revoked &&
      !(write && q.reclaiming) && decide (q.lva.toNat ≤ va) && decide (va < q.lva.toNat + q.size * 2 ^ 30))))

/-- The owner token travels. -/
def ownerFlies (l : Line) : Bool := l.flight.any (·.owner)

/-- The HINT member that a message from a hamlet names. -/
def fromHam (m key : Nat) : Nat := hintOfKey m key

/-- What a message from the home names. -/
def fromHome : Nat := 64

/-- Tokens sent by the home to hamlet `h`. -/
def sendHome (l : Line) (h n : Nat) (own data : Bool) (gen : BitVec 8) : Line :=
  { l with home := l.home - n, flight := l.flight ++ [⟨fromHome, some h, n, own, data, gen⟩] }

/-- Tokens sent by hamlet `o` to hamlet `h`, of a line homed at module `m`. -/
def sendHam (m : Nat) (l : Line) (o h n : Nat) (own : Bool) (gen : BitVec 8) : Line :=
  let data := l.valid.contains o
  { takeHeld l o n with owner := if own then none else l.owner,
                        flight := l.flight ++ [⟨fromHam m o, some h, n, own, own || data, gen⟩] }

/-- Every holder but `h` sends all its tokens to `h` (R344, R345), but for those on a stopped die (R385). -/
def sendAll (s : State) (m : Nat) (l : Line) (h : Nat) (gen : BitVec 8) : Line :=
  let own := l.owner.isNone && !ownerFlies l
  let l1 := if l.home = 0 then l else sendHome l h l.home own own gen
  let l2 := (l.held.filter (fun q => q.1 != h && q.2 != 0 && !stoppedHam s q.1)).foldl
    (fun a q => sendHam m a q.1 h q.2 (l.owner = some q.1) gen) l1
  { l2 with hint := hintSet m l2 }

/-- The answer to a transient read (R344): data and one token, or the owner token with the data; an owner token under way, or on a
stopped die (R385), gives nothing. -/
def answerRead (s : State) (m : Nat) (l : Line) (h : Nat) (gen : BitVec 8) : Line :=
  if ownerFlies l then l
  else
    let l' := match l.owner with
      | none => if 2 ≤ l.home then sendHome l h 1 false true gen else sendHome l h l.home true true gen
      | some o => if o = h || stoppedHam s o then l else if 2 ≤ tget l.held 0 o then sendHam m l o h 1 false gen else sendHam m l o h 1 true gen
    { l' with hint := hintSet m l' }

/-- Hamlet key of a hamlet. -/
def keyOfHam (h : HamRef) : Nat := hamKey h.m h.d h.h

/-- The oldest message to hamlet `h` arrives; one of an older GEN than the page's is discarded (R346). -/
def arriveTok (m : Nat) (l : Line) (h : Nat) (gen : BitVec 8) : Line :=
  match l.flight.findIdx? (fun t => t.toHam = some h) with
  | none => l
  | some i =>
    (match l.flight[i]? with
     | none => l
     | some t =>
       let l0 := { l with flight := dropAt l.flight i }
       let l' := if t.gen = gen then deliverTok l0 t else l0
       { l' with hint := hintSet m l' })

/-- TRANSIENT_REQUEST (R344): a request reaches the home, which answers and forwards it; or, with `arrive`, a message on its way
reaches the hamlet. -/
def execTransientRequest (l : LineRef) (h : HamRef) (write arrive : Bool) (s : State) : Out_ :=
  let ln := lineAt s l
  let k := keyOfHam h
  let gen := (pageAt s (pageOfLine l)).gen
  if arrive then .next (if ln.flight.any (fun t => t.toHam = some k) && !(pageAt s (pageOfLine l)).frozen then
    setLine s l (arriveTok l.m ln k gen) else s)
  else if !mayToken s l h write || persistBlocks ln k then .next s
  else if write then .next (setLine s l { sendAll s l.m ln k gen with mvalid := false })
  else if tget ln.held 0 k != 0 && ln.valid.contains k then .next s
  else .next (setLine s l (answerRead s l.m ln k gen))

/-- TOKEN_ATTEMPT_TIMEOUT (R344): an attempt that 2048 cycles have not satisfied has failed (log 8): one to write, and one to read where
the hamlet cannot read either. -/
def execTokenAttemptTimeout (l : LineRef) (h : HamRef) (s : State) : Out_ :=
  let ln := lineAt s l
  let k := keyOfHam h
  let more := fun (t : Tbl Nat) (i : Nat) => tput t i (tget t 0 i + 1)
  .next (if mayToken s l h false && tget ln.held 0 k != allTokens then
    setLine s l { ln with tries := if hasTokens ln k false then more ln.tries (2 * k + 1)
                                   else more (more ln.tries (2 * k)) (2 * k + 1) } else s)

/-- PERSISTENT_REQUEST (R345): after a third failed attempt, in the order of arrival. -/
def execPersistentRequest (l : LineRef) (h : HamRef) (write : Bool) (s : State) : Out_ :=
  let ln := lineAt s l
  let k := keyOfHam h
  .next (if mayToken s l h write && decide (3 ≤ tget ln.tries 0 (2 * k + (if write then 1 else 0))) &&
      !ln.persist.any (fun q => q.1 = k) then
    setLine s l { ln with tries := tdel (tdel ln.tries (2 * k)) (2 * k + 1), persist := ln.persist ++ [(k, write)] } else s)

/-- PERSISTENT_ACTIVATION (R345): every holder sends its tokens to the first requester; messages under way reach a holder that
sends them on, and so count as sent to it. -/
def execPersistentActivation (l : LineRef) (s : State) : Out_ :=
  let ln := lineAt s l
  match ln.persist with
  | [] => .next s
  | (k, write) :: _ =>
    if pageHeld s (pageOfLine l) write then .next s
    else
      let fl := ln.flight.map (fun t => { t with toHam := some k })
      let l1 := sendAll s l.m { ln with active := true, served := false, flight := fl } k (pageAt s (pageOfLine l)).gen
      .next (setLine s l (if write then { l1 with mvalid := false } else l1))

/-- An access of a core of hamlet `h` that is still to be performed wants the line. -/
def wantsLine (s : State) (l : LineRef) (h : HamRef) : Bool :=
  let here := fun (w : SlotRef) (pkey : BitVec 32) (supv : Bool) (us : List AccUnit) => us.any (fun u =>
    match resolve s (whoAs s w pkey supv) u.va false with | .line _ l' _ _ _ _ => decide (l' = l) | _ => false)
  (hamCores s h).any (fun c =>
    (slotsOf c).any (fun w => (slotAt s w).outs.any (fun o => here w o.pkey o.supv (o.units.filter (·.val.isNone)))) ||
      ((coreAt s c).sbuf ++ (coreAt s c).fq).any (fun e => here (slotOf c 0) e.pkey e.supv e.units))

/-- The hamlet of a key. -/
def hamOfKey (k : Nat) : HamRef := ⟨k / 64 / 16, k / 64 % 16, k % 64⟩

/-- PERSISTENT_DEACTIVATION (R345): the requester has performed its access, or has none any more. -/
def execPersistentDeactivation (l : LineRef) (s : State) : Out_ :=
  let ln := lineAt s l
  match ln.persist with
  | [] => .next s
  | (k, _) :: r =>
    .next (if ln.active && (ln.served || !wantsLine s l (hamOfKey k)) then
      setLine s l { ln with active := false, served := false, persist := r } else s)

/-- LINE_EVICTION (R344). -/
def execLineEviction (l : LineRef) (h : HamRef) (s : State) : Out_ :=
  .next (if (tfind s.lines (lineKey l)).isSome && tget (lineAt s l).held 0 (keyOfHam h) != 0 &&
      !(pageAt s (pageOfLine l)).frozen && !stoppedHam s (keyOfHam h) then returnHam s l (keyOfHam h) else s)

/-! ### Recovery (R346, R347, R350) -/

/-- A lost member as recorded: a die or module as HINT names it, or, for the homes of other modules, 64 + the die's key. -/
def lostKey (m : Nat) (lost : List Nat) (key : Nat) : Bool :=
  lost.contains (hintOfKey m key) || lost.contains (64 + key / 64)

/-- Freezes the pages with a line that a test names, and starts their recovery (R346 step 1). -/
def freezePages (s : State) (member : Nat) (f : LineRef → Line → Bool) : State :=
  s.lines.foldl (fun s q =>
    let p := pageOfLine (lineOfKey q.1)
    let x := pageAt s p
    if !f (lineOfKey q.1) q.2 || x.recovering.contains member then s
    else setPage s p { x with gen := x.gen + 1, frozen := true, recovering := x.recovering ++ [member] }) s

/-- One line of a frozen page after the recovery. A message from or toward a lost holder has arrived, or is lost, or is resent to
the home, as it happens (log 6); every survivor returns its tokens; the missing ones are made anew. -/
def recoverLine (s : State) (l : LineRef) (lost : List Nat) : State :=
  let ln := lineAt s l
  let gone := fun t : TokMsg => lost.contains t.fromDie || (match t.toHam with | some k => lostKey l.m lost k | none => false)
  let back := (ln.flight.mapIdx (fun i t => (i, t))).filter (fun q =>
    !gone q.2 || Config.freePick (s.clk + l.ln + q.1) % 2 = 1)
  let returned := match ln.owner with
    | some o => !lostKey l.m lost o
    | none => if ownerFlies ln then back.any (fun q => q.2.owner) else true
  let s1 := setLine s l { tokHome ln with persist := [], active := false, served := false, tries := [] }
  match walkPage s l.m l.tag (l.ln * 128) with
  | .leaf e at_ =>
    let s2 := if returned then settleD s1 ln at_ else s1
    if returned || ln.mvalid then s2 else setPoison s2 (physFlat l.m (leafPa e (l.ln * 128)))
  | _ => s1

/-- TOKEN_RECOVERY_COMPLETE (R346 step 4, R347): every survivor has reported; the recoveries of dies that waited for it go on
(R335). -/
def execTokenRecoveryComplete (p : PageRef) (s : State) : Out_ :=
  let x := pageAt s p
  if x.recovering.isEmpty || !modUp s p.m then .next s
  else
    let s1 := s.lines.foldl (fun s q =>
      if pageOfLine (lineOfKey q.1) = p then recoverLine s (lineOfKey q.1) x.recovering else s) s
    let s2 := setPage s1 p { pageAt s1 p with frozen := false, recovering := [] }
    .next (s2.mods.foldl (fun s q => recover s q.1) (stepDone s2 p.m))

/-! ### Lost dies (R335, R348, R349) -/

/-- Neighbours of a site (R332); a tier die `d` has the number 32 + `d`. -/
def siteNbrs (site : Nat) : List Nat :=
  let r := site / 6
  let c := site % 6
  (if r = 0 then [32 + 16 + c] else [site - 6]) ++ (if r = 2 then [32 + 22 + c] else [site + 6]) ++
    (if c = 0 then [32 + 28] else [site - 1]) ++ (if c = 5 then [32 + 29] else [site + 1])

/-- Both service processors hold the diagnosis (R386). The list of one that has failed stands for what two voters have confirmed. -/
def agreed (x : Mod) (t : Nat) : Bool := (x.sp.aliveA || x.sp.aliveB) && x.sp.diagA.contains t && x.sp.diagB.contains t

/-- The uncommitted cuts of the launches with a die commit nothing (R388). -/
def failCuts (s : State) (m k : Nat) : State :=
  (s.cmds.filter (fun c => c.w.m = m && c.op = .ckpt && c.sub = 0 && c.st = .begun && (match launchAt s (cutLaunch c) with
    | some x => x.record.dies.contains k
    | none => false))).foldl (fun s c => failCut s c 8 0) s

/-- The recoveries of a module with one for a die that has failed: in its turn, or in the place of the die's evacuation (R388). -/
def queueFailure (w : List Recov) (k : Nat) : List Recov :=
  if w.any (·.die = k) then w.map (fun r => if r.die = k then ⟨k, false, 0⟩ else r) else w ++ [⟨k, false, 0⟩]

/-- A compute die is declared failed: step 1 of R335, and the start of step 2, which waits for no other recovery. Its later steps
come in their turn (R388). -/
def declareDie (s : State) (m site : Nat) : State :=
  let x := modAt s m
  let k := dieAtSite x.dmap site
  let links := (siteNbrs site).map (fun n => (site, n))
  let s := stepDone (setMod s m { x with
    dmap := { x.dmap with fail := x.dmap.fail ||| (1#18 <<< site) },
    deadLinks := x.deadLinks ++ links.filter (fun q => !x.deadLinks.contains q) }) m
  match k with
  | none => s
  | some k =>
    let s := freezePages s k (fun l ln => l.m = m && (ln.hint.contains k || (hintSet m ln).contains k ||
      ln.flight.any (fun t => t.fromDie = k)))
    let away := fun key : Nat => key / 64 = m * 16 + k
    let s := freezePages s (64 + m * 16 + k) (fun l ln => l.m != m && (ln.held.any (fun q => away q.1) ||
      ln.flight.any (fun t => match t.toHam with | some h => away h | none => false)))
    let s := dropEngines (failCuts s m k) m k 8
    recover (setWork s m (queueFailure (modAt s m).sp.work k)) m

/-- DIE_FAILURE_DECLARED (R335, R386). -/
def execDieFailureDeclared (m site : Nat) (s : State) : Out_ :=
  let x := modAt s m
  if !modUp s m || 18 ≤ site || x.dmap.fail.getLsbD site || !agreed x site then .next s
  else .next (declareDie s m site)

/-- A die after a reset or a takeover: its slots, cores and mills as after reset, its local stores unspecified (R335). -/
def freshDie (s : State) (m k : Nat) : State :=
  let mine := fun key : Nat => key / 512 = m * 16 + k
  let a := localFlat ⟨m, k, 0⟩ 0
  let mem := (List.range (384 * 2 ^ 20)).foldl (fun t i => memPut t (a + i) (Config.freeByte s.clk i)) s.mem
  let x := modAt s m
  setMod { s with slots := s.slots.filter (fun q => !mine (q.1 / 4)), cores := s.cores.filter (fun q => !mine q.1),
                  hams := s.hams.filter (fun q => q.1 / 64 != m * 16 + k), mem := mem,
                  ecc := s.ecc.filter (fun q => !(decide (a / 8 ≤ q.1) && decide (q.1 < a / 8 + 2 ^ 26))) }
    m { x with dies := tdel x.dies k }

/-- Both service processors agree that the die's site has failed, or that the die is to be evacuated and reset (R386). -/
def agreedDie (x : Mod) (die : Nat) : Bool := agreed x (siteOf x.dmap die) || agreed x (128 + siteOf x.dmap die)

/-- The recovery at the head is that of a die. -/
def atHead (x : Mod) (r : Recov) : Bool := x.sp.work.head? = some r

/-- SPARE_TAKEOVER (R335 step 4, R386, R388): in its turn, a spare that fails its test is marked in FAIL; else it takes the first
free field. -/
def execSpareTakeover (m die site : Nat) (testOk : Bool) (s : State) : Out_ :=
  let x := modAt s m
  let d := x.dmap
  if !modUp s m || 16 ≤ die || dieMapped d die || !spareSite d site || !takeoverFree d || !agreedDie x die ||
      !atHead x ⟨die, false, 1⟩ then .next s
  else if !testOk then
    .next (recover (stepDone (setMod s m { x with dmap := { d with fail := d.fail ||| (1#18 <<< site) } }) m) m)
  else
    let d' := if !d.xv0 then { d with xs0 := BitVec.ofNat 5 site, xl0 := BitVec.ofNat 4 die, xv0 := true }
      else { d with xs1 := BitVec.ofNat 5 site, xl1 := BitVec.ofNat 4 die, xv1 := true }
    .next (recover (stepDone (freshDie (setMod s m { x with dmap := d' }) m die) m) m)

/-- Sets what is known of a die. -/
def putDie (s : State) (m k : Nat) (f : DieSt → DieSt) : State :=
  let x := modAt s m
  setMod s m { x with dies := tput x.dies k (f (dieSt x k)) }

/-- DIE_EVACUATION (R348, R388): the recovery of the die is queued; in its turn the slots of the die stop, and then every hamlet
cache returns its tokens; those of a page frozen for another die come home once it is thawed (R346). -/
def execDieEvacuation (m die : Nat) (s : State) : Out_ :=
  let x := modAt s m
  let d := dieSt x die
  if !modUp s m || 16 ≤ die || !dieMapped x.dmap die || d.stopped || !agreed x (128 + siteOf x.dmap die) then .next s
  else
    let s := if x.sp.work.any (·.die = die) then s else setWork s m (x.sp.work ++ [⟨die, true, 0⟩])
    if !atHead (modAt s m) ⟨die, true, 0⟩ then .next s
    else if !d.evacuating then
      .next (putDie (stopLaunches (stepDone s m) m die false) m die (fun d => { d with evacuating := true }))
    else
      let mine := fun h : Nat => h / 64 = m * 16 + die
      let s := s.lines.foldl (fun s q =>
        (q.2.held.map (·.1)).foldl (fun s h => if mine h then returnHam s (lineOfKey q.1) h else s) s) s
      let left := s.lines.any (fun q => q.2.held.any (fun h => h.2 != 0 && mine h.1))
      .next (if left then s else putDie s m die (fun d => { d with evacuated := true }))

/-- EVACUATION_TIMEOUT (R348, R386): the die is declared failed. -/
def execEvacuationTimeout (m die : Nat) (s : State) : Out_ :=
  let x := modAt s m
  let d := dieSt x die
  if modUp s m && d.evacuating && !d.evacuated && dieMapped x.dmap die && agreedDie x die then
    .next (declareDie (putDie s m die (fun d => { d with evacuating := false })) m (siteOf x.dmap die))
  else .next s

/-- CONTROLLED_RESET (R348, R386): the recovery of the die is over. -/
def execControlledReset (m die : Nat) (s : State) : Out_ :=
  let x := modAt s m
  if modUp s m && (dieSt x die).evacuated && dieMapped x.dmap die && agreed x (128 + siteOf x.dmap die) &&
      atHead x ⟨die, true, 0⟩ then
    .next (recover (setWork (dropEngines (freshDie (stepDone s m) m die) m die 8) m x.sp.work.tail) m)
  else .next s

/-- A loss that is recovered from in its turn (R388). -/
def declareLoss (s : State) (m code : Nat) : State :=
  let s := stepDone s m
  recover (setWork s m ((modAt s m).sp.work ++ [⟨code, false, 0⟩])) m

/-- TIER_DIE_LOSS (R349, R386, R388, R391): accesses to what stands on the die wait until the recovery comes to it. -/
def execTierDieLoss (m die : Nat) (s : State) : Out_ :=
  let y := modAt s m
  if !modUp s m || die < 16 || 30 ≤ die || y.lostTier.contains die || lossDue y (32 + die) || !agreed y (32 + die) then .next s
  else .next (declareLoss s m (32 + die))

/-- HBM4E_STACK_LOSS (R388, R391). -/
def execHbm4eStackLoss (m stack : Nat) (s : State) : Out_ :=
  let y := modAt s m
  if !modUp s m || 24 ≤ stack || y.lostStacks.contains stack || lossDue y (64 + stack) then .next s
  else .next (declareLoss s m (64 + stack))

/-! ### Links (R339-R341) -/

/-- LINK_DEAD_DECLARED (R340): a link between two neighbours, a tier die `d` written as 32 + `d`. -/
def execLinkDeadDeclared (m a b : Nat) (s : State) : Out_ :=
  let x := modAt s m
  let joined := (decide (a < 18) && (siteNbrs a).contains b) || (decide (b < 18) && (siteNbrs b).contains a)
  if !modUp s m || !joined || x.deadLinks.contains (a, b) || x.deadLinks.contains (b, a) then .next s
  else .next (setMod s m { x with deadLinks := x.deadLinks ++ [(a, b)] })

/-- The live links of a module, both ways round: sites, and tier dies as 32 + their number. -/
def liveLinks (x : Mod) : List (Nat × Nat) :=
  let dead := fun (a b : Nat) => x.deadLinks.contains (a, b) || x.deadLinks.contains (b, a)
  (List.range 18).flatMap (fun a => ((siteNbrs a).filter (fun b => !dead a b)).flatMap (fun b => [(a, b), (b, a)]))

/-- What can be reached along links from a list of places in at most `n` steps. -/
def reached (links : List (Nat × Nat)) (from_ : List Nat) (n : Nat) : List Nat :=
  match n with
  | 0 => from_
  | n + 1 =>
    let more := nubNat (from_ ++ (links.filter (fun l => from_.contains l.1)).map (·.2))
    if more.length = from_.length then from_ else reached links more n

/-- The mapped dies that no route reaches: from them fewer than half of the mapped dies can be reached, which R340 leaves open
(DESIGN CHOICE, log 39). -/
def cutOff (x : Mod) : List Nat :=
  let sites := ((List.range 16).filter (dieMapped x.dmap)).map (siteOf x.dmap)
  let links := liveLinks x
  if x.deadLinks.isEmpty then []
  else sites.filter (fun a => decide (2 * ((reached links [a] 32).filter (sites.contains ·)).length < sites.length))

/-- ROUTE_TABLE_REWRITE (R340): traffic goes round the dead links, and no packet is lost or delivered twice, so that no value
changes; a die that no route reaches is declared failed, once both service processors agree (R335, R386). -/
def execRouteTableRewrite (m : Nat) (s : State) : Out_ :=
  let x := modAt s m
  .next (if modUp s m then ((cutOff x).filter (agreed x)).foldl (fun s site => declareDie s m site) (stepDone (setMod s m { x with routed := x.deadLinks }) m)
    else s)

end Sys2Proof.Machine
end

