-- ==== Sys2Proof/Machine/EvFabric.lean ====
section
/-!
DEFINITION. The events of the fabric: channels, leases with their reclaim and revocation, lease events, rebuilt rows, and hosts
(R360-R362, R365-R382).
-/

namespace Sys2Proof.Machine

/-! ### Channels -/

/-- FABRIC_CHANNEL_DEAD (R362): the pair loses bandwidth and nothing else. -/
def execFabricChannelDead (m peer channel : Nat) (s : State) : Out_ :=
  let x := modAt s m
  let c := peer * 48 + channel
  if !modUp s m || 32 ≤ peer || peer = m || 48 ≤ channel || x.deadChans.contains (peer, c) then .next s
  else .next (setMod s m { x with deadChans := x.deadChans ++ [(peer, c)] })

/-! ### Lease entries (R369, R370) -/

/-- The lease in a list by its number. -/
def leaseAt (ls : List Lease) (id : Nat) : Option Lease := ls.find? (fun l => l.id = id && !l.revoked)

/-- Updates a lease of a list. -/
def onLease (ls : List Lease) (id : Nat) (f : Lease → Lease) : List Lease :=
  ls.map (fun l => if l.id = id && !l.revoked then f l else l)

/-- Updates the lender's entry of a lease. -/
def putLend (s : State) (m id : Nat) (f : Lease → Lease) : State :=
  setMod s m { modAt s m with lend := onLease (modAt s m).lend id f }

/-- The borrower's copy of a lease. -/
def isMirror (lender id : Nat) (host : Bool) (l : Lease) : Bool :=
  l.id = id && l.host = host && (host || l.lender = lender) && !l.revoked

/-- Updates the borrower's copy of a lease. -/
def putBorrow (s : State) (b lender id : Nat) (host : Bool) (f : Lease → Lease) : State :=
  setMod s b { modAt s b with borrow := (modAt s b).borrow.map (fun l => if isMirror lender id host l then f l else l) }

/-- PBASE and SIZE lie in populated HBM4E or LPDDR-6 that is not lost (R369). -/
def leaseFrames (x : Mod) (pbase size : Nat) : Bool :=
  decide (pbase % 2 ^ 30 = 0) &&
    (decide (pbase + size * 2 ^ 30 ≤ 0x18000000000) ||
      (decide (0x100000000000 ≤ pbase) && decide (pbase + size * 2 ^ 30 ≤ 0x120000000000))) &&
    (List.range size).all (fun i => !lostSoon x (pbase + i * 2 ^ 30))

/-- The legal values of R369, and no overlap with another valid entry (R385). A lease's number is one among the leases and the outbound
host windows of the module, since R370 renews and ends either by it. -/
def leaseLegal (s : State) (m : Nat) (e : LeaseArg) : Bool :=
  let x := modAt s m
  let n := e.size * 2 ^ 30
  let lent := x.lend.filter (fun l => !l.revoked)
  let outward := x.borrow.filter (fun l => l.host && !l.revoked)
  let free := fun l : Lease => !overlaps (l.pbase, l.size * 2 ^ 30) (e.pbase, n)
  decide (1 ≤ e.size) && decide (e.id < 65536) && e.lva.toNat % 2 ^ 30 = 0 && (lent ++ outward).all (fun l => l.id != e.id) &&
    (if e.host then e.window && outward.all free
     else
      modUp s e.borrower && e.borrower != m && leaseFrames x e.pbase e.size && regionOf e.lva.toNat = some 2 &&
        decide (e.lva.toNat + n ≤ 0x100000000000000) && (e.window || !x.torus || torusNear s m e.borrower) && lent.all free)

/-- A region reads as zero before it is lent (R369). -/
def zeroRegion (s : State) (m pbase size : Nat) : State :=
  let a := physFlat m pbase
  let b := a + size * 2 ^ 30
  let out := fun (k w : Nat) => !(decide (a / w ≤ k) && decide (k < b / w))
  { s with mem := s.mem.filter (fun p => out p.1 1), ecc := s.ecc.filter (fun q => out q.1 8),
           poison := s.poison.filter (fun q => out q.1 128) }

/-- Entry `i` of the table a lease goes to holds an active lease: of the lender's table, or of the outbound host windows. -/
def entryUsed (x : Mod) (i : Nat) (host : Bool) : Bool :=
  (if host then x.borrow.filter (·.host) else x.lend).any (fun l => l.ix = i && !l.revoked)

/-- LEASE_GRANT (R369, R370, R385): firmware writes entry `i` of the 256, where no active lease stands; a write that breaks the
legal values is refused. A host lease is an outbound host window of module `m` (R382). -/
def execLeaseGrant (m i : Nat) (e : LeaseArg) (s : State) : Out_ :=
  let x := modAt s m
  if !modUp s m || 256 ≤ i || entryUsed x i e.host || !leaseLegal s m e then .next s
  else
    let l : Lease := ⟨i, e.id, m, if e.host then m else e.borrower, e.window, false, false, e.size, e.pbase, e.lva, e.expiry, 0,
      e.host, true, []⟩
    let others := fun ls : List Lease => ls.filter (fun k => !(k.ix = i && k.lender = m && k.host = e.host && k.revoked))
    let s := if e.host then s else
      let s := zeroRegion s m e.pbase e.size
      setMod s m { modAt s m with lend := others (modAt s m).lend ++ [l] }
    .next (setMod s l.borrower { modAt s l.borrower with borrow := others (modAt s l.borrower).borrow ++ [l] })

/-- LEASE_RENEWAL (R370): of a lease of the lender's table, or of an outbound host window (R382). -/
def execLeaseRenewal (m id : Nat) (expiry : Word) (s : State) : Out_ :=
  let later := fun l : Lease => modUp s m && !l.reclaiming && decide (l.expiry < expiry) && decide (s.tick < l.expiry)
  let set := fun l : Lease => { l with expiry := expiry }
  match leaseAt (modAt s m).lend id, (modAt s m).borrow.find? (isMirror m id true) with
  | some l, _ => .next (if later l then putBorrow (putLend s m id set) l.borrower m id false set else s)
  | none, some l => .next (if later l then putBorrow s m m id true set else s)
  | none, none => .next s

/-! ### Pages in a region, and lease events (R371-R374) -/

/-- The pages that a borrower's tables map into a lease's region. -/
def leasePages (s : State) (b : Nat) (l : Lease) : List (PageRef × Word × Nat) :=
  (modPages s b).filter (fun q =>
    let pa := leafPa q.2.1 (q.1.pn * 65536)
    (leafMode q.2.1 = 1 || leafMode q.2.1 = 2) && decide (l.pbase ≤ pa) && decide (pa < l.pbase + l.size * 2 ^ 30) &&
      (if l.host then leafMode q.2.1 = 1 && leafPeer q.2.1 = b else leafPeer q.2.1 = l.lender && leafPeer q.2.1 != b))

/-- Notes what has happened to a page of a tag. -/
def noteMoved (t : Tbl Moved) (tag pn : Nat) (moved lost : Nat) : Tbl Moved :=
  match tfind t tag with
  | some x => tput t tag ⟨min x.low pn, x.moved + moved, x.lost + lost⟩
  | none => tput t tag ⟨pn, moved, lost⟩

/-- A lease event to one launch: to EP0, and to EP1 when that refuses it (R374). -/
def sendEvent (s : State) (b : Nat) (x : Launch) (c : Option CoreRef) (ws : List Word) : State :=
  let y := match c with
    | some c => (match tfind x.cores (coreKey c.m c.d c.c) with | some k => k | none => coreAt s c)
    | none => Core.reset
  let e0 := match c with | some _ => y.fsup0 | none => x.record.fsup0
  let e1 := match c with | some _ => y.fsup1 | none => x.record.fsup1
  { s with net := s.net ++ [⟨⟨b, 0, 0, 0⟩, epaMod b e0, e0, mkEntry 0 3 (epaSlot e0) ws, none, false, .event e1, none⟩] }

/-- The events of a lease: one per affected tag, to every running or saved launch of the ASID, or of the module (R374). -/
def leaseEvents (s : State) (b kind : Nat) (l : Lease) (tags : Tbl Moved) : State :=
  tags.foldl (fun s q =>
    let asid := if q.1 = globalTag then 0 else q.1
    let ws : List Word := [BitVec.ofNat 64 (kind + l.id % 2 ^ 16 * 2 ^ 8 + l.lender % 32 * 2 ^ 24),
      BitVec.ofNat 64 (q.2.low * 65536), BitVec.ofNat 64 (q.2.moved % 2 ^ 32 + q.2.lost % 2 ^ 32 * 2 ^ 32), s.tick,
      BitVec.ofNat 64 asid, 0, 0]
    (launchesOf s b (fun x => x.phase != .ended && x.phase != .reset &&
        (q.1 = globalTag || x.record.asid.toNat = q.1))).foldl (fun s r =>
      match launchAt s r with
      | some x => sendEvent s b x (launchCores s b x.record).head? ws
      | none => s) s) s

/-- The tags with a page in the region, none of them moved. -/
def regionTags (qs : List (PageRef × Word × Nat)) : Tbl Moved :=
  qs.foldl (fun t q => noteMoved t q.1.tag q.1.pn 0 0) []

/-- The pins of pages are dropped, those of walked tasks too (R200, R235). -/
def dropPins (s : State) (ps : List PageRef) : State :=
  let task := fun t : Task => match t with
    | .walked a b pins d => .walked a b (pins.filter (fun p => !ps.contains p)) d
    | t => t
  let slot := fun x : Slot => { x with task := task x.task }
  if ps.isEmpty then s
  else { s with
    slots := s.slots.map (fun q => (q.1, slot q.2)),
    cores := s.cores.map (fun q => (q.1, { q.2 with
      pins := q.2.pins.filter (fun p => !ps.contains p.page),
      swapped := q.2.swapped.map (fun t => { t with slot := slot t.slot }) })) }

/-- A lease is revoked at both ends, the pins of its pages are dropped, and the borrower hears of it (R235, R373, R374). -/
def revokeWindow (s : State) (l : Lease) (kind : Nat) : State :=
  let qs := leasePages s l.borrower l
  let tags := regionTags qs
  let s := dropPins s (qs.map (·.1))
  let mark := fun l : Lease => { l with revoked := true }
  let s := if l.host then s else putLend s l.lender l.id mark
  leaseEvents (putBorrow s l.borrower l.lender l.id l.host mark) l.borrower kind l tags

/-- The WINDOW lease with a number that ends at module `m`: one that it lends, or an outbound host window (R382). -/
def windowAt (s : State) (m id : Nat) : Option Lease :=
  match (leaseAt (modAt s m).lend id).filter (·.window) with
  | some l => some l
  | none => (modAt s m).borrow.find? (fun l => isMirror m id true l)

/-- WINDOW_REVOCATION (R373). -/
def execWindowRevocation (m id : Nat) (s : State) : Out_ :=
  match windowAt s m id with
  | some l => .next (if modUp s m then revokeWindow s l 2 else s)
  | none => .next s

/-- The lender sets RECLAIMING and sends RECLAIM (R371 step 1). -/
def sendReclaim (s : State) (m : Nat) (l : Lease) : State :=
  let mark := fun l : Lease => { l with reclaiming := true, t0 := s.tick.toNat }
  putBorrow (putLend s m l.id mark) l.borrower m l.id false mark

/-- LEASE_EXPIRY (R370, R371): RECLAIM of a LEND lease is sent, a WINDOW lease is revoked. -/
def execLeaseExpiry (m id : Nat) (s : State) : Out_ :=
  if !modUp s m then .next s
  else match (leaseAt (modAt s m).lend id).filter (fun l => !l.window) with
    | some l =>
      .next (if l.reclaiming || s.tick < l.expiry then s else sendReclaim s m l)
    | none =>
      match windowAt s m id with
      | some l => .next (if s.tick < l.expiry then s else revokeWindow s l 2)
      | none => .next s

/-! ### Switching pages (R371, R372) -/

/-- Frames that a leaf needs: 256 for a 16 MiB page. -/
def leafFrames (e : Word) : Nat := if leafPs e = 1 then 256 else 1

/-- The zones for a page that becomes local (R371 step 3): LPDDR-6 as R356 places it, and CXL.mem once that is full. -/
def localZones (x : Mod) (used : List Nat) (slice : Nat) : List (List Zone) :=
  tierZones x used .lpddr slice ++ tierZones x used .cxl slice

/-- The first frame chosen for a page is one that R356 allows: free, aligned, and in the best zones with room. -/
def frameFits (x : Mod) (used : List Nat) (slice : Nat) (e : Word) (f : Nat) : Bool :=
  f % leafFrames e = 0 && (List.range (leafFrames e)).all (fun i => frameFree x used (f + i)) &&
    (match (localZones x used slice).find? (fun g => (freeIn x used (leafFrames e) 0 g).isSome) with
     | some g => g.any (fun z => decide (z.1 ≤ f) && decide (f < z.1 + z.2))
     | none => false)

/-- A frame that fits, if there is one; `k` picks among them. -/
def anyFrame (x : Mod) (used : List Nat) (slice : Nat) (e : Word) (k : Nat) : Option Nat :=
  (localZones x used slice).findSome? (freeIn x used (leafFrames e) k)

/-- The leaf of a switched page: MODE 0, PEER 0, the new frame, and D, which an engine's writes set (R204, R371 step 4). -/
def switchedLeaf (e : Word) (f : Nat) : Word := leafWithFrame (localLeaf e) f ||| BitVec.ofNat 64 bitD

/-- The page number that a leaf begins at. -/
def leafPage (e : Word) (p : PageRef) : PageRef := if leafPs e = 1 then { p with pn := p.pn / 256 * 256 } else p

/-- Where the lender keeps the bytes of a borrowed page: the frame its own tables give for the lease's VA. -/
def lentFlat (s : State) (l : Lease) (pa : Nat) : Nat :=
  let lva := l.lva.toNat + (pa - l.pbase)
  match walkPage s l.lender globalTag lva with
  | .leaf e _ => physFlat l.lender (leafPa e lva)
  | _ => physFlat l.lender pa

/-- The frame for a page: the first that the list offers and that fits, else any when `force`. -/
def chooseFrame (s : State) (p : PageRef) (e : Word) (fs : List Nat) (force : Bool) : Option Nat :=
  let x := modAt s p.m
  let used := usedFrames s p.m
  let slice := liveSlice x (homeOf x p.tag (p.pn * 65536)).1
  match fs.find? (frameFits x used slice e) with
  | some f => some f
  | none => if force then anyFrame x used slice e (Config.freePick s.clk) else none

/-- The contents that a switched page takes. -/
inductive NewBytes where
  | copy
  | poison
  | rebuild

/-- Fills the frames of a switched page; a rebuilt one from the borrower's own committed block, where it has one, else from that of the
lender's page (R373). -/
def fillSwitched (s : State) (l : Lease) (p : PageRef) (e : Word) (f : Nat) (how : NewBytes) : State × Bool :=
  let n := leafFrames e
  let pa := fun i => (leafFrame e + i) * 65536
  match how with
  | .copy => ((List.range n).foldl (fun s i => copyFrame s (lentFlat s l (pa i)) (physFlat p.m ((f + i) * 65536))) s, true)
  | .poison => ((List.range n).foldl (fun s i => poisonFrame s p.m (f + i)) s, false)
  | .rebuild =>
    (List.range n).foldl (fun r i =>
      let q : PageRef := ⟨l.lender, globalTag, (l.lva.toNat + (pa i - l.pbase)) / 65536⟩
      let own : PageRef := { p with pn := p.pn + i }
      match (committedBlock r.1 own).or (committedBlock r.1 q) with
      | some bs => (fillFrame r.1 (physFlat p.m ((f + i) * 65536)) (blockMem bs), r.2)
      | none => (poisonFrame r.1 p.m (f + i), false)) (s, true)

/-- Makes a borrowed page local: the three steps of R192, with new contents. None when no frame is offered. -/
def switchPage (s : State) (l : Lease) (p : PageRef) (at_ : Nat) (fs : List Nat) (force : Bool) (how : NewBytes) :
    Option (State × Bool) :=
  let e : Word := BitVec.ofNat 64 (memRead s.mem at_ 8)
  match chooseFrame s p e fs force with
  | none => none
  | some f =>
    let s := recallPage s p
    let r := fillSwitched s l p e f how
    let s := r.1
    let s := { s with mem := memWrite s.mem at_ 8 (switchedLeaf e f).toNat }
    some (recallRange s p (leafFrames e), r.2)

/-- A borrowed page for which no frame can be found is made unmapped; its accesses fail with LEASE_REVOKED (R372). -/
def unmapPage (s : State) (p : PageRef) (e : Word) (at_ : Nat) : State :=
  let s := recallPage s p
  let s := { s with mem := memWrite s.mem at_ 8 0 }
  (List.range (leafFrames e)).foldl (fun s i =>
    let q : PageRef := { p with pn := p.pn + i }
    setPage s q { pageAt s q with tlb := false, count := 0, revoked := true }) s

/-- The distinct leaves of a list of pages. -/
def leavesOf (qs : List (PageRef × Word × Nat)) : List (PageRef × Word × Nat) :=
  qs.foldl (fun a q => if a.any (fun r => r.2.2 = q.2.2) then a else a ++ [(leafPage q.2.1 q.1, q.2.1, q.2.2)]) []

/-- A page of the borrower or of the lender that the lease's copy has to wait for: its lines are frozen, or its frame is lost (R346,
R349). -/
def copyWaits (s : State) (l : Lease) (p : PageRef) (e : Word) : Bool :=
  (List.range (leafFrames e)).any (fun i =>
    pageHeld s { p with pn := p.pn + i } false || pageStuck s { p with pn := p.pn + i } ||
      pageHeld s ⟨l.lender, globalTag, (l.lva.toNat + ((leafFrame e + i) * 65536 - l.pbase)) / 65536⟩ false)

/-- RECLAIM (R371 steps 1 to 4): the lender, whose firmware may end a LEND lease before it expires, sends RECLAIM; then the borrower
recalls its tokens, and copies and switches the pages for which the list offers frames. The copy goes on with the next such move. -/
def execReclaim (m id : Nat) (frames : List Nat) (s : State) : Out_ :=
  match leaseAt (modAt s m).lend id with
  | none => .next s
  | some l =>
    let b := l.borrower
    if l.window || !modUp s m || !modUp s b then .next s
    else if !l.reclaiming then .next (sendReclaim s m l)
    else
      let s := returnLines s b (fun r => r.m = m && r.tag = globalTag && decide (l.lva.toNat ≤ r.ln * 128) &&
        decide (r.ln * 128 < l.lva.toNat + l.size * 2 ^ 30))
      .next (((leavesOf (leasePages s b l)).filter (fun q => !copyWaits s l q.1 q.2.1)).foldl (fun s q =>
        match switchPage s l q.1 q.2.2 frames false .copy with
        | some (s', _) => putBorrow s' b m id false (fun k =>
            { k with tags := noteMoved k.tags q.1.tag q.1.pn 1 0 })
        | none => s) s)

/-- Tr (R369): 50 000 + SIZE × 2^30 / 64 TICK counts. -/
def reclaimTime (l : Lease) : Nat := 50000 + l.size * 2 ^ 24

/-- The borrower's copy of a lease. -/
def borrowed (s : State) (b lender id : Nat) : Option Lease := (modAt s b).borrow.find? (isMirror lender id false)

/-- RELEASE (R371 step 5): every page has been switched, and the deadline has not passed. -/
def execRelease (m id : Nat) (s : State) : Out_ :=
  match leaseAt (modAt s m).lend id with
  | none => .next s
  | some l =>
    let b := l.borrower
    if !l.reclaiming || l.window || !modUp s m || !modUp s b || !(leasePages s b l).isEmpty ||
        l.t0 + reclaimTime l < s.tick.toNat then .next s
    else
      let tags := match borrowed s b m id with | some k => k.tags | none => []
      let s := setMod s m { modAt s m with lend := (modAt s m).lend.filter (fun k => k.revoked || k.id != id) }
      let s := setMod s b { modAt s b with borrow := (modAt s b).borrow.filter (fun k => !isMirror m id false k) }
      .next (leaseEvents s b 1 l tags)

/-- The tokens that a module still holds of lines in a region are recovered (R346, R350, R372), each page with all its lines: GEN
goes up once for each. A page that is frozen for another member waits for that recovery, which then counts the module's tokens as lost too. -/
def recoverRegion (s : State) (l : Lease) : State :=
  let mine := fun q : Nat × Line =>
    let r := lineOfKey q.1
    r.m = l.lender && r.tag = globalTag && decide (l.lva.toNat ≤ r.ln * 128) &&
      decide (r.ln * 128 < l.lva.toNat + l.size * 2 ^ 30) && (hintSet r.m q.2).contains (16 + l.borrower)
  let ps := (s.lines.filter mine).foldl (fun a q =>
    let p := pageOfLine (lineOfKey q.1)
    if a.contains p then a else a ++ [p]) []
  ps.foldl (fun s p =>
    let x := pageAt s p
    if x.frozen then setPage s p { x with recovering := x.recovering ++ [16 + l.borrower] }
    else
      (s.lines.filter (fun q => pageOfLine (lineOfKey q.1) = p)).foldl (fun s q =>
        recoverLine s (lineOfKey q.1) [16 + l.borrower]) (setPage s p { x with gen := x.gen + 1 })) s

/-- The pages of a LEND lease that ends with its pages uncopied: each takes a local frame, or is made unmapped (R372, R373). -/
def endPages (s : State) (b : Nat) (l : Lease) (frames : List Nat) (how : NewBytes) : State × Tbl Moved :=
  (leavesOf (leasePages s b l)).foldl (fun r q =>
    match switchPage r.1 l q.1 q.2.2 frames true how with
    | some (s', true) => (s', noteMoved r.2 q.1.tag q.1.pn 1 0)
    | some (s', false) => (s', noteMoved r.2 q.1.tag q.1.pn 0 1)
    | none => (unmapPage r.1 q.1 q.2.1 q.2.2, noteMoved r.2 q.1.tag q.1.pn 0 1))
    (s, match (modAt s b).borrow.find? (isMirror l.lender l.id false) with | some k => k.tags | none => [])

/-- RECLAIM_DEADLINE (R372): TICK has reached t0 + Tr. -/
def execReclaimDeadline (m id : Nat) (frames : List Nat) (s : State) : Out_ :=
  match leaseAt (modAt s m).lend id with
  | none => .next s
  | some l =>
    if !l.reclaiming || l.window || !modUp s m || s.tick.toNat < l.t0 + reclaimTime l then .next s
    else
      let mark := fun k : Lease => { k with revoked := true }
      let s := dropPins (recoverRegion (putLend s m id mark) l) ((leasePages s l.borrower l).map (·.1))
      let r := endPages s l.borrower l frames .poison
      .next (leaseEvents (putBorrow r.1 l.borrower m id false mark) l.borrower 1 l r.2)

/-- The leases of a lender that has failed, as its borrowers handle them (R373, R374). -/
def lenderFailed (s : State) (m : Nat) : State :=
  (((modAt s m).lend.filter (fun l => !l.revoked))).foldl (fun s l =>
    let mark := fun k : Lease => { k with revoked := true }
    let qs := leasePages s l.borrower l
    let s := dropPins s (qs.map (·.1))
    let r := if l.window then (s, regionTags qs) else endPages s l.borrower l [] .rebuild
    leaseEvents (putBorrow (putLend r.1 m l.id mark) l.borrower m l.id false mark) l.borrower 3 l r.2) s

/-! ### Rows (R378) -/

/-- Free frames of a module for a leaf; which they are is not stated (log 17). -/
def spareFrame (s : State) (m : Nat) (e : Word) : Option Nat :=
  let x := modAt s m
  let zs := (List.range 24).map stackZone ++ [lpddrZone 28, lpddrZone 29] ++ cxlZones x 28 ++ cxlZones x 29
  freeIn x (usedFrames s m) (leafFrames e) (Config.freePick s.clk) zs

/-- One 64 KiB page of a leaf in its new frame: its committed version where it waits for that, else what it has. -/
def rebuildInto (s : State) (p : PageRef) (old new : Nat) : State :=
  match (pageAt s p).rebuild, committedBlock s p with
  | true, some bs => fillFrame s (physFlat p.m (new * 65536)) (blockMem bs)
  | _, _ => copyFrame s (physFlat p.m (old * 65536)) (physFlat p.m (new * 65536))

/-- The pages of a leaf in new frames, its lost ones rebuilt; none when there are no frames for them. -/
def rebuildLeaf (s : State) (p : PageRef) (e : Word) (at_ : Nat) (f : Option Nat) : Option State :=
  f.map (fun f =>
    let first := leafPage e p
    let s := recallPage s p
    let s := (List.range (leafFrames e)).foldl (fun s i =>
      let q : PageRef := { first with pn := first.pn + i }
      let s := rebuildInto s q (leafFrame e + i) (f + i)
      setPage s q { pageAt s q with rebuild := false }) s
    recallRange { s with mem := memWrite s.mem at_ 8 (leafWithFrame e f).toNat } first (leafFrames e))

/-- The page of an address of the checkpoint area has a frame: a new one in the far tier where its own is lost. -/
def freshArea (s : State) (m va : Nat) : Option State :=
  let x := modAt s m
  match walkPage s m globalTag va with
  | .leaf e at_ =>
    if !leafLocal e || !lostPa x (leafPa e va) then some s
    else rebuildLeaf s (pageOf m globalTag va) e at_ (freeIn x (usedFrames s m) (leafFrames e) (Config.freePick s.clk)
      ([lpddrZone 28, lpddrZone 29] ++ cxlZones x 28 ++ cxlZones x 29))
  | _ => some s

/-- A block written to its place in the module's checkpoint area (R378). -/
def rewriteCopy (s : State) (m : Nat) (va : Word) (bs : List Nat) : Option State :=
  ((freshArea s m va.toNat).bind (fun s => freshArea s m (va.toNat + 65535))).bind (fun s =>
    match areaCheck s m va 65536 with
    | .ok _ => some (devWords s (luWho m 0) va ((wordsOfBytes bs 8192).map (BitVec.ofNat 64)))
    | _ => none)

/-- The data block of a member is rebuilt: its lost copy is written again, and its page, if its frame is lost, takes the committed
version in a new frame. A block that no cut has committed has no version to take. None when it cannot be done. -/
def rebuildData (s : State) (m n : Nat) : Option State :=
  match pageInRow s m n with
  | none => some s
  | some p =>
    match committedVa s p false, committedBlock s p with
    | none, _ => some s
    | some _, none => none
    | some va, some bs =>
      (if (memberBlock s (m % 4) n (m / 4)).isSome then some s else rewriteCopy s m va bs).bind (fun s =>
        match (pageAt s p).rebuild, walkPage s m p.tag (p.pn * 65536) with
        | true, .leaf e at_ => rebuildLeaf s p e at_ (spareFrame s m e)
        | _, _ => some s)

/-- A lost parity block is recomputed (R378). -/
def rebuildParity (s : State) (set n t : Nat) : Option State :=
  let p := if parTray n 0 = t then 0 else 1
  let ds := (dataTrays n).filterMap (fun u => (rowBlock s set n u).map (fun b => (u, b)))
  if ds.length < 6 || !farUp s (4 * t + set) then none
  else
    let b := blockMem (rowSum n p ds)
    some (putRow s set n (fun r => if p = 0 then { r with par0 := b } else { r with par1 := b }))

/-- The lost block of a tray of a row is rebuilt, where that can be done, after the recoveries that its module has under way (R388); it
is lost no more. -/
def rebuildMember (set n : Nat) (s : State) (t : Nat) : State :=
  if !modUp s (4 * t + set) || !(modAt s (4 * t + set)).sp.work.isEmpty then s
  else match (if parTray n 0 = t || parTray n 1 = t then rebuildParity s set n t else rebuildData s (4 * t + set) n) with
    | some s =>
      let drop (us : List Nat) := us.filter (fun u => u != t)
      stepDone (putRow s set n (fun r => { r with lost := drop r.lost, gone := drop r.gone })) (4 * t + set)
    | none => s

/-- ROW_REBUILD (R378): the lost blocks of a current row are rebuilt; those of a stale one stay poisoned. -/
def execRowRebuild (set row : Nat) (s : State) : Out_ :=
  if 4 ≤ set || !rowCurrent s set row then .next s
  else .next ((nubNat ((rowAt s set row).lost ++ (rowAt s set row).gone)).foldl (rebuildMember set row) s)

/-! ### Hosts (R379-R382) -/

/-- A request is answered. -/
def answerHost (s : State) (r : HostReq) (a : HostAns) : State := { s with hostRsp := s.hostRsp ++ [(r, a)] }

/-- The port answers: the module is up and its Ethernet is on (R389, R390). -/
def portUp (s : State) (r : HostReq) : Bool :=
  let x := modAt s r.m
  modUp s r.m && !x.fenced && decide (r.port < 4) && x.ports.getLsbD r.port

/-- A window allows the request (R380): bit `right` of RIGHTS. -/
def hostAllowed (s : State) (r : HostReq) (n right : Nat) : Bool :=
  (modAt s r.m).wins.any (fun w =>
    decide (w.2.base ≤ r.va.toNat) && decide (r.va.toNat + n ≤ w.2.base + w.2.len) && w.2.rkey = r.rkey &&
      w.2.rights.getLsbD right && w.2.ports.getLsbD r.port)

/-- A host's accesses use the global tag and no region key. -/
def hostWho (r : HostReq) : Who := ⟨⟨r.m, 0, 0⟩, none, 0, none, false, none, true, .host⟩

/-- What a host request answers: it is over, or it waits for a page, without fault (R380). -/
inductive HostRes where
  | over (s : State)
  | wait (s : State)

/-- A host atomic on an aligned 8-byte word (R379, R381). -/
def hostAtomic (s : State) (r : HostReq) (f : Nat → Option Nat) : HostRes :=
  match perfAtomic s (hostWho r) r.va 8 f true with
  | .ok s' x => .over (answerHost s' r (.value (BitVec.ofNat 64 x)))
  | .fail .poison => .over (answerHost s r (.value (BitVec.ofNat 64 (Config.freePick s.clk))))
  | .fail _ => .over (answerHost s r .nakAccess)
  | .absent p => .wait (askPage s p)
  | .wait => .wait s

/-- The bytes that a host request needs of a window, and the right to them (R379, R380). -/
def hostNeed (r : HostReq) (op : HostOp) : Nat × Nat :=
  match op with
  | .write data => (data.length, 1)
  | .read => (r.len, 0)
  | .swap .. | .add _ => (8, 2)

/-- An atomic has an aligned address (R381). -/
def hostAligned (r : HostReq) (op : HostOp) : Bool :=
  match op with
  | .write _ | .read => true
  | .swap .. | .add _ => r.va.toNat % 8 = 0

/-- What a host request that is not performed is answered (R379-R381). -/
def hostCheck (s : State) (r : HostReq) (op : HostOp) : Option HostAns :=
  if !portUp s r then some .timeout
  else if !hostAligned r op then some .nakInvalid
  else if !hostAllowed s r (hostNeed r op).1 (hostNeed r op).2 then some .nakAccess
  else none

/-- A host request is performed. What a read of an uncorrectable or poisoned line brings is not stated: free bytes (log 6). -/
def hostPerform (s : State) (r : HostReq) (op : HostOp) : HostRes :=
  match op with
  | .write data =>
    (match engWrite s (hostWho r) r.va data.length (ofBytes data) data.length with
     | .ok s' => .over (answerHost s' r .done)
     | .fail _ _ _ => .over (answerHost s r .nakAccess)
     | .hold s' => .wait (runHeld s s'))
  | .read =>
    (match engRead s (hostWho r) r.va r.len r.len with
     | .ok s' x false => .over (answerHost s' r (.data (bytesOf r.len x)))
     | .ok s' _ true => .over (answerHost s' r (.data ((List.range r.len).map (Config.freeByte s.clk))))
     | .fail _ _ _ => .over (answerHost s r .nakAccess)
     | .hold s' => .wait (runHeld s s'))
  | .swap cmp new => hostAtomic s r (fun old => if old = cmp.toNat then some new.toNat else none)
  | .add x => hostAtomic s r (fun old => some ((old + x.toNat) % 2 ^ 64))

/-- A host request is checked and performed, or answered without effect (R379-R381). -/
def hostRun (s : State) (r : HostReq) (op : HostOp) : HostRes :=
  match hostCheck s r op with
  | some a => .over (answerHost s r a)
  | none => hostPerform s r op

/-- Two requests of one queue pair (R381). -/
def samePair (a b : HostReq) : Bool := a.m = b.m && a.qp = b.qp

/-- The oldest requests of a queue pair that wait are tried again, in order; `n` bounds them (R381). -/
def hostDrain (s : State) (r : HostReq) (n : Nat) : State :=
  match n with
  | 0 => s
  | n + 1 =>
    match s.hostHeld.find? (fun q => samePair q.1 r) with
    | none => s
    | some q =>
      match hostRun s q.1 q.2 with
      | .wait s' => s'
      | .over s' => hostDrain { s' with hostHeld := s'.hostHeld.erase q } r n

/-- A host request arrives: it is performed after every earlier one of its queue pair (R219, R381). -/
def hostArrive (s : State) (r : HostReq) (op : HostOp) : Out_ :=
  let s := hostDrain s r s.hostHeld.length
  let keep := fun s : State => { s with hostHeld := s.hostHeld ++ [(r, op)] }
  if s.hostHeld.any (fun q => samePair q.1 r) then .next (keep s)
  else match hostRun s r op with
    | .over s' => .next s'
    | .wait s' => .next (keep s')

/-- RDMA_WRITE (R380, R381). -/
def execRdmaWrite (r : HostReq) (data : List Byte) (s : State) : Out_ := hostArrive s r (.write data)

/-- RDMA_READ (R380, R381). -/
def execRdmaRead (r : HostReq) (s : State) : Out_ := hostArrive s r .read

/-- COMPARE_SWAP (R381). -/
def execCompareSwap (r : HostReq) (cmp swap : Word) (s : State) : Out_ := hostArrive s r (.swap cmp swap)

/-- FETCH_ADD (R381). -/
def execFetchAdd (r : HostReq) (add : Word) (s : State) : Out_ := hostArrive s r (.add add)

/-- UNSUPPORTED_HOST_REQUEST (R379). -/
def execUnsupportedHostRequest (r : HostReq) (_kind : UnsupportedKind) (s : State) : Out_ :=
  .next (answerHost s r (if portUp s r then .nakInvalid else .timeout))

/-- HOST_WINDOW_WRITE (R380, R385): an entry that breaks the table is refused. -/
def execHostWindowWrite (m i : Nat) (e : HostWinArg) (s : State) : Out_ :=
  let b := e.base.toNat
  let legal := decide (i < 64) && b % 65536 = 0 && e.len % 65536 = 0 && regionOf b = some 2 &&
    decide (b + e.len ≤ 0x100000000000000) && e.rights.extractLsb' 3 5 = 0#5 && e.ports.extractLsb' 4 4 = 0#4
  let x := modAt s m
  .next (if modUp s m && legal then setMod s m { x with wins := tput x.wins i ⟨b, e.len, e.rkey, e.rights, e.ports⟩ } else s)

/-- HOST_CONNECTION_FAILURE (R382). -/
def execHostConnectionFailure (m id : Nat) (s : State) : Out_ :=
  .next (putBorrow s m m id true (fun l => { l with connected := false }))

end Sys2Proof.Machine
end

