-- ==== Sys2Proof/Machine/EvService.lean ====
section
/-!
DEFINITION. The events of the service complex: diagnoses, votes and module failures, boot, alarms, temperatures, module reset, stray
bit flips (R4, R383-R391).
-/

namespace Sys2Proof.Machine

/-- The list with a number in it or not. -/
def setIn (l : List Nat) (n : Nat) (b : Bool) : List Nat :=
  if b then (if l.contains n then l else l ++ [n]) else l.filter (fun x => x != n)

/-! ### Diagnoses (R384, R386) -/

/-- Voters of a module: its service processors, as 32 and 33, and other modules by number. -/
def voterA : Nat := 32
def voterB : Nat := 33

/-- DIAGNOSIS_REPEAT (R386): both service processors diagnose anew. For one that has failed the answer is what two of the module's
voters confirm. A fatal self-diagnosis (64) is a vote (R387). -/
def execDiagnosisRepeat (m target : Nat) (failedA failedB : Bool) (s : State) : Out_ :=
  if !modUp s m then .next s
  else
    .next (putService s m (fun p =>
      let votes := if target != 64 then p.votes
        else setIn (setIn p.votes voterA (failedA && p.aliveA)) voterB (failedB && p.aliveB)
      { p with diagA := setIn p.diagA target failedA, diagB := setIn p.diagB target failedB, votes := votes }))

/-- SERVICE_PROCESSOR_FAILURE (R386, R391): its vote and its diagnoses count no more. -/
def execServiceProcessorFailure (m : Nat) (isB : Bool) (s : State) : Out_ :=
  if !modUp s m then .next s
  else .next (putService s m (fun p =>
    if isB then { p with aliveB := false, diagB := [], votes := setIn p.votes voterB false }
    else { p with aliveA := false, diagA := [], votes := setIn p.votes voterA false }))

/-- CAPABILITY_FAULT (R384): the request is abandoned. Nothing changes for a lease or a window; a fault record or event to an
endpoint is dropped; a recovery step is left to the other service processor, and after that reported for a vote. -/
def execCapabilityFault (m : Nat) (req : FwRequest) (s : State) : Out_ :=
  match req with
  | .lease | .hostWindow => .next s
  | .record c =>
    (match s.net.findIdx? (fun g => (entryKind g.raw = 2 || entryKind g.raw = 3) && coreRefOf (msgSlot g) = c && g.dest = m) with
     | some i => .next { s with net := dropAt s.net i }
     | none => .next s)
  | .recovery byB =>
    .next (putService s m (fun p =>
      if p.retried.contains (!byB) then { p with retried := [], reported := true }
      else { p with retried := if p.retried.contains byB then p.retried else p.retried ++ [byB] }))

/-! ### Votes (R387) -/

/-- The other modules of a module's tray, then those of the trays after it, each ascending. -/
def voterOrder (m : Nat) : List Nat :=
  ((List.range 8).map (fun i => (List.range 4).map (fun j => 4 * ((m / 4 + i) % 8) + j))).flatten.filter (fun v => v != m)

/-- The five voters of a module. -/
def votersOf (s : State) (m : Nat) : List Nat :=
  let silent := (modAt s m).sp.silent
  [voterA, voterB] ++ ((voterOrder m).filter (fun v => modUp s v && !silent.contains v)).take 3

/-- ACK_SILENCE_TIMEOUT (R387): an outside voter has heard nothing for 1 ms (log 8). One whose lasers are off casts no vote (R390).
-/
def execAckSilenceTimeout (voter m : Nat) (s : State) : Out_ :=
  if voter = m || 32 ≤ voter || !modUp s voter || (modAt s voter).fenced || !modUp s m then .next s
  else .next (putService s m (fun p => { p with votes := setIn p.votes voter true }))

/-- VOTER_TIMEOUT (R387): a voter that has not answered within 5 ms is skipped. -/
def execVoterTimeout (voter m : Nat) (s : State) : Out_ :=
  if voter = m || 32 ≤ voter || !modUp s m || (modAt s m).sp.votes.contains voter then .next s
  else .next (putService s m (fun p => { p with silent := setIn p.silent voter true }))

/-! ### Fencing (R387, R390) -/

/-- Every launch of a module ends with a status; its logs are merged (R203). -/
def endAll (s : State) (m status : Nat) : State :=
  (launchesOf s m (fun x => x.phase != .ended)).foldl (fun s l =>
    match launchAt s l with
    | none => s
    | some x =>
      let x := if holdsCores x then { x with endStep := cnt0Of s l x } else x
      let s := mergeLogs (resetCmds s l) l x
      let s := if holdsCores x then releaseCores s l x.record else s
      ended (dropLayouts s l x) l x status 0) s

/-- The service complex as a start begins: the records so far are those of the previous start (R389). -/
def startBoot (p : Service) : Service := { p with bootAt := 1, prev := p.boot, boot := [] }

/-- The module stops its dies and turns off its lasers and ports; it stays so until it boots again (R390). Its recoveries are over
(R388). -/
def fence (s : State) (m : Nat) : State :=
  let s := endAll s m 4
  setMod s m { modAt s m with fenced := true, ports := 0, passDue := false,
                              sp := { startBoot (modAt s m).sp with work := [] } }

/-- The contents of a module's HBM4E and LPDDR-6, whose keys are gone, and what was marked in them: they read as unwritten memory
does, and its blocks of rows, parity included, can be read no more (R390, log 3). -/
def eraseMemory (s : State) (m : Nat) : State :=
  let a := physFlat m 0
  let out := fun (k w : Nat) => !(decide (a / w ≤ k) && decide (k < (a + 0x200000000000) / w))
  let t := m / 4
  (rowsUsed s (m % 4)).foldl (fun s n =>
      putRow s (m % 4) n (fun r => { r with gone := if r.gone.contains t then r.gone else r.gone ++ [t] }))
    { s with mem := s.mem.filter (fun p => out p.1 1), ecc := s.ecc.filter (fun q => out q.1 8),
             poison := s.poison.filter (fun q => out q.1 128) }

/-- TAMPER_ALARM (R390): the module is fenced, and its keys are gone. -/
def execTamperAlarm (m : Nat) (s : State) : Out_ :=
  if !(modAt s m).present then .next s
  else .next (eraseMemory (putService (fence s m) m (fun p => { p with keys := false })) m)

/-- A module as its peers treat it once it has failed: they end its leases, recover its tokens and count its blocks as lost (R350, R373,
R378). -/
def moduleLost (s : State) (m : Nat) : State :=
  let s := setMod s m { modAt s m with failed := true, cuts := (modAt s m).cuts.filter (·.committed) }
  let s := freezePages s (16 + m) (fun l ln => l.m != m && (ln.hint.contains (16 + m) ||
    (hintSet l.m ln).contains (16 + m) || ln.flight.any (fun t => t.fromDie = 16 + m)))
  let s := (rowsUsed s (m % 4)).foldl (fun s n => loseMember s (m % 4) n (m / 4)) s
  lenderFailed (dropHopeless s) m

/-- MODULE_FAILURE_DECLARED (R387, R388): three votes of five. The module fences itself. -/
def execModuleFailureDeclared (m : Nat) (s : State) : Out_ :=
  let votes := (votersOf s m).filter (fun v => (modAt s m).sp.votes.contains v)
  if !modUp s m || votes.length < 3 then .next s
  else .next (moduleLost (fence s m) m)

/-! ### Boot (R389) -/

/-- The step of a boot record. -/
def bootNo : BootRec → Nat
  | .started n | .done n | .failed n => n

/-- The newest record of a step on the previous start calls for its alternate path. -/
def bootAlt (x : Mod) (step : Nat) : Bool :=
  match x.sp.prev.find? (fun r => bootNo r = step) with
  | some (.failed _) | some (.started _) => true
  | _ => false

/-- What a step that is done leaves, by its own path or the alternate one. Which of two service processors passes its test, where
one does, which links are dead, and the TORUS and POD that firmware sets in `PKGID` (R338, R383), is not stated (log 6): `f` draws. -/
def bootDone (x : Mod) (step : Nat) (f : Nat → Nat) (alt : Bool) : Mod :=
  match step with
  | 1 =>
    let a := !alt || f 0 % 2 = 0
    let b := !alt || f 0 % 2 = 1
    { x with sp := { x.sp with aliveA := a, aliveB := b, diagA := if a then x.sp.diagA else [],
                               diagB := if b then x.sp.diagB else [] } }
  | 3 => if alt then
      let links := (List.range 18).flatMap (fun a => (siteNbrs a).map (fun b => (a, b)))
      { x with deadLinks := x.deadLinks ++ (links.filter (fun l =>
          f (64 * l.1 + l.2) % 2 = 1 && !x.deadLinks.contains l && !x.deadLinks.contains (l.2, l.1))) }
    else x
  | 7 => if alt then
      let dead := ((List.range 32).map (fun p => (List.range 24).map (fun c => (p, p * 48 + 24 + c)))).flatten
      { x with deadChans := x.deadChans ++ dead.filter (fun q => !x.deadChans.contains q) }
    else x
  | 8 => { x with ports := if alt then 1 else 0xF }
  | 9 => { x with sp := { x.sp with keys := true } }
  | 10 => { x with present := true, fenced := false, failed := false, torus := f 1 % 2 = 1, pod := BitVec.ofNat 16 (f 2), sp := { x.sp with votes := [], silent := [] } }
  | _ => x

/-- A resource that fails its alternate path is marked failed; which die or stack it is, is not stated (log 6). -/
def bootLost (x : Mod) (step pick : Nat) : Mod :=
  match step with
  | 3 => { x with dmap := { x.dmap with fail := x.dmap.fail ||| (1#18 <<< (pick % 18)) } }
  | 4 => { x with lostStacks := setIn x.lostStacks (pick % 24) true }
  | 7 => { x with deadChans := (List.range (32 * 48)).map (fun c => (c / 48, c)) }
  | 8 => { x with ports := 0 }
  | _ => x

/-- BOOT_STEP (R389): the next step of a module that boots, in two events: its record "started", then its end with a record. An
optional step whose record calls for that is skipped. A step that fails on its own path starts the boot again; one that fails on its
alternate path leaves its resource out, and the module fenced where there is nothing to leave out: its peers treat it as failed. New keys leave old contents
unreadable (R390). -/
def execBootStep (m step : Nat) (ok : Bool) (s : State) : Out_ :=
  let x := modAt s m
  let p := x.sp
  let alt := bootAlt x step
  let f := fun i => Config.freePick (s.clk + i)
  let put := fun (y : Mod) (q : Service) => setMod s m { y with sp := q }
  if 32 ≤ m || p.bootAt != step || step = 0 || 10 < step then .next s
  else if p.boot.head? != some (.started step) then
    .next (if alt && (step = 5 || step = 6) then put { x with cxl := if step = 6 then [] else x.cxl } { p with bootAt := step + 1 }
      else put x { p with boot := .started step :: p.boot })
  else
    let log := fun (r : BootRec) (y : Mod) (next : Nat) => put y { y.sp with boot := r :: p.boot, bootAt := next }
    if ok then
      let s := log (.done step) (bootDone x step f alt) (step + 1)
      .next (if step = 9 then eraseMemory s m else s)
    else if !alt then .next (put x (startBoot { p with boot := .failed step :: p.boot }))
    else
      let gaveUp := step = 1 || step = 9 || step = 10
      let s := log (.failed step) (bootLost x step (f 0)) (if gaveUp then 12 else step + 1)
      .next (if gaveUp && modUp s m then moduleLost s m else s)

/-! ### Temperature (R385) -/

/-- A die that is there: a mapped compute die, or a tier die that is not lost. -/
def dieThere (x : Mod) (d : Nat) : Bool :=
  if d < 16 then dieMapped x.dmap d else decide (d < 30) && !x.lostTier.contains d

/-- THERMAL_THROTTLE (R385): timing only. -/
def execThermalThrottle (m die : Nat) (s : State) : Out_ :=
  .next (if modUp s m && dieThere (modAt s m) die then putDie s m die (fun d => { d with throttled := true }) else s)

/-- THROTTLE_RELEASE (R385). -/
def execThrottleRelease (m die : Nat) (s : State) : Out_ :=
  .next (if modUp s m && dieThere (modAt s m) die then putDie s m die (fun d => { d with throttled := false }) else s)

/-- THERMAL_STOP (R385, R391): the die stops; its service processors declare it failed. -/
def execThermalStop (m die : Nat) (s : State) : Out_ :=
  .next (if modUp s m && dieThere (modAt s m) die then putDie s m die (fun d => { d with stopped := true }) else s)

/-! ### Module reset (R4) and bit flips (R391) -/

/-- What a module keeps over a module reset: fuses, its number, what firmware set, the service complex and its tables, losses, cuts
and rows. Registers take their Reset values (R4), TORUS of `PKGID` too (log 37). -/
def resetMod (x : Mod) : Mod :=
  { x with dmap := { DieMap.reset with orig := x.dmap.orig }, torus := Mod.reset.torus, queues := [], lastQ := [], layG := [], layA := [], dies := [],
           cuts := x.cuts.filter (·.committed), snapK := Mod.reset.snapK, flits := [], snaps := 0, passDue := false }

/-- MODULE_RESET (R4): slots, cores and mills of the module as after reset, no launch, nothing of it in flight. Bytes of memories
stay. -/
def execModuleReset (m : Nat) (s : State) : Out_ :=
  if !(modAt s m).present then .next s
  else
    .next (setMod { s with
      slots := s.slots.filter (fun q => q.1 / 4 / 512 / 16 != m), cores := s.cores.filter (fun q => q.1 / 512 / 16 != m),
      hams := s.hams.filter (fun q => q.1 / 64 / 16 != m), launches := s.launches.filter (fun q => q.1 / 2 ^ 28 / 16 != m),
      lines := s.lines.filter (fun q => (lineOfKey q.1).m != m), pages := s.pages.filter (fun q => q.1 / 2 ^ 41 / 65537 != m),
      net := s.net.filter (fun g => g.src.m != m && g.dest != m), wakes := s.wakes.filter (fun g => g.dest != m),
      resumes := s.resumes.filter (fun g => g.dest != m), cmds := s.cmds.filter (fun c => c.w.m != m),
      hostHeld := s.hostHeld.filter (fun q => q.1.m != m), devOut := s.devOut.filter (fun e => e.c.m != m),
      veils := s.veils.filter (fun v => v.c.m != m), groups := s.groups.filter (fun g => g.all (fun l => l.m != m)) }
      m (resetMod (modAt s m)))

/-- BIT_FLIP (R391). -/
def execBitFlip (f : FlipAt) (s : State) : Out_ :=
  match f with
  | .localWord c word bit =>
    .next (if corePresent (modAt s c.m) c.d c.c && word < 2 ^ 17 && bit < 64 then
      flipWord s (localWord c word) (1#64 <<< bit) else s)
  | .memWord m word bit =>
    .next (if (modAt s m).present && (tierOf (modAt s m) (8 * word)).isSome && bit < 64 then
      flipWord s (physFlat m 0 / 8 + word) (1#64 <<< bit) else s)
  | .result w bit => .next (if isLive (slotAt s w) then setSlot s w { slotAt s w with flip := some bit } else s)
  | .accEntry h row col bit =>
    let x := hamAt s h
    let e := accAt x row col
    .next (if decide (row < 2048) && decide (col < 128) && decide (bit < 64) then
      setHam s h (accPut x row col { e with e := e.e ^^^ (1#64 <<< bit) }) else s)
  | .planeWeight h i k j bit =>
    let p := tget (hamAt s h).planes Plane.reset i
    let n := k * 128 + j
    .next (if decide (i < 16) && decide (k < planeK p.fmt) && decide (j < 128) && decide (bit < tyBits p.fmt) then
      putPlane s h i { p with flips := tput p.flips n (tget p.flips 0 n ^^^ (1#16 <<< bit)) } else s)
  | .product h k j bit =>
    .next (if decide (k < 512) && decide (j < 128) && decide (bit < 32) then
      setHam s h { hamAt s h with prod := some (k, j, bit) } else s)

end Sys2Proof.Machine
end

