-- ==== Sys2Proof/Machine/Dispatch.lean ====
section
/-!
DEFINITION. The meaning of every row of the opcode table: one direct call per constructor.
-/

namespace Sys2Proof.Machine

/-- Runs one row of the opcode table. -/
def exec (i : Instr) (s : State) : Host.Outcome State Fault Refusal :=
  match i with
  | .nop g f => Sys2Proof.Machine.execNop g f s
  | .add g f => Sys2Proof.Machine.execAdd g f s
  | .sub g f => Sys2Proof.Machine.execSub g f s
  | .mul g f => Sys2Proof.Machine.execMul g f s
  | .mulh g f => Sys2Proof.Machine.execMulh g f s
  | .madd g f => Sys2Proof.Machine.execMadd g f s
  | .div g f => Sys2Proof.Machine.execDiv g f s
  | .rem g f => Sys2Proof.Machine.execRem g f s
  | .abs g f => Sys2Proof.Machine.execAbs g f s
  | .min g f => Sys2Proof.Machine.execMin g f s
  | .max g f => Sys2Proof.Machine.execMax g f s
  | .and g f => Sys2Proof.Machine.execAnd g f s
  | .or g f => Sys2Proof.Machine.execOr g f s
  | .xor g f => Sys2Proof.Machine.execXor g f s
  | .andn g f => Sys2Proof.Machine.execAndn g f s
  | .orn g f => Sys2Proof.Machine.execOrn g f s
  | .shl g f => Sys2Proof.Machine.execShl g f s
  | .shr g f => Sys2Proof.Machine.execShr g f s
  | .sar g f => Sys2Proof.Machine.execSar g f s
  | .rot g f => Sys2Proof.Machine.execRot g f s
  | .clz g f => Sys2Proof.Machine.execClz g f s
  | .ctz g f => Sys2Proof.Machine.execCtz g f s
  | .popc g f => Sys2Proof.Machine.execPopc g f s
  | .brev g f => Sys2Proof.Machine.execBrev g f s
  | .bswap g f => Sys2Proof.Machine.execBswap g f s
  | .mov g f => Sys2Proof.Machine.execMov g f s
  | .movi g f => Sys2Proof.Machine.execMovi g f s
  | .movhi g f => Sys2Proof.Machine.execMovhi g f s
  | .sel g f => Sys2Proof.Machine.execSel g f s
  | .ext g f => Sys2Proof.Machine.execExt g f s
  | .bfx g f => Sys2Proof.Machine.execBfx g f s
  | .bfi g f => Sys2Proof.Machine.execBfi g f s
  | .lea g f => Sys2Proof.Machine.execLea g f s
  | .cmp g f => Sys2Proof.Machine.execCmp g f s
  | .test g f => Sys2Proof.Machine.execTest g f s
  | .addc g f => Sys2Proof.Machine.execAddc g f s
  | .pand g f => Sys2Proof.Machine.execPand g f s
  | .por g f => Sys2Proof.Machine.execPor g f s
  | .pxor g f => Sys2Proof.Machine.execPxor g f s
  | .pset g f => Sys2Proof.Machine.execPset g f s
  | .pget g f => Sys2Proof.Machine.execPget g f s
  | .br g f => Sys2Proof.Machine.execBr g f s
  | .bri g f => Sys2Proof.Machine.execBri g f s
  | .call g f => Sys2Proof.Machine.execCall g f s
  | .calli g f => Sys2Proof.Machine.execCalli g f s
  | .ret g f => Sys2Proof.Machine.execRet g f s
  | .loop g f => Sys2Proof.Machine.execLoop g f s
  | .fadd g f => Sys2Proof.Machine.execFadd g f s
  | .fsub g f => Sys2Proof.Machine.execFsub g f s
  | .fmul g f => Sys2Proof.Machine.execFmul g f s
  | .ffma g f => Sys2Proof.Machine.execFfma g f s
  | .fdiv g f => Sys2Proof.Machine.execFdiv g f s
  | .fsqrt g f => Sys2Proof.Machine.execFsqrt g f s
  | .fmin g f => Sys2Proof.Machine.execFmin g f s
  | .fmax g f => Sys2Proof.Machine.execFmax g f s
  | .fcmp g f => Sys2Proof.Machine.execFcmp g f s
  | .fclass g f => Sys2Proof.Machine.execFclass g f s
  | .fcvt g f => Sys2Proof.Machine.execFcvt g f s
  | .fcvti g f => Sys2Proof.Machine.execFcvti g f s
  | .icvtf g f => Sys2Proof.Machine.execIcvtf g f s
  | .frcp g f => Sys2Proof.Machine.execFrcp g f s
  | .frsq g f => Sys2Proof.Machine.execFrsq g f s
  | .fexp2 g f => Sys2Proof.Machine.execFexp2 g f s
  | .flog2 g f => Sys2Proof.Machine.execFlog2 g f s
  | .fsgn g f => Sys2Proof.Machine.execFsgn g f s
  | .vadd g f => Sys2Proof.Machine.execVadd g f s
  | .vsub g f => Sys2Proof.Machine.execVsub g f s
  | .vmul g f => Sys2Proof.Machine.execVmul g f s
  | .vmulh g f => Sys2Proof.Machine.execVmulh g f s
  | .vfma g f => Sys2Proof.Machine.execVfma g f s
  | .vdiv g f => Sys2Proof.Machine.execVdiv g f s
  | .vsqrt g f => Sys2Proof.Machine.execVsqrt g f s
  | .vmin g f => Sys2Proof.Machine.execVmin g f s
  | .vmax g f => Sys2Proof.Machine.execVmax g f s
  | .vabs g f => Sys2Proof.Machine.execVabs g f s
  | .vsgn g f => Sys2Proof.Machine.execVsgn g f s
  | .vadds g f => Sys2Proof.Machine.execVadds g f s
  | .vsubs g f => Sys2Proof.Machine.execVsubs g f s
  | .vand g f => Sys2Proof.Machine.execVand g f s
  | .vor g f => Sys2Proof.Machine.execVor g f s
  | .vxor g f => Sys2Proof.Machine.execVxor g f s
  | .vandn g f => Sys2Proof.Machine.execVandn g f s
  | .vshl g f => Sys2Proof.Machine.execVshl g f s
  | .vshr g f => Sys2Proof.Machine.execVshr g f s
  | .vsar g f => Sys2Proof.Machine.execVsar g f s
  | .vpopc g f => Sys2Proof.Machine.execVpopc g f s
  | .vcmp g f => Sys2Proof.Machine.execVcmp g f s
  | .vsel g f => Sys2Proof.Machine.execVsel g f s
  | .vbcast g f => Sys2Proof.Machine.execVbcast g f s
  | .vext g f => Sys2Proof.Machine.execVext g f s
  | .vins g f => Sys2Proof.Machine.execVins g f s
  | .vperm g f => Sys2Proof.Machine.execVperm g f s
  | .vrot g f => Sys2Proof.Machine.execVrot g f s
  | .vmovi g f => Sys2Proof.Machine.execVmovi g f s
  | .vredsum g f => Sys2Proof.Machine.execVredsum g f s
  | .vredmin g f => Sys2Proof.Machine.execVredmin g f s
  | .vredmax g f => Sys2Proof.Machine.execVredmax g f s
  | .vscan g f => Sys2Proof.Machine.execVscan g f s
  | .vcvt g f => Sys2Proof.Machine.execVcvt g f s
  | .vpack g f => Sys2Proof.Machine.execVpack g f s
  | .vwiden g f => Sys2Proof.Machine.execVwiden g f s
  | .vunpack3 g f => Sys2Proof.Machine.execVunpack3 g f s
  | .vsparse24 g f => Sys2Proof.Machine.execVsparse24 g f s
  | .vexpand24 g f => Sys2Proof.Machine.execVexpand24 g f s
  | .vdot4 g f => Sys2Proof.Machine.execVdot4 g f s
  | .vtacc g f => Sys2Proof.Machine.execVtacc g f s
  | .vquant g f => Sys2Proof.Machine.execVquant g f s
  | .vdeq g f => Sys2Proof.Machine.execVdeq g f s
  | .vrcp g f => Sys2Proof.Machine.execVrcp g f s
  | .vrsq g f => Sys2Proof.Machine.execVrsq g f s
  | .vexp2 g f => Sys2Proof.Machine.execVexp2 g f s
  | .vlog2 g f => Sys2Proof.Machine.execVlog2 g f s
  | .mand g f => Sys2Proof.Machine.execMand g f s
  | .mor g f => Sys2Proof.Machine.execMor g f s
  | .mxor g f => Sys2Proof.Machine.execMxor g f s
  | .mnot g f => Sys2Proof.Machine.execMnot g f s
  | .mpop g f => Sys2Proof.Machine.execMpop g f s
  | .mfirst g f => Sys2Proof.Machine.execMfirst g f s
  | .mmov g f => Sys2Proof.Machine.execMmov g f s
  | .ld g f => Sys2Proof.Machine.execLd g f s
  | .st g f => Sys2Proof.Machine.execSt g f s
  | .lda g f => Sys2Proof.Machine.execLda g f s
  | .strel g f => Sys2Proof.Machine.execStrel g f s
  | .ldc g f => Sys2Proof.Machine.execLdc g f s
  | .ldp g f => Sys2Proof.Machine.execLdp g f s
  | .stp g f => Sys2Proof.Machine.execStp g f s
  | .pref g f => Sys2Proof.Machine.execPref g f s
  | .fence g f => Sys2Proof.Machine.execFence g f s
  | .flush g f => Sys2Proof.Machine.execFlush g f s
  | .pin g f => Sys2Proof.Machine.execPin g f s
  | .unpin g f => Sys2Proof.Machine.execUnpin g f s
  | .amo g f => Sys2Proof.Machine.execAmo g f s
  | .cas g f => Sys2Proof.Machine.execCas g f s
  | .cas2 g f => Sys2Proof.Machine.execCas2 g f s
  | .vld g f => Sys2Proof.Machine.execVld g f s
  | .vst g f => Sys2Proof.Machine.execVst g f s
  | .vlds g f => Sys2Proof.Machine.execVlds g f s
  | .vsts g f => Sys2Proof.Machine.execVsts g f s
  | .vgather g f => Sys2Proof.Machine.execVgather g f s
  | .vscatter g f => Sys2Proof.Machine.execVscatter g f s
  | .vldb g f => Sys2Proof.Machine.execVldb g f s
  | .sync g f => Sys2Proof.Machine.execSync g f s
  | .vote g f => Sys2Proof.Machine.execVote g f s
  | .bara g f => Sys2Proof.Machine.execBara g f s
  | .barw g f => Sys2Proof.Machine.execBarw g f s
  | .domset g f => Sys2Proof.Machine.execDomset g f s
  | .send g f => Sys2Proof.Machine.execSend g f s
  | .recv g f => Sys2Proof.Machine.execRecv g f s
  | .peek g f => Sys2Proof.Machine.execPeek g f s
  | .waita g f => Sys2Proof.Machine.execWaita g f s
  | .wake g f => Sys2Proof.Machine.execWake g f s
  | .walk g f => Sys2Proof.Machine.execWalk g f s
  | .tend g f => Sys2Proof.Machine.execTend g f s
  | .taskadd g f => Sys2Proof.Machine.execTaskadd g f s
  | .spawn g f => Sys2Proof.Machine.execSpawn g f s
  | .yield g f => Sys2Proof.Machine.execYield g f s
  | .exit g f => Sys2Proof.Machine.execExit g f s
  | .mloadw g f => Sys2Proof.Machine.execMloadw g f s
  | .mswap g f => Sys2Proof.Machine.execMswap g f s
  | .mstream g f => Sys2Proof.Machine.execMstream g f s
  | .mzero g f => Sys2Proof.Machine.execMzero g f s
  | .accrd g f => Sys2Proof.Machine.execAccrd g f s
  | .accwr g f => Sys2Proof.Machine.execAccwr g f s
  | .mstat g f => Sys2Proof.Machine.execMstat g f s
  | .cpy g f => Sys2Proof.Machine.execCpy g f s
  | .cpy2 g f => Sys2Proof.Machine.execCpy2 g f s
  | .cpyr g f => Sys2Proof.Machine.execCpyr g f s
  | .coll g f => Sys2Proof.Machine.execColl g f s
  | .ecode g f => Sys2Proof.Machine.execEcode g f s
  | .ckpt g f => Sys2Proof.Machine.execCkpt g f s
  | .migr g f => Sys2Proof.Machine.execMigr g f s
  | .gset g f => Sys2Proof.Machine.execGset g f s
  | .cbatch g f => Sys2Proof.Machine.execCbatch g f s
  | .waitb g f => Sys2Proof.Machine.execWaitb g f s
  | .engq g f => Sys2Proof.Machine.execEngq g f s
  | .trap g f => Sys2Proof.Machine.execTrap g f s
  | .eret g f => Sys2Proof.Machine.execEret g f s
  | .brk g f => Sys2Proof.Machine.execBrk g f s
  | .csrrd g f => Sys2Proof.Machine.execCsrrd g f s
  | .csrwr g f => Sys2Proof.Machine.execCsrwr g f s
  | .csrset g f => Sys2Proof.Machine.execCsrset g f s
  | .csrclr g f => Sys2Proof.Machine.execCsrclr g f s
  | .ifence g f => Sys2Proof.Machine.execIfence g f s
  | .dlog g f => Sys2Proof.Machine.execDlog g f s
  | .resume g f => Sys2Proof.Machine.execResume g f s
  | .cdopen g f => Sys2Proof.Machine.execCdopen g f s
  | .cdpres g f => Sys2Proof.Machine.execCdpres g f s
  | .cdout g f => Sys2Proof.Machine.execCdout g f s
  | .cdclose g f => Sys2Proof.Machine.execCdclose g f s
  | .cdfail g f => Sys2Proof.Machine.execCdfail g f s
  | .rbegin g f => Sys2Proof.Machine.execRbegin g f s
  | .rcommit g f => Sys2Proof.Machine.execRcommit g f s
  | .deferredResultReturn w ix unit => Sys2Proof.Machine.execDeferredResultReturn w ix unit s
  | .deferredFailure a => Sys2Proof.Machine.execDeferredFailure a s
  | .faultDelivery w => Sys2Proof.Machine.execFaultDelivery w s
  | .localTrapEntry w => Sys2Proof.Machine.execLocalTrapEntry w s
  | .resumeDelivery ix => Sys2Proof.Machine.execResumeDelivery ix s
  | .cdRollback w => Sys2Proof.Machine.execCdRollback w s
  | .contextSwapOut w => Sys2Proof.Machine.execContextSwapOut w s
  | .pageMadeResident p leaf => Sys2Proof.Machine.execPageMadeResident p leaf s
  | .contextRestore c ix => Sys2Proof.Machine.execContextRestore c ix s
  | .storeBufferDrain c => Sys2Proof.Machine.execStoreBufferDrain c s
  | .farStoreDrain c ix unit => Sys2Proof.Machine.execFarStoreDrain c ix unit s
  | .logMerge c n => Sys2Proof.Machine.execLogMerge c n s
  | .messageArrival ix => Sys2Proof.Machine.execMessageArrival ix s
  | .spillRingMove c => Sys2Proof.Machine.execSpillRingMove c s
  | .wakeDelivery ix => Sys2Proof.Machine.execWakeDelivery ix s
  | .walkTaskDispatch c tile => Sys2Proof.Machine.execWalkTaskDispatch c tile s
  | .queuedTaskDispatch c => Sys2Proof.Machine.execQueuedTaskDispatch c s
  | .footprintWriteOut w => Sys2Proof.Machine.execFootprintWriteOut w s
  | .syncDomainComplete l level x y => Sys2Proof.Machine.execSyncDomainComplete l level x y s
  | .exchangeComplete l level x y order => Sys2Proof.Machine.execExchangeComplete l level x y order s
  | .syncTimeout w => Sys2Proof.Machine.execSyncTimeout w s
  | .barrierRelease l b => Sys2Proof.Machine.execBarrierRelease l b s
  | .launchUnitPass m => Sys2Proof.Machine.execLaunchUnitPass m s
  | .launchEntry l => Sys2Proof.Machine.execLaunchEntry l s
  | .launchEnd l => Sys2Proof.Machine.execLaunchEnd l s
  | .patienceExpiry m q => Sys2Proof.Machine.execPatienceExpiry m q s
  | .drainBoundaryHold l us => Sys2Proof.Machine.execDrainBoundaryHold l us s
  | .drainLimitExpiry l => Sys2Proof.Machine.execDrainLimitExpiry l s
  | .saveComplete l us => Sys2Proof.Machine.execSaveComplete l us s
  | .saveLimitExpiry l => Sys2Proof.Machine.execSaveLimitExpiry l s
  | .launchRestore l => Sys2Proof.Machine.execLaunchRestore l s
  | .checkpointRestart l => Sys2Proof.Machine.execCheckpointRestart l s
  | .engineCommandArrival id => Sys2Proof.Machine.execEngineCommandArrival id s
  | .crierWindowExpiry id => Sys2Proof.Machine.execCrierWindowExpiry id s
  | .commandCompletion id => Sys2Proof.Machine.execCommandCompletion id s
  | .engineWatchdogExpiry id => Sys2Proof.Machine.execEngineWatchdogExpiry id s
  | .mloadwRun id => Sys2Proof.Machine.execMloadwRun id s
  | .mswapRun id => Sys2Proof.Machine.execMswapRun id s
  | .mstreamTileStep id order => Sys2Proof.Machine.execMstreamTileStep id order s
  | .mzeroTileStep id => Sys2Proof.Machine.execMzeroTileStep id s
  | .accrdTileStep id => Sys2Proof.Machine.execAccrdTileStep id s
  | .accwrTileStep id => Sys2Proof.Machine.execAccwrTileStep id s
  | .mstatQueryRun id => Sys2Proof.Machine.execMstatQueryRun id s
  | .scrubberRead h tile => Sys2Proof.Machine.execScrubberRead h tile s
  | .millSubarrayGating h sub => Sys2Proof.Machine.execMillSubarrayGating h sub s
  | .cpyRun id n => Sys2Proof.Machine.execCpyRun id n s
  | .cpy2Run id n => Sys2Proof.Machine.execCpy2Run id n s
  | .cpyrRun id n => Sys2Proof.Machine.execCpyrRun id n s
  | .collRun id order => Sys2Proof.Machine.execCollRun id order s
  | .ecodeRun id => Sys2Proof.Machine.execEcodeRun id s
  | .ckptCutBoundary id => Sys2Proof.Machine.execCkptCutBoundary id s
  | .ckptPageCopy id ix => Sys2Proof.Machine.execCkptPageCopy id ix s
  | .ckptCommit id => Sys2Proof.Machine.execCkptCommit id s
  | .ckptRestoreRun id => Sys2Proof.Machine.execCkptRestoreRun id s
  | .migrRun id => Sys2Proof.Machine.execMigrRun id s
  | .engqQueryRun id => Sys2Proof.Machine.execEngqQueryRun id s
  | .engqDrainComplete id => Sys2Proof.Machine.execEngqDrainComplete id s
  | .einjResultArm w x => Sys2Proof.Machine.execEinjResultArm w x s
  | .einjStoreSingleFlip w x => Sys2Proof.Machine.execEinjStoreSingleFlip w x s
  | .einjStoreDoubleFlip w x => Sys2Proof.Machine.execEinjStoreDoubleFlip w x s
  | .einjAccumulatorArm w x => Sys2Proof.Machine.execEinjAccumulatorArm w x s
  | .accumulatorFlip id => Sys2Proof.Machine.execAccumulatorFlip id s
  | .logRegisterWrite c lim x => Sys2Proof.Machine.execLogRegisterWrite c lim x s
  | .spillbaseWrite c x => Sys2Proof.Machine.execSpillbaseWrite c x s
  | .mflgposClear c => Sys2Proof.Machine.execMflgposClear c s
  | .pageTableChange p level entry => Sys2Proof.Machine.execPageTableChange p level entry s
  | .thresholdMigration p => Sys2Proof.Machine.execThresholdMigration p s
  | .transientRequest ln h write arrive => Sys2Proof.Machine.execTransientRequest ln h write arrive s
  | .tokenAttemptTimeout ln h => Sys2Proof.Machine.execTokenAttemptTimeout ln h s
  | .persistentRequest ln h write => Sys2Proof.Machine.execPersistentRequest ln h write s
  | .persistentActivation ln => Sys2Proof.Machine.execPersistentActivation ln s
  | .persistentDeactivation ln => Sys2Proof.Machine.execPersistentDeactivation ln s
  | .lineEviction ln h => Sys2Proof.Machine.execLineEviction ln h s
  | .dieFailureDeclared m site => Sys2Proof.Machine.execDieFailureDeclared m site s
  | .tokenRecoveryComplete p => Sys2Proof.Machine.execTokenRecoveryComplete p s
  | .spareTakeover m die site testOk => Sys2Proof.Machine.execSpareTakeover m die site testOk s
  | .dieEvacuation m die => Sys2Proof.Machine.execDieEvacuation m die s
  | .evacuationTimeout m die => Sys2Proof.Machine.execEvacuationTimeout m die s
  | .tierDieLoss m die => Sys2Proof.Machine.execTierDieLoss m die s
  | .linkDeadDeclared m a b => Sys2Proof.Machine.execLinkDeadDeclared m a b s
  | .routeTableRewrite m => Sys2Proof.Machine.execRouteTableRewrite m s
  | .fabricChannelDead m peer channel => Sys2Proof.Machine.execFabricChannelDead m peer channel s
  | .remoteAccessArrival a unit => Sys2Proof.Machine.execRemoteAccessArrival a unit s
  | .leaseGrant m ix e => Sys2Proof.Machine.execLeaseGrant m ix e s
  | .leaseRenewal m id expiry => Sys2Proof.Machine.execLeaseRenewal m id expiry s
  | .leaseExpiry m id => Sys2Proof.Machine.execLeaseExpiry m id s
  | .reclaim m id frames => Sys2Proof.Machine.execReclaim m id frames s
  | .release m id => Sys2Proof.Machine.execRelease m id s
  | .reclaimDeadline m id frames => Sys2Proof.Machine.execReclaimDeadline m id frames s
  | .windowRevocation m id => Sys2Proof.Machine.execWindowRevocation m id s
  | .rowRebuild set row => Sys2Proof.Machine.execRowRebuild set row s
  | .rdmaWrite r data => Sys2Proof.Machine.execRdmaWrite r data s
  | .rdmaRead r => Sys2Proof.Machine.execRdmaRead r s
  | .compareSwap r cmp swap => Sys2Proof.Machine.execCompareSwap r cmp swap s
  | .fetchAdd r add => Sys2Proof.Machine.execFetchAdd r add s
  | .diagnosisRepeat m target failedA failedB => Sys2Proof.Machine.execDiagnosisRepeat m target failedA failedB s
  | .ackSilenceTimeout voter m => Sys2Proof.Machine.execAckSilenceTimeout voter m s
  | .voterTimeout voter m => Sys2Proof.Machine.execVoterTimeout voter m s
  | .moduleFailureDeclared m => Sys2Proof.Machine.execModuleFailureDeclared m s
  | .capabilityFault m req => Sys2Proof.Machine.execCapabilityFault m req s
  | .bootStep m step ok => Sys2Proof.Machine.execBootStep m step ok s
  | .tamperAlarm m => Sys2Proof.Machine.execTamperAlarm m s
  | .thermalThrottle m die => Sys2Proof.Machine.execThermalThrottle m die s
  | .throttleRelease m die => Sys2Proof.Machine.execThrottleRelease m die s
  | .thermalStop m die => Sys2Proof.Machine.execThermalStop m die s
  | .moduleReset m => Sys2Proof.Machine.execModuleReset m s
  | .debugHalt l => Sys2Proof.Machine.execDebugHalt l s
  | .debugContinue l => Sys2Proof.Machine.execDebugContinue l s
  | .debugGroupHalt ls => Sys2Proof.Machine.execDebugGroupHalt ls s
  | .boundaryDump l => Sys2Proof.Machine.execBoundaryDump l s
  | .forcedDump l kill => Sys2Proof.Machine.execForcedDump l kill s
  | .counterSnapshot g => Sys2Proof.Machine.execCounterSnapshot g s
  | .hostWindowWrite m ix e => Sys2Proof.Machine.execHostWindowWrite m ix e s
  | .queueRegistration m q desc ring log2n supv save => Sys2Proof.Machine.execQueueRegistration m q desc ring log2n supv save s
  | .preemptionRequest l => Sys2Proof.Machine.execPreemptionRequest l s
  | .controlledReset m die => Sys2Proof.Machine.execControlledReset m die s
  | .hbm4eStackLoss m stack => Sys2Proof.Machine.execHbm4eStackLoss m stack s
  | .bitFlip f => Sys2Proof.Machine.execBitFlip f s
  | .serviceProcessorFailure m isB => Sys2Proof.Machine.execServiceProcessorFailure m isB s
  | .hostConnectionFailure m id => Sys2Proof.Machine.execHostConnectionFailure m id s
  | .unsupportedHostRequest r kind => Sys2Proof.Machine.execUnsupportedHostRequest r kind s

end Sys2Proof.Machine
end

