-- ==== Sys2Proof/Machine/Idle.lean ====
section
/-!
DEFINITION. What the machine does when its agenda is empty: its agents take turns, so that everything that can go on by itself does
(log 1).
-/

namespace Sys2Proof.Machine

/-- The core of a table index, and the slot of one. -/
def coreOfKey (k : Nat) : CoreRef := ⟨k / 512 / 16, k / 512 % 16, k % 512⟩
def slotOfKey (k : Nat) : SlotRef := slotOf (coreOfKey (k / 4)) (k % 4)

/-- The launch of a table index. -/
def launchOfKey (k : Nat) : LaunchRef := ⟨k / 2 ^ 28 / 16, k / 2 ^ 28 % 16, k % 2 ^ 28⟩

/-- Moves of a slot: its results, a fault or rollback that waits, its swap, the write-out of its task, its SYNC. -/
def slotMoves (s : State) (w : SlotRef) (x : Slot) : List (State → Out_) :=
  (x.outs.map (fun o =>
    let j := o.units.findIdx (·.val.isNone)
    [execDeferredFailure (.out w o.id), execRemoteAccessArrival (.out w o.id) j,
     execDeferredResultReturn w o.id (if j < o.units.length then some j else none)])).flatten ++
  (if x.stop.isSome then [execFaultDelivery w, execLocalTrapEntry w, execCdRollback w] else []) ++
  (if x.swapReq.isEmpty then [] else [execContextSwapOut w]) ++
  (match x.st with
   | .ending true => [execFootprintWriteOut w]
   | .parked (.sync level) _ =>
     let c := coreOf s w
     (match c.launch with | some l => [execSyncDomainComplete l level c.ident.x c.ident.y] | none => [])
   | _ => [])

/-- Digits of a number in mixed radix. -/
def digitsOf (n : Nat) (dims : List Nat) : List Nat :=
  match dims with
  | [] => []
  | d :: r => n % max d 1 :: digitsOf (n / max d 1) r

/-- Moves of a core: its stores, swapped contexts, spill ring, walk and queued tasks. -/
def coreMoves (c : CoreRef) (x : Core) : List (State → Out_) :=
  (if x.sbuf.isEmpty then [] else [execDeferredFailure (.near c), execStoreBufferDrain c]) ++
  (x.fq.map (fun e => [execDeferredFailure (.far c e.id), execRemoteAccessArrival (.far c e.id) 0, execFarStoreDrain c e.id 0])).flatten ++
  x.swapped.map (fun t => execContextRestore c t.id) ++
  (if x.spill.bound.isEmpty then [] else [execSpillRingMove c]) ++
  (match x.walk with | some k => [execWalkTaskDispatch c (digitsOf k.issued.length (walkTiles k))] | none => []) ++
  (if x.tasks.isEmpty then [] else [execQueuedTaskDispatch c])

/-- Moves of an engine command. -/
def cmdMoves (c : Cmd) : List (State → Out_) :=
  match c.st with
  | .net => [execEngineCommandArrival c.id]
  | .crier => [execCrierWindowExpiry c.id]
  | .merged => [execCrierWindowExpiry c.id]
  | .done => [execCommandCompletion c.id]
  | .queued | .begun =>
    match c.op with
    | .mloadw => [execMloadwRun c.id]
    | .mswap => [execMswapRun c.id]
    | .mstream => [execMstreamTileStep c.id []]
    | .mzero => [execMzeroTileStep c.id]
    | .accrd => [execAccrdTileStep c.id]
    | .accwr => [execAccwrTileStep c.id]
    | .cpy => [execCpyRun c.id 4096]
    | .cpy2 => [execCpy2Run c.id 4096]
    | .cpyr => [execCpyrRun c.id 4096]
    | .coll => [execCollRun c.id []]
    | .ecode => [execEcodeRun c.id]
    | .ckpt => [execCkptCutBoundary c.id, execCkptPageCopy c.id 0, execCkptCommit c.id, execCkptRestoreRun c.id]
    | .migr => [execMigrRun c.id]
    | .engq => [execEngqQueryRun c.id, execEngqDrainComplete c.id]
    | .mstat => [execMstatQueryRun c.id]
    | .accflip => [execAccumulatorFlip c.id]

/-- Moves of a launch. -/
def launchMoves (l : LaunchRef) (x : Launch) : List (State → Out_) :=
  match x.phase with
  | .starting => [execLaunchEntry l]
  | .running | .draining =>
    x.exch.map (fun e => execExchangeComplete l e.level e.x e.y []) ++
      (List.range x.record.nbar).map (fun b => execBarrierRelease l b) ++ [execLaunchEnd l]
  | .held => [execDrainBoundaryHold l 0, execDebugHalt l, execLaunchEnd l]
  | .halted => [execLaunchEnd l]
  | .saving => [execSaveComplete l 0, execLaunchEnd l]
  | .saved => [execLaunchRestore l]
  | .reset => [execCheckpointRestart l]
  | .ended => []

/-- The events that may go on by themselves. -/
def idleEvents (s : State) : List (State → Out_) :=
  (s.slots.map (fun q => slotMoves s (slotOfKey q.1) q.2)).flatten ++
  (s.cores.map (fun q => coreMoves (coreOfKey q.1) q.2)).flatten ++ (s.cmds.map cmdMoves).flatten ++
  (s.launches.map (fun q => launchMoves (launchOfKey q.1) q.2)).flatten ++
  s.hostHeld.map (fun q s => .next (hostDrain s q.1 1)) ++ (List.range s.devOut.length).map (fun i s => .next (devRetry s i)) ++
  (List.range s.net.length).map (fun i => execMessageArrival i) ++ (List.range s.wakes.length).map (fun i => execWakeDelivery i) ++
  (List.range s.resumes.length).map (fun i => execResumeDelivery i) ++ s.mods.map (fun q => execLaunchUnitPass q.1)

/-- What happens when the agenda is empty: the issue of each core and the events that may go on, each in its turn (log 1). -/
def planIdle (s : State) : Plan :=
  let cs := s.cores.map (fun q => coreOfKey q.1)
  let es := idleEvents s
  let n := s.clk % (cs.length + es.length)
  match cs[n]? with
  | some c => planMove s (.issue c)
  | none =>
    match es[n - cs.length]? with
    | some f => .did (f (tryAgain s))
    | none => .rest s

/-- The plan of the next step: the head of the agenda, else whoever's turn it is. -/
def plan (s : State) : Plan :=
  let s := passTime s
  match s.agenda with
  | m :: r => planMove { s with agenda := r } m
  | [] => planIdle s

end Sys2Proof.Machine
end

