-- ==== Sys2Proof/Machine/Step.lean ====
section
/-!
DEFINITION. One step of the machine, and placing an instruction where the next step fetches.
-/

namespace Sys2Proof.Machine

/-- One step: the next agent's move (log 1), which runs one row of the opcode table or changes the state by itself. -/
def step (s : State) : Host.Outcome State Fault Refusal :=
  match plan s with
  | .run i s' => exec i s'
  | .did o => o
  | .rest s' => .next s'

/-- The state with the instruction of bits `w` where the next step fetches (log 13). -/
def State.withFetchWord (s : State) (_nbits w : Nat) : State := placeWord s (BitVec.ofNat 96 w)

end Sys2Proof.Machine
end

