-- ==== Sys2Proof/Safety.lean ====
section
/-!
DEFINITION. What counts as a safe run, and the words the statements are written in: when a slot's instruction issues
normally, and what an instruction that has run leaves changed.
-/

namespace Sys2Proof

open Sys2Proof.Machine

/-- A step from this state goes on. -/
def StepsOn (s : State) : Prop := ∃ t, step s = .next t

/-- An instruction or event goes on to a next state of which `P` holds. -/
def Goes (o : Out_) (P : State → Prop) : Prop := ∃ t, o = .next t ∧ P t

/-- The invariant of every state of a run: memory in its canonical form. -/
def MemOk (s : State) : Prop := s.mem.wf = true

/-- The tokens of a line as the protocol keeps them (R342, R343, R346): 1024 in all, at the home, with hamlets and in messages of the
page's GEN; the owner token is with a hamlet that holds tokens, or at the home, or in one message. -/
def TokensOk (s : State) (l : LineRef) : Prop :=
  let x := lineAt s l
  let owners := x.flight.filter (·.owner)
  tsorted none x.held = true ∧ (∀ t ∈ x.flight, 0 < t.n ∧ t.gen = (pageAt s (pageOfLine l)).gen) ∧
  x.home + (x.held.map (·.2)).sum + (x.flight.map (·.n)).sum = allTokens ∧
  match x.owner with
  | some o => owners = [] ∧ 0 < tget x.held 0 o
  | none => owners = [] ∧ 0 < x.home ∨ owners.length = 1

/-- A run of `n` steps in which every state is safe. -/
def SafeRun (s : State) : Nat → Prop
  | 0 => MemOk s
  | n + 1 => MemOk s ∧ ∃ t, step s = .next t ∧ SafeRun t n

/-- No active comparator of the current core matches an instruction with these registers and accesses, whatever it writes (R319,
R320). -/
def NoWatch (s : State) (uses : List Use) (accs : List Acc) : Prop :=
  ∀ p ∈ (coreOf s s.cur).watch, p.2.ty ≠ 0 → ∀ after, watchMatch s s.cur p.2 uses accs after = none

/-- The current slot may issue an instruction with this guard and these registers (R19, R20, R30, R157): the guard is true, no
register named is pending, and a deferred one finds fewer than 32 results outstanding. -/
def MayRun (s : State) (g : Guard) (uses : List Use) (deferred : Bool) : Prop :=
  canIssue (curSlot s) = true ∧ guardHolds (curSlot s) g = true ∧ (∀ u ∈ uses, usePend (curSlot s) u = false) ∧
  (deferred = true → (curSlot s).outs.length < 32)

/-- The current slot issues an instruction with this guard, these registers and these accesses normally: it may issue it, and no
comparator matches it. -/
def Ready (s : State) (g : Guard) (uses : List Use) (deferred : Bool) (accs : List Acc := []) : Prop :=
  MayRun s g uses deferred ∧ NoWatch s uses accs

/-- No result injection is due (R290) and no stray error waits for this slot's next result (R391). -/
def NoFlip (x : Slot) : Prop := (x.trap.einj.arm && x.trap.einj.kind = 1#3) = false ∧ x.flip = none

/-- A slot whose instruction at `pc` has run: the PC moves to the next cell, and the switch marker parks it while results
are outstanding (R12, R22). -/
def retired (g : Guard) (pc : Word) (y : Slot) : Slot :=
  { y with pc := nextCell pc, stalled := false, st := if g.sw && !y.outs.isEmpty then .parked .defer false else y.st }

/-- The instruction has run and changed nothing of the machine but the current slot, where its effect is `P`. -/
def Runs (s : State) (g : Guard) (o : Out_) (P : Slot → Prop) : Prop :=
  ∃ y, o = .next (setSlot s s.cur (retired g (curSlot s).pc y)) ∧ P y

/-- A transfer to `target` has run (R93): nothing of the machine changed but words that the fetch of its line corrected (R27) and
the current slot, whose instruction buffer keeps lines only when the target's is among them (R23, R24). -/
def RunsTo (s : State) (g : Guard) (target : Word) (o : Out_) (P : Slot → Prop) : Prop :=
  ∃ y, o = .next (setSlot (fixFetch s s.cur target) s.cur
      { retired g target y with pc := target, ibuf := (bufferJump y target).ibuf }) ∧ P y

/-- Of slot `x` only scalar register `d` and flags changed: `d` now holds `v`, or still 0 for `s0`, and `fl` is ORed into
`FFLG` (R7, R57). -/
def WritesS (x y : Slot) (d : RegIx) (v : Word) (fl : Flags) : Prop :=
  sGet y d = (if d = 0 then 0 else v) ∧ (∀ r, r ≠ d → sGet y r = sGet x r) ∧
  y = { x with sreg := y.sreg, csr := { x.csr with fflg := x.csr.fflg ||| fl } }

/-- Of slot `x` only vector register `d` and flags changed. -/
def WritesV (x y : Slot) (d : RegIx) (v : VWord) (fl : Flags) : Prop :=
  vGet y d = v ∧ (∀ r, r ≠ d → vGet y r = vGet x r) ∧
  y = { x with vreg := y.vreg, csr := { x.csr with fflg := x.csr.fflg ||| fl } }

/-- Of slot `x` only predicate `d` changed; `p7` still reads 1 (R7). -/
def WritesP (x y : Slot) (d : Nat) (b : Bool) : Prop :=
  pGet y d = (if d = 7 then true else b) ∧ (∀ i, i < 8 → i ≠ d → pGet y i = pGet x i) ∧ y = { x with preg := y.preg }

/-- Of slot `x` only mask `d` and flags changed; `m0` still reads all ones (R7). -/
def WritesM (x y : Slot) (d : Nat) (v : BitVec 64) (fl : Flags) : Prop :=
  mGet y d = (if d = 0 then BitVec.allOnes 64 else v) ∧ (∀ i, i ≠ d → mGet y i = mGet x i) ∧
  y = { x with mreg := y.mreg, csr := { x.csr with fflg := x.csr.fflg ||| fl } }

/-- The instruction has run, and of the state `base` that it made left an outstanding result of kind `k` for destination `d` with
these access units, the slot going on as `fin` says; of the machine nothing else changed but the identity handed out and what `P`
says of the slot before the result was added (R17, R18). That an access is made with the PKEY and the mode of its issue is log 23. -/
def DefersAs (fin : Slot → Slot) (s base : State) (o : Out_) (d : Dst) (k : OutKind) (units : List AccUnit) (P : Slot → Prop) :
    Prop :=
  ∃ x' r, P x' ∧ r.kind = k ∧ r.dst = d ∧ r.units = units ∧ r.id = s.nextId ∧ r.pc = (curSlot s).pc ∧
    r.pkey = (curSlot s).csr.pkey ∧ r.supv = (curSlot s).supv ∧
    o = .next (setSlot { base with nextId := s.nextId + 1 } s.cur (fin { markDst x' d with outs := x'.outs ++ [r] }))

/-- As `DefersAs`, and the slot goes on with the next cell. -/
def Defers (s : State) (g : Guard) (o : Out_) (d : Dst) (k : OutKind) (units : List AccUnit) (P : Slot → Prop) : Prop :=
  DefersAs (retired g (curSlot s).pc) s s o d k units P

/-- As `DefersAs`, and the slot is held at the next cell until the result returns (R101). -/
def Holds (s : State) (g : Guard) (o : Out_) (d : Dst) (k : OutKind) (units : List AccUnit) (P : Slot → Prop) : Prop :=
  DefersAs (fun y => { y with pc := nextCell (curSlot s).pc, st := .parked (.result s.nextId) g.sw, stalled := false })
    s s o d k units P

/-- Of the words' error entries only correctable ones are gone (R27). -/
def CorrectsOnly (t t' : Tbl Ecc) : Prop :=
  ∀ q, tget t' Ecc.reset q = tget t Ecc.reset q ∨
    (eccBadWord (tget t Ecc.reset q) = false ∧ tget t' Ecc.reset q = Ecc.reset)

/-- A fixed-latency load has run (R17, R105): nothing of the machine changed but words that the read corrected (R27) and the
current slot, where `P` relates the slot before, with the stores of other slots that it has now observed, to the slot after. -/
def LoadsNow (s : State) (g : Guard) (o : Out_) (P : Slot → Slot → Prop) : Prop :=
  ∃ ecc new y, CorrectsOnly s.ecc ecc ∧
    o = .next (setSlot { s with ecc := ecc } s.cur (retired g (curSlot s).pc y)) ∧
    P { curSlot s with obs := (curSlot s).obs ++ new } y

/-- At most one new entry of a store buffer: none for no units, else one of the current slot's instruction with these units, and with
the PKEY and the mode of its issue (log 23). -/
def NewEntry (s : State) (es : List StEnt) (us : List AccUnit) (rel : Option Nat) (flush : Option Bool) : Prop :=
  (us = [] ∧ es = []) ∨
  ∃ e, es = [e] ∧ us ≠ [] ∧ e.units = us ∧ e.k = s.cur.k ∧ e.pc = (curSlot s).pc ∧ e.rel = rel ∧ e.flush = flush ∧
    e.covers = (if rel.isSome then relCovers s s.cur else []) ∧
    e.pkey = (curSlot s).csr.pkey ∧ e.supv = (curSlot s).supv

/-- The cores are as before but for the current one, which is now `c`. -/
def OnlyCore (s : State) (cores : Tbl Core) (c : Core) : Prop :=
  tget cores Core.reset (coreKey s.cur.m s.cur.d s.cur.c) = c ∧
  ∀ k, k ≠ coreKey s.cur.m s.cur.d s.cur.c → tget cores Core.reset k = tget s.cores Core.reset k

/-- A store has run (R104, R208): its near units entered the store buffer, its far ones the far store queue, with the PKEY and the
mode of its issue (log 23), and nothing else changed but the PC and the identities handed out; no byte of memory did. -/
def BuffersStore (s : State) (g : Guard) (o : Out_) (us : List AccUnit) (rel : Option Nat) (flush : Option Bool) : Prop :=
  ∃ near far n cores, NewEntry s near (us.filter (fun u => isNear s (whoOf s s.cur) u.va)) rel flush ∧
    NewEntry s far (us.filter (fun u => !isNear s (whoOf s s.cur) u.va)) rel flush ∧
    OnlyCore s cores { coreOf s s.cur with sbuf := (coreOf s s.cur).sbuf ++ near, fq := (coreOf s s.cur).fq ++ far } ∧
    o = .next (setSlot { s with nextId := n, cores := cores } s.cur (retired g (curSlot s).pc (curSlot s)))

/-- There is room for one more entry in both buffers of the current core (R208). -/
def BufferRoom (s : State) : Prop := (coreOf s s.cur).sbuf.length < 16 ∧ (coreOf s s.cur).fq.length < 16

/-- What a slot reads at `n` bytes from LOCAL address `a` (R208): the bytes of the core's buffered stores, youngest first, over those
of its local store. -/
def seenBy (s : State) (w : SlotRef) (a : Word) (n : Nat) : Nat :=
  (forward s w s.nextId a n (memRead s.mem (localFlat (coreRefOf w) a.toNat) n)).1

/-- What the current slot reads there. -/
def localSeen (s : State) (a : Word) (n : Nat) : Nat := seenBy s s.cur a n

/-- The bytes from LOCAL address `a` can be read: each uncorrectable word among them is one that buffered stores give (R27, R105).
-/
def localGood (s : State) (a : Word) (n : Nat) : Prop :=
  wordsBad s s.cur s.nextId (localFlat (coreRefOf s.cur) a.toNat) a n = false

/-- The current slot waits: it tries the instruction again when what it waits for may have come. -/
def Stalls (s : State) (o : Out_) : Prop := o = .next (setSlot s s.cur (stallSlot (curSlot s)))

/-- The instruction has run and changed nothing of the machine but the current slot, where its effect is `P`, and the current
core, which is now `c`. -/
def RunsCore (s : State) (g : Guard) (o : Out_) (c : Core) (P : Slot → Prop) : Prop :=
  ∃ y cores, OnlyCore s cores c ∧ o = .next (setSlot { s with cores := cores } s.cur (retired g (curSlot s).pc y)) ∧ P y

/-- The current slot is parked for `p` at its instruction, with its switch marker still to be honoured (R157, R164); of the
machine nothing else changed but what `base` says. -/
def Parks (s base : State) (g : Guard) (o : Out_) (p : Park) : Prop :=
  o = .next (setSlot base s.cur { curSlot s with st := .parked p g.sw, stalled := false })

/-- The instruction takes a precise fault: of the state before it, with its PC, at its own slot (R282). -/
def Faults (s : State) (o : Out_) (c : Cause) (v : Word) : Prop := o = .next (raisePrecise s s.cur c v)

/-- An engine command has been sent (R238, R240, R245): it is on its way with its EPA, block, type, guard slot and the issuer's
identity; its status is outstanding for `d`; the core, which has it in its open batch, is now `c`. -/
def SendsCommand (s : State) (g : Guard) (o : Out_) (f : EForm) (op : CmdOp) (n : Nat) (c : Core) : Prop :=
  ∃ cmd r cores,
    cmd.id = s.nextId ∧ cmd.w = s.cur ∧ cmd.op = op ∧ cmd.ty = f.ty ∧ cmd.sub = f.sub.toNat ∧
    cmd.g = (if f.g then some f.b.toNat else none) ∧ cmd.epa = eEpa (curSlot s) f ∧ cmd.blk = eBlock (curSlot s) f n ∧
    cmd.asid = (coreOf s s.cur).ident.asid ∧ cmd.pkey = (curSlot s).csr.pkey ∧ cmd.supv = (curSlot s).supv ∧
    cmd.launch = (coreOf s s.cur).launch ∧ cmd.st = .net ∧
    r.id = s.nextId + 1 ∧ r.pc = (curSlot s).pc ∧ r.kind = .cmd s.nextId none ∧ r.dst = sDst f.d ∧ r.units = [] ∧
    OnlyCore s cores { c with openB := (coreOf s s.cur).openB ++ [s.nextId] } ∧
    o = .next (setSlot { s with nextId := s.nextId + 2, cmds := s.cmds ++ [cmd], cores := cores } s.cur
      (retired g (curSlot s).pc { markDst (curSlot s) (sDst f.d) with outs := (curSlot s).outs ++ [r] }))

/-- Only flags changed. -/
def RaisesOnly (x y : Slot) (fl : Flags) : Prop := y = { x with csr := { x.csr with fflg := x.csr.fflg ||| fl } }

/-- The integer that a 64-bit register value stands for under an integer type (R51). -/
def valOf (t : Ty) (v : Word) : Int := if tySigned t then v.toInt else (v.toNat : Int)

/-- `v` is the 64-bit extension of some pattern of type `t` (R51). -/
def Extended (t : Ty) (v : Word) : Prop := tyMin t ≤ valOf t v ∧ valOf t v ≤ tyMax t

/-- `v` and the flags are what an integer instruction of type `t` answers for the exact result `r` (R51, R52): under `.sat`
the result clamped to the type, with SAT when that changed it; else the result modulo 2^n. -/
def IntResult (t : Ty) (sat : Bool) (r : Int) (v : Word) (fl : Flags) : Prop :=
  Extended t v ∧
  (sat = false → fl = 0 ∧ ∃ q, valOf t v = r + q * 2 ^ tyBits t) ∧
  (sat = true → valOf t v = max (tyMin t) (min r (tyMax t)) ∧
    fl = (if r < tyMin t ∨ tyMax t < r then flSAT else 0))

/-- `v` is the extension of the pattern of the low bits of `p` (R51, R86). -/
def PatResult (t : Ty) (p : Nat) (v : Word) : Prop := Extended t v ∧ v.toNat % 2 ^ tyBits t = p % 2 ^ tyBits t

/-- Rounding away from zero, toward zero, or to the nearest (R55), for a sign. -/
def roundDir (rm : RMode) (neg : Bool) : Option Bool :=
  match rm with
  | .rne => none
  | .rtz => some false
  | .rup => some (!neg)
  | .rdn => some neg

/-- `p` is the number that a magnitude rounds to (R55) among the numbers whose magnitudes are `mag 0`, `mag 1` and so on, rising:
`cmp` compares twice that magnitude with an integer, and a tie goes to an even `p`. -/
def RoundsTo (mag : Nat → Nat) (rm : RMode) (neg : Bool) (cmp : Nat → Ordering) (p : Nat) : Prop :=
  match roundDir rm neg with
  | some false => cmp (2 * mag p) ≠ .lt ∧ cmp (2 * mag (p + 1)) = .lt
  | some true => cmp (2 * mag p) ≠ .gt ∧ (p ≠ 0 → cmp (2 * mag (p - 1)) = .gt)
  | none => cmp (mag p + mag (p + 1)) ≠ .gt ∧ (p ≠ 0 → cmp (mag (p - 1) + mag p) ≠ .lt) ∧
      (cmp (mag p + mag (p + 1)) = .eq ∨ p ≠ 0 ∧ cmp (mag (p - 1) + mag p) = .eq → p % 2 = 0)

/-- The magnitude of pattern `p` of a format without its sign bit, in units of 2^u; the patterns above the largest finite one go on
as in a format with more exponents (R53, R55). -/
def fpMag (f : FFmt) (u : Int) (p : Nat) : Nat :=
  if p < 2 ^ f.fb then p * 2 ^ (qMin f - u).toNat
  else (2 ^ f.fb + p % 2 ^ f.fb) * 2 ^ (qMin f + (p / 2 ^ f.fb : Nat) - 1 - u).toNat

/-- `r` is the pattern and the flags of a result rounded once (R54, R55, R57, R62) whose magnitude `cmp` compares, in units of 2^u:
the pattern that it rounds to, or beyond the largest finite one what the mode and `.sat` say; NX when that differs from it, UF when
it is inexact and rounds, at full precision, to less than the least normal number. -/
def Rounded (f : FFmt) (u : Int) (rm : RMode) (sat neg : Bool) (cmp : Nat → Ordering) (r : Nat × Flags) : Prop :=
  ∃ p, RoundsTo (fpMag f u) rm neg cmp p ∧
    (maxPat f false < p →
      r.2 = (if sat then flSAT else flOF) ||| flNX ∧
      r.1 = if sat = true ∨ roundDir rm neg = some false then maxPat f neg else if f.e4 then 0x7F else infPat f neg) ∧
    (p ≤ maxPat f false →
      let least := fpMag f u (2 ^ f.fb)
      let below := (2 ^ (f.fb + 1) - 1) * 2 ^ (qMin f - 1 - u).toNat
      let exact := cmp (2 * fpMag f u p) = .eq
      let tiny := match roundDir rm neg with
        | some false => cmp (2 * least) = .lt
        | some true => cmp (2 * below) ≠ .gt
        | none => cmp (below + least) = .lt
      r.1 = signBit f neg + p ∧ (exact → r.2 = 0) ∧ (¬ exact → tiny → r.2 = flNX ||| flUF) ∧ (¬ exact → ¬ tiny → r.2 = flNX))

/-- What an instruction with element results of width `n` bits leaves in its destination and its flags (R57, R108): each
active element has its result, an inactive one is zero under `.zm` and else what it was; a flag is raised when the result of
some active element raises it. -/
def ElemWrites (n : Nat) (mask : BitVec 64) (zm : Bool) (old : VWord) (op : Nat → Nat × Flags) (v : VWord) (fl : Flags) :
    Prop :=
  (∀ j, j < 512 / n → elemOf n v j =
    if mask.getLsbD j then (op j).1 % 2 ^ n else if zm then 0 else elemOf n old j) ∧
  ∀ k, k < 7 → (fl.getLsbD k = true ↔ ∃ j, j < 512 / n ∧ mask.getLsbD j = true ∧ (op j).2.getLsbD k = true)

/-- As `ElemWrites` for a conversion between widths (R116): with `ws` bits in the source and `wd` in the destination, part `p`
chooses the elements of the wider count that take part, and the destination's others stay. -/
def ConvWrites (ws wd p : Nat) (mask : BitVec 64) (zm : Bool) (old src : VWord) (op : Nat → Nat × Flags) (v : VWord)
    (fl : Flags) : Prop :=
  let n := 512 / max ws wd
  let sb := if ws < wd then p * n else 0
  let db := if wd < ws then p * n else 0
  (∀ i, i < 512 / wd → elemOf wd v i =
    if db ≤ i ∧ i < db + n then
      (if mask.getLsbD (i - db) then (op (elemOf ws src (sb + (i - db)))).1 % 2 ^ wd else if zm then 0 else elemOf wd old i)
    else elemOf wd old i) ∧
  ∀ k, k < 7 → (fl.getLsbD k = true ↔ ∃ j, j < n ∧ db + j < 512 / wd ∧ mask.getLsbD j = true ∧
    (op (elemOf ws src (sb + j))).2.getLsbD k = true)

/-- No active element's result raises a flag that traps (R57). -/
def QuietElems (x : Slot) (n : Nat) (mask : BitVec 64) (op : Nat → Nat × Flags) : Prop :=
  ∀ j, j < 512 / n → mask.getLsbD j = true → ieee (op j).2 &&& x.csr.fena = 0

end Sys2Proof
end

