-- ==== Sys2Proof/Certificates/Slice0/Obligations.lean ====
section
/-!
DEFINITION. The statements about the machine: what each instruction and each machine event does, what it leaves as it was,
how faults are taken, what reset leaves, and how instructions are encoded.
-/

open Sys2Proof Sys2Proof.Machine

/-! ### Scalar instructions -/

/-- R84 with R51, R52 and R82: the integer arithmetic instructions of fixed latency write the exact result of their formula,
narrowed to their type, and change nothing else. -/
def Obligations.IntegerArithmeticResults : Prop :=
  ∀ (s : State) (g : Guard) (f : RForm), Ready s g (usesR f) false → NoFlip (curSlot s) →
    let x := curSlot s
    let a := intA x f
    let b := intB x f
    let Gives := fun (i : Instr) (r : Int) =>
      Runs s g (exec i s) (fun y => ∃ v fl, IntResult f.ty (f.sub = 1) r v fl ∧ WritesS x y f.d v fl)
    Gives (.add g f) (a + b) ∧ Gives (.sub g f) (a - b) ∧ Gives (.mul g f) (a * b) ∧
    Gives (.mulh g f) (a * b / 2 ^ tyBits f.ty) ∧ Gives (.madd g f) (a * b + intC x f) ∧
    Gives (.abs g f) |a| ∧ Gives (.min g f) (min a b) ∧ Gives (.max g f) (max a b)

/-- R85: DIV and REM leave a deferred result for D, truncated toward zero; a zero divisor gives all ones and the dividend. -/
def Obligations.DivisionDefersItsResult : Prop :=
  ∀ (s : State) (g : Guard) (f : RForm), Ready s g (usesR f) true →
    let x := curSlot s
    let a := intA x f
    let b := intB x f
    let q := if b = 0 then (if tySigned f.ty then -1 else tyMax f.ty) else Int.tdiv a b
    let r := if b = 0 then a else Int.tmod a b
    let Gives := fun (i : Instr) (z : Int) =>
      ∃ v fl, IntResult f.ty (f.sub = 1) z v fl ∧
        Defers s g (exec i s) (sDst f.d) (.value (v.setWidth 512)) [] (fun y => RaisesOnly x y fl)
    Gives (.div g f) q ∧ Gives (.rem g f) r

/-- R86: the instructions on patterns, each by the operation on the pattern of its type's width. -/
def Obligations.PatternResults : Prop :=
  ∀ (s : State) (g : Guard) (f : RForm), Ready s g (usesR f) false →
    let x := curSlot s
    let n := tyBits f.ty
    let u := (sGet x f.a).setWidth n
    let v := (opB x f).setWidth n
    let k := (opB x f).toNat % n
    let Gives := fun (i : Instr) (p : BitVec n) =>
      Runs s g (exec i s) (fun y => ∃ z, PatResult f.ty p.toNat z ∧ WritesS x y f.d z 0)
    Gives (.and g f) (u &&& v) ∧ Gives (.or g f) (u ||| v) ∧ Gives (.xor g f) (u ^^^ v) ∧
    Gives (.andn g f) (u &&& ~~~v) ∧ Gives (.orn g f) (u ||| ~~~v) ∧
    Gives (.shl g f) (u <<< k) ∧ Gives (.shr g f) (u >>> k) ∧ Gives (.sar g f) (u.sshiftRight k) ∧
    Gives (.rot g f) (if f.sub = 0 then u.rotateLeft k else u.rotateRight k) ∧
    Gives (.clz g f) u.clz ∧ Gives (.ctz g f) u.ctz ∧ Gives (.popc g f) u.cpop ∧ Gives (.brev g f) u.reverse ∧
    Runs s g (exec (.bswap g f) s) (fun y => ∃ z, Extended f.ty z ∧ WritesS x y f.d z 0 ∧
      ∀ j, j < n / 8 → z.extractLsb' (8 * j) 8 = u.extractLsb' (8 * (n / 8 - 1 - j)) 8)

/-- R87: moves, selection, extension, bit fields and the address sum. -/
def Obligations.MoveResults : Prop :=
  ∀ (s : State) (g : Guard) (f : RForm),
    let x := curSlot s
    let a := sGet x f.a
    let Gives := fun (i : Instr) (P : Word → Prop) => Runs s g (exec i s) (fun y => ∃ v, P v ∧ WritesS x y f.d v 0)
    let extended := fun (k : Nat) (u : Nat) (v : Word) =>
      (tySigned f.ty = true → v = BitVec.ofInt 64 (BitVec.ofNat k u).toInt) ∧
      (tySigned f.ty = false → v = BitVec.ofNat 64 (u % 2 ^ k))
    let pos := (f.imm.extractLsb' 0 6).toNat
    let len := (f.imm.extractLsb' 6 6).toNat + 1
    (Ready s g (usesR f) false →
      Gives (.mov g f) (fun v => v = a) ∧
      Gives (.movi g f) (PatResult f.ty (f.imm.signExtend 64).toNat) ∧
      Gives (.movhi g f) (fun v => v.extractLsb' 48 16 = f.imm.extractLsb' 0 16 ∧ v.extractLsb' 0 48 = a.extractLsb' 0 48) ∧
      Gives (.ext g f) (extended (if (opB x f).toNat % 64 = 0 then 64 else (opB x f).toNat % 64) a.toNat) ∧
      Gives (.bfx g f) (extended len (a >>> pos).toNat) ∧
      Gives (.bfi g f) (fun v => ∀ j, j < 64 →
        v.getLsbD j = if pos ≤ j ∧ j < pos + len then (sGet x f.b).getLsbD (j - pos) else a.getLsbD j) ∧
      Gives (.lea g f) (fun v =>
        v = a + (sGet x f.b <<< (f.sub.extractLsb' 0 2).toNat) + (f.imm.extractLsb' 0 32).signExtend 64)) ∧
    (Ready s g [.s f.a, .s f.b, .ds f.d] false →
      Gives (.sel g f) (fun v => v = if pGet x f.c.toNat then a else opB x f))

/-- R88: the comparisons write one predicate; ADDC writes the sum or difference with carry and the new carry. Then R89, R90: NOP
changes nothing but the PC, the predicate instructions combine two predicates, PSET tests a value, PGET copies one predicate
or all eight, of which bit 7 is always 1. -/
def Obligations.CompareAndPredicateResults : Prop :=
  (∀ (s : State) (g : Guard) (f : RForm),
     let x := curSlot s
     let a := intA x f
     let b := intB x f
     let n := tyBits f.ty
     let pa := ((sGet x f.a).setWidth n).toNat
     let pb := ((opB x f).setWidth n).toNat
     let ci := if pGet x f.c.toNat then 1 else 0
     (Ready s g [.s f.a, .s f.b, .dp f.d] false → f.d.toNat < 8 →
       (∀ cond, (f.sub = 0 ∧ (cond ↔ a = b)) ∨ (f.sub = 1 ∧ (cond ↔ a ≠ b)) ∨ (f.sub = 2 ∧ (cond ↔ a < b)) ∨
           (f.sub = 3 ∧ (cond ↔ a ≤ b)) ∨ (f.sub = 4 ∧ (cond ↔ a > b)) ∨ (f.sub = 5 ∧ (cond ↔ a ≥ b)) →
         Runs s g (exec (.cmp g f) s) (fun y => ∃ c : Bool, (c = true ↔ cond) ∧ WritesP x y f.d.toNat c)) ∧
       Runs s g (exec (.test g f) s) (fun y =>
         WritesP x y f.d.toNat ((BitVec.ofNat n pa &&& BitVec.ofNat n pb != 0) == (f.sub = 0)))) ∧
     (Ready s g [.s f.a, .s f.b, .ds f.d, .dp f.c] false → NoFlip x → f.c.toNat < 8 →
       Runs s g (exec (.addc g f) s) (fun y => ∃ z v co, WritesS x z f.d v 0 ∧ WritesP z y f.c.toNat co ∧
         (f.sub = 0 → PatResult f.ty (pa + pb + ci) v ∧ (co = true ↔ 2 ^ n ≤ pa + pb + ci)) ∧
         (f.sub ≠ 0 → PatResult f.ty (pa + 2 ^ n + 2 ^ n - pb - ci) v ∧ (co = true ↔ pa < pb + ci))))) ∧
  (∀ (s : State) (g : Guard) (f : RForm),
     let x := curSlot s
     let pa := pGet x f.a.toNat != f.sub.getLsbD 0
     let pb := pGet x f.b.toNat != f.sub.getLsbD 1
     (Ready s g [] false → Runs s g (exec (.nop g f) s) (fun y => y = x)) ∧
     (Ready s g [.dp f.d] false → f.d.toNat < 8 →
       Runs s g (exec (.pand g f) s) (fun y => WritesP x y f.d.toNat (pa && pb)) ∧
       Runs s g (exec (.por g f) s) (fun y => WritesP x y f.d.toNat (pa || pb)) ∧
       Runs s g (exec (.pxor g f) s) (fun y => WritesP x y f.d.toNat (xor pa pb))) ∧
     (Ready s g [.s f.a, .dp f.d] false → f.d.toNat < 8 →
       Runs s g (exec (.pset g f) s) (fun y =>
         WritesP x y f.d.toNat (decide (¬ (if f.i then f.imm.signExtend 64 else sGet x f.a) = 0)))) ∧
     (Ready s g [.ds f.d] false →
       Runs s g (exec (.pget g f) s) (fun y => ∃ v, WritesS x y f.d v 0 ∧
         (f.sub = 0 → v = if pGet x f.a.toNat then 1 else 0) ∧
         (f.sub ≠ 0 → v.toNat < 256 ∧ v.getLsbD 7 = true ∧ ∀ j, j < 8 → v.getLsbD j = pGet x j))))

/-- R91-R93: a transfer whose target passes its checks goes there; CALL and CALLI link the next cell in `s63`, CALLI having read
its target first; LOOP counts down, and falls through at zero. Then R14, R92: a transfer whose target fails a check is
reported on the transfer with the target as TRAPVAL, and writes no register, a word that the fetch of its line corrects apart
(R27); the cause is the first failing check of R11, R13 and R14: FETCH_ALIGN, ACCESS, LINE_PARITY, ILLEGAL_LINE, BRANCH_TARGET. -/
def Obligations.TransfersOfControl : Prop :=
  (∀ (s : State) (g : Guard) (f : BForm) (r : RForm),
     let x := curSlot s
     let tb := branchTarget x.pc f
     let ta := sGet x r.a
     let tl := sGet x 63
     let c := sGet x f.a - 1
     (Ready s g [] false → checkTarget s s.cur tb = none → RunsTo s g tb (exec (.br g f) s) (fun y => y = x)) ∧
     (Ready s g [.s r.a] false → checkTarget s s.cur ta = none → RunsTo s g ta (exec (.bri g r) s) (fun y => y = x)) ∧
     (Ready s g [.ds 63] false → checkTarget s s.cur tb = none →
       RunsTo s g tb (exec (.call g f) s) (fun y => WritesS x y 63 (nextCell x.pc) 0)) ∧
     (Ready s g [.s r.a, .ds 63] false → checkTarget s s.cur ta = none →
       RunsTo s g ta (exec (.calli g r) s) (fun y => WritesS x y 63 (nextCell x.pc) 0)) ∧
     (Ready s g [.s 63] false → checkTarget s s.cur tl = none → RunsTo s g tl (exec (.ret g r) s) (fun y => y = x)) ∧
     (Ready s g [.ds f.a] false →
       (c = 0 → Runs s g (exec (.loop g f) s) (fun y => WritesS x y f.a 0 0)) ∧
       (c ≠ 0 → checkTarget s s.cur tb = none → RunsTo s g tb (exec (.loop g f) s) (fun y => WritesS x y f.a c 0)))) ∧
  (∀ (s : State) (g : Guard) (f : BForm) (r : RForm) (c : Cause),
     let x := curSlot s
     let tb := branchTarget x.pc f
     let ta := sGet x r.a
     let tl := sGet x 63
     let Faults := fun (i : Instr) (t : Word) => exec i s = .next (raisePrecise (fixFetch s s.cur t) s.cur c t)
     (Ready s g [] false → checkTarget s s.cur tb = some c → Faults (.br g f) tb) ∧
     (Ready s g [.s r.a] false → checkTarget s s.cur ta = some c → Faults (.bri g r) ta) ∧
     (Ready s g [.ds 63] false → checkTarget s s.cur tb = some c → Faults (.call g f) tb) ∧
     (Ready s g [.s r.a, .ds 63] false → checkTarget s s.cur ta = some c → Faults (.calli g r) ta) ∧
     (Ready s g [.s 63] false → checkTarget s s.cur tl = some c → Faults (.ret g r) tl) ∧
     (Ready s g [.ds f.a] false → sGet x f.a - 1 ≠ 0 → checkTarget s s.cur tb = some c → Faults (.loop g f) tb) ∧
     (cellIx tb = none → checkTarget s s.cur tb = some .fetchAlign) ∧
     (cellIx tb ≠ none → tb.extractLsb' 20 44 ≠ 0 → checkTarget s s.cur tb = some .access) ∧
     ∀ k, cellIx tb = some k → tb.extractLsb' 20 44 = 0 →
       let first := lineView s s.cur (lineOfPc tb)
       let line := if lwBad first then freshLine s (coreRefOf s.cur) (lineOfPc tb) else first
       checkTarget s s.cur tb = if lwBad line = true then some .lineParity
         else if (lwOf line).extractLsb' 14 18 ≠ 0 then some .illegalLine
         else if (lwOf line).getLsbD k = false then some .branchTarget else none)

/-! ### Scalar floating point -/

/-- R94-R100: a floating-point instruction of fixed latency that raises no enabled flag writes its rounded result,
zero-extended, and ORs its flags into FFLG. -/
def Obligations.FloatResults : Prop :=
  ∀ (s : State) (g : Guard) (f : RForm), Ready s g (usesR f) false → NoFlip (curSlot s) →
    let x := curSlot s
    let t := fmtOf f.ty
    let rm := rmOf x f.sub
    let a := fpA x f
    let b := fpB x f
    let Gives := fun (i : Instr) (r : Nat × Flags) => ieee r.2 &&& x.csr.fena = 0 →
      Runs s g (exec i s) (fun y => WritesS x y f.d (BitVec.ofNat 64 r.1) r.2)
    Gives (.fadd g f) (fpAdd t rm a b) ∧ Gives (.fsub g f) (fpSub t rm a b) ∧ Gives (.fmul g f) (fpMul t rm a b) ∧
    Gives (.ffma g f) (fpFma t rm a b (fpC x f)) ∧ Gives (.fmin g f) (fpMinMax t false a b) ∧
    Gives (.fmax g f) (fpMinMax t true a b) ∧
    Runs s g (exec (.fclass g f) s) (fun y => WritesS x y f.d (1#64 <<< fpClass t a) 0) ∧
    Runs s g (exec (.fsgn g f) s) (fun y => WritesS x y f.d (BitVec.ofNat 64 (fpSgn t f.sub.toNat a b)) 0)

/-- R96, R98: FCMP writes a predicate; FCVT, FCVTI and ICVTF convert between the type of bits [3:0] of the immediate and TYPE,
with SAT in bit 4. Then R54, R55, R57-R60, R62, R94, R99, R117, R124, R125: what the operations of these and of the other
floating-point instructions give for finite operands is the exact result rounded once to the format, with its flags; for FEXP2 and
FLOG2 that is said where the exact result is a power of two or an integer. -/
def Obligations.FloatCompareAndConvertResults : Prop :=
  (∀ (s : State) (g : Guard) (f : RForm),
     let x := curSlot s
     let src := cvtSrc f
     let sat := f.imm.getLsbD 4
     let a := (sGet x f.a).toNat % 2 ^ tyBits src
     let rm := rmOf x f.sub
     let quiet := fun fl : Flags => ieee fl &&& x.csr.fena = 0
     (Ready s g [.s f.a, .s f.b, .dp f.d] false → f.d.toNat < 8 →
       quiet (fpCmp (fmtOf f.ty) f.sub.toNat (fpA x f) (fpB x f)).2 →
       Runs s g (exec (.fcmp g f) s) (fun y => ∃ z,
         WritesP x z f.d.toNat (fpCmp (fmtOf f.ty) f.sub.toNat (fpA x f) (fpB x f)).1 ∧
         RaisesOnly z y (fpCmp (fmtOf f.ty) f.sub.toNat (fpA x f) (fpB x f)).2)) ∧
     (Ready s g (usesR f) false →
       (quiet (fpCvt (fmtOf f.ty) (fmtOf src) rm sat a).2 →
         Runs s g (exec (.fcvt g f) s) (fun y =>
           WritesS x y f.d (BitVec.ofNat 64 (fpCvt (fmtOf f.ty) (fmtOf src) rm sat a).1)
             (fpCvt (fmtOf f.ty) (fmtOf src) rm sat a).2)) ∧
       (quiet (fpCvtInt f.ty (fmtOf src) rm a).2 →
         Runs s g (exec (.fcvti g f) s) (fun y => ∃ v, PatResult f.ty (fpCvtInt f.ty (fmtOf src) rm a).1 v ∧
           WritesS x y f.d v (fpCvtInt f.ty (fmtOf src) rm a).2)) ∧
       (quiet (intCvtFp (fmtOf f.ty) rm sat (intOf src a)).2 →
         Runs s g (exec (.icvtf g f) s) (fun y =>
           WritesS x y f.d (BitVec.ofNat 64 (intCvtFp (fmtOf f.ty) rm sat (intOf src a)).1)
             (intCvtFp (fmtOf f.ty) rm sat (intOf src a)).2)))) ∧
  ∀ (ty : Ty) (rm : RMode) (u : Int),
    let t := fmtOf ty
    let Twice := fun (m : Nat) (e : Int) (k : Nat) => compare (2 * m * 2 ^ (e - u).toNat) k
    let at_ := fun (n : Bool) (m : Nat) (e : Int) => signedOf n m * 2 ^ (e - u).toNat
    u < qMin t →
    (∀ (sat neg : Bool) (e : Int), fpRound t rm sat neg 0 e false = (signBit t neg, 0)) ∧
    (∀ (sat neg : Bool) (m : Nat) (e : Int), m ≠ 0 → u ≤ e →
      Rounded t u rm sat neg (Twice m e) (fpRound t rm sat neg m e false)) ∧
    (∀ (x y : Nat) (n1 n2 : Bool) (m1 m2 : Nat) (e1 e2 : Int), fpDecode t x = .fin n1 m1 e1 → fpDecode t y = .fin n2 m2 e2 →
      (∃ n m e, fpAdd t rm x y = fpRound t rm false n m e false ∧ (u ≤ e1 → u ≤ e2 → u ≤ e →
        at_ n m e = at_ n1 m1 e1 + at_ n2 m2 e2) ∧ (m = 0 → n = if n1 = n2 then n1 else decide (rm = .rdn))) ∧
      (∃ n m e, fpSub t rm x y = fpRound t rm false n m e false ∧ (u ≤ e1 → u ≤ e2 → u ≤ e →
        at_ n m e = at_ n1 m1 e1 - at_ n2 m2 e2) ∧ (m = 0 → n = if n1 ≠ n2 then n1 else decide (rm = .rdn))) ∧
      fpMul t rm x y = fpRound t rm false (n1 != n2) (m1 * m2) (e1 + e2) false ∧
      (∀ z n3 m3 e3, fpDecode t z = .fin n3 m3 e3 → ∃ n m e, fpFma t rm x y z = fpRound t rm false n m e false ∧
        (u ≤ e1 + e2 → u ≤ e3 → u ≤ e → at_ n m e = at_ (n1 != n2) (m1 * m2) (e1 + e2) + at_ n3 m3 e3) ∧
        (m = 0 → n = if (n1 != n2) = n3 then n3 else decide (rm = .rdn))) ∧
      (m1 ≠ 0 → m2 ≠ 0 → u ≤ e1 - e2 →
        Rounded t u rm false (n1 != n2) (fun k => compare (2 * m1 * 2 ^ (e1 - e2 - u).toNat) (k * m2)) (fpDiv t rm x y)) ∧
      (m1 ≠ 0 → u ≤ -e1 →
        Rounded t u rm false n1 (fun k => compare (2 * 2 ^ (-e1 - u).toNat) (k * m1)) (fpRcp t rm x)) ∧
      (m1 ≠ 0 → n1 = false → 2 * u ≤ e1 →
        Rounded t u rm false false (fun k => compare (4 * m1 * 2 ^ (e1 - 2 * u).toNat) (k * k)) (fpSqrt t rm x)) ∧
      (m1 ≠ 0 → n1 = false → 2 * u ≤ -e1 →
        Rounded t u rm false false (fun k => compare (4 * 2 ^ (-e1 - 2 * u).toNat) (k * k * m1)) (fpRsq t rm x)) ∧
      (∀ i : Int, u ≤ e1 → u ≤ i → -4000 ≤ i → i ≤ 4000 → at_ n1 m1 e1 = i * 2 ^ (-u).toNat →
        Rounded t u rm false false (Twice 1 i) (fpExp2 t rm x)) ∧
      (∀ i : Int, u ≤ e1 → u ≤ i → n1 = false → at_ n1 m1 e1 = 2 ^ (i - u).toNat →
        fpLog2 t rm x = fpRound t rm false (decide (i < 0)) i.natAbs 0 false)) ∧
    (∀ (src : Ty) (sat : Bool) (x : Nat) (n : Bool) (m : Nat) (e : Int), fpDecode (fmtOf src) x = .fin n m e → u ≤ e →
      fpCvt t (fmtOf src) rm sat x = fpRound t rm sat n m e false ∧
      (tyIsInt src = false → tyIsInt ty = false → cvtElem ty src rm sat x = fpCvt t (fmtOf src) rm sat x) ∧
      (∀ to_ : Ty, tyIsInt to_ = true → ∃ i, RoundsTo (fun p => p * 2 ^ (-u).toNat) rm n (Twice m e) i ∧
        let z := max (tyMin to_) (min (signedOf n i) (tyMax to_))
        fpCvtInt to_ (fmtOf src) rm x = (wrapTo (tyBits to_) z,
          if z ≠ signedOf n i then flNV else if Twice m e (2 * i * 2 ^ (-u).toNat) = .eq then 0 else flNX)) ∧
      ∀ (g4 : Bool) (r : Nat), let sc := recScaleVal r
        sc.1 ≠ 0 → u ≤ sc.2 → ∃ i, RoundsTo id rm n (fun k => compare (2 * m * 2 ^ (e - u).toNat) (k * sc.1 * 2 ^ (sc.2 - u).toNat)) i ∧
          let q := signedOf n i + recZp r
          let z := max 0 (min q (if g4 then 15 else 255))
          quantElem g4 r (fmtOf src) rm x = (z.toNat, (if z ≠ q then flSAT else 0) |||
            if m * 2 ^ (e - u).toNat = i * sc.1 * 2 ^ (sc.2 - u).toNat then 0 else flNX)) ∧
    (∀ (sat : Bool) (i : Int), intCvtFp t rm sat i = fpRound t rm sat (decide (i < 0)) i.natAbs 0 false) ∧
    ∀ (r q : Nat), let d : Int := (q : Int) - recZp r
      deqElem r t rm q = if (recScaleVal r).1 = 0 ∨ d = 0 then (0, 0)
        else fpRound t rm false (decide (d < 0)) (d.natAbs * (recScaleVal r).1) (recScaleVal r).2 false

/-- R94, R99, R101: the deferred floating-point instructions that raise no enabled flag OR their flags into FFLG and leave their
result outstanding for D; while `FENA` is not zero the slot is held until the result returns. That the flags are raised when
the instruction issues is the model's choice (log 21). -/
def Obligations.DeferredFloatResults : Prop :=
  ∀ (s : State) (g : Guard) (f : RForm), Ready s g (usesR f) true →
    let x := curSlot s
    let t := fmtOf f.ty
    let rm := rmOf x f.sub
    let a := fpA x f
    let Gives := fun (i : Instr) (r : Nat × Flags) => ieee r.2 &&& x.csr.fena = 0 →
      let Q := fun y : Slot => RaisesOnly x y r.2
      if x.csr.fena = 0 then Defers s g (exec i s) (sDst f.d) (.value (BitVec.ofNat 512 r.1)) [] Q
      else Holds s g (exec i s) (sDst f.d) (.value (BitVec.ofNat 512 r.1)) [] Q
    Gives (.fdiv g f) (fpDiv t rm a (fpB x f)) ∧ Gives (.fsqrt g f) (fpSqrt t rm a) ∧
    Gives (.frcp g f) (fpRcp t rm a) ∧ Gives (.frsq g f) (fpRsq t rm a) ∧
    Gives (.fexp2 g f) (fpExp2 t rm a) ∧ Gives (.flog2 g f) (fpLog2 t rm a)

/-- R57, R101: an instruction that raises a flag enabled in FENA takes FP_EXCEPTION, a deferred one too, with all its IEEE flags set in
FFLG and in TRAPVAL, and writes no result; a vector one with the flags of its active elements. -/
def Obligations.EnabledFlagsTrap : Prop :=
  (∀ (s : State) (g : Guard) (f : RForm),
     let x := curSlot s
     let t := fmtOf f.ty
     let rm := rmOf x f.sub
     let a := fpA x f
     let b := fpB x f
     let Traps := fun (i : Instr) (fl : Flags) => ieee fl &&& x.csr.fena ≠ 0 →
       ∃ y, RaisesOnly x y ((ieee fl).setWidth 7) ∧
         exec i s = .next (raisePrecise (setSlot s s.cur y) s.cur .fpException ((ieee fl).setWidth 64))
     (Ready s g (usesR f) false → NoFlip x →
       Traps (.fadd g f) (fpAdd t rm a b).2 ∧ Traps (.fsub g f) (fpSub t rm a b).2 ∧ Traps (.fmul g f) (fpMul t rm a b).2 ∧
       Traps (.ffma g f) (fpFma t rm a b (fpC x f)).2 ∧ Traps (.fmin g f) (fpMinMax t false a b).2 ∧
       Traps (.fmax g f) (fpMinMax t true a b).2) ∧
     (Ready s g (usesR f) true →
       Traps (.fdiv g f) (fpDiv t rm a b).2 ∧ Traps (.fsqrt g f) (fpSqrt t rm a).2 ∧ Traps (.frcp g f) (fpRcp t rm a).2 ∧
       Traps (.frsq g f) (fpRsq t rm a).2 ∧ Traps (.fexp2 g f) (fpExp2 t rm a).2 ∧ Traps (.flog2 g f) (fpLog2 t rm a).2) ∧
     (Ready s g (usesR f) false →
       let src := cvtSrc f
       let sat := f.imm.getLsbD 4
       let e := (sGet x f.a).toNat % 2 ^ tyBits src
       Traps (.fcvt g f) (fpCvt t (fmtOf src) rm sat e).2 ∧ Traps (.fcvti g f) (fpCvtInt f.ty (fmtOf src) rm e).2 ∧
       Traps (.icvtf g f) (intCvtFp t rm sat (intOf src e)).2) ∧
     (Ready s g [.s f.a, .s f.b, .dp f.d] false → Traps (.fcmp g f) (fpCmp t f.sub.toNat a b).2)) ∧
  ∀ (s : State) (g : Guard) (f : VForm), NoFlip (curSlot s) →
    let x := curSlot s
    let n := tyBits f.ty
    let t := fmtOf f.ty
    let rm := rmOf x f.sub
    let m := vMask x f
    let a := fun j => vA x f j
    let b := fun j => vB x f j
    let Traps := fun (i : Instr) (fl : BitVec 5) => fl &&& x.csr.fena ≠ 0 → ∃ y, RaisesOnly x y (fl.setWidth 7) ∧
      exec i s = .next (raisePrecise (setSlot s s.cur y) s.cur .fpException (fl.setWidth 64))
    let Any := fun (i : Instr) (k : Nat) (op : Nat → Nat × Flags) => ∀ fl : BitVec 5,
      (∀ q, q < 5 → (fl.getLsbD q = true ↔ ∃ j, j < k ∧ m.getLsbD j = true ∧ (op j).2.getLsbD q = true)) → Traps i fl
    let Conv := fun (i : Instr) (op : Nat → Nat × Flags) =>
      let wide := max (tyBits (convSrc f)) n
      convPart f * (512 / wide) + 512 / wide ≤ 512 / n ∨ n = wide →
        Any i (512 / wide) (fun j => op (elemOf (tyBits (convSrc f)) (vGet x f.a)
          ((if tyBits (convSrc f) < n then convPart f * (512 / wide) else 0) + j)))
    let Folds := fun (i : Instr) (op : Nat → Nat → Nat × Flags) (ident : Nat) =>
      Traps i (ieee (treeFold op (Nat.log2 (512 / n))
        ((List.range (512 / n)).map (fun j => if m.getLsbD j then a j else ident)) 0).2)
    (tyIsInt f.ty = false →
      (Ready s g (usesV2 f) false →
        Any (.vadd g f) (512 / n) (fun j => fpAdd t rm (a j) (b j)) ∧ Any (.vsub g f) (512 / n) (fun j => fpSub t rm (a j) (b j)) ∧
        Any (.vmul g f) (512 / n) (fun j => fpMul t rm (a j) (b j)) ∧
        Any (.vmin g f) (512 / n) (fun j => fpMinMax t false (a j) (b j)) ∧
        Any (.vmax g f) (512 / n) (fun j => fpMinMax t true (a j) (b j))) ∧
      (Ready s g (usesV3 f) false →
        Any (.vfma g f) (512 / n) (fun j => fpFma t rm (a j) (b j) (elemOf n (vGet x f.c) j))) ∧
      (Ready s g (usesV2 f) true → Any (.vdiv g f) (512 / n) (fun j => fpDiv t rm (a j) (b j))) ∧
      (Ready s g (usesV1 f) true →
        Any (.vsqrt g f) (512 / n) (fun j => fpSqrt t rm (a j)) ∧ Any (.vrcp g f) (512 / n) (fun j => fpRcp t rm (a j)) ∧
        Any (.vrsq g f) (512 / n) (fun j => fpRsq t rm (a j)) ∧ Any (.vexp2 g f) (512 / n) (fun j => fpExp2 t rm (a j)) ∧
        Any (.vlog2 g f) (512 / n) (fun j => fpLog2 t rm (a j))) ∧
      (Ready s g (.dm f.d :: .v f.a :: (if f.i then [] else [.v f.b])) false →
        Any (.vcmp g f) (512 / n) (fun j => (0, (fpCmp t f.sub.toNat (a j) (b j)).2))) ∧
      (Ready s g [.v f.a, .ds f.d] false →
        Folds (.vredsum g f) (redAdd x f) (signBit t true) ∧ Folds (.vredmin g f) (redMinMax f false) (infPat t false) ∧
        Folds (.vredmax g f) (redMinMax f true) (infPat t true)) ∧
      (Ready s g (usesV1 f) false → 0 < 512 / n →
        let l := (List.range (512 / n)).map (fun j => if m.getLsbD j then a j else signBit t true)
        Traps (.vscan g f) (ieee (scanFold (redAdd x f) (l.headD 0) l.tail 0).2))) ∧
    (Ready s g (usesV1 f) false → Conv (.vcvt g f) (cvtElem f.ty (convSrc f) rm (convSat f))) ∧
    (Ready s g [.v f.a, .s f.b, .dv f.d] false →
      let r := (sGet x f.b).toNat % 2 ^ 32
      (recBad (f.ty = .g4) r = false → Conv (.vquant g f) (quantElem (f.ty = .g4) r (fmtOf (convSrc f)) rm)) ∧
      (recBad (convSrc f = .g4) r = false → Conv (.vdeq g f) (deqElem r t rm)))

/-! ### Vector instructions -/

/-- R108, R111: the element instructions of fixed latency, by type on integers or on floating-point numbers. -/
def Obligations.VectorArithmeticResults : Prop :=
  ∀ (s : State) (g : Guard) (f : VForm), NoFlip (curSlot s) →
    let x := curSlot s
    let n := tyBits f.ty
    let t := fmtOf f.ty
    let rm := rmOf x f.sub
    let a := fun j => vA x f j
    let b := fun j => vB x f j
    let c := fun j => elemOf n (vGet x f.c) j
    let ai := fun j => intOf f.ty (a j)
    let bi := fun j => intOf f.ty (b j)
    let Gives := fun (i : Instr) (op : Nat → Nat × Flags) => QuietElems x n (vMask x f) op →
      Runs s g (exec i s) (fun y => ∃ v fl, ElemWrites n (vMask x f) f.zm (vGet x f.d) op v fl ∧ WritesV x y f.d v fl)
    let byType := fun (z : Nat → Int) (r : Nat → Nat × Flags) (j : Nat) =>
      if tyIsInt f.ty then ((z j % 2 ^ n).toNat, (0 : Flags)) else r j
    let clamped := fun (z : Int) =>
      ((max (tyMin f.ty) (min z (tyMax f.ty)) % 2 ^ n).toNat, if z < tyMin f.ty ∨ tyMax f.ty < z then flSAT else (0 : Flags))
    (Ready s g (usesV2 f) false →
      Gives (.vadd g f) (byType (fun j => ai j + bi j) (fun j => fpAdd t rm (a j) (b j))) ∧
      Gives (.vsub g f) (byType (fun j => ai j - bi j) (fun j => fpSub t rm (a j) (b j))) ∧
      Gives (.vmul g f) (byType (fun j => ai j * bi j) (fun j => fpMul t rm (a j) (b j))) ∧
      Gives (.vmin g f) (byType (fun j => min (ai j) (bi j)) (fun j => fpMinMax t false (a j) (b j))) ∧
      Gives (.vmax g f) (byType (fun j => max (ai j) (bi j)) (fun j => fpMinMax t true (a j) (b j))) ∧
      (tyIsInt f.ty = true → Gives (.vmulh g f) (fun j => ((ai j * bi j / 2 ^ n % 2 ^ n).toNat, 0)) ∧
        Gives (.vadds g f) (fun j => clamped (ai j + bi j)) ∧ Gives (.vsubs g f) (fun j => clamped (ai j - bi j))) ∧
      (tyIsInt f.ty = false → Gives (.vsgn g f) (fun j => (fpSgn t f.sub.toNat (a j) (b j), 0)))) ∧
    (Ready s g (usesV3 f) false →
      Gives (.vfma g f) (byType (fun j => ai j * bi j + intOf f.ty (c j)) (fun j => fpFma t rm (a j) (b j) (c j)))) ∧
    (Ready s g (usesV1 f) false →
      Gives (.vabs g f) (byType (fun j => |ai j|) (fun j => (a j % 2 ^ (t.w - 1), 0))))

/-- R111, R126, R101: the deferred element instructions leave their vector outstanding for D; while `FENA` is not zero a
floating-point one holds its slot until the result returns. That the flags are raised when the instruction issues is the
model's choice (log 21). -/
def Obligations.DeferredVectorResults : Prop :=
  ∀ (s : State) (g : Guard) (f : VForm),
    let x := curSlot s
    let n := tyBits f.ty
    let t := fmtOf f.ty
    let rm := rmOf x f.sub
    let a := fun j => vA x f j
    let b := fun j => vB x f j
    let Gives := fun (i : Instr) (op : Nat → Nat × Flags) =>
      ∃ v fl, ElemWrites n (vMask x f) f.zm (vGet x f.d) op v fl ∧
        let Q := fun y : Slot => RaisesOnly x y fl
        (x.csr.fena = 0 ∨ tyIsInt f.ty = true → Defers s g (exec i s) (.vreg f.d) (.value v) [] Q) ∧
        (x.csr.fena ≠ 0 → tyIsInt f.ty = false → QuietElems x n (vMask x f) op →
          Holds s g (exec i s) (.vreg f.d) (.value v) [] Q)
    let q := fun j => if intOf f.ty (b j) = 0 then (if tySigned f.ty then -1 else tyMax f.ty)
      else Int.tdiv (intOf f.ty (a j)) (intOf f.ty (b j))
    (Ready s g (usesV2 f) true →
      Gives (.vdiv g f) (fun j => if tyIsInt f.ty then ((q j % 2 ^ n).toNat, 0) else fpDiv t rm (a j) (b j))) ∧
    (Ready s g (usesV1 f) true → tyIsInt f.ty = false →
      Gives (.vsqrt g f) (fun j => fpSqrt t rm (a j)) ∧ Gives (.vrcp g f) (fun j => fpRcp t rm (a j)) ∧
      Gives (.vrsq g f) (fun j => fpRsq t rm (a j)) ∧ Gives (.vexp2 g f) (fun j => fpExp2 t rm (a j)) ∧
      Gives (.vlog2 g f) (fun j => fpLog2 t rm (a j)))

/-- R112: the instructions on element patterns. Then R114: the instructions that move elements. -/
def Obligations.VectorPatternAndMoveResults : Prop :=
  (∀ (s : State) (g : Guard) (f : VForm),
     let x := curSlot s
     let n := tyBits f.ty
     let a := fun j => BitVec.ofNat n (vA x f j)
     let b := fun j => BitVec.ofNat n (vB x f j)
     let k := fun j => vB x f j % n
     let Gives := fun (i : Instr) (op : Nat → BitVec n) =>
       Runs s g (exec i s) (fun y => ∃ v, ElemWrites n (vMask x f) f.zm (vGet x f.d) (fun j => ((op j).toNat, 0)) v 0 ∧
         WritesV x y f.d v 0)
     (Ready s g (usesV2 f) false →
       Gives (.vand g f) (fun j => a j &&& b j) ∧ Gives (.vor g f) (fun j => a j ||| b j) ∧
       Gives (.vxor g f) (fun j => a j ^^^ b j) ∧ Gives (.vandn g f) (fun j => a j &&& ~~~b j) ∧
       Gives (.vshl g f) (fun j => a j <<< k j) ∧ Gives (.vshr g f) (fun j => a j >>> k j) ∧
       Gives (.vsar g f) (fun j => (a j).sshiftRight (k j))) ∧
     (Ready s g (usesV1 f) false → Gives (.vpopc g f) (fun j => (a j).cpop))) ∧
  (∀ (s : State) (g : Guard) (f : VForm),
     let x := curSlot s
     let n := tyBits f.ty
     let L := 512 / n
     let a := fun j => vA x f j
     let bs := if f.i then (f.vimm.signExtend 64).toNat else (sGet x f.b).toNat
     let Gives := fun (i : Instr) (m : BitVec 64) (zm : Bool) (op : Nat → Nat) =>
       Runs s g (exec i s) (fun y => ∃ v, ElemWrites n m zm (vGet x f.d) (fun j => (op j, 0)) v 0 ∧ WritesV x y f.d v 0)
     (Ready s g (usesV2 f) false →
       Runs s g (exec (.vsel g f) s) (fun y => ∃ v, WritesV x y f.d v 0 ∧
         ∀ j, j < L → elemOf n v j = if (mGet x f.c.toNat).getLsbD j then a j else vB x f j % 2 ^ n) ∧
       Gives (.vperm g f) (vMask x f) f.zm (fun j => a (vB x f j % L))) ∧
     (Ready s g [.s f.a, .dv f.d] false →
       Gives (.vbcast g f) (vMask x f) f.zm (fun _ => (if f.i then f.vimm.signExtend 64 else sGet x f.a).toNat)) ∧
     (Ready s g [.v f.a, .s f.b, .ds f.d] false →
       Runs s g (exec (.vext g f) s) (fun y => ∃ v, PatResult f.ty (a (bs % L)) v ∧ WritesS x y f.d v 0)) ∧
     (Ready s g [.s f.a, .s f.b, .dv f.d] false →
       Runs s g (exec (.vins g f) s) (fun y => ∃ v, WritesV x y f.d v 0 ∧ ∀ j, j < L →
         elemOf n v j = if j = bs % L then (sGet x f.a).toNat % 2 ^ n else elemOf n (vGet x f.d) j)) ∧
     (Ready s g [.v f.a, .s f.b, .dv f.d] false →
       Gives (.vrot g f) (vMask x f) f.zm (fun j => a ((j + bs) % L))) ∧
     (Ready s g [.dv f.d] false →
       Gives (.vmovi g f) (vMask x f) f.zm (fun j =>
         (((f.vimm.extractLsb' 0 22).toInt + j * (f.vimm.extractLsb' 22 21).toInt) % 2 ^ n).toNat)))

/-- R113, R127: VCMP writes a mask, inactive bits kept or cleared; the mask instructions combine, count and move masks. -/
def Obligations.MaskResults : Prop :=
  ∀ (s : State) (g : Guard) (f : VForm),
    let x := curSlot s
    let n := tyBits f.ty
    let m := vMask x f
    let ma := if f.sub.getLsbD 0 then ~~~mGet x f.a.toNat else mGet x f.a.toNat
    let mb := if f.sub.getLsbD 1 then ~~~mGet x f.b.toNat else mGet x f.b.toNat
    let holds := fun j => if tyIsInt f.ty then
        (cmpCond f.sub.toNat (intOf f.ty (vA x f j)) (intOf f.ty (vB x f j)), (0 : Flags))
      else fpCmp (fmtOf f.ty) f.sub.toNat (vA x f j) (vB x f j)
    let Gives := fun (i : Instr) (v : BitVec 64) => Runs s g (exec i s) (fun y => WritesM x y f.d.toNat v 0)
    (Ready s g (.dm f.d :: .v f.a :: (if f.i then [] else [.v f.b])) false →
      QuietElems x n m (fun j => (0, (holds j).2)) →
      Runs s g (exec (.vcmp g f) s) (fun y => ∃ v fl, WritesM x y f.d.toNat v fl ∧
        (∀ j, j < 64 → v.getLsbD j =
          if j < 512 / n then (if m.getLsbD j then (holds j).1 else !f.zm && (mGet x f.d.toNat).getLsbD j) else false) ∧
        ∀ k, k < 7 → (fl.getLsbD k = true ↔ ∃ j, j < 512 / n ∧ m.getLsbD j = true ∧ (holds j).2.getLsbD k = true))) ∧
    (Ready s g [.dm f.d] false →
      Gives (.mand g f) (ma &&& mb) ∧ Gives (.mor g f) (ma ||| mb) ∧ Gives (.mxor g f) (ma ^^^ mb) ∧
      Gives (.mnot g f) (~~~mGet x f.a.toNat) ∧ (1 < f.sub.toNat → Gives (.mmov g f) (mGet x f.a.toNat))) ∧
    (Ready s g [.ds f.d] false →
      Runs s g (exec (.mpop g f) s) (fun y => WritesS x y f.d (mGet x f.a.toNat).cpop 0) ∧
      Runs s g (exec (.mfirst g f) s) (fun y => WritesS x y f.d (mGet x f.a.toNat).ctz 0) ∧
      (f.sub = 1 → Runs s g (exec (.mmov g f) s) (fun y => WritesS x y f.d (mGet x f.a.toNat) 0))) ∧
    (Ready s g [.s f.a, .dm f.d] false → f.sub = 0 →
      Gives (.mmov g f) (if f.i then f.vimm.signExtend 64 else sGet x f.a))

/-- R79, R80, R115: the reductions combine lane i with lane i + L/2 level by level, inactive lanes holding the identity; VSCAN
goes on from element 0. Then R79, R115: an integer VREDSUM without `.sat` is the sum of the active elements modulo 2^n;
VREDMIN and VREDMAX bound every active element and are one of them when one is active. -/
def Obligations.AllReductionResults : Prop :=
  (∀ (s : State) (g : Guard) (f : VForm),
     let x := curSlot s
     let n := tyBits f.ty
     let lanesWith := fun ident => (List.range (512 / n)).map (fun j => if (vMask x f).getLsbD j then vA x f j else ident)
     let Gives := fun (i : Instr) (op : Nat → Nat → Nat × Flags) (ident : Nat) =>
       let r := treeFold op (Nat.log2 (512 / n)) (lanesWith ident) 0
       ieee r.2 &&& x.csr.fena = 0 → Runs s g (exec i s) (fun y => WritesS x y f.d (extendTo f.ty r.1) r.2)
     (Ready s g [.v f.a, .ds f.d] false →
       Gives (.vredsum g f) (redAdd x f) (if tyIsInt f.ty then 0 else signBit (fmtOf f.ty) true) ∧
       Gives (.vredmin g f) (redMinMax f false) (idMin f.ty) ∧ Gives (.vredmax g f) (redMinMax f true) (idMax f.ty)) ∧
     (Ready s g (usesV1 f) false →
       let l := lanesWith (idAdd f.ty)
       let r := scanFold (redAdd x f) (l.headD 0) l.tail 0
       0 < 512 / n → ieee r.2 &&& x.csr.fena = 0 →
       Runs s g (exec (.vscan g f) s) (fun y => ∃ v, WritesV x y f.d v r.2 ∧
         ElemWrites n (vMask x f) f.zm (vGet x f.d) (fun j => ((l.headD 0 :: r.1).getD j 0, 0)) v 0))) ∧
  (∀ (s : State) (g : Guard) (f : VForm), tyIsInt f.ty = true → Ready s g [.v f.a, .ds f.d] false →
     let x := curSlot s
     let n := tyBits f.ty
     let e := fun j => intOf f.ty (vA x f j)
     let active := (List.range (512 / n)).filter (fun j => (vMask x f).getLsbD j)
     (f.sub ≠ 1 → Runs s g (exec (.vredsum g f) s) (fun y => ∃ v q,
       valOf f.ty v = (active.map e).sum + q * 2 ^ n ∧ WritesS x y f.d v 0)) ∧
     Runs s g (exec (.vredmin g f) s) (fun y => ∃ v, WritesS x y f.d v 0 ∧
       (∀ j ∈ active, valOf f.ty v ≤ e j) ∧ (active ≠ [] → ∃ j ∈ active, valOf f.ty v = e j) ∧
       (active = [] → valOf f.ty v = tyMax f.ty)) ∧
     Runs s g (exec (.vredmax g f) s) (fun y => ∃ v, WritesS x y f.d v 0 ∧
       (∀ j ∈ active, e j ≤ valOf f.ty v) ∧ (active ≠ [] → ∃ j ∈ active, valOf f.ty v = e j) ∧
       (active = [] → valOf f.ty v = tyMin f.ty)))

/-- R116-R119, R124, R125: the conversions between element widths. -/
def Obligations.VectorConversionResults : Prop :=
  ∀ (s : State) (g : Guard) (f : VForm),
    let x := curSlot s
    let n := tyBits f.ty
    let src := convSrc f
    let rm := rmOf x f.sub
    let r := (sGet x f.b).toNat % 2 ^ 32
    let Conv := fun (i : Instr) (op : Nat → Nat × Flags) =>
      (∀ j, j < 512 / max (tyBits src) n → (vMask x f).getLsbD j = true →
        ieee (op (elemOf (tyBits src) (vGet x f.a) ((if tyBits src < n then convPart f * (512 / n) else 0) + j))).2 &&&
          x.csr.fena = 0) →
      Runs s g (exec i s) (fun y => ∃ v fl,
        ConvWrites (tyBits src) n (convPart f) (vMask x f) f.zm (vGet x f.d) (vGet x f.a) op v fl ∧ WritesV x y f.d v fl)
    (Ready s g (usesV1 f) false →
      Conv (.vcvt g f) (cvtElem f.ty src rm (convSat f)) ∧
      (Runs s g (exec (.vwiden g f) s) (fun y => ∃ v, WritesV x y f.d v 0 ∧
          ElemWrites n (vMask x f) f.zm (vGet x f.d) (fun j =>
            let e := elemOf (n / 2) (vGet x f.a) ((if f.vimm.getLsbD 0 then 512 / n else 0) + j)
            (if tySigned f.ty then (sintOf (n / 2) e % 2 ^ n).toNat else e, 0)) v 0))) ∧
    (Ready s g (usesV2 f) false →
      Runs s g (exec (.vpack g f) s) (fun y => ∃ v fl, WritesV x y f.d v fl ∧
        ElemWrites n (vMask x f) f.zm (vGet x f.d) (fun j =>
          let e := if j < 512 / n / 2 then elemOf (2 * n) (vGet x f.a) j else elemOf (2 * n) (vGet x f.b) (j - 512 / n / 2)
          narrow f.ty (f.sub = 1) (intOf (wideOf f.ty) e)) v fl)) ∧
    (Ready s g [.v f.a, .s f.b, .dv f.d] false →
      (recBad (f.ty = .g4) r = false → Conv (.vquant g f) (quantElem (f.ty = .g4) r (fmtOf src) rm)) ∧
      (recBad (src = .g4) r = false → Conv (.vdeq g f) (deqElem r (fmtOf f.ty) rm)))

/-- R67, R120, R121: an ill-formed group record, and an illegal ternary byte or trit that an active element reads, is FORMAT
with the record or the byte's number as TRAPVAL. -/
def Obligations.IllFormedDataFault : Prop :=
  ∀ (s : State) (g : Guard) (f : VForm),
    let x := curSlot s
    let r := (sGet x f.b).toNat % 2 ^ 32
    let Faults := fun (i : Instr) (v : Nat) => exec i s = .next (raisePrecise s s.cur .format (BitVec.ofNat 64 v))
    let t := fun i => elemOf 8 (vGet x f.b) i
    (Ready s g [.v f.a, .s f.b, .dv f.d] false →
      (recBad (f.ty = .g4) r = true → Faults (.vquant g f) r) ∧ (recBad (convSrc f = .g4) r = true → Faults (.vdeq g f) r)) ∧
    (Ready s g (usesV1 f) false → ∀ k, badTrit x f = some k → f.sub = 0 → Faults (.vunpack3 g f) k) ∧
    (Ready s g (usesV2 f) false → ∀ k, k < 64 → (vMask x f).getLsbD (k / 4) = true → t k ≠ 0 → t k ≠ 1 → t k ≠ 0xFF →
      (∀ j, j < k → (vMask x f).getLsbD (j / 4) = true → t j = 0 ∨ t j = 1 ∨ t j = 0xFF) → Faults (.vtacc g f) k)

/-- R69, R120-R123: the ternary, dot-product and structured-sparsity instructions. -/
def Obligations.TernaryAndSparseResults : Prop :=
  ∀ (s : State) (g : Guard) (f : VForm), NoFlip (curSlot s) →
    let x := curSlot s
    let n := tyBits f.ty
    let base := (f.vimm.extractLsb' 0 6).toNat
    let byte := fun j => elemOf 8 (vGet x f.a) ((base + j / 5) % 64)
    let trits := fun j => (((if 242 < byte j then 0 else ((byte j / 3 ^ (j % 5) % 3 : Nat) : Int) - 1) % 2 ^ n).toNat, (0 : Flags))
    let s8 := fun (v : VWord) i => intOf .s8 (elemOf 8 v i)
    let acc := fun (sum : Nat → Int) (j : Nat) =>
      narrow .s32 (f.sub.getLsbD 0) (intOf .s32 (elemOf 32 (vGet x f.d) j) + sum j)
    let four := fun (t : Nat → Int) j => t (4 * j) + t (4 * j + 1) + t (4 * j + 2) + t (4 * j + 3)
    let Dots := fun (i : Instr) (sum : Nat → Int) =>
      Runs s g (exec i s) (fun y => ∃ v fl, ElemWrites 32 (vMask x f) f.zm (vGet x f.d) (acc sum) v fl ∧ WritesV x y f.d v fl)
    let kept := fun q => keptOf f.ty (fun i => vA x f (4 * q + i))
    (Ready s g (usesV1 f) false →
      (badTrit x f = none → Runs s g (exec (.vunpack3 g f) s) (fun y => ∃ v, WritesV x y f.d v 0 ∧
        ElemWrites n (vMask x f) f.zm (vGet x f.d) trits v 0)) ∧
      (∀ k, badTrit x f = some k → f.sub ≠ 0 → Runs s g (exec (.vunpack3 g f) s) (fun y => ∃ v z,
        ElemWrites n (vMask x f) f.zm (vGet x f.d) trits v 0 ∧ WritesV x z f.d v flTERN ∧
        y = { z with csr := { z.csr with ternidx := BitVec.ofNat 6 k } }))) ∧
    (Ready s g (usesV2 f) false →
      Dots (.vdot4 g f) (four (fun i => (if f.sub.getLsbD 1 then (elemOf 8 (vGet x f.a) i : Int) else s8 (vGet x f.a) i) *
        s8 (vGet x f.b) i)) ∧
      ((∀ i, i < 64 → (vMask x f).getLsbD (i / 4) = true →
          s8 (vGet x f.b) i = 0 ∨ s8 (vGet x f.b) i = 1 ∨ s8 (vGet x f.b) i = -1) →
        Dots (.vtacc g f) (four (fun i =>
          let t := s8 (vGet x f.b) i
          if t = 1 then s8 (vGet x f.a) i else if t = -1 then -s8 (vGet x f.a) i else 0)))) ∧
    (Ready s g (.dm f.c :: .dm (f.c + 1) :: usesV1 f) false →
      Runs s g (exec (.vsparse24 g f) s) (fun y => ∃ z z' v lo hi, WritesV x z f.d v 0 ∧ WritesM z z' f.c.toNat lo 0 ∧
        WritesM z' y (f.c.toNat + 1) hi 0 ∧
        (∀ q, q < 512 / n / 4 → lo.toNat / 4 ^ q % 4 = (kept q).1 ∧ hi.toNat / 4 ^ q % 4 = (kept q).2 ∧
          (kept q).1 < (kept q).2 ∧ (kept q).2 < 4 ∧
          elemOf n v (2 * q) = vA x f (4 * q + (kept q).1) ∧ elemOf n v (2 * q + 1) = vA x f (4 * q + (kept q).2)) ∧
        ∀ j, 512 / n / 2 ≤ j → j < 512 / n → elemOf n v j = 0)) ∧
    (Ready s g (usesV1 f) false →
      let lo := fun q => (mGet x f.c.toNat).toNat / 4 ^ q % 4
      let hi := fun q => (mGet x (f.c.toNat + 1)).toNat / 4 ^ q % 4
      Runs s g (exec (.vexpand24 g f) s) (fun y => ∃ v, WritesV x y f.d v 0 ∧ ∀ j, j < 512 / n →
        elemOf n v j = if hi (j / 4) = j % 4 then vA x f (2 * (j / 4) + 1)
          else if lo (j / 4) = j % 4 then vA x f (2 * (j / 4)) else 0))

/-! ### Memory instructions -/

/-- R183, R222: an access address in no region is ACCESS; else one that is no multiple of the width is DATA_ALIGN; else a core
number from 384 up is ACCESS. R104: LD, ST, LDP and STP check bits [63:57] first, then alignment, then the region. The memory
instructions take these faults with the address as TRAPVAL; R230: LDC outside the private and global regions is ACCESS. -/
def Obligations.AddressFaults : Prop :=
  (∀ (asid : BitVec 16) (ea : Word) (n : Nat),
    let window := 0x100000000000000 ≤ ea.toNat ∧ 384 ≤ ea.toNat / 2 ^ 20 % 512
    ((0x100000200000000 ≤ ea.toNat → checkEa asid ea n = some .access) ∧
     (ea.toNat < 0x100000200000000 → ea.toNat % n ≠ 0 → checkEa asid ea n = some .dataAlign) ∧
     (ea.toNat < 0x100000200000000 → ea.toNat % n = 0 →
       (window → checkEa asid ea n = some .access) ∧ (¬ window → checkEa asid ea n = none))) ∧
    ((2 ^ 57 ≤ ea.toNat → checkEaPlain asid ea n = some .access) ∧
     (ea.toNat < 2 ^ 57 → ea.toNat % n ≠ 0 → checkEaPlain asid ea n = some .dataAlign) ∧
     (ea.toNat < 2 ^ 57 → ea.toNat % n = 0 →
       (0x100000200000000 ≤ ea.toNat ∨ window → checkEaPlain asid ea n = some .access) ∧
       (ea.toNat < 0x100000200000000 → ¬ window → checkEaPlain asid ea n = none)))) ∧
  ∀ (s : State) (g : Guard) (f : MForm) (c : Cause), ldaOut (curSlot s) = false →
    let ea := eaOf (curSlot s) f
    let asid := (coreOf s s.cur).ident.asid
    let check := fun n => checkEa asid ea n
    let plain := fun n => checkEaPlain asid ea n
    let n := tyBytes f.ty
    let loads := fun n => loadAccs f n s
    let Faults := fun (i : Instr) => exec i s = .next (raisePrecise s s.cur c ea)
    (Ready s g (.ds f.d :: usesM f) (deferredAt f s) (loads n) →
      (plain n = some c → Faults (.ld g f)) ∧ (check n = some c → Faults (.lda g f))) ∧
    (Ready s g (.ds f.d :: .ds f.c :: usesM f) (deferredAt f s) (loads 16) → plain 16 = some c → Faults (.ldp g f)) ∧
    (Ready s g (.ds f.d :: usesM f) true (loads n) → (check n = some c → Faults (.ldc g f)) ∧
      (check n = none → (∀ tag va, placeOf asid ea ≠ .page tag va) → c = .access → Faults (.ldc g f))) ∧
    (Ready s g (.s f.c :: usesM f) false (storeAccs f n (stData f) s) →
      (plain n = some c → Faults (.st g f)) ∧ (check n = some c → Faults (.strel g f))) ∧
    (Ready s g (.s f.c :: .s f.d :: usesM f) false (storeAccs f 16 (stpData f) s) → plain 16 = some c → Faults (.stp g f)) ∧
    (Ready s g (.ds f.d :: .s f.c :: usesM f) true (atomicAccs f n s) → check n = some c →
      Faults (.amo g f) ∧ Faults (.cas g f)) ∧
    (Ready s g (.ds f.d :: .ds (f.d + 1) :: .s f.c :: .s (f.c + 1) :: usesM f) true (atomicAccs f 16 s) →
      check 16 = some c → Faults (.cas2 g f)) ∧
    (Ready s g (.ds f.d :: usesM f) false → check 1 = some c → Faults (.pin g f))

/-- R104, R105, R208: a load in the LOCAL window whose address passes its checks writes its register at once, with the core's
buffered bytes over those of the local store; it waits for accesses that it must follow (R209-R211, R216), and an uncorrectable
word that it needs is POISON. Then R17, R104, R223: a load outside the LOCAL window leaves an outstanding result with one access
unit, and changes no register yet. R205, R230: so does LDC, with what the constant cache of its hamlet gives; a miss fills
the cache with the line, every other line and hamlet staying as it was. That LDC's value is taken at its issue, and is the cached copy
or the present value and no other, is the model's choice (log 22): R205 allows any value from the fill to the issue. -/
def Obligations.LoadResults : Prop :=
  (∀ (s : State) (g : Guard) (f : MForm),
     let x := curSlot s
     let ea := eaOf x f
     let n := tyBytes f.ty
     let free := fun n => localFree s s.cur [⟨ea, n, 0, none⟩] = true
     let Loads := fun (i : Instr) => LoadsNow s g (exec i s) (fun x' y =>
       ∃ v, PatResult f.ty (localSeen s ea n) v ∧ WritesS x' y f.d v 0)
     let Pair := LoadsNow s g (exec (.ldp g f) s) (fun x' y => ∃ z,
       WritesS x' z f.d (BitVec.ofNat 64 (localSeen s ea 16)) 0 ∧ WritesS z y f.c (BitVec.ofNat 64 (localSeen s ea 16 / 2 ^ 64)) 0)
     let Poisons := fun (i : Instr) => exec i s = .next (raisePrecise s s.cur .poison ea)
     ea.toNat < 2 ^ 20 → ldaOut x = false →
     (Ready s g (.ds f.d :: usesM f) false (loadAccs f n s) → ea.toNat % n = 0 →
       (free n → localGood s ea n → Loads (.ld g f) ∧ Loads (.lda g f)) ∧
       (free n → ¬ localGood s ea n → Poisons (.ld g f) ∧ Poisons (.lda g f)) ∧
       (¬ free n → Stalls s (exec (.ld g f) s) ∧ Stalls s (exec (.lda g f) s))) ∧
     (Ready s g (.ds f.d :: .ds f.c :: usesM f) false (loadAccs f 16 s) → ea.toNat % 16 = 0 →
       (free 16 → localGood s ea 16 → Pair) ∧ (free 16 → ¬ localGood s ea 16 → Poisons (.ldp g f)) ∧
       (¬ free 16 → Stalls s (exec (.ldp g f) s)))) ∧
  (∀ (s : State) (g : Guard) (f : MForm),
     let x := curSlot s
     let ea := eaOf x f
     let n := tyBytes f.ty
     let asid := (coreOf s s.cur).ident.asid
     let same := fun y : Slot => y = x
     let h := hamOf (coreRefOf s.cur)
     let r := ldcSnap s s.cur ea n
     2 ^ 20 ≤ ea.toNat → ldaOut x = false →
     (Ready s g (.ds f.d :: usesM f) true (loadAccs f n s) →
       (checkEaPlain asid ea n = none →
         Defers s g (exec (.ld g f) s) (sDst f.d) (.load f.ty none) [⟨ea, n, 0, none⟩] same) ∧
       (checkEa asid ea n = none →
         Defers s g (exec (.lda g f) s) (sDst f.d) (.load f.ty (some f.scope.toNat)) [⟨ea, n, 0, none⟩] same) ∧
       (checkEa asid ea n = none → (∃ tag va, placeOf asid ea = .page tag va) →
         DefersAs (retired g x.pc) s r.2.2 (exec (.ldc g f) s) (sDst f.d) (.ldc f.ty r.1 r.2.1) [⟨ea, n, 0, none⟩] same)) ∧
     (Ready s g (.ds f.d :: .ds f.c :: usesM f) true (loadAccs f 16 s) → checkEaPlain asid ea 16 = none →
       Defers s g (exec (.ldp g f) s) (.pair f.d f.c) .ldp [⟨ea, 16, 0, none⟩] same) ∧
     ∀ fl l le own t unc, ldcPlace s s.cur ea = .line fl l le own t unc →
       let part := fun line : Nat => line / 256 ^ (ea.toNat % 128) % 256 ^ n
       let now := memRead s.mem (fl / 128 * 128) 128
       let bad := poisonAt s fl || eccBad s fl n
       (∀ old, tfind (hamAt s h).cc (lineKey l) = some old → r.2.2 = s ∧
         (r.1 = some (part old.toNat) ∧ r.2.1 = false ∨ bad = false ∧ r.1 = some (part now) ∧ r.2.1 = false ∨
           bad = true ∧ r.1 = none ∧ r.2.1 = true)) ∧
       (tfind (hamAt s h).cc (lineKey l) = none →
         (bad = true → r = (none, true, s)) ∧
         (bad = false → r.1 = some (part now) ∧ r.2.1 = false ∧ (∃ hams, r.2.2 = { s with hams := hams }) ∧
           hamAt r.2.2 h = { hamAt s h with cc := (hamAt r.2.2 h).cc } ∧
           (∀ k, tfind (hamAt r.2.2 h).cc k = if k = lineKey l then some (BitVec.ofNat 1024 now) else tfind (hamAt s h).cc k) ∧
           ∀ h', hamKey h'.m h'.d h'.h ≠ hamKey h.m h.d h.h → hamAt r.2.2 h' = hamAt s h')))

/-- R104, R128, R208, R224, R232: a store whose address passes its checks, whose bytes its frames let it write, and for which
the buffers have room, enters them with its address and data, and changes no byte of memory yet; a release carries its scope.
FLUSH enters as a store without data unless its line is at home and nothing of the core is on its way there. -/
def Obligations.StoresEnterTheBuffers : Prop :=
  ∀ (s : State) (g : Guard) (f : MForm), ldaOut (curSlot s) = false → BufferRoom s →
    let x := curSlot s
    let ea := eaOf x f
    let n := tyBytes f.ty
    let asid := (coreOf s s.cur).ident.asid
    let unit := fun (n v : Nat) => [(⟨ea, n, 0, some (BitVec.ofNat 128 (v % 256 ^ n))⟩ : AccUnit)]
    let Vector := fun (i : Instr) (k : VAddr) (us : List Use) => Ready s g us false (vStoreAccs f k s) → vCheck asid x f k = none →
      confine s.cur x ((vActive x f k).map (fun e => (e.2, n))) = none →
      BuffersStore s g (exec i s) (vAccUnits x f k (some (vGet x f.c))) none none
    (Ready s g (.s f.c :: usesM f) false (storeAccs f n (stData f) s) → confine s.cur x [(ea, n)] = none →
      (checkEaPlain asid ea n = none → BuffersStore s g (exec (.st g f) s) (unit n (sGet x f.c).toNat) none none) ∧
      (checkEa asid ea n = none →
        BuffersStore s g (exec (.strel g f) s) (unit n (sGet x f.c).toNat) (some f.scope.toNat) none)) ∧
    (Ready s g (.s f.c :: .s f.d :: usesM f) false (storeAccs f 16 (stpData f) s) → checkEaPlain asid ea 16 = none →
      confine s.cur x [(ea, 16)] = none →
      BuffersStore s g (exec (.stp g f) s) (unit 16 ((sGet x f.d).toNat * 2 ^ 64 + (sGet x f.c).toNat)) none none) ∧
    Vector (.vst g f) .contiguous (.v f.c :: usesM f) ∧ Vector (.vsts g f) .strided (.v f.c :: usesM f) ∧
    Vector (.vscatter g f) .indexed [.v f.c, .s f.a, .v f.b] ∧
    (Ready s g (usesM f) false →
      ((∃ tag va, placeOf asid ea = .page tag va) →
        (flushIdle s s.cur (ea &&& ~~~127#64) = false →
          BuffersStore s g (exec (.flush g f) s) [⟨ea &&& ~~~127#64, 128, 0, none⟩] none (some (f.ext.getLsbD 0))) ∧
        (flushIdle s s.cur (ea &&& ~~~127#64) = true → Runs s g (exec (.flush g f) s) (fun y => y = x))) ∧
      (placeOf asid ea = .bad → exec (.flush g f) s = .next (raisePrecise s s.cur .access ea)) ∧
      (placeOf asid ea ≠ .bad → (∀ tag va, placeOf asid ea ≠ .page tag va) →
        Runs s g (exec (.flush g f) s) (fun y => y = x)))

/-- R208, R223: memory instructions wait while an LDA of the slot is outstanding; a store waits while the buffer it enters is
full. -/
def Obligations.MemoryInstructionsWait : Prop :=
  ∀ (s : State) (g : Guard) (f : MForm),
    let x := curSlot s
    let ea := eaOf x f
    let n := tyBytes f.ty
    let near := isNear s (whoOf s s.cur) ea
    let full := if near then 16 ≤ (coreOf s s.cur).sbuf.length else 16 ≤ (coreOf s s.cur).fq.length
    (ldaOut x = true →
      (Ready s g (.ds f.d :: usesM f) (deferredAt f s) (loadAccs f n s) →
        Stalls s (exec (.ld g f) s) ∧ Stalls s (exec (.lda g f) s)) ∧
      (Ready s g (.ds f.d :: usesM f) true (loadAccs f n s) → Stalls s (exec (.ldc g f) s)) ∧
      (Ready s g (.s f.c :: usesM f) false (storeAccs f n (stData f) s) →
        Stalls s (exec (.st g f) s) ∧ Stalls s (exec (.strel g f) s)) ∧
      (Ready s g (.ds f.d :: .s f.c :: usesM f) true (atomicAccs f n s) →
        Stalls s (exec (.amo g f) s) ∧ Stalls s (exec (.cas g f) s)) ∧
      (Ready s g (.ds f.d :: usesM f) false → Stalls s (exec (.pin g f) s) ∧ Stalls s (exec (.unpin g f) s)) ∧
      (Ready s g (usesM f) false → Stalls s (exec (.flush g f) s))) ∧
    (ldaOut x = false → full → Ready s g (.s f.c :: usesM f) false (storeAccs f n (stData f) s) →
      confine s.cur x [(ea, n)] = none →
      (checkEaPlain (coreOf s s.cur).ident.asid ea n = none → Stalls s (exec (.st g f) s)) ∧
      (checkEa (coreOf s s.cur).ident.asid ea n = none → Stalls s (exec (.strel g f) s)))

/-- R128-R131: a vector load whose active elements all lie in the LOCAL window, no gather, writes its register at once; any
other leaves an outstanding result with the units of its active elements. -/
def Obligations.VectorLoadResults : Prop :=
  ∀ (s : State) (g : Guard) (f : MForm), ldaOut (curSlot s) = false → 8 ≤ tyBits f.ty →
    let x := curSlot s
    let n := tyBytes f.ty
    let m := mGet x f.mask.toNat
    let asid := (coreOf s s.cur).ident.asid
    let Now := fun (i : Instr) (k : VAddr) => Ready s g (.dv f.d :: usesM f) false (vLoadAccs f k s) → vCheck asid x f k = none → vLocal x f k = true →
      localFree s s.cur (vAccUnits x f k none) = true → (∀ j, j < 64 / n → m.getLsbD j = true → localGood s (vAddrOf x f k j) n) →
      LoadsNow s g (exec i s) (fun x' y => ∃ v, WritesV x' y f.d v 0 ∧ ∀ j, j < 64 / n →
        elemOf (8 * n) v j = if m.getLsbD j then localSeen s (vAddrOf x f k j) n
          else if f.zm then 0 else elemOf (8 * n) (vGet x f.d) j)
    let Later := fun (i : Instr) (k : VAddr) (us : List Use) => Ready s g us true (vLoadAccs f k s) → vCheck asid x f k = none → (k = .indexed ∨ vLocal x f k = false) →
      Defers s g (exec i s) (.vreg f.d) (.vload f.ty f.zm m (k = .single)) (vAccUnits x f k none) (fun y => y = x)
    Now (.vld g f) .contiguous ∧ Now (.vldb g f) .single ∧ Now (.vlds g f) .strided ∧
    Later (.vld g f) .contiguous (.dv f.d :: usesM f) ∧ Later (.vldb g f) .single (.dv f.d :: usesM f) ∧
    Later (.vlds g f) .strided (.dv f.d :: usesM f) ∧ Later (.vgather g f) .indexed [.dv f.d, .s f.a, .v f.b]

/-- R226-R229: an atomic whose address passes its checks, and whose bytes its frames let it write, leaves an outstanding result
with one unit, its operands taken at issue; CAS2 takes its pairs from D, D + 1 and C, C + 1. Then R226-R228: what an atomic
stores for the old value at its location, on floating-point numbers too, and that it stores nothing when a comparison fails; the
old value, extended to 64 bits, is what it returns. -/
def Obligations.AtomicResults : Prop :=
  (∀ (s : State) (g : Guard) (f : MForm), ldaOut (curSlot s) = false →
     let x := curSlot s
     let ea := eaOf x f
     let n := tyBytes f.ty
     let asid := (coreOf s s.cur).ident.asid
     let same := fun y : Slot => y = x
     (Ready s g (.ds f.d :: .s f.c :: usesM f) true (atomicAccs f n s) → checkEa asid ea n = none → confine s.cur x [(ea, n)] = none →
       Defers s g (exec (.amo g f) s) (sDst f.d) (.amo (f.ext.extractLsb' 0 3) f.ty (sGet x f.c) f.scope.toNat)
         [⟨ea, n, 0, none⟩] same ∧
       Defers s g (exec (.cas g f) s) (sDst f.d) (.cas f.ty (sGet x f.d) (sGet x f.c) f.scope.toNat)
         [⟨ea, n, 0, none⟩] same) ∧
     (Ready s g (.ds f.d :: .ds (f.d + 1) :: .s f.c :: .s (f.c + 1) :: usesM f) true (atomicAccs f 16 s) →
       checkEa asid ea 16 = none → confine s.cur x [(ea, 16)] = none →
       Defers s g (exec (.cas2 g f) s) (.pair f.d (f.d + 1))
         (.cas2 (sGet x (f.d + 1) ++ sGet x f.d) (sGet x (f.c + 1) ++ sGet x f.c) f.scope.toNat) [⟨ea, 16, 0, none⟩] same)) ∧
  ((∀ (t : Ty) (v : Word) (sc old : Nat), tyBits t = 32 ∨ tyBits t = 64 → old < 2 ^ tyBits t →
     let n := tyBits t
     let o := BitVec.ofNat n old
     let w := v.setWidth n
     let Stores := fun (op : BitVec 3) (r : BitVec n) =>
       ∃ f h, atomicOf (.amo op t v sc) = some (f, n / 8, h) ∧ f old = some r.toNat
     Stores 0 (o + w) ∧ Stores 1 (o &&& w) ∧ Stores 2 (o ||| w) ∧ Stores 3 (o ^^^ w) ∧
     (tySigned t = true → Stores 4 (if o.slt w then o else w) ∧ Stores 5 (if o.slt w then w else o)) ∧
     (t = .z32 ∨ t = .z64 → Stores 4 (if o.ult w then o else w) ∧ Stores 5 (if o.ult w then w else o)) ∧
     Stores 6 w ∧ ((t = .f32 ∨ t = .f64) → ∃ f h, atomicOf (.amo 7 t v sc) = some (f, n / 8, h) ∧
       f old = some (fpAdd (fmtOf t) .rne old w.toNat).1)) ∧
   (∀ (x : Slot) (o : Out) (u : AccUnit) (b : BitVec 128) (t : Ty), o.units = [u] → u.val = some b →
     ((∃ op v sc, o.kind = .amo op t v sc) ∨ (∃ c v sc, o.kind = .cas t c v sc) →
       ∃ r, PatResult t b.toNat r ∧ outValue x o = some (r.setWidth 512)) ∧
     (∀ c v sc, o.kind = .cas2 c v sc → outValue x o = some (b.setWidth 512))) ∧
   (∀ (t : Ty) (c new : Word) (sc old : Nat), tyBits t = 32 ∨ tyBits t = 64 → old < 2 ^ tyBits t →
     ∃ f h, atomicOf (.cas t c new sc) = some (f, tyBits t / 8, h) ∧
       f old = if BitVec.ofNat (tyBits t) old = c.setWidth (tyBits t) then some (new.setWidth (tyBits t)).toNat else none) ∧
   ∀ (c new : BitVec 128) (sc old : Nat), old < 2 ^ 128 →
     ∃ f, atomicOf (.cas2 c new sc) = some (f, 16, false) ∧
       f old = if BitVec.ofNat 128 old = c then some new.toNat else none)

/-- R225, R231: FENCE goes on when the slot's loads and atomics have returned, its FLUSHes are complete, no release of its own is hidden
from the core's slots and, beyond core scope, its stores and those it has observed have left the core's buffers, and waits otherwise;
PREF goes on whatever its address, changes no register, and of memory at most the A bit of the leaf that its line's home reads. Then
R200, R233, R234: PIN answers 0 and counts a pin of a mapped page, 1 when 184 pins are counted, 2 for an address that is not a page
here; it waits for a page that is not present or is held, and its faults are ACCESS and, for a page that cannot be made resident,
RESIDENCY (R199); UNPIN takes one pin off, or answers 1. Which of several answers PIN gives is the model's choice (log 32). -/
def Obligations.FencePrefetchAndPinResults : Prop :=
  (∀ (s : State) (g : Guard) (f : MForm),
     let x := curSlot s
     let stores := (coreOf s s.cur).sbuf ++ (coreOf s s.cur).fq
     let met := (∀ o ∈ x.outs, o.units = []) ∧ (∀ e ∈ stores, e.k = s.cur.k → e.flush = none) ∧
       ownVeil s (coreRefOf s.cur) s.cur.k = false ∧
       (∀ e ∈ stores, e.k = s.cur.k → e.rel.isSome = true → immature s s.cur e = false) ∧
       (f.scope = 0 ∨ ((∀ e ∈ stores, e.k ≠ s.cur.k) ∧ ∀ i ∈ x.obs, ∀ e ∈ stores, e.id ≠ i))
     (Ready s g [] false → (met → Runs s g (exec (.fence g f) s) (fun y => y = x)) ∧
       (¬ met → Stalls s (exec (.fence g f) s))) ∧
     (Ready s g (usesM f) false → ∃ t, exec (.pref g f) s = .next t ∧ slotAt t s.cur = retired g x.pc x ∧
       t.cores = s.cores ∧ t.ecc = s.ecc ∧ (∀ v, slotKey v ≠ slotKey s.cur → slotAt t v = slotAt s v) ∧
       (t.mem = s.mem ∨ ∃ write fl l leaf at_ own unc,
         resolve s (whoOf s s.cur) (eaOf x f) write = .line fl l leaf at_ own unc ∧
         t.mem = (translate s (whoOf s s.cur) (eaOf x f) l at_ own).mem))) ∧
  (∀ (s : State) (g : Guard) (f : MForm), Ready s g (.ds f.d :: usesM f) false → ldaOut (curSlot s) = false →
     let x := curSlot s
     let c := coreOf s s.cur
     let ea := eaOf x f
     let asid := c.ident.asid
     let m := s.cur.m
     let Says := fun (i : Instr) (v : Word) => Runs s g (exec i s) (fun y => WritesS x y f.d v 0)
     let SaysIn := fun (b : State) (i : Instr) (v : Word) => ∃ y, WritesS x y f.d v 0 ∧
       exec i s = .next (setSlot b s.cur (retired g x.pc y))
     let pinned := fun (b : State) (pins : List Pin) => setCoreOf b s.cur { c with pins := pins }
     ((∀ tag va, placeOf asid ea ≠ .page tag va) → checkEa asid ea 1 = none →
       Says (.pin g f) 2 ∧ Says (.unpin g f) 1) ∧
     ∀ tag va, placeOf asid ea = .page tag va →
       let p := pageOf m tag va
       (walkPage s m tag va = .unmapped → Faults s (exec (.pin g f) s) .access ea) ∧
       (∀ a, walkPage s m tag va = .absent a →
         (roomGone s s.cur p = true →
           exec (.pin g f) s = .next (raisePrecise (setSlot s s.cur { x with waitFor := none }) s.cur .residency ea)) ∧
         (roomGone s s.cur p = false → Goes (exec (.pin g f) s) (fun t => (pageAt t p).asked = true ∧ t.mem = s.mem ∧
           slotAt t s.cur = { x with swapReq := p :: x.swapReq, waitFor := (slotAt t s.cur).waitFor }))) ∧
       (∀ e at_, walkPage s m tag va = .leaf e at_ →
         let b := missTouch s p at_
         (pageHeld s p false = true → Stalls s (exec (.pin g f) s)) ∧
         (pageHeld s p false = false → keyRefuses (some x.csr.pkey) tag e false = true → Faults b (exec (.pin g f) s) .access ea) ∧
         (pageHeld s p false = false → keyRefuses (some x.csr.pkey) tag e false = false →
           (leafMode e = 1 ∨ leafMode e = 2 → SaysIn b (.pin g f) 2) ∧
           (leafMode e ≠ 1 → leafMode e ≠ 2 →
             (leafPs e = 1 → SaysIn b (.pin g f) 0) ∧
             (leafPs e ≠ 1 → 184 ≤ pinCount c → SaysIn b (.pin g f) 1) ∧
             (leafPs e ≠ 1 → pinCount c < 184 → SaysIn (pinned b (addPin c.pins p 1 0)) (.pin g f) 0)))) ∧
       ((∃ q ∈ c.pins, q.page = p ∧ q.prog ≠ 0) → SaysIn (pinned s (dropPin c.pins p 1 0)) (.unpin g f) 0) ∧
       ((∀ q ∈ c.pins, q.page = p → q.prog = 0) → Says (.unpin g f) 1))

/-! ### Parallel execution -/

/-- R164-R168: SYNC closes the open batch and parks its slot at the core's level; VOTE ORs and ANDs its value into the core's
votes; DOMSET answers the level and sets it when the launch has it; BARA numbers the arrival and answers the number. Then
R143, R294: SYNC while another slot of the core waits at another level is BARRIER 3, in a task 4; BARA and BARW of a barrier
whose rectangle does not hold the core are BARRIER 2, BARA too far ahead 1; SYNC, BARA, WALK, TASKADD, SPAWN, EXIT and TEND
in a containment frame are CONTAINMENT_VIOLATION 5. -/
def Obligations.SyncAndBarrierResultsAndFaults : Prop :=
  (∀ (s : State) (g : Guard) (f : RForm),
     let x := curSlot s
     let c := coreOf s s.cur
     let a := if f.i then f.imm.signExtend 64 else sGet x f.a
     (Ready s g [] false → x.frames = [] → x.task = .none →
       (∀ v ∈ slotsOf (coreRefOf s.cur), ∀ k sw, (slotAt s v).st = .parked (.sync k) sw → k = c.level) →
       (c.openB = [] ∨ c.closed.length < 16) →
       ∃ cores, OnlyCore s cores (if c.openB = [] then c else { c with closed := c.closed ++ [c.openB], openB := [] }) ∧
         Parks s { s with cores := cores } g (exec (.sync g f) s) (.sync c.level)) ∧
     (Ready s g [.s f.a] false →
       RunsCore s g (exec (.vote g f) s)
         { c with corvote := c.corvote ||| a.setWidth 16, candvote := c.candvote &&& a.setWidth 16 } (fun y => y = x)) ∧
     (Ready s g [.s f.a, .ds f.d] false →
       RunsCore s g (exec (.domset g f) s) (if a.toNat ≤ nlevOf s s.cur then { c with level := a.toNat } else c)
         (fun y => WritesS x y f.d (BitVec.ofNat 64 c.level) 0)) ∧
     (Ready s g [.ds f.d] false → x.frames = [] → ∀ l r bar, barOf s s.cur f.a.toNat = some (l, r, bar) →
       let n := (tget c.arrived 0 f.a.toNat).toNat + 1
       n < bar.r + 3 →
       ∃ t y, exec (.bara g f) s = .next t ∧ slotAt t s.cur = retired g x.pc y ∧ WritesS x y f.d (BitVec.ofNat 64 n) 0 ∧
         tget (coreOf t s.cur).arrived 0 f.a.toNat = BitVec.ofNat 64 n ∧ t.mem = s.mem ∧
         (releaseAfter s s.cur 3 = [] → c.arrivals = [] →
           let bar' := if n = bar.r + 1 then { bar with c0 := bar.c0 + 1 } else { bar with c1 := bar.c1 + 1 }
           launchAt t l = some { r with bars := tput r.bars f.a.toNat bar' }))) ∧
  (∀ (s : State) (g : Guard) (f : RForm),
     let x := curSlot s
     let c := coreOf s s.cur
     let other := ∃ v ∈ slotsOf (coreRefOf s.cur), v.k ≠ s.cur.k ∧ ∃ k sw, (slotAt s v).st = .parked (.sync k) sw ∧ k ≠ c.level
     (Ready s g [] false → x.frames = [] →
       (other → x.task = .none → Faults s (exec (.sync g f) s) .barrier 3) ∧
       (¬ other → x.task ≠ .none → Faults s (exec (.sync g f) s) .barrier 4)) ∧
     (Ready s g [.ds f.d] false → x.frames = [] →
       (barOf s s.cur f.a.toNat = none → Faults s (exec (.bara g f) s) .barrier 2) ∧
       (∀ l r bar, barOf s s.cur f.a.toNat = some (l, r, bar) → bar.r + 3 ≤ (tget c.arrived 0 f.a.toNat).toNat + 1 →
         Faults s (exec (.bara g f) s) .barrier 1)) ∧
     (Ready s g [.s f.b] false → barOf s s.cur f.a.toNat = none → Faults s (exec (.barw g f) s) .barrier 2) ∧
     (x.frames ≠ [] →
       let Kind5 := fun (i : Instr) => Faults s (exec i s) .containment (5#64 <<< 60)
       (Ready s g [] false → Kind5 (.sync g f) ∧ Kind5 (.exit g f) ∧ Kind5 (.tend g f)) ∧
       (Ready s g [.ds f.d] false → Kind5 (.bara g f)) ∧
       (Ready s g [.s f.a, .ds f.d] false (walkAccs f s) → Kind5 (.walk g f)) ∧
       (Ready s g (usesR f) false → Kind5 (.taskadd g f)) ∧ (Ready s g [.s f.a, .s f.b, .ds f.d] false → Kind5 (.spawn g f))))

/-- R169, R173: BARW goes on once the barrier has had the releases it names and parks until then; WAITA goes on with a word that
differs from its value or a wake that has come, and parks until then. That the word is seen with the bytes that its core's buffers
forward is the model's choice (log 32): R173 names the local store alone. -/
def Obligations.WaitResults : Prop :=
  ∀ (s : State) (g : Guard) (f : RForm),
    let x := curSlot s
    let a := sGet x f.a
    let b := if f.i then f.imm.signExtend 64 else sGet x f.b
    (Ready s g [.s f.b] false → ∀ l r bar, barOf s s.cur f.a.toNat = some (l, r, bar) →
      (b.toNat ≤ bar.r → Runs s g (exec (.barw g f) s) (fun y => y = x)) ∧
      (bar.r < b.toNat → Parks s s g (exec (.barw g f) s) (.barrier f.a.toNat b))) ∧
    (Ready s g [.s f.a, .s f.b, .ds f.d] false [.load a 8] →
      (0x100000 ≤ a.toNat → Faults s (exec (.waita g f) s) .access a) ∧
      (a.toNat < 0x100000 → a.toNat % 8 ≠ 0 → Faults s (exec (.waita g f) s) .dataAlign a) ∧
      (a.toNat < 0x100000 → a.toNat % 8 = 0 → localFree s s.cur [⟨a, 8, 0, none⟩] = false → Stalls s (exec (.waita g f) s)) ∧
      (a.toNat < 0x100000 → a.toNat % 8 = 0 → localFree s s.cur [⟨a, 8, 0, none⟩] = true → ¬ localGood s a 8 →
        Faults s (exec (.waita g f) s) .poison a) ∧
      (a.toNat < 0x100000 → a.toNat % 8 = 0 → localFree s s.cur [⟨a, 8, 0, none⟩] = true → localGood s a 8 →
        let now := BitVec.ofNat 64 (localSeen s a 8)
        (now ≠ b ∨ x.pendingWake = true → LoadsNow s g (exec (.waita g f) s) (fun x' y =>
          WritesS { x' with pendingWake := false } y f.d now 0)) ∧
        (now = b → x.pendingWake = false → ∃ ecc new, CorrectsOnly s.ecc ecc ∧
          exec (.waita g f) s = .next (setSlot { s with ecc := ecc } s.cur
          { x with obs := x.obs ++ new, st := .parked (.waita a b f.d) g.sw, stalled := false }))))

/-- R149, R170-R172, R174: SEND sends its payload and leaves its status outstanding; RECV claims the oldest entry for its slot,
or waits with its register pending; PEEK counts the entries and names the first one's kind; WAKE sends a wake. -/
def Obligations.MessageResults : Prop :=
  ∀ (s : State) (g : Guard) (f : RForm) (e : EForm),
    let x := curSlot s
    let c := coreOf s s.cur
    let n := e.sub.toNat + 1
    let dest := eEpa x e
    let mine := c.inbox.filter (entryFor s.cur.k)
    let peer := (sGet x f.a).setWidth 32
    (Ready s g (usesE e n) true →
      (epaBadSend dest = true → Faults s (exec (.send g e) s) .engineCmd (dest.setWidth 64)) ∧
      (epaBadSend dest = false → ∃ msg, msg.src = s.cur ∧ msg.epa = dest ∧ msg.dest = epaMod s.cur.m dest ∧
        msg.raw = mkEntry (epaOf s.cur (epaMod s.cur.m dest != s.cur.m)) 0 (epaSlot dest) (eBlock x e n) ∧
        msg.why = .send s.cur s.nextId ∧ (msg.restricted = true ↔ x.supv = false) ∧ msg.task = c.launch ∧
        DefersAs (retired g x.pc) s { s with net := s.net ++ [msg] } (exec (.send g e) s) (sDst e.d) (.send none) []
          (fun y => y = x))) ∧
    (Ready s g [.dv f.d] true →
      (takeEntry s.cur.k c.inbox = none →
        Defers s g (exec (.recv g f) s) (.vreg f.d) (.recv none) [] (fun y => y = x)) ∧
      (∀ raw rest, takeEntry s.cur.k c.inbox = some (raw, rest) → (∀ o ∈ x.outs, waitingRecv o = false) →
        (∀ i, x.bindId = some i → i ≤ s.nextId) → ∃ t, exec (.recv g f) s = .next t ∧ (slotAt t s.cur).pc = nextCell x.pc ∧
          vPend (slotAt t s.cur) f.d = vPend (markV x f.d) f.d ∧ (coreOf t s.cur) = { c with inbox := rest } ∧
          (∃ o ∈ (slotAt t s.cur).outs, o.id = s.nextId ∧ o.kind = .recv (some raw) ∧ o.dst = .vreg f.d) ∧
          t.mem = s.mem)) ∧
    (Ready s g [.ds f.d] false → Runs s g (exec (.peek g f) s) (fun y => ∃ v, WritesS x y f.d v 0 ∧
      v = BitVec.ofNat 64 (mine.length + (if c.spill.bound = [] then 0 else 128) +
        256 * (match mine with | e :: _ => entryKind e.raw | [] => 255)))) ∧
    (Ready s g [.s f.a] false →
      (epaBadSend peer = true ∨ epaPv peer = true → Faults s (exec (.wake g f) s) .engineCmd (peer.setWidth 64)) ∧
      (epaBadSend peer = false → epaPv peer = false → ∃ p, p.dest = s.cur.m ∧ p.epa = epaFixed s.cur peer ∧
        p.launch = c.launch ∧ p.supv = x.supv ∧
        exec (.wake g f) s = .next (setSlot { s with wakes := s.wakes ++ [p] } s.cur (retired g x.pc x))))

/-- R175-R179: WALK takes its descriptor when no walk is running, TASKADD queues a task, SPAWN starts the lowest free slot,
YIELD marks its slot, EXIT and TEND end their slot once its results have returned, and withdraw its RECVs, whose claimed entries
are the oldest of the inbox again. -/
def Obligations.TaskResults : Prop :=
  ∀ (s : State) (g : Guard) (f : RForm), (curSlot s).frames = [] →
    let x := curSlot s
    let c := coreOf s s.cur
    let a := sGet x f.a
    let recv := fun o : Out => match o.kind with | .recv _ => true | _ => false
    let back := x.outs.filterMap (fun o => match o.kind with | .recv (some e) => some (⟨e, none⟩ : InEntry) | _ => none)
    let c' := { c with inbox := back ++ c.inbox }
    (Ready s g [.s f.a, .ds f.d] false (walkAccs f s) → checkEa c.ident.asid a 64 = none →
      (c.walk ≠ none → Runs s g (exec (.walk g f) s) (fun y => WritesS x y f.d 1 0)) ∧
      (∀ s' ws, c.walk = none → loadWords s s.cur a 32 = .ok s' ws →
        (readWalk ws x.csr.pkey = none → Faults s (exec (.walk g f) s) .format a) ∧
        ∀ k, readWalk ws x.csr.pkey = some k → ∃ t y, exec (.walk g f) s = .next t ∧ (coreOf t s.cur).walk = some k ∧
          slotAt t s.cur = retired g x.pc y ∧ WritesS (slotAt s' s.cur) y f.d 0 0)) ∧
    (Ready s g (usesR f) false →
      (32 ≤ c.tasks.length → Runs s g (exec (.taskadd g f) s) (fun y => WritesS x y f.d 1 0)) ∧
      (c.tasks.length < 32 → RunsCore s g (exec (.taskadd g f) s)
        { c with tasks := c.tasks ++ [⟨a, sGet x f.b, sGet x f.c, BitVec.ofNat 32 c.taskCount⟩], taskCount := c.taskCount + 1 }
        (fun y => WritesS x y f.d 0 0))) ∧
    (Ready s g [.s f.a, .s f.b, .ds f.d] false →
      (freeSlotOf s (coreRefOf s.cur) = none →
        Runs s g (exec (.spawn g f) s) (fun y => WritesS x y f.d (BitVec.allOnes 64) 0)) ∧
      (∀ v, freeSlotOf s (coreRefOf s.cur) = some v → checkTarget (setSlot s v Slot.reset) v a = none →
        ∃ t y z, exec (.spawn g f) s = .next t ∧ slotAt t s.cur = retired g x.pc y ∧
          WritesS x y f.d (BitVec.ofNat 64 v.k) 0 ∧ slotAt t v = z ∧ z.st = .ready ∧ z.pc = a ∧ sGet z 1 = sGet x f.b ∧
          (∀ r, r ≠ 1 → sGet z r = 0) ∧ (∀ r, vGet z r = 0) ∧ z.frames = [] ∧ z.outs = [])) ∧
    (Ready s g [] false →
      Runs s g (exec (.yield g f) s) (fun y => y = { x with yielded := some [] }) ∧
      (x.outs.all recv = true → x.held = [] →
        let Ends := fun (i : Instr) => ∃ t, exec i s = .next t ∧ slotAt t s.cur = Slot.reset ∧ t.mem = s.mem ∧
          (coreOf t s.cur).inbox = c'.inbox
        Ends (.exit g f) ∧ ((∀ a b c d, x.task ≠ .walked a b c d) → Ends (.tend g f)) ∧
        (∀ a b c d, x.task = .walked a b c d → ∃ y cores, OnlyCore s cores c' ∧
          exec (.tend g f) s = .next (setSlot { s with cores := cores } s.cur y) ∧ y.st = .ending true ∧ y.outs = [])) ∧
      (x.outs.all recv = false →
        ∀ tend : Bool, ∃ y cores, OnlyCore s cores c' ∧
          exec (if tend then .tend g f else .exit g f) s = .next (setSlot { s with cores := cores } s.cur y) ∧
          y.st = .ending tend ∧ y.outs = x.outs.filter (fun o => !recv o) ∧ y.sreg = x.sreg))

/-! ### Engines and the mill: issue of commands -/

/-- R238, R249, R252, R260-R266, R268-R274, R277: an engine command whose EPA, notify EPA and block pass their checks is sent; MLOADW
and MSWAP also change the formats that the core tracks, COLL counts itself (also one that its guard discards later, log 30). Then
R260: a command whose EPA names no engine of its type is ENGINE_CMD with the EPA; else one whose notify EPA is bad, or whose block
breaks a rule of its words, is ENGINE_CMD with 2^32 plus the word's number; else an MSTREAM whose type the tracked weight format does
not pair with is FORMAT (R252); and nothing is sent. -/
def Obligations.CommandsAreSentOrFault : Prop :=
  (∀ (s : State) (g : Guard) (f : EForm),
     let x := curSlot s
     let c := coreOf s s.cur
     let b := fun n => eBlock x f n
     let boxes := fun op : CmdOp => match op with
       | .mstream => [.box 2 (bf (b 4) 2 52 42) (bf (b 4) 2 41 32 + 1) 0 128]
       | .accrd => accBox 0 f s
       | .accwr => accBox 1 f s
       | _ => ([] : List Acc)
     let Sends := fun (i : Instr) (op : CmdOp) (n ty : Nat) (peer : Bool) (chk : List Word → Option Nat) (m : Nat) (c' : Core) =>
       Ready s g (usesE f n) true (boxes op) → epaBadEngine s.cur x.supv ty peer (eEpa x f) = false →
       (hdrNotify (b n) = 0 ∨ epaBadSend (hdrNotify (b n)) = false) → chk (b n) = none →
       confine s.cur x (cmdWrites op f.ty f.sub.toNat m (b n)) = none →
       SendsCommand s g (exec i s) f op n c'
     let k := bf (b 5) 0 1 0
     let members := (domCores s s.cur k).length
     let nlev := match recOf s s.cur with | some r => r.nlev | none => 0
     Sends (.mloadw g f) .mloadw 4 1 false (chkMloadw f.ty) 0 { c with shFmt := f.ty } ∧
     Sends (.mswap g f) .mswap 1 1 false chkHeader 0 { c with actFmt := c.shFmt, shFmt := c.actFmt } ∧
     (pairOk c.actFmt f.ty = true → Sends (.mstream g f) .mstream 4 1 false (chkMstream f.ty c.actFmt) 0 c) ∧
     Sends (.mzero g f) .mzero 2 1 false (chkMzero (f.sub = 1)) 0 c ∧
     Sends (.accrd g f) .accrd 4 1 false (chkAcc f.ty) 0 c ∧ Sends (.accwr g f) .accwr 4 1 false (chkAcc f.ty) 0 c ∧
     Sends (.cpy g f) .cpy 6 2 false chkCpy 0 c ∧ Sends (.cpy2 g f) .cpy2 7 2 false chkCpy2 0 c ∧
     Sends (.cpyr g f) .cpyr 6 2 true chkCpy 0 c ∧
     Sends (.coll g f) .coll 5 3 false (chkColl f.ty f.sub.toNat nlev members) members
       { c with arrived := tput c.arrived (32 + k) (BitVec.ofNat 64 ((tget c.arrived 0 (32 + k)).toNat + 1)) } ∧
     Sends (.ecode g f) .ecode 7 2 false (chkEcode (f.sub = 1)) 0 c ∧ Sends (.ckpt g f) .ckpt 3 6 false chkCkpt 0 c ∧
     Sends (.migr g f) .migr 4 5 false chkMigr 0 c ∧
     (∀ ty, ty = epaType (eEpa x f) → 1 ≤ ty → ty ≤ 6 → Sends (.engq g f) .engq 1 ty false chkHeader 0 c)) ∧
  (∀ (s : State) (g : Guard) (f : EForm),
     let x := curSlot s
     let e := eEpa x f
     let c := coreOf s s.cur
     let nlev := match recOf s s.cur with | some r => r.nlev | none => 0
     let box := [Acc.box 2 (bf (eBlock x f 4) 2 52 42) (bf (eBlock x f 4) 2 41 32 + 1) 0 128]
     let RefusesAt := fun (i : Instr) (n ty : Nat) (peer : Bool) (accs : List Acc) (chk : List Word → Option Nat) =>
       Ready s g (usesE f n) true accs →
       (epaBadEngine s.cur x.supv ty peer e = true → Faults s (exec i s) .engineCmd (e.setWidth 64)) ∧
       (epaBadEngine s.cur x.supv ty peer e = false →
         (hdrNotify (eBlock x f n) ≠ 0 → epaBadSend (hdrNotify (eBlock x f n)) = true →
           Faults s (exec i s) .engineCmd 0x100000000) ∧
         (∀ k, (hdrNotify (eBlock x f n) = 0 ∨ epaBadSend (hdrNotify (eBlock x f n)) = false) → chk (eBlock x f n) = some k →
           Faults s (exec i s) .engineCmd (BitVec.ofNat 64 (2 ^ 32 + k))))
     let Refuses := fun (i : Instr) (n ty : Nat) (peer : Bool) (chk : List Word → Option Nat) => RefusesAt i n ty peer [] chk
     Refuses (.mloadw g f) 4 1 false (chkMloadw f.ty) ∧ Refuses (.mswap g f) 1 1 false chkHeader ∧
     RefusesAt (.mstream g f) 4 1 false box (chkMstream f.ty c.actFmt) ∧
     Refuses (.mzero g f) 2 1 false (chkMzero (f.sub = 1)) ∧ RefusesAt (.accrd g f) 4 1 false (accBox 0 f s) (chkAcc f.ty) ∧
     RefusesAt (.accwr g f) 4 1 false (accBox 1 f s) (chkAcc f.ty) ∧ Refuses (.cpy g f) 6 2 false chkCpy ∧
     Refuses (.cpy2 g f) 7 2 false chkCpy2 ∧ Refuses (.cpyr g f) 6 2 true chkCpy ∧
     Refuses (.coll g f) 5 3 false (chkColl f.ty f.sub.toNat nlev (domCores s s.cur (bf (eBlock x f 5) 0 1 0)).length) ∧
     Refuses (.ecode g f) 7 2 false (chkEcode (f.sub = 1)) ∧ Refuses (.ckpt g f) 3 6 false chkCkpt ∧
     Refuses (.migr g f) 4 5 false chkMigr ∧
     Refuses (.engq g f) 1 (if 1 ≤ epaType e ∧ epaType e ≤ 6 then epaType e else 16) false chkHeader ∧
     (Ready s g (usesE f 4) true box → epaBadEngine s.cur x.supv 1 false e = false →
       (hdrNotify (eBlock x f 4) = 0 ∨ epaBadSend (hdrNotify (eBlock x f 4)) = false) →
       chkMstream f.ty c.actFmt (eBlock x f 4) = none → pairOk c.actFmt f.ty = false →
       Faults s (exec (.mstream g f) s) .format (BitVec.ofNat 64 (tyCode f.ty + 16 * tyCode c.actFmt))) ∧
     -- the rules of a block, here those of CPY (R268)
     (chkCpy (eBlock x f 6) = none ↔
       (sGet x f.a).extractLsb' 0 16 = 0 ∧
       (let n := ((sGet x (f.a + 3)).extractLsb' 0 32).toNat
        oneRegion (sGet x (f.a + 1)) n = true ∧ oneRegion (sGet x (f.a + 2)) n = true ∧
        (sGet x (f.a + 3)).extractLsb' 32 32 = 0 ∧ n ≠ 0) ∧
       (sGet x (f.a + 4) = 0 ∨ ((sGet x (f.a + 4)).toNat % 8 = 0 ∧ oneRegion (sGet x (f.a + 4)) 8 = true))))

/-- R244, R245, R267, R275, R276: MSTAT sends a query; GSET gives its guard slot a value and discards the commands it refuses;
CBATCH closes the open batch, and waits while 16 are outstanding; WAITB closes it and goes on or parks by their number. -/
def Obligations.EngineControlResults : Prop :=
  ∀ (s : State) (g : Guard) (f : RForm),
    let x := curSlot s
    let c := coreOf s s.cur
    let c' := if c.openB = [] then c else { c with closed := c.closed ++ [c.openB], openB := [] }
    let n := if f.i then f.imm.signExtend 64 else sGet x f.a
    let p := pGet x f.a.toNat != f.sub.getLsbD 0
    let waits := fun m : Cmd => coreRefOf m.w = coreRefOf s.cur ∧ m.g = some f.b.toNat ∧ m.guardVal = none ∧ m.st ≠ .done
    (Ready s g [.ds f.d] true → ∃ cmd r, cmd.id = s.nextId ∧ cmd.w = s.cur ∧ cmd.op = .mstat ∧ cmd.sub = f.sub.toNat ∧
      cmd.blk = [f.imm.setWidth 64] ∧ cmd.st = .net ∧ r.id = s.nextId + 1 ∧ r.kind = .cmd s.nextId none ∧ r.dst = sDst f.d ∧
      exec (.mstat g f) s = .next (setSlot { s with nextId := s.nextId + 2, cmds := s.cmds ++ [cmd] } s.cur
        (retired g x.pc { markDst x (sDst f.d) with outs := x.outs ++ [r] }))) ∧
    (Ready s g [] false → ∃ cmds : List Cmd, exec (.gset g f) s = .next (setSlot { s with cmds := cmds } s.cur (retired g x.pc x)) ∧
      cmds.length = s.cmds.length ∧ ∀ (i : Nat) (m : Cmd), s.cmds[i]? = some m → ∃ m' : Cmd, cmds[i]? = some m' ∧
        (¬ waits m → m' = m) ∧ (waits m → m'.guardVal = some p ∧
          (p = true ∨ m.st = .net → m' = { m with guardVal := some p }) ∧
          (p = false → m.st ≠ .net → m'.st = .done ∧ m'.code = 1))) ∧
    (Ready s g [] false →
      (c.openB = [] ∨ c.closed.length < 16 → RunsCore s g (exec (.cbatch g f) s) c' (fun y => y = x)) ∧
      (c.openB ≠ [] → 16 ≤ c.closed.length → Stalls s (exec (.cbatch g f) s))) ∧
    (Ready s g [.s f.a] false → (c.openB = [] ∨ c.closed.length < 16) →
      (c'.closed.length ≤ n.toNat → RunsCore s g (exec (.waitb g f) s) c' (fun y => y = x)) ∧
      (n.toNat < c'.closed.length → ∃ cores, OnlyCore s cores c' ∧
        Parks s { s with cores := cores } g (exec (.waitb g f) s) (.waitb n)))

/-! ### System instructions -/

/-- R302, R282: TRAP and BREAK take their exceptions with the code in TRAPVAL, BREAK with bit 63 set. Then R303, R307, R286:
ERET in a handler goes to TRAPPC with INH = 0, the failed access dropped; RESUME in supervisor mode sends its action;
outside these conditions both are PRIVILEGE with the cell's bits [95:32] as TRAPVAL. -/
def Obligations.TrapInstructionResults : Prop :=
  (∀ (s : State) (g : Guard) (f : RForm), Ready s g [] false →
     Faults s (exec (.trap g f) s) .trapInstr ((f.imm.extractLsb' 0 16).setWidth 64) ∧
     Faults s (exec (.brk g f) s) .breakpoint (1#1 ++ 0#47 ++ f.imm.extractLsb' 0 16)) ∧
  (∀ (s : State) (g : Guard) (f : RForm),
     let x := curSlot s
     let peer := (sGet x f.a).setWidth 32
     (Ready s g [] false →
       (x.supv = false ∨ x.trap.inh = false → Faults s (exec (.eret g f) s) .privilege (cellHigh (.eret g f))) ∧
       (x.supv = true → x.trap.inh = true →
         (∀ k, checkPc x.trap.pc = some k → Faults s (exec (.eret g f) s) k x.trap.pc) ∧
         (checkPc x.trap.pc = none → RunsTo s g x.trap.pc (exec (.eret g f) s) (fun y =>
           y.trap = { x.trap with inh := false } ∧ y.failed = .none ∧ y.sreg = x.sreg ∧ y.vreg = x.vreg ∧ y.outs = x.outs ∧
           y.supv = true ∧ (∀ o, x.trap.defer = true → x.failed = .out o → y.pendS = (unmarkDst x o.dst).pendS ∧
             y.pendV = (unmarkDst x o.dst).pendV) ∧
           (x.trap.defer = false → y.pendS = x.pendS ∧ y.pendV = x.pendV))))) ∧
     (Ready s g [.s f.a, .s f.b] false →
       (x.supv = false → Faults s (exec (.resume g f) s) .privilege (cellHigh (.resume g f))) ∧
       (x.supv = true → (epaBadSend peer = true ∨ epaPv peer = true) →
         Faults s (exec (.resume g f) s) .engineCmd (peer.setWidth 64)) ∧
       (x.supv = true → epaBadSend peer = false → epaPv peer = false → ∃ p, p.dest = s.cur.m ∧ p.epa = epaFixed s.cur peer ∧
         p.act = f.sub.toNat ∧ p.pc = sGet x f.b ∧
         exec (.resume g f) s = .next (setSlot { s with resumes := s.resumes ++ [p] } s.cur (retired g x.pc x)))) ∧
     (∀ c, encode (.eret g f) = some c → cellHigh (.eret g f) = c.extractLsb' 32 64))

/-- R4, R304: CSRRD writes the CSR's value to D; CSRWR, CSRSET and CSRCLR write its old value to D and then the CSR; a
privileged CSR is PRIVILEGE in task mode with its number as TRAPVAL. Then R203, R205, R305, R306: IFENCE waits for the
slot's stores to its LOCAL window and then empties its instruction buffer and the hamlet's constant cache; DLOG merges the
core's dirty log and answers the number of entries. -/
def Obligations.CsrAndLogInstructionResults : Prop :=
  (∀ (s : State) (g : Guard) (f : RForm),
     let x := curSlot s
     let n := (f.imm.extractLsb' 0 12).toNat
     let a := sGet x f.a
     let old := csrRead s s.cur n 0
     let priv := fun v => x.supv = false ∧ (writePriv n = true ∨ fieldPriv s s.cur n v = true)
     let Writes := fun (i : Instr) (v : Word) =>
       (priv v → Faults s (exec i s) .privilege (BitVec.ofNat 64 n)) ∧
       (¬ priv v → ∃ t, exec i s = .next t ∧ (slotAt t s.cur).pc = nextCell x.pc ∧
         (∀ r, sGet (slotAt t s.cur) r = if r = f.d ∧ r ≠ 0 then old else sGet x r) ∧
         (slotAt t s.cur).vreg = x.vreg ∧ (slotAt t s.cur).preg = x.preg ∧
         ∀ mask, (n, mask) ∈ [(0x001, 0x7F#64), (0x002, 0x1F), (0x003, 3), (0x004, 1), (0x011, 0x3F), (0x201, 0xFFFFFFFF),
             (0x301, 0xFFFFFFFF), (0x302, 0xFFFF), (0x400, 0xFFFFFFFFFFFFFFFF), (0x401, 0xFFFFFFFFFFFFFFFF), (0x402, 0x3FF),
             (0x403, 0xFFFFFFFFFFFFFFFF), (0x404, 0xFFFFFFFFFFFFFFFF), (0x407, 0xF), (0x414, 0xFFFFFFFFFFFFFFFF)] →
           csrRead t s.cur n 0 &&& mask = v &&& mask)
     (Ready s g [.ds f.d, .s f.b] false →
       (x.supv = false → readPriv n = true → Faults s (exec (.csrrd g f) s) .privilege (BitVec.ofNat 64 n)) ∧
       (x.supv = true ∨ readPriv n = false →
         Runs s g (exec (.csrrd g f) s) (fun y => WritesS x y f.d (csrRead s s.cur n (sGet x f.b)) 0))) ∧
     (Ready s g [.ds f.d, .s f.a] false →
       Writes (.csrwr g f) a ∧ Writes (.csrset g f) (old ||| a) ∧ Writes (.csrclr g f) (old &&& ~~~a))) ∧
  (∀ (s : State) (g : Guard) (f : RForm),
     let x := curSlot s
     let h := hamOf (coreRefOf s.cur)
     (Ready s g [] false →
       (localDrained s s.cur = false → Stalls s (exec (.ifence g f) s)) ∧
       (localDrained s s.cur = true → ∃ hams, tget hams Ham.reset (hamKey h.m h.d h.h) = { hamAt s h with cc := [] } ∧
         exec (.ifence g f) s = .next (setSlot { s with hams := hams } s.cur (retired g x.pc { x with ibuf := [] })))) ∧
     (Ready s g [.ds f.d] false → ∃ t y, exec (.dlog g f) s = .next t ∧ slotAt t s.cur = retired g x.pc y ∧
       WritesS x y f.d (BitVec.ofNat 64 (coreOf s s.cur).log.cnt) 0 ∧
       coreOf t s.cur = { coreOf s s.cur with log := { (coreOf s s.cur).log with cnt := 0, last := [] } }))

/-! ### Containment -/

/-- R291, R294, R299, R308-R313: CDOPEN and RBEGIN push a frame and save the registers in their save area; CDPRES attaches a
range, and copies it to its backup when it has one; CDOUT an output; CDCLOSE and RCOMMIT pop the frame, CDCLOSE handing its ranges
down. Then R296, R312: CDFAIL in a frame whose rollback has nothing to wait for restores the registers that the frame's save area
holds, counts the rollback and goes on at the retry PC. That the words of a save area and of a copy are stored in one step, once the
core's store buffer is empty, is the model's choice (log 20). -/
def Obligations.ContainmentDomainResults : Prop :=
  (∀ (s : State) (g : Guard) (f : RForm),
     let x := curSlot s
     let a := sGet x f.a
     let b := sGet x f.b
     let core := coreRefOf s.cur
     let idle := x.outs = [] ∧ nearIdle s s.cur = true
     let nobody := fun a n : Nat => ∀ v ∈ slotsOf core, waitsOn (slotAt s v) a n = false
     let except := fun (t : State) (a n : Nat) => ∀ q, (q < localFlat core a ∨ localFlat core a + n ≤ q) →
       memGet t.mem q = memGet s.mem q
     let Opens := fun (i : Instr) (remote : Bool) (retry : Word) => ∃ t fr, exec i s = .next t ∧
       slotAt t s.cur = retired g x.pc { x with frames := fr :: x.frames } ∧ fr.remote = remote ∧ fr.retryPc = retry ∧
       fr.id = f.imm.extractLsb' 0 16 ∧ fr.save = a ∧ fr.preserved = [] ∧ fr.outputs = [] ∧ fr.handed = [] ∧ fr.retries = 0 ∧
       fr.fail = none ∧
       (∀ i, i < 64 → memRead t.mem (localFlat core (a.toNat + 8 * i)) 8 = (sGet x (BitVec.ofNat 6 i)).toNat) ∧
       (∀ i j, i < 32 → j < 8 → memRead t.mem (localFlat core (a.toNat + 512 + 64 * i + 8 * j)) 8 =
         (vGet x (BitVec.ofNat 6 i)).toNat / 2 ^ (64 * j) % 2 ^ 64) ∧
       except t a.toNat 0xA80
     let Open := fun (i : Instr) (remote : Bool) (retry : Word → Word) => Ready s g [.s f.a] false (openAccs retry f s) →
       (openCheck s.cur x a = none → MemOk s → idle → nobody a.toNat 0xA80 → Opens i remote (retry x.pc)) ∧
       (openCheck s.cur x a = none → ¬ idle → Stalls s (exec i s)) ∧ (openCheck s.cur x a = none → x.frames.length < 8) ∧
       (∀ k v, openCheck s.cur x a = some (k, v) → Faults s (exec i s) k v)
     Open (.cdopen g f) false (cdRetry f.imm) ∧ Open (.rbegin g f) true nextCell ∧
     (∀ fr r, x.frames = fr :: r →
       (fr.remote = false →
         (Ready s g [.s f.a, .s f.b, .s f.c] false (cdpresAccs f s) → MemOk s → f.sub = 0 →
           let c := sGet x f.c
           let n := b.toNat
           a.toNat % 8 = 0 → c.toNat % 8 = 0 → n % 8 = 0 → 8 ≤ n → a.toNat + n ≤ 2 ^ 20 → c.toNat + n ≤ 2 ^ 20 →
           fr.preserved.length < 8 → hitsAny a.toNat n (heldRanges x.frames) = false →
           hitsAny c.toNat n ((a.toNat, n) :: heldRanges x.frames ++ frameRanges s.cur x.frames) = false →
           (∀ p ∈ fr.preserved, p.start = a → p.len = n → p.backup = none) → idle → s.cur.k < 4 → (coreOf s s.cur).fq = [] → s.veils = [] →
           firstBad s core a.toNat (n / 8) = none → nobody c.toNat n →
           ∃ t, exec (.cdpres g f) s = .next t ∧ slotAt t s.cur = retired g x.pc
             { x with frames := { fr with preserved := fr.preserved ++ [⟨a, n, some c⟩] } :: r } ∧ except t c.toNat n ∧
             ∀ i, i < n / 8 → memRead t.mem (localFlat core (c.toNat + 8 * i)) 8 =
               memRead s.mem (localFlat core (a.toNat + 8 * i)) 8) ∧
         (Ready s g [.s f.a, .s f.b, .s f.c] false (cdpresAccs f s) → f.sub ≠ 0 → b ≠ 0 → b.toNat < 2 ^ 32 → fr.preserved.length < 8 →
           oneRegion a b.toNat = true → hitsAny (normVa s.cur a) b.toNat (heldRanges x.frames) = false →
           (∀ p ∈ fr.preserved, p.start = a → p.len = b.toNat → p.backup ≠ none) →
           Runs s g (exec (.cdpres g f) s) (fun y =>
             y = { x with frames := { fr with preserved := fr.preserved ++ [⟨a, b.toNat, none⟩] } :: r })) ∧
         (Ready s g [.s f.a, .s f.b] false → b ≠ 0 → b.toNat < 2 ^ 32 → fr.outputs.length < 8 →
           oneRegion a b.toNat = true → hitsAny (normVa s.cur a) b.toNat (heldRanges x.frames) = false →
           (∀ o ∈ fr.outputs, o.start = a → o.len ≠ b.toNat) →
           Runs s g (exec (.cdout g f) s) (fun y =>
             y = { x with frames := { fr with outputs := fr.outputs ++ [⟨a, b.toNat⟩] } :: r })) ∧
         (Ready s g [] false → onlyRecv x = true → frameCmds s fr.uid = false → fr.fail = none →
           Runs s g (exec (.cdclose g f) s) (fun y => y = { x with frames := y.frames } ∧ y.frames.length = r.length ∧
             (∀ (i : Nat) (q q' : Frame), r[i]? = some q → y.frames[i]? = some q' →
               q'.uid = q.uid ∧ q'.preserved = q.preserved ∧ q'.outputs = q.outputs ∧ q'.retries = q.retries ∧
               (∀ z, z ∈ q.handed → z ∈ q'.handed)) ∧
             (∀ q : Frame, r.head? = some q → q.remote = false → ∀ q' : Frame, y.frames.head? = some q' →
               q'.handed = q.handed ++ (fr.outputs ++ fr.handed ++
                 (fr.preserved.filter (fun p => p.backup.isSome)).map (fun p => ⟨p.start, p.len⟩)))))) ∧
       (fr.remote = true → Ready s g [] false → remoteBusy s s.cur fr.uid = false →
         Runs s g (exec (.rcommit g f) s) (fun y => y = { x with frames := r }))) ∧
     (Ready s g [] false → x.frames = [] → Faults s (exec (.cdclose g f) s) .containment (6#64 <<< 60) ∧
       Faults s (exec (.cdfail g f) s) .containment (6#64 <<< 60) ∧ Faults s (exec (.rcommit g f) s) .containment (6#64 <<< 60))) ∧
  (∀ (s : State) (g : Guard) (f : RForm) (fr : Frame) (r : List Frame), Ready s g [] false →
     let x := curSlot s
     let core := coreRefOf s.cur
     let word := fun i => BitVec.ofNat 64 (memRead s.mem (localFlat core (fr.save.toNat + 8 * i)) 8)
     x.frames = fr :: r → fr.preserved = [] → fr.retries < x.trap.limit.toNat → onlyRecv x = true →
     openCmds s s.cur = false → ownStores s s.cur = [] → nearIdle s s.cur = true → firstBad s core fr.save.toNat 336 = none →
     checkTarget s s.cur fr.retryPc = none →
     let back := x.outs.filterMap (fun o => match o.kind with | .recv (some e) => some (⟨e, none⟩ : InEntry) | _ => none)
     ∃ y ecc cores, exec (.cdfail g f) s = .next (setSlot { s with ecc := ecc, cores := cores } s.cur y) ∧
       CorrectsOnly s.ecc ecc ∧ OnlyCore s cores { coreOf s s.cur with inbox := back ++ (coreOf s s.cur).inbox } ∧
       y.st = .ready ∧ y.pc = fr.retryPc ∧ y.outs = [] ∧ y.pendS = 0 ∧ y.pendV = 0 ∧
         y.frames = { fr with retries := fr.retries + 1, fail := none } :: r ∧
       (∀ i, i < 64 → i ≠ 0 → sGet y (BitVec.ofNat 6 i) = word i) ∧
       (∀ i j, i < 32 → j < 8 → (vGet y (BitVec.ofNat 6 i)).extractLsb' (64 * j) 64 = word (64 + 8 * i + j)) ∧
       (∀ i, i < 8 → i ≠ 0 → mGet y i = word (320 + i)) ∧ (∀ i, i < 7 → pGet y i = (word 328).getLsbD i) ∧
       y.trap.lastCause = 0 ∧ y.trap.lastDepth = BitVec.ofNat 4 (r.length + 1))

/-! ### Machine events: slots, results, stores, messages, tasks, launches -/

/-- R18, R194: a result whose parts are all there is written to its destination, whose pending mark goes; a failed access is
reported once the slot's other results have returned, a failed load leaving its destination pending; a failed store leaves the
buffers with every access of its instruction, unless one of them has been performed; of memory only the A bits of the leaves that the
failed translation read are set (R190). -/
def Obligations.ResultsReturnOrFail : Prop :=
  (∀ (s : State) (w : SlotRef) (i : Nat) (o : Out) (v : VWord),
    let x := slotAt s w
    x.outs.find? (fun p => p.id = i) = some o → (∀ u ∈ o.units, u.val.isSome = true) → outValue x o = some v →
    x.stop = none → x.st = .ready → x.wasEnding = none → (coreAt s (coreRefOf w)).arrivals = [] →
    Goes (exec (.deferredResultReturn w i none) s) (fun t => t.mem = s.mem ∧ t.cores = s.cores ∧ ∃ b,
      slotAt t w =
        { writeDst (unmarkDst x o.dst) o.dst v with outs := x.outs.filter (fun p => p.id != i), stalled := b })) ∧
  (∀ (s : State) (w : SlotRef) (i : Nat) (o : Out) (k : Cause) (va : Word),
    let x := slotAt s w
    let left := x.outs.filter (fun p => p.id != i)
    x.outs.find? (fun p => p.id = i) = some o → outFailure s w o = some (k, va) → x.stop = none → x.st = .ready →
    x.trap.inh = false → x.frames = [] →
    Goes (exec (.deferredFailure (.out w i)) s) (fun t =>
      let y := slotAt t w
      t.mem = (failSeen s (whoAs s w o.pkey o.supv) va).mem ∧ y.pendS = x.pendS ∧ y.pendV = x.pendV ∧ y.sreg = x.sreg ∧ y.vreg = x.vreg ∧ y.outs = left ∧
      (onlyRecv { x with outs := left } = false → y.stop = some ⟨k, va, o.pc, x.pc, true, false, .out o, none⟩) ∧
      (onlyRecv { x with outs := left } = true → x.supv = false → y.st = .faulted ∧ y.failed = .out o ∧
        y.trap = { x.trap with pc := o.pc, cause := BitVec.ofNat 8 (causeCode k), defer := true, esc := false,
                               val := va }))) ∧
  ∀ (s : State) (c : CoreRef) (e : StEnt) (k : Cause) (va : Word),
    let x := coreAt s c
    let keep := fun d : StEnt => if e.begun then d.id != e.id else !(d.grp = e.grp && d.k = e.k)
    let Leaves := fun i : Instr => Goes (exec i s) (fun t =>
      t.mem = (failSeen s (whoAs s (slotOf c 0) e.pkey e.supv) va).mem ∧
      (coreAt t c).sbuf = x.sbuf.filter keep ∧ (coreAt t c).fq = x.fq.filter keep)
    (slotAt s (slotOf c e.k)).frames = [] →
    (∀ r, x.sbuf = e :: r → storeFailure s c e (e.units.take 1) = some (k, va) → Leaves (.deferredFailure (.near c))) ∧
    (x.fq.find? (fun d => d.id = e.id) = some e → storeFailure s c e e.units = some (k, va) →
      Leaves (.deferredFailure (.far c e.id)))

/-- R283, R286, R296: a fault that waited enters FAULTED in task mode, with its record sent to `FSUP`.EP0; in supervisor mode it
is taken at `TRAPVEC` with INH set, and ends the launch with STATUS 2 while INH is set; a rollback restores the registers of the
save area, and the bytes of a copied range from its backup, and goes on at the retry PC. -/
def Obligations.FaultsAreTaken : Prop :=
  ∀ (s : State) (w : SlotRef) (st : Stop),
    let x := slotAt s w
    let taken := { x.trap with
      pc := st.pc, cause := BitVec.ofNat 8 (causeCode st.cause), defer := st.defer, esc := st.esc, val := st.val }
    x.stop = some st →
    (st.roll = none → onlyRecv x = true →
      (x.supv = false → Goes (exec (.faultDelivery w) s) (fun t =>
        t = { s with slots := t.slots, net := t.net } ∧
        slotAt t w = { x with st := .faulted, stop := none, failed := st.acc, trap := taken } ∧
        (∀ v, slotKey v ≠ slotKey w → slotAt t v = slotAt s v) ∧
        ∃ m, t.net = s.net ++ [m] ∧ m.src = w ∧ m.epa = (coreOf s w).fsup0 ∧ m.why = .fault w false ∧
          (wordsOf 8 m.raw).getD 2 0 = st.pc ∧ (wordsOf 8 m.raw).getD 3 0 = st.val)) ∧
      (x.supv = true → x.trap.inh = false → checkTarget s w x.trap.vec = none →
        Goes (exec (.localTrapEntry w) s) (fun t => ∃ y, t = setSlot (fixFetch s w x.trap.vec) w y ∧ y.pc = x.trap.vec ∧ y.st = .ready ∧
          y.stop = none ∧ y.sreg = x.sreg ∧ y.vreg = x.vreg ∧ y.preg = x.preg ∧ y.mreg = x.mreg ∧ y.supv = true ∧
          y.outs = x.outs ∧
          y.trap = { taken with pc := if st.defer then st.resume else st.pc, inh := true })) ∧
      (x.supv = true → x.trap.inh = true → ∀ l r, launchOf s w = some l → launchAt s l = some r → r.kill = none →
        Goes (exec (.localTrapEntry w) s) (fun t => (slotAt t w).st = .faulted ∧
          launchAt t l = some { r with kill := some 2 }))) ∧
    (∀ (f : Frame) (fs : List Frame), st.roll = some .innermost → rollReady s w = true → x.frames = f :: fs →
      f.retries ≠ x.trap.limit.toNat → (∀ p ∈ f.preserved, p.backup = none) →
      firstBad s (coreRefOf w) f.save.toNat 336 = none →
      let saved := fun i : Nat => BitVec.ofNat 64 (memRead s.mem (localFlat (coreRefOf w) (f.save.toNat + 8 * i)) 8)
      Goes (exec (.cdRollback w) s) (fun t => ∃ y ecc, CorrectsOnly s.ecc ecc ∧ t = setSlot { s with ecc := ecc } w y ∧
        y.pc = f.retryPc ∧ y.st = .ready ∧
        y.frames = { f with retries := f.retries + 1, fail := none } :: fs ∧ y.pendS = 0 ∧ y.pendV = 0 ∧
        (∀ i, i < 64 → i ≠ 0 → sGet y (BitVec.ofNat 6 i) = saved i) ∧ (∀ i, i < 8 → i ≠ 0 → mGet y i = saved (320 + i)) ∧
        (∀ i j, i < 32 → j < 8 → (vGet y (BitVec.ofNat 6 i)).extractLsb' (64 * j) 64 = saved (64 + 8 * i + j)) ∧
        (∀ i, i < 7 → pGet y i = (saved 328).getLsbD i) ∧
        y.trap.lastCause = BitVec.ofNat 8 (causeCode st.cause) ∧ y.trap.lastDepth = BitVec.ofNat 4 (fs.length + 1))) ∧
    (∀ (f : Frame) (fs : List Frame) (p : Preserved) (b : Word), st.roll = some .innermost → rollReady s w = true → MemOk s →
      x.frames = f :: fs → f.retries ≠ x.trap.limit.toNat → f.preserved = [p] → p.backup = some b →
      let c := coreRefOf w
      let a := p.start.toNat
      a + p.len ≤ 2 ^ 20 → a % 8 = 0 → b.toNat % 8 = 0 → p.len % 8 = 0 → overlaps (a, p.len) (b.toNat, p.len) = false →
      overlaps (a, p.len) (f.save.toNat, 0xA80) = false → (coreAt s c).fq = [] →
      (∀ v ∈ slotsOf c, waitsOn (slotAt s v) a p.len = false) →
      firstBad s c b.toNat (p.len / 8) = none → firstBad s c f.save.toNat 336 = none →
      Goes (exec (.cdRollback w) s) (fun t => (slotAt t w).pc = f.retryPc ∧
        (slotAt t w).frames = { f with retries := f.retries + 1, fail := none } :: fs ∧
        (∀ i, i < p.len / 8 → memRead t.mem (localFlat c (a + 8 * i)) 8 = memRead s.mem (localFlat c (b.toNat + 8 * i)) 8) ∧
        ∀ q, (q < localFlat c a ∨ localFlat c a + p.len ≤ q) → memGet t.mem q = memGet s.mem q))

/-- R285, R307: what each action of a RESUME does to a slot that a precise fault has left FAULTED: retry at the same instruction,
skip to the next cell, go on at a given PC, end the task, end the launch with STATUS 2. After the deferred failure of an access it
is made again, skipped with 0 for its destination, or dropped before the slot goes on at the given PC. A RESUME for a slot that is
not FAULTED is discarded. -/
def Obligations.ResumeActions : Prop :=
  ∀ (s : State) (i : Nat) (p : Poke), s.resumes[i]? = some p →
    let w := pokeSlot p
    let x := slotAt s w
    let s1 := { s with resumes := dropAt s.resumes i }
    let there := corePresent (modAt s w.m) w.d w.c = true
    let ready := fun y : Slot => { y with st := .ready, failed := .none, stalled := false }
    let goes := fun y : Slot =>
      setSlot (fixFetch s1 w p.pc) w { ready y with pc := p.pc, ibuf := (bufferJump { y with pc := p.pc } p.pc).ibuf }
    (¬ there → exec (.resumeDelivery i) s = .next s1) ∧
    (there → (coreOf s w).launch = none ∨ x.st ≠ .faulted →
      (∀ q ∈ s.launches, q.2.phase = .saved → (tget q.2.slots Slot.reset (slotKey w)).st ≠ .faulted) →
      exec (.resumeDelivery i) s = .next s1) ∧
    (there → (coreOf s w).launch.isSome = true → launchAway s w = false → x.st = .faulted →
      (p.act = 3 → (∀ a b c d, x.task ≠ .walked a b c d) →
        Goes (exec (.resumeDelivery i) s) (fun t => slotAt t w = Slot.reset ∧ t.mem = s.mem)) ∧
      (p.act = 4 → ∀ l r, launchOf s w = some l → launchAt s l = some r → r.kill = none →
        exec (.resumeDelivery i) s = .next (setLaunch s1 l { r with kill := some 2 })) ∧
      (x.trap.esc = false → x.trap.defer = false → x.wasEnding = none → x.failed = .none →
        (p.act = 0 → exec (.resumeDelivery i) s = .next (setSlot s1 w (ready x))) ∧
        (p.act = 1 → exec (.resumeDelivery i) s = .next (setSlot s1 w { ready x with pc := nextCell x.pc })) ∧
        (p.act = 2 → checkTarget s w p.pc = none → exec (.resumeDelivery i) s = .next (goes x))) ∧
      (x.trap.esc = false → x.trap.defer = true → x.wasEnding = none → ∀ o, x.failed = .out o → isLdc o = false →
        (p.act = 0 → Goes (exec (.resumeDelivery i) s) (fun t =>
          slotAt t w = { ready (markDst x o.dst) with
            outs := x.outs ++ [{ o with pkey := x.csr.pkey, supv := x.supv }] } ∧ t.mem = s.mem ∧ t.cores = s.cores)) ∧
        (p.act = 1 → exec (.resumeDelivery i) s =
          .next (setSlot s1 w (ready (writeDst (unmarkDst x o.dst) o.dst 0)))) ∧
        (p.act = 2 → checkTarget s w p.pc = none → exec (.resumeDelivery i) s = .next (goes (unmarkDst x o.dst)))))

/-- R192, R196, R355: a slot that waits for pages leaves its context with the core and becomes FREE; firmware's answer installs a
leaf, which may take the frame of a page of the launch that is neither pinned nor needed and of no other (R199), or says that no frame
can be freed (R199); a context whose pages are there goes back into a free slot; a page table entry changes after the recall of its
lines; a page whose translations reach its threshold moves to the near tier, with D set (R204), into a free frame of its home's
stacks or of a stack with most free frames, or has its count cleared where it cannot be placed (R356). Which of these frames it takes
(log 17), and which results may wait in a saved context (`canSwap`, log 29), are the model's choices. -/
def Obligations.ContextsAndPages : Prop :=
  (∀ (s : State) (w : SlotRef),
    let x := slotAt s w
    x.st = .ready → x.swapReq ≠ [] → x.stop = none → x.outs.all (canSwap s w) = true →
    Goes (exec (.contextSwapOut w) s) (fun t => slotAt t w = Slot.reset ∧ t.mem = s.mem ∧
      (coreOf t w).swapped = (coreOf s w).swapped ++ [⟨s.nextId, x, w.k⟩])) ∧
  (∀ (s : State) (c : CoreRef) (q : Ctx) (w : SlotRef),
    (coreAt s c).swapped.find? (fun t => t.id = q.id) = some q → anyFree s c = some w → ctxReady s c q = true →
    q.slot.st = .ready → (coreAt s c).spill.bound = [] →
    Goes (exec (.contextRestore c q.id) s) (fun t =>
      let y := slotAt t w
      t.mem = s.mem ∧ y.st = .ready ∧ y.pc = q.slot.pc ∧ y.sreg = q.slot.sreg ∧ y.vreg = q.slot.vreg ∧ y.preg = q.slot.preg ∧
      y.mreg = q.slot.mreg ∧ y.csr = q.slot.csr ∧ y.trap = q.slot.trap ∧ y.supv = q.slot.supv ∧ y.frames = q.slot.frames ∧
      y.swapReq = [] ∧ (coreAt t c).swapped = (coreAt s c).swapped.filter (fun u => u.id != q.id))) ∧
  (∀ (s : State) (p : PageRef) (leaf : Word) (a : Nat),
    walkPage s p.m p.tag (p.pn * 65536) = .absent a → (pageAt s p).asked = true →
    (leaf = 0 ∨ (leafV leaf = true ∧ leafPs leaf = 0 ∧ leafOk (modAt s p.m) (p.pn * 65536) leaf = true) →
      (pageAt s p).saved = none → (leaf ≠ 0 → leafLocal leaf = true → inFrame s p.m leaf = []) →
      Goes (exec (.pageMadeResident p leaf) s) (fun t => t.mem = memWrite s.mem a 8 leaf.toNat ∧
        (pageAt t p).asked = false ∧ (pageAt t p).noRoom = none ∧
        ∀ w, ∃ outs, slotAt t w = { slotAt s w with outs := outs })) ∧
    (leafV leaf = true → leafPs leaf = 0 → leafOk (modAt s p.m) (p.pn * 65536) leaf = true → leafLocal leaf = true →
      (∃ q ∈ inFrame s p.m leaf, q ∉ launchPages s p ∨ evictable s q = false ∨ q.1 ∈ neededPages s p) →
      exec (.pageMadeResident p leaf) s = .next s) ∧
    (leaf ≠ 0 → leafV leaf = false → leafPs leaf = 0 → noFrame s p = true →
      exec (.pageMadeResident p leaf) s =
        .next (setPage s p { pageAt s p with asked := false, noRoom := some s.nextId }))) ∧
  (∀ (s : State) (p : PageRef) (level : Nat) (entry : Word), (modAt s p.m).present = true →
    (level = 4 → rangeFrozen s p (2 ^ 41) = false → p.tag = globalTag → Goes (exec (.pageTableChange p level entry) s) (fun t =>
      (modAt t p.m).groot = entry.toNat)) ∧
    (level = 4 → rangeFrozen s p (2 ^ 41) = false → p.tag < 65536 → Goes (exec (.pageTableChange p level entry) s) (fun t =>
      tget (modAt t p.m).asidDir 0 p.tag = entry.toNat)) ∧
    (MemOk s → 1 ≤ level → level ≤ 3 → rangeFrozen s p (2 ^ (13 * level)) = false → ∀ a, entryAt s p level = some a →
      Goes (exec (.pageTableChange p level entry) s) (fun t => BitVec.ofNat 64 (memRead t.mem a 8) = entry)) ∧
    (MemOk s → level = 0 → ∀ a, entryAt s p 0 = some a →
      rangeFrozen s p (entryPages 0 (BitVec.ofNat 64 (memRead s.mem a 8)) entry) = false →
        changeBarred s p (BitVec.ofNat 64 (memRead s.mem a 8)) entry = false →
      Goes (exec (.pageTableChange p level entry) s) (fun t => BitVec.ofNat 64 (memRead t.mem a 8) = entry))) ∧
  ∀ (s : State) (p : PageRef) (e : Word) (a : Nat), MemOk s →
    walkPage s p.m p.tag (p.pn * 65536) = .leaf e a → leafMode e = 3 → (pageAt s p).tlb = true →
    2 ^ (leafThresh e + 4) ≤ (pageAt s p).count → 0x18000000000 ≤ leafFrame e * 65536 → mayMove s p e = true →
    pagePoisoned s p.m e = false → lostPa (modAt s p.m) (leafFrame e * 65536) = false →
    tierOf (modAt s p.m) (leafFrame e * 65536) ≠ some .near → pageHeld s p false = false →
    tierStopped (modAt s p.m) p.tag (p.pn * 65536) (leafPa e (p.pn * 65536)) = false →
    pageStuck s p = false →
    let used := usedFrames s p.m
    let slice := liveSlice (modAt s p.m) (homeOf (modAt s p.m) p.tag (p.pn * 65536)).1
    let f := pickFrame s p.m .near slice
    (f = none → exec (.thresholdMigration p) s = .next (setPage s p { pageAt s p with count := 0 })) ∧
    (∀ n, f = some n → frameFree (modAt s p.m) used n = true ∧
      (n / 2 ^ 20 = 2 * slice ∨ n / 2 ^ 20 = 2 * slice + 1 ∨
        ∀ j, j < 24 → stackFree (modAt s p.m) used j ≤ stackFree (modAt s p.m) used (n / 2 ^ 20)) ∧
      Goes (exec (.thresholdMigration p) s) (fun t => (pageAt t p).count = 0 ∧ (pageAt t p).tlb = false ∧ ∃ e' : Word, leafFrame e' = n % 2 ^ 36 ∧
        e'.getLsbD 4 = true ∧ memRead t.mem a 8 = e'.toNat))

/-- R129, R202, R203, R208, R365: a buffered store whose whole instruction passes its checks leaves its buffer and is then in memory: from
the store buffer to the local store, from the far store queue to its page, at the lender when that borrows; a merge of the dirty log
takes its oldest entries and sets D in the leaf of the page one names, present or not; one whose page is not mapped is discarded. -/
def Obligations.BufferedStoresReachMemory : Prop :=
  (∀ (s : State) (c : CoreRef) (e : StEnt) (r : List StEnt) (va : Word) (n off : Nat) (d : BitVec 128),
    let begun := fun x : StEnt => if x.grp = e.grp && x.k = e.k then { x with begun := true } else x
    dieStopped (modAt s c.m) c.d = false →
    (coreAt s c).sbuf = e :: r → e.units = [⟨va, n, off, some d⟩] → e.flush = none → va.toNat < 2 ^ 20 →
    storeOrder s (slotOf c 0) e ⟨va, n, off, some d⟩ = true → groupReady s (slotOf c 0) e = true →
    Goes (exec (.storeBufferDrain c) s) (fun t => t.mem = memWrite s.mem (localFlat c va.toNat) n d.toNat ∧
      (coreAt t c).sbuf = (r.filter (fun x => x.id != e.id)).map begun)) ∧
  (∀ (s : State) (c : CoreRef) (e : StEnt) (j : Nat) (u : AccUnit) (d : BitVec 128) (f : Nat) (l : LineRef) (le : Word)
      (a own : Nat) (unc : Bool),
    let who := whoAs s (slotOf c 0) e.pkey e.supv
    let begun := fun x : StEnt => if x.grp = e.grp && x.k = e.k then { x with begun := true } else x
    MemOk s → dieStopped (modAt s c.m) c.d = false → (coreAt s c).fq.find? (fun x => x.id = e.id) = some e → e.units[j]? = some u → u.val = some d → e.flush = none →
    storeOrder s (slotOf c 0) e u = true → groupReady s (slotOf c 0) e = true →
    unitsMeet (slotOf c 0) (e.units.take j) [u] = false →
    resolve s who u.va true = .line f l le a own unc → lineBlocked s (lineAt s l) who unc true = false →
    noteWrite s who u.va l a own unc ≠ none →
    let Done := fun o : Out_ => Goes o (fun t => memRead t.mem f u.n = d.toNat % 256 ^ u.n ∧
      (coreAt t c).fq = putEntry ((coreAt s c).fq.map begun) { dropUnit e j with begun := true })
    (isRemote s who u.va = false → Done (exec (.farStoreDrain c e.id j) s)) ∧
    (isRemote s who u.va = true → (isDirect s who u.va = true → lineTurn s (slotOf c 0) e.id u.va = true) →
      Done (exec (.remoteAccessArrival (.far c e.id) j) s))) ∧
  ∀ (s : State) (c : CoreRef) (n : Nat),
    let d := (coreAt s c).log
    d.cnt ≠ 0 → logSize d ≤ 2 * d.cnt →
    Goes (exec (.logMerge c n) s) (fun t => (coreAt t c).log = { d with
        cnt := d.cnt - min n d.cnt, last := d.last.take (d.cnt - min n d.cnt) } ∧ t.slots = s.slots ∧
      (n = 1 →
        let e := memRead s.mem (localFlat c (logAddr d 0)) 8
        let page := walkPage s c.m (if e.testBit 47 then globalTag else e / 2 ^ 48) (e % 2 ^ 40 * 65536)
        (MemOk s → ∀ le a, page = .leaf le a ∨ page = .absent a → (memRead t.mem a 8).testBit 4 = true) ∧
        (page = .unmapped → t.mem = s.mem)))

/-- R149-R151, R170, R174: a message enters the inbox of its core while there is room and the ring is empty, and its sender
hears 0; where nobody receives it, 3; the ring hands its oldest entry to the inbox, bound to a swapped context still, or for the slot
that the context came back into (R197); a wake sets the pending wake of a slot, and ends a WAITA at once. That a woken WAITA takes
its word with the bytes that its core's buffers forward is the model's choice (log 32). -/
def Obligations.MessagesAndWakesArrive : Prop :=
  (∀ (s : State) (i : Nat) (m : Msg),
    let w := msgSlot m
    let Heard := fun (t : State) (v : Word) => t.net = dropAt s.net i ∧ t.mem = s.mem ∧
      ∀ w0 id, m.why = .send w0 id → ∀ o ∈ (slotAt t w0).outs, o.id = id → o.kind = .send (some v)
    s.net[i]? = some m → (s.net.take i).any (fun a => msgOrdered s a m) = false →
    (modUp s m.dest = true → (modAt s m.dest).fenced = false ∧ dieStopped (modAt s w.m) w.d = false) →
    (noReceiver s m w = true → m.why = .none ∨ (∃ w0 id, m.why = .send w0 id) →
      Goes (exec (.messageArrival i) s) (fun t => Heard t 3)) ∧
    (noReceiver s m w = false → (coreOf s w).inbox.length + claimedCount s (coreRefOf w) < 64 →
      (coreOf s w).spill.bound = [] → (slotAt s w).outs.any waitingRecv = false →
      Goes (exec (.messageArrival i) s) (fun t => Heard t 0 ∧
        (coreOf t w).inbox = (coreOf s w).inbox ++ [⟨m.raw, bindFor s w m.ctx⟩]))) ∧
  (∀ (s : State) (c : CoreRef) (b : Option Nat) (r : List (Option Nat)) (s' : State) (v : Nat),
    let x := coreAt s c
    let d := deviceOf s (slotOf c 0)
    let raw := BitVec.ofNat 512 (devOver s' d (ringAddr x.spill 0) 64 v)
    let Joins := fun e : InEntry => Goes (exec (.spillRingMove c) s) (fun t =>
      (coreAt t c).inbox = x.inbox ++ [e] ∧ (coreAt t c).spill.bound = r)
    x.spill.bound = b :: r → x.inbox.length + claimedCount s c < 64 → dieStopped (modAt s c.m) c.d = false →
    perfRead s d (ringAddr x.spill 0) 64 = .ok s' v →
    ((∀ i, b = some i → ∀ w ∈ slotsOf c, (slotAt s w).bindId ≠ some i) →
      (slotAt s (slotOf c (entrySlot raw))).outs.any waitingRecv = false →
      (b = none → Joins ⟨raw, none⟩) ∧
      (∀ i, b = some i → ((∃ q ∈ x.swapped, q.id = i) → Joins ⟨raw, b⟩) ∧ ((∀ q ∈ x.swapped, q.id ≠ i) → Joins ⟨raw, none⟩))) ∧
    (∀ i w, b = some i → w ∈ slotsOf c → (∀ v ∈ slotsOf c, (slotAt s v).bindId = some i ↔ v = w) →
      (slotAt s w).outs.any waitingRecv = false → Joins ⟨readdress raw w.k, none⟩)) ∧
  ∀ (s : State) (i : Nat) (p : Poke),
    let w := pokeSlot p
    let x := slotAt s w
    let s1 := { s with wakes := dropAt s.wakes i }
    s.wakes[i]? = some p → corePresent (modAt s w.m) w.d w.c = true → (coreOf s w).launch.isSome = true →
    (coreOf s w).launch = p.launch → dieStopped (modAt s w.m) w.d = false →
    (x.st = .ready → exec (.wakeDelivery i) s = .next (setSlot s1 w { x with pendingWake := true })) ∧
    (∀ a v d, x.st = .parked (.waita a v d) false → s.veils = [] →
      wordsBad s w s.nextId (localFlat (coreRefOf w) a.toNat) a 8 = false →
      Goes (exec (.wakeDelivery i) s) (fun t => t.mem = s.mem ∧ (slotAt t w).st = .ready ∧ (slotAt t w).pc = nextCell x.pc ∧
        sGet (slotAt t w) d =
          if d = 0 then 0 else BitVec.ofNat 64 (seenBy s w a 8)))

/-- R151, R203, R258, R287, R290: the writes of `EINJ` that arm a result flip, flip one or two neighbouring bits of a word of the
local store, or send an accumulator flip; of `DLOGHEAD` and `DLOGLIM`; of `SPILLBASE`; and the clearing of `MFLGPOS`. -/
def Obligations.RegisterWriteEvents : Prop :=
  (∀ (s : State) (w : SlotRef) (x : Word),
    let e := einjOf x
    let word := localWord (coreRefOf w) e.word.toNat
    let y := slotAt s w
    let off := { y with trap := { y.trap with einj := { e with arm := false } } }
    e.arm = true →
    (e.kind = 1 → exec (.einjResultArm w x) s = .next (setSlot s w { y with trap := { y.trap with einj := e } })) ∧
    (e.kind = 2 → exec (.einjStoreSingleFlip w x) s = .next (setSlot (flipWord s word (1#64 <<< e.bit.toNat)) w off)) ∧
    (e.kind = 3 → exec (.einjStoreDoubleFlip w x) s =
      .next (setSlot (flipWord s word ((1#64 <<< e.bit.toNat) ||| (1#64 <<< ((e.bit.toNat + 1) % 64)))) w off)) ∧
    (e.kind = 4 → Goes (exec (.einjAccumulatorArm w x) s) (fun t => slotAt t w = off ∧ t.mem = s.mem ∧
      ∃ c, t.cmds = s.cmds ++ [c] ∧ c.op = .accflip ∧ c.w = w ∧ c.st = .net ∧ c.sub = e.bit.toNat ∧
        c.blk = [e.row.zeroExtend 64, e.col.zeroExtend 64]))) ∧
  ∀ (s : State) (c : CoreRef) (x : Word),
    let d := (coreAt s c).log
    let p := (coreAt s c).spill
    Goes (exec (.logRegisterWrite c false x) s) (fun t =>
      let l := (coreAt t c).log
      l.head = x.extractLsb' 3 17 ∧ l.lim = d.lim ∧ l.base = d.base ∧ (x.extractLsb' 3 17 ≠ d.head → l.cnt = 0)) ∧
    Goes (exec (.logRegisterWrite c true x) s) (fun t =>
      let l := (coreAt t c).log
      l.head = d.head ∧ l.lim = x.extractLsb' 3 17 ∧ l.base = x.extractLsb' 23 17 ∧
        (x.extractLsb' 3 17 ≠ d.lim → l.cnt = 0)) ∧
    (p.bound = [] → exec (.spillbaseWrite c x) s = .next (setCore s c { coreAt s c with spill :=
      { p with base := x.extractLsb' 16 41, size := x.extractLsb' 0 3, lost := p.lost && !x.getLsbD 3, head := 0,
               next := none } })) ∧
    (p.bound ≠ [] → (x.extractLsb' 16 41, x.extractLsb' 0 3) ≠ (p.base, p.size) →
      exec (.spillbaseWrite c x) s = .next (setCore s c { coreAt s c with spill :=
        { p with lost := p.lost && !x.getLsbD 3, next := some (x.extractLsb' 16 41, x.extractLsb' 0 3) } })) ∧
    exec (.mflgposClear c) s = .next (setCore s c { coreAt s c with mflg :=
      { (coreAt s c).mflg with posRow := 0, posCol := 0, posSrc := 0, posValid := false } })

/-- R142, R143, R146, R148, R155, R156: the walker and the task queue start free slots with their registers; a walked task ends
after its rows are written; a domain whose cores have all arrived begins its exchange with its votes, and its cores go on after
it with one more superstep counted; a SYNC or BARW over time is BARRIER 5; a barrier whose members have all arrived is released,
and the slots that waited for that release go on. The plan that an exchange runs is the one read as its launch started (log 15), and
its words are read as they stand before the exchange or before their entry (log 16): the model's choices. -/
def Obligations.TasksAndSupersteps : Prop :=
  (∀ (s : State) (c : CoreRef) (k : Walk) (w : SlotRef) (tile : List Nat),
    let x := coreAt s c
    x.walk = some k → anyFree s c = some w → coreRuns s c = true → ctxWaiting s c = false → tileOpen k tile = true →
    (x.rrTask = false ∨ x.tasks = []) → (∀ f ∈ k.fps, f.mode = 0) → pinCount x ≤ 184 →
    checkTarget (setSlot s w Slot.reset) w k.body = none →
    Goes (exec (.walkTaskDispatch c tile) s) (fun t =>
      let y := slotAt t w
      t.mem = s.mem ∧ y.st = .ready ∧ y.pc = k.body ∧ (∀ i, sGet y i = 0) ∧ y.csr.taskid = BitVec.ofNat 32 k.issued.length ∧
      (∀ i, i < tile.length → tget y.csr.tidx 0 i = BitVec.ofNat 32 (tile.getD i 0)) ∧ y.task = .walked tile none [] none ∧
      (coreAt t c).walk = some { k with issued := k.issued ++ [tile] } ∧ (coreAt t c).rrTask = true)) ∧
  (∀ (s : State) (c : CoreRef) (q : QTask) (r : List QTask) (w : SlotRef),
    let x := coreAt s c
    x.tasks = q :: r → anyFree s c = some w → coreRuns s c = true → ctxWaiting s c = false →
    (x.rrTask = true ∨ walkHas s c = false) → checkTarget (setSlot s w Slot.reset) w q.pc = none →
    Goes (exec (.queuedTaskDispatch c) s) (fun t =>
      let y := slotAt t w
      t.mem = s.mem ∧ y.st = .ready ∧ y.pc = q.pc ∧ sGet y 1 = q.a1 ∧ sGet y 2 = q.a2 ∧ y.csr.taskid = q.id ∧
      y.task = .queued ∧ (coreAt t c).tasks = r)) ∧
  (∀ (s : State) (w : SlotRef) (k : Walk) (tile : List Nat) (buf : Option Nat) (pins : List PageRef)
      (left : Option (List (Word × Nat × Nat))) (r : WroteRows),
    let x := slotAt s w
    x.st = .ending true → x.task = .walked tile buf pins left → (coreOf s w).walk = some k → x.outs = [] → x.stop = none →
    x.held = [] → localDrained s w = true →
    writeRows s (walkWho s (coreRefOf w) k) (left.getD ((k.fps.filter (fun f => f.mode = 2 || f.mode = 3)).map
      (fun f => fpRows f tile (buf.getD 0))).flatten) = r → r.why = none → r.waiting = [] → r.absent = none →
    Goes (exec (.footprintWriteOut w) s) (fun t => t.mem = r.s.mem ∧ slotAt t w = Slot.reset)) ∧
  (∀ (s : State) (l : LaunchRef) (z : Launch) (level x y : Nat),
    let cs := domainCores s l z.record level x y
    launchAt s l = some z → launchRuns s (some l) = true → launchWhole s l z = true → exchangeOf z level x y = none →
      level ≤ z.record.nlev →
    cs.all (coreArrived s level) = true → cs.any (hasSync s level) = true →
    ∃ e : Exchange, exec (.syncDomainComplete l level x y) s = .next (setLaunch s l { z with exch := z.exch ++ [e] }) ∧
      e.level = level ∧ e.x = (domainAt z.record level x y).1 ∧ e.y = (domainAt z.record level x y).2.1 ∧
      (∀ i, e.vor.getLsbD i = true ↔ ∃ c ∈ cs, (coreAt s c).corvote.getLsbD i = true) ∧
      (∀ i, i < 16 → (e.vand.getLsbD i = true ↔ ∀ c ∈ cs, (coreAt s c).candvote.getLsbD i = true))) ∧
  (∀ (s : State) (l : LaunchRef) (z : Launch) (level x y : Nat) (order : List Nat) (e : Exchange) (s' : State),
    let cs := domainCores s l z.record level x y
    let inDom := fun p : PlanEntry => p.v = e.vor.toNat % 4 && p.level = level &&
      ((domainAt z.record level p.x p.y).1 = e.x && (domainAt z.record level p.x p.y).2.1 = e.y)
    launchAt s l = some z → holdsCores z = true → exchangeOf z level x y = some e → cs.Nodup →
    runPlan s s l.m z.record (permuted (z.plan.filter inDom) order) [] = (s', some []) →
    Goes (exec (.exchangeComplete l level x y order) s) (fun t => t.mem = s'.mem ∧
      (∀ c ∈ cs, (coreAt t c).vor = e.vor ∧ (coreAt t c).vand = e.vand ∧ (coreAt t c).corvote = 0 ∧
        (coreAt t c).candvote = 0xFFFF ∧ tget (coreAt t c).cnt 0 e.level = tget (coreAt s' c).cnt 0 e.level + 1 ∧
        ∀ w ∈ slotsOf c, (slotAt s' w).st = .parked (.sync e.level) false →
          (slotAt t w).st = .ready ∧ (slotAt t w).pc = nextCell (slotAt s' w).pc ∧ (slotAt t w).ibuf = []) ∧
      ∀ z2, launchAt t l = some z2 → ∀ d ∈ z2.exch, ¬ (d.level = e.level ∧ d.x = e.x ∧ d.y = e.y))) ∧
  (∀ (s : State) (w : SlotRef) (r : Rec), recOf s w = some r → r.syncto ≠ 0 →
    (∀ k sw, (slotAt s w).st = .parked (.sync k) sw → syncWaits s w k = true →
      exec (.syncTimeout w) s = .next (raisePrecise s w .barrier 5)) ∧
    (∀ b n sw, (slotAt s w).st = .parked (.barrier b n) sw →
      exec (.syncTimeout w) s = .next (raisePrecise s w .barrier 5))) ∧
  ∀ (s : State) (l : LaunchRef) (z : Launch) (b : Nat) (q : Nat × Nat × Nat × Nat),
    let k := tget z.bars Bar.reset b
    let cs := coresIn s l.m z.record q
    launchAt s l = some z → holdsCores z = true → launchWhole s l z = true → z.record.bars[b]? = some q → b < z.record.nbar → cs ≠ [] → k.c0 = cs.length →
    Goes (exec (.barrierRelease l b) s) (fun t => t.mem = s.mem ∧
      launchAt t l = some { z with bars := tput z.bars b ⟨!k.phase, k.c1, 0, k.r + 1⟩ } ∧
      ∀ c ∈ cs, ∀ w ∈ slotsOf c, ∀ n, (slotAt s w).st = .parked (.barrier b n) false → n.toNat ≤ k.r + 1 →
        (slotAt t w).st = .ready ∧ (slotAt t w).pc = nextCell (slotAt s w).pc)

/-- R138, R139, R159-R161, R219, R383: firmware registers a queue; a pass starts the validated head record of a queue whose cores
are free, claiming its cores; the entry makes slot 0 of every present core READY; a launch whose cores have ended, or that was
killed, ends with its status and gives its cores up; a head record out of patience asks for a pass. -/
def Obligations.LaunchesStartAndEnd : Prop :=
  (∀ (s : State) (m q : Nat) (desc ring : Word) (log2n : Nat) (supv : Bool) (save : Word),
    modUp s m = true → q < 16 → desc.toNat % 64 = 0 → regionOf desc.toNat = some 2 → regionOf ring.toNat = some 2 →
    1 ≤ log2n → log2n ≤ 16 →
    Goes (exec (.queueRegistration m q desc ring log2n supv save) s) (fun t =>
      tfind (modAt t m).queues q = some ⟨desc, supv, false, false⟩)) ∧
  (∀ (s : State) (m q : Nat) (u : Queue) (v : Valid) (y : Mod),
    let s1 := setMod (seeTails s m) m { modAt (seeTails s m) m with passDue := false }
    let h := headOf s1 m u
    let l : LaunchRef := ⟨m, q, h⟩
    modUp s m = true → (modAt s m).passDue = true → (modAt s1 m).queues = [(q, u)] → savedOf s1 m q = none →
    advanceDone s1 m q = s1 → descHeld s1 m u = none → h < tailOf s1 m u → headRecord s1 m q u h = .ok v → v.r.preds = [] →
    v.r.prio < 8 →
    let s2 := headSeen s1 m u h 12
    (∀ c ∈ claimedCores m v.r, (coreAt s2 c).launch = none) →
    (∀ k ∈ v.r.dies, dieMapped (modAt s2 m).dmap k = true ∧ (dieSt (modAt s2 m) k).evacuating = false) →
    addLayouts (modAt s2 m) v.r.asid v.lays = some y → layFrozen s2 m v.r.asid v.lays = false →
    Goes (exec (.launchUnitPass m) s) (fun t => (∃ x, launchAt t l = some x ∧ x.phase = .starting ∧ x.record = v.r ∧
      x.plan = v.plan ∧ x.supv = u.supv ∧ x.kill = none) ∧ ∀ c ∈ claimedCores m v.r, (coreAt t c).launch = some l)) ∧
  (∀ (s : State) (l : LaunchRef) (x : Launch), launchAt s l = some x →
    let cs := launchCores s l.m x.record
    (x.phase = .starting → x.dieLost = false → stopsHere s l x = false →
      (∀ c ∈ cs, checkTarget (setSlot s (slotOf c 0) Slot.reset) (slotOf c 0) x.record.entry = none) →
      Goes (exec (.launchEntry l) s) (fun t => launchAt t l = some { x with phase := .running } ∧ t.mem = s.mem ∧
        ∀ c ∈ cs, (slotAt t (slotOf c 0)).st = .ready ∧ (slotAt t (slotOf c 0)).pc = x.record.entry ∧
          ∀ r, sGet (slotAt t (slotOf c 0)) r = 0)) ∧
    (cs.all (coreDrained s) = true → launchWhole s l x = true → layoutsWait s l x = false →
      s.cmds.any (fun c => c.launch = some l && !guardWaits c) = false →
      let Ends := fun n : Nat => Goes (exec (.launchEnd l) s) (fun t =>
        (∃ z, launchAt t l = some z ∧ z.phase = .ended ∧ z.kill = some n) ∧
        ∀ c ∈ claimedCores l.m x.record, (coreAt s c).launch = some l → (coreAt t c).launch = none)
      (x.phase = .running → x.kill = none → x.exch = [] → cs.all (coreIdle s) = true → Ends 0) ∧
      (∀ n, x.phase = .running ∨ x.phase = .halted → x.kill = some n → Ends n))) ∧
  ∀ (s : State) (m q : Nat) (u : Queue) (v : Valid), tfind (modAt s m).queues q = some u → descHeld s m u = none →
    headOf s m u < tailOf s m u → savedOf s m q = none → headRecord s m q u (headOf s m u) = .ok v → v.r.patience ≠ 0 →
    predsDone (headSeen s m u (headOf s m u) 12) m v.r = true →
    Goes (exec (.patienceExpiry m q) s) (fun t => tfind (modAt t m).queues q = some { u with patienceDue := true } ∧
      (modAt t m).passDue = true)

/-- R316-R318, R322-R326: the ladder of pre-emption, its limits, the save and the restore, a launch that was reset; halts,
continuing, a debug group, dumps, counter snapshots and the trace record that one may leave. Which cut a restart takes, and that it
gives back the barriers and guard waits of the cut, is log 18; that a request of a debug group forms it, that a member which has
ended does not count, and the bytes of a trace record are log 39: the model's choices. -/
def Obligations.LaunchesStopAndGoOn : Prop :=
  (∀ (s : State) (l : LaunchRef) (x : Launch), launchAt s l = some x →
    let Sets := fun (i : Instr) (y : Launch) => exec i s = .next (setLaunch s l y)
    let Becomes := fun (i : Instr) (P : Launch → Prop) => Goes (exec i s) (fun t => ∃ z, launchAt t l = some z ∧ P z)
    (x.phase = .running → x.record.t1 ≠ 0 →
      Sets (.preemptionRequest l) { x with preempt := true, phase := .draining, rung := max x.rung 1, climb := 0 }) ∧
    (x.phase = .running → x.record.t1 = 0 →
      Sets (.preemptionRequest l) { x with preempt := true, phase := .saving, rung := max x.rung 2, climb := 2 }) ∧
    (x.phase = .starting → x.preempt = false → x.record.t1 = 0 →
      Sets (.preemptionRequest l) { x with preempt := true, rung := max x.rung 2, climb := 2 }) ∧
    (∀ us, x.phase = .held → x.preempt = true → launchCmds s l = false → us ≤ x.record.t1 →
      Sets (.drainBoundaryHold l us) { x with phase := .saving, climb := 1, time := x.time + us }) ∧
    (x.preempt = true → x.phase = .draining ∨ x.phase = .held →
      Sets (.drainLimitExpiry l) { x with phase := .saving, rung := max x.rung 2, climb := 2, time := x.time + x.record.t1 }) ∧
    (∀ us, let cs := launchCores s l.m x.record
      x.phase = .saving → x.kill = none → us ≤ x.record.t2 → launchCmds s l = false → x.exch = [] →
      areaHeld s l x true = none → cs.all (coreDrained s) = true →
      cs.all (fun c => (slotsOf c).all (slotSettled s) && (coreAt s c).swapped.all ctxSettled) = true →
      Goes (exec (.saveComplete l us) s) (fun t => (∃ z, launchAt t l = some z ∧ z.phase = .saved ∧ z.preempt = false ∧
        z.time = x.time + us ∧ z.endStep = cnt0Of s l x ∧ z.guards = launchGuards s l) ∧
        ∀ c ∈ claimedCores l.m x.record, (coreAt s c).launch = some l → (coreAt t c).launch = none)) ∧
    (x.phase = .saving → Becomes (.saveLimitExpiry l) (fun z => z.phase = .reset ∧ z.rung = 3 ∧ z.endStep = cnt0Of s l x ∧
      z.time = x.time + x.record.t2)) ∧
    (x.phase = .saved → (∀ c ∈ claimedCores l.m x.record, (coreAt s c).launch = some l) → areaHeld s l x false = none →
      Goes (exec (.launchRestore l) s) (fun t => (∃ z, launchAt t l = some z ∧ z.phase = .running ∧ z.resumes = []) ∧
        t.resumes = s.resumes ++ x.resumes ∧ t.cmds = s.cmds ++ x.guards)) ∧
    (x.phase = .reset → x.dieLost = false → x.kill = none → recoveryDue s l x = false → layoutsWait s l x = false →
      let Restarts := fun P : Launch → Prop => ∃ u z, exec (.checkpointRestart l) s = .next (recover u l.m) ∧
        launchAt u l = some z ∧ P z
      (newestCut s l = none → Restarts (fun z => z.phase = .ended ∧ z.kill = some 3)) ∧
      (∀ k s' n, newestCut s l = some k → restoreCut s l x k = .done s' n →
        Restarts (fun z => z.phase = .saved ∧ z.slots = k.slots ∧ z.cores = k.cores ∧ z.hams = k.hams ∧ z.locals = k.locals ∧
          z.bars = k.bars ∧ z.guards = k.guards))) ∧
    (x.phase = .held → x.preempt = false →
      (∀ n, x.haltAt = some n → cnt0Of s l x = n % 2 ^ 16 → Sets (.debugHalt l) { x with phase := .halted }) ∧
      (∀ n, x.haltAt = some n → cnt0Of s l x ≠ n % 2 ^ 16 → stopsHere s l { x with haltReq := false } = false →
        Becomes (.debugHalt l) (fun z => z = { x with phase := .running, haltReq := false })) ∧
      (x.haltAt = none → x.haltReq = true → (debugGroup s l).length ≤ 1 → Sets (.debugHalt l) { x with phase := .halted })) ∧
    (x.phase = .halted → x.preempt = false →
      Sets (.debugContinue l) { x with phase := .running, haltReq := false, haltAt := none }) ∧
    (groupStopped x = false → x.phase ≠ .ended → x.haltAt = none →
      exec (.debugGroupHalt [l]) s = .next (setLaunch (formGroup s [l]) l { x with haltReq := true })) ∧
    (atBoundary x = true → areaHeld s l x true = none → exec (.boundaryDump l) s = .next (writeFrame s l x)) ∧
    (∀ kill, x.phase = .running → x.kill = none → areaHeld s l x true = none → Becomes (.forcedDump l kill) (fun z =>
      z.dump = (launchCores s l.m x.record).map (fun c => (c, (coreAt s c).sbuf, (coreAt s c).fq)) ∧
      z.kill = if kill then some 2 else none))) ∧
  (∀ (s : State) (l1 l2 : LaunchRef) (x1 x2 : Launch), launchAt s l1 = some x1 → launchAt s l2 = some x2 →
    x1.phase = .held → x2.phase = .held → cnt0Of s l1 x1 < cnt0Of s l2 x2 → launchKey l1 ≠ launchKey l2 →
    exec (.debugGroupHalt [l1, l2]) s = .next (setLaunch (setLaunch (formGroup s [l1, l2]) l1
      { x1 with phase := .running, haltReq := false, haltAt := some (cnt0Of s l2 x2) }) l2
      { x2 with phase := .halted, haltReq := true, haltAt := none })) ∧
  ∀ (s : State) (m k : Nat), modUp s m = true → 16 ≤ k → k ≤ 30 →
    Goes (exec (.counterSnapshot ⟨m, k⟩) s) (fun t =>
      (modAt t m).snaps = (modAt s m).snaps + 1 ∧ (modAt t m).snapK = k ∧
      (∃ links, (modAt t m).counters = (modAt s m).counters ++ [⟨s.tick, k, (modAt s m).snaps, links⟩] ∧
        links.length = Config.linkCount ∧ ∀ (i : Nat) (e : List Nat), links[i]? = some e → e.length = 9 ∧ e.head? = some i) ∧
      t.trace.length ≤ s.trace.length + 1 ∧ (∀ r ∈ s.trace, r ∈ t.trace) ∧
      ∀ r ∈ t.trace, r ∈ s.trace ∨ (r.m = m ∧ r.tick = s.tick ∧ r.cnt0 = tget (coreAt s ⟨m, r.die, r.lcore⟩).cnt 0 0 ∧
        r.seqno = BitVec.ofNat 32 (tget s.traceSeq 0 (m * 2 ^ 32 + r.src.toNat)) ∧ (traceWords r).length = 4))

/-! ### Machine events: engines, the mill, checkpoints -/

/-- R237, R239-R247, R260, R267, R277: a command reaches the crier, which may hold it to be merged, or its engine, where it waits, ends
with NOENGINE when the engine is gone, or is discarded by its guard; merged commands take the status of the one that runs, but for
those of the mill, which act on queues of their own and go on; a finished command answers its status word, sends its message and
leaves its batch, the open one too; a watchdog ends a command with TIMEOUT, and a load so ended leaves its plane INVALID, once it is
the turn of that load; a query counts, as it arrives, the commands that wait, and a drain ends when none is before it; MSTAT answers
the state of the mill. How the crier merges and sends, and that a completed command leaves the open batch, are the model's choices
(log 30). -/
def Obligations.EngineCommandEvents : Prop :=
  (∀ (s : State) (c : Cmd) (code : Nat), ∀ d ∈ (finishCmd s c code).cmds,
    let isOver := d.st = .done ∧ d.code = code ∧ d.count = c.count
    let merged := ∃ m ∈ mergedInto s c, m.id = d.id
    (isMill c = false → d.id = c.id ∨ merged → isOver) ∧
    (isMill c = true → (d.id = c.id → ¬ merged → isOver) ∧
      (merged → d.group = 0 ∧ d.st = if c.st = .begun then .begun else .queued))) ∧
  ∀ (s : State) (id : Nat) (c : Cmd), cmdAt s id = some c →
    let Becomes := fun (i : Instr) (d : Cmd) => exec i s = .next (putCmd s d)
    let Ends := fun (i : Instr) (d : Cmd) (code : Nat) => exec i s = .next (finishCmd s d code)
    let h := cmdHam c
    let q := cmdQueue c
    let held := s.cmds.filter (fun d => d.st = .crier && d.group = c.group)
    (∀ i, (i = .engineCommandArrival id ∧ c.st = .net ∧ crierTakes c = false ∧ mayArrive s c = true) ∨
        (i = .crierWindowExpiry id ∧ c.st = .crier ∧ c.group = id ∧ held = [c] ∧ mayArrive s c = true) →
      (engineThere s c = false → Ends i { c with answer := BitVec.allOnes 64 } 6) ∧
      (engineThere s c = true → c.guardVal = some false → Ends i c 1) ∧
      (engineThere s c = true → c.guardVal ≠ some false →
        (c.op ≠ .engq → Becomes i { c with st := .queued }) ∧
        (c.op = .engq → epaType c.epa ≠ 4 → Becomes i { c with st := .queued, prog := engqCount s c }) ∧
        (c.op = .engq → epaType c.epa = 4 → Becomes i
          { c with st := .queued, blk := c.blk ++ tailsOf s c.w.m, prog := recordsLeft s c.w.m (tailsOf s c.w.m) }))) ∧
    (c.st = .net → crierTakes c = false → mayArrive s c = false →
      ∃ pages, exec (.engineCommandArrival id) s = .next { s with pages := pages }) ∧
    (c.st = .net → crierTakes c = true →
      (s.cmds.filter (fun d => d.st = .crier && identical c d) = [] →
        Becomes (.engineCommandArrival id) { c with st := .crier, group := c.id }) ∧
      ∀ d, s.cmds.filter (fun d => d.st = .crier && identical c d) = [d] →
        s.cmds.any (fun e => e.st = .crier && e.group = d.group && coreRefOf e.w = coreRefOf c.w) = false →
        Becomes (.engineCommandArrival id) { c with st := .crier, group := d.group }) ∧
    (c.st = .crier → c.group = id → held.all (mayArrive s) = true → engineThere s c = true → c.guardVal = none → c.op ≠ .engq →
      Goes (exec (.crierWindowExpiry id) s) (fun t => ∀ d ∈ held, ∀ e ∈ t.cmds, e.id = d.id →
        e.st = if d.id = id then .queued else .merged)) ∧
    (∀ l, c.st = .merged → cmdAt s c.group = some l → l.st = .queued → engineThere s c = true → c.guardVal = none → c.op ≠ .engq →
      Becomes (.crierWindowExpiry id) { c with st := .queued, group := 0 }) ∧
    (c.st = .done → c.op ≠ .mstat → c.op ≠ .accflip → c.ctx = none → c.frame = none → (c.code = 5 → c.answer = 0) → c.code ≠ 9 →
      Goes (exec (.commandCompletion id) s) (fun t => t.mem = s.mem ∧ t.cmds = s.cmds.filter (fun d => d.id != c.id) ∧
        (cmdStatus c).toNat % 256 = c.code % 256 ∧ (cmdStatus c).toNat / 2 ^ 32 = c.count % 2 ^ 32 ∧
        (∀ o ∈ (slotAt t c.w).outs, ∀ z, o.kind = .cmd c.id z → z = some (cmdStatus c)) ∧
        (coreOf t c.w).openB = (coreOf s c.w).openB.filter (fun i => i != c.id) ∧
        (hdrNotify c.blk = 0 → t.net = s.net) ∧
        (hdrNotify c.blk ≠ 0 → ∃ m, t.net = s.net ++ [m] ∧ m.epa = hdrNotify c.blk ∧
          (wordsOf 8 m.raw).getD 1 0 = cmdStatus c ∧
          (wordsOf 8 m.raw).getD 2 0 = if c.code = 5 then 0 else c.failVa))) ∧
    (c.st = .queued ∨ c.st = .begun → watchdogOff s c = false →
      (c.op ≠ .mstat → c.op ≠ .accflip → c.op ≠ .ckpt → c.op ≠ .engq → c.op ≠ .mloadw → (c.op = .mswap → c.prog = 0) →
        Ends (.engineWatchdogExpiry id) { c with buf := [] } 2) ∧
      (c.op = .mloadw → (∀ d ∈ mergedInto s c, d.id ≠ c.id) →
        let before := ∃ d ∈ earlierCmds s c, (d.op = .mswap ∨ d.op = .mloadw) ∧ d.st ≠ .done
        let isOver := fun t : State => ∀ d ∈ t.cmds, d.id = c.id → d.st = .done ∧ d.code = 2
        (¬ before → Goes (exec (.engineWatchdogExpiry id) s) (fun t => shadowOf (hamAt t h) q = Plane.none ∧
          (shadowOf (hamAt t h) q).invalid = true ∧ isOver t)) ∧
        (before → Goes (exec (.engineWatchdogExpiry id) s) (fun t => t.hams = s.hams ∧ isOver t ∧
          ∃ d ∈ t.cmds, d.id < c.id ∧ (d.op = .mswap ∨ d.op = .mloadw) ∧ d.prog = 1))) ∧
      (c.op = .engq → c.sub = 1 → epaType c.epa ≠ 4 → Ends (.engineWatchdogExpiry id)
        { c with count := c.prog - (onlyCmds (earlierCmds s c)).length, buf := [] } 2)) ∧
    (c.op = .engq → c.st = .queued → c.g = none → engineRuns s c = true →
      let left := if epaType c.epa = 4 then recordsLeft s c.w.m (c.blk.drop 1) else (onlyCmds (earlierCmds s c)).length
      (c.sub = 0 → Ends (.engqQueryRun id) { c with count := c.prog } 0) ∧
      (c.sub = 1 → left = 0 → Ends (.engqDrainComplete id) { c with count := c.prog } 0) ∧
      (c.sub = 1 → left ≠ 0 → exec (.engqDrainComplete id) s = .next s)) ∧
    (c.op = .mstat → c.st = .queued → (∀ d ∈ earlierCmds s c, d.st = .done) →
      Ends (.mstatQueryRun id) { c with answer := BitVec.ofNat 64 (mstatValue (hamAt s h) q c.sub (bf c.blk 0 3 0)) } 0)

/-- R247, R253-R257, R262-R266, R290, R391: what each command of the mill does when its turn comes: MLOADW fills the shadow plane,
MSWAP exchanges the planes of its queue, or leaves the shadow plane INVALID where the load behind it has been abandoned, MSTREAM adds the products of its rows, notes a product whose residue is wrong and a weight that
cannot be read, MZERO clears a tile and with `.auto` leaves AEXP to the first stream, ACCRD and ACCWR move entries, a flip
changes one bit of an entry; the scrubber marks the cores that wrote a tile with a bad residue; gating changes no value. A command
merged into one takes its step on its own queue (R247; how they go together is log 30). That a flip which waits for a product meets
the next one, and that a tile step powers every sub-array, are the model's choices (log 36). -/
def Obligations.MillEvents : Prop :=
  (∀ (s : State) (id : Nat) (c : Cmd), cmdAt s id = some c → millGo s c = true →
    (∀ d, c.op = .mswap → mergedInto s c = [d] → cmdAt s d.id = some d → d.id ≠ c.id → d.op = .mswap →
      cmdHam d = cmdHam c → cmdQueue d ≠ cmdQueue c → c.prog = 0 → d.prog = 0 →
      Goes (exec (.mswapRun id) s) (fun t => ∀ e, e = c ∨ e = d →
        activeOf (hamAt t (cmdHam c)) (cmdQueue e) = shadowOf (hamAt s (cmdHam c)) (cmdQueue e) ∧
        shadowOf (hamAt t (cmdHam c)) (cmdQueue e) = activeOf (hamAt s (cmdHam c)) (cmdQueue e) ∧
        ∀ k ∈ t.cmds, k.id = e.id → k.st = .done ∧ k.code = 0)) ∧
    (mergedInto s c = [] →
    let H := cmdHam c
    let q := cmdQueue c
    let b := c.blk
    let c1 := { c with st := .begun, suspended := false }
    let s1 := setHam s H (millServed (hamAt s H) q)
    let Now := fun (t : State) (st : CmdSt) (code count : Nat) =>
      ∀ d ∈ t.cmds, d.id = c.id → d.st = st ∧ (st = .done → d.code = code) ∧ d.count = count
    (c.op = .mloadw → isGrouped c.ty = false → c.prog = 0 →
      let ncol := bf b 3 47 41 + 1
      let nk := bf b 3 40 32 + 1
      ∀ s' ws, engReads s1 (cmdWho c1) ((List.range (nk * ncol)).map (fun i =>
          (b.getD 1 0 + BitVec.ofNat 64 (i / ncol * bf b 3 31 0 + elemAt c.ty (i % ncol)), tyBytes c.ty))) [] = .ok s' ws →
        ws.length = nk * ncol → (∀ e ∈ ws, e.2 = false) →
        Goes (exec (.mloadwRun id) s) (fun t => Now t .done 0 nk ∧ activeOf (hamAt t H) q = activeOf (hamAt s H) q ∧
          (shadowOf (hamAt t H) q).fmt = c.ty ∧ (shadowOf (hamAt t H) q).invalid = false ∧
          ∀ i, i < ws.length → tfind (shadowOf (hamAt t H) q).w (i / ncol * 128 + i % ncol) =
            some (BitVec.ofNat 16 (elemCode c.ty (i % ncol) (ws.getD i (0, false)).1)))) ∧
    (c.op = .mswap → Goes (exec (.mswapRun id) s) (fun t => Now t .done 0 1 ∧ t.mem = s.mem ∧
      activeOf (hamAt t H) q = shadowOf (hamAt s H) q ∧
      shadowOf (hamAt t H) q = if c.prog = 0 then activeOf (hamAt s H) q else Plane.none)) ∧
    (c.op = .mstream →
      let p := activeOf (hamAt s H) q
      let row := bf b 2 52 42 + c.count
      let n := bf b 2 41 32 + 1
      let m := min (n - c.count) (128 - row % 128)
      let r := streamRows s1 c1 c.count m
      let flip := (hamAt s H).prod
      ∀ order, (p.invalid = true ∨ pairOk p.fmt c.ty = false →
          exec (.mstreamTileStep id order) s = .next (finishCmd s1 c1 5)) ∧
        (p.invalid = false → pairOk p.fmt c.ty = true → r.held = false → r.stop = none → r.rows.length = m →
          awaitsAuto (hamAt s H) (row / 128) = false →
          Goes (exec (.mstreamTileStep id order) s) (fun t =>
            (hamAt t H).acc = (addRows (hamAt s1 H) p row r.rows order).1.acc ∧
            (0 < m → (hamAt t H).prod = none ∧
              (flip = none → (coreOf t c.w).mflg.res = (coreOf s c.w).mflg.res) ∧
              (∀ k j bit, flip = some (k, j, bit) → (coreOf t c.w).mflg.res = ((coreOf s c.w).mflg.res ||
                (flipProduct flip j (products p (r.rows.headD []) j)).2)) ∧
              ((∃ e ∈ p.flips, weightBad e.2 = true) → (coreOf t c.w).mflg.zrep = true)) ∧
            Now t (if c.count + m = n then .done else .begun) 0 (c.count + m)))) ∧
    (c.op = .mzero →
      let left := (List.range 16).filter (fun t => (bf b 1 15 0).testBit t && decide (c.prog ≤ t))
      ∀ k r, left = k :: r → Goes (exec (.mzeroTileStep id) s) (fun t => t.mem = s.mem ∧
        Now t (if r = [] then .done else .begun) 0 (c.count + 1) ∧
        (∀ i, tget (hamAt t H).acc AccEntry.reset i =
          if i / (128 * 128) = k then AccEntry.reset else tget (hamAt s H).acc AccEntry.reset i) ∧
        tget (hamAt t H).aexp 0 k = (if c.sub = 1 then tget (hamAt s H).aexp 0 k else BitVec.ofNat 10 (bf b 1 25 16)) ∧
        awaitsAuto (hamAt t H) k = decide (c.sub = 1) ∧ tget (hamAt t H).wrote 0 k = 0)) ∧
    (c.ty = .s64 → c.count = 0 → bf b 2 53 43 = 0 → bf b 3 14 8 = 0 → (b.getD 1 0).toNat % 8 = 0 →
      let row := bf b 2 42 32
      let col := bf b 3 6 0
      let e := accAt (hamAt s H) row col
      (c.op = .accrd → ∀ s', perfWrite s1 (cmdWho c1) (b.getD 1 0) 8 e.e.toNat = .ok s' () →
        Goes (exec (.accrdTileStep id) s) (fun t => t.mem = s'.mem ∧ t.hams = s1.hams ∧ Now t .done 0 1 ∧
          (coreOf t c.w).mflg.res = ((coreOf s c.w).mflg.res || accBad e))) ∧
      (c.op = .accwr → ∀ s' v, perfRead s1 (cmdWho c1) (b.getD 1 0) 8 = .ok s' v → BitVec.ofNat 64 v ≠ 0 →
        Goes (exec (.accwrTileStep id) s) (fun t => t.mem = s'.mem ∧ Now t .done 0 1 ∧
          accAt (hamAt t H) row col = ⟨BitVec.ofNat 64 v, resOf (BitVec.ofNat 64 v).toInt⟩ ∧
          (tget (hamAt t H).wrote 0 (row / 128)).getLsbD q = true))) ∧
    (c.op = .accflip →
      let r := (b.getD 0 0).toNat
      let j := (b.getD 1 0).toNat
      let x := { accAt (hamAt s H) r j with e := (accAt (hamAt s H) r j).e ^^^ (1#64 <<< c.sub) }
      x ≠ AccEntry.reset → Goes (exec (.accumulatorFlip id) s) (fun t => accAt (hamAt t H) r j = x ∧ t.mem = s.mem ∧
        Now t .done 0 c.count)))) ∧
  ∀ (s : State) (h : HamRef) (k : Nat), k < 16 →
    (dieRuns s h.m h.d = true → (∃ p ∈ (hamAt s h).acc, p.1 / (128 * 128) = k ∧ accBad p.2 = true) →
      Goes (exec (.scrubberRead h k) s) (fun t => t.hams = s.hams ∧ t.mem = s.mem ∧ ∀ c ∈ hamCores s h,
        (tget (hamAt s h).wrote 0 k).getLsbD (c.c % 8) = true → (coreAt t c).mflg.res = true)) ∧
    (dieRuns s h.m h.d = true → (∀ p ∈ (hamAt s h).acc, p.1 / (128 * 128) = k → accBad p.2 = false) →
      exec (.scrubberRead h k) s = .next s) ∧
    ((hamAt s h).millidle ≠ 0 → exec (.millSubarrayGating h k) s =
      .next (setHam s h { hamAt s h with gated := (hamAt s h).gated ||| (1#16 <<< k) }))

/-- R249, R268-R274, R327, R328, R377: what the commands of the copy, collective, checkpoint and migration engines do when they may
run. The layout of AREA and its check, PREV and the descriptor, and the bytes that AREA holds of a 16 MiB page are log 18; that an
ECODE, COLL, restore or MIGR is made in one step, a mismatch found before any read, is log 30: the model's choices. -/
def Obligations.CopyAndCheckpointEvents : Prop :=
  ∀ (s : State) (id n : Nat) (c : Cmd), cmdAt s id = some c → mayRun s c = true → engineThere s c = true →
    let Done := fun (t : State) (count : Nat) => ∀ d ∈ t.cmds, d.id = c.id → d.st = .done ∧ d.code = 0 ∧ d.count = count
    let m := c.w.m
    let l := cutLaunch c
    let j := copyJob c
    (∀ i, (c.op = .cpy ∧ i = .cpyRun id n) ∨ (c.op = .cpy2 ∧ i = .cpy2Run id n) ∨ (c.op = .cpyr ∧ i = .cpyrRun id n) →
      (c.st = .queued → (∀ p, j.peer = some p → modUp s p = true ∧ hasRoute s m p = true ∧
          (c.op = .cpy2 → (modAt s m).torus = true)) →
        ∀ s' bs z, copySource s (cmdWho c) j 0 (j.rows * j.len) [] = (some (s', bs, none), z) →
        exec i s = .next (putCmd s' { c with st := .begun, buf := bs, code := 0, failVa := 0,
                                             num := match j.peer with
                                               | some p => peerBytes s (cmdWho c) j p 0 (j.rows * j.len + 1)
                                               | none => c.num })) ∧
      (c.st = .queued → ∀ p, j.peer = some p → (c.op = .cpy2 → (modAt s m).torus = true) →
        modUp s p = false ∨ hasRoute s m p = false → exec i s = .next (finishCmd s c 8)) ∧
      (c.st = .begun → c.prog < c.buf.length →
        let e := copyEnd c j n
        let d := { c with buf := copyFresh s c j e }
        ∀ s', copyOut s d j c.prog (e - c.prog) (e - c.prog) = .ok s' →
        exec i s = .next (putCmd (copyClears s' d j c.prog e) { d with prog := e, count := copyCount c j e })) ∧
      (∀ p, c.st = .begun → c.prog < c.buf.length → j.peer = some p → inPeer s (cmdWho c) (dstOf j c.prog) p = false →
        Goes (exec i s) (fun t => t.mem = s.mem ∧ ∀ d ∈ t.cmds, d.id = c.id → d.st = .done ∧ d.count = copyCount c j c.prog ∧
          d.failVa = dstOf j c.prog ∧
          d.code = if c.prog < c.num ∧ (∃ l ∈ (modAt s m).borrow, l.revoked = true ∧ l.host = false ∧ l.lender = p) then 9 else 3)) ∧
      (c.st = .begun → c.buf.length ≤ c.prog → c.code = 0 →
        (j.cw = 0 → Goes (exec i s) (fun t => t.mem = s.mem ∧ Done t c.count)) ∧
        (∀ s', j.cw ≠ 0 → (∀ p, j.peer = some p → inPeer s (cmdWho c) j.cw p = true) → perfWrite s (cmdWho c) j.cw 8 j.cwval.toNat = .ok s' () →
          Goes (exec i s) (fun t => t.mem = (spread s' c j.cw 8 j.cwval.toNat).mem ∧ Done t c.count)))) ∧
    (c.op = .coll →
      let ms := collMembers s c
      let cs := ms.filterMap (·.2)
      let s1 := putCmd s { c with st := .begun }
      (ms.any (fun p => p.2.isNone) = true → exec (.collRun id []) s = .next s1) ∧
      (ms.any (fun p => p.2.isNone) = false → cs.any (fun d => !collMatch c d) = true →
        exec (.collRun id []) s = .next (collEnd s1 cs 7)) ∧
      (ms.any (fun p => p.2.isNone) = false → cs.any (fun d => !collMatch c d) = false → c.sub = 2 →
        ∀ s2 s3 data z z', collRead s1 [] cs [] [] = (some (s2, data, []), z) →
        collWrite s2 (cs.map (fun d => (d, data.flatten))) false = (some s3, z') → exec (.collRun id []) s = .next s3)) ∧
    (c.op = .ecode →
      let k := (bf c.blk 3 43 42 + 1) * (bf c.blk 3 41 39 + 1)
      ∀ s1 xs s' e, engReads s (cmdWho c) ((List.range k).map (fun i => (c.blk.getD 5 0 + BitVec.ofNat 64 i, 1))) [] =
        .ok s1 xs → xs.findIdx? (·.2) = none → ecodeBytes s1 s1 c (xs.map (·.1)) 0 (bf c.blk 3 31 0) = (.ok s', e) →
        Goes (exec (.ecodeRun id) s) (fun t => t.mem = s'.mem ∧ Done t (bf c.blk 3 31 0))) ∧
    (c.op = .ckpt → ∀ s' v, readDesc s c = .ok s' v false → ∀ x, cutTarget s c = some x →
      let ws := valWords 64 v
      (c.sub = 0 → c.st = .queued → (modAt s m).cuts.any (fun k => k.launch = l && !k.committed) = false →
        s.cmds.any (fun d => d.id != c.id && d.op = .ckpt && d.sub = 0 && d.st = .begun && cutLaunch d = l) = false →
        (descOk s' m (cutsOf s' l).getLast?.toList ws = true →
          exec (.ckptCutBoundary id) s = .next (putCmd s' { c with st := .begun })) ∧
        (descOk s' m (cutsOf s' l).getLast?.toList ws = false → exec (.ckptCutBoundary id) s = .next (finishCmd s' c 5))) ∧
      (c.sub = 0 → c.st = .begun → c.prog = 0 → x.phase = .held ∨ x.phase = .halted →
        let n := recordBytes s' l x.record
        n ≤ bytesAt ws 0x10 8 → ∀ a, areaCheck s' m (ws.getD 1 0) n = .ok a →
        (∀ p ∈ scopePages s' l x.record.asid (bytesAt ws 4 2), pageStuck s' p = false) →
        Goes (exec (.ckptCutBoundary id) s) (fun t => ∃ k ∈ (modAt t m).cuts, k.cmd = c.id ∧ k.launch = l ∧
          k.committed = false ∧ k.copies = [] ∧ k.recs = n ∧ k.bars = x.bars ∧ k.guards = launchGuards s' l ∧ ∀ p ∈ k.left, (pageAt t p).withheld = true)) ∧
      (c.sub = 1 → descOk s' m (cutsOf s' l) ws = true →
        ∀ k s2 n, ((cutsOf s' l).filter (fun k => k.desc = c.blk.getD 1 0)).getLast? = some k → restoreCut s' l x k = .done s2 n →
        Goes (exec (.ckptRestoreRun id) s) (fun t => Done t n ∧ t.mem = s2.mem ∧ ∃ z, launchAt t l = some z ∧
          z.slots = k.slots ∧ z.cores = k.cores ∧ z.hams = k.hams ∧ z.locals = k.locals ∧ z.bars = k.bars ∧
          z.guards = k.guards))) ∧
    (c.op = .ckpt → ∀ k, cutOf s c = some k →
      (∀ i p e a as ws, k.left[i]? = some p → (writerWaits s p = true ∨ k.left.any (writerWaits s) = false) →
        walkPage s p.m p.tag (p.pn * 65536) = .leaf e a →
        let ps := piecesOf s k a
        let spot := k.area + BitVec.ofNat 64 (k.recs + 65536 * k.copies.length)
        k.recs + 65536 * k.copies.length + 65536 * ps.length ≤ k.arealen →
        areaCheck s m spot (65536 * ps.length) = .ok as → piecesWords s ps e a = .ok ws →
        let s1 := devWords s (luWho m 0) spot (ws.map (BitVec.ofNat 64))
        Goes (exec (.ckptPageCopy id i) s) (fun t =>
          (∀ q ∈ ps, (pageAt t q).withheld = (modAt t m).cuts.any (fun d => !d.committed && d.left.contains q)) ∧
          t.mem = (setLeafBits { s1 with mem := memWrite s1.mem a 8 (memRead s1.mem a 8 - (if e.getLsbD 4 then bitD else 0)) }
            a bitA).mem ∧
          (∀ d ∈ t.cmds, d.id = c.id → d.count = c.count + 1) ∧
          cutOf t c = some { k with copies := k.copies ++ ps.mapIdx (fun i q => (q, spot + BitVec.ofNat 64 (65536 * i))),
                                    left := k.left.filter (fun q => !ps.contains q) })) ∧
      (k.left = [] → paritiesAck s k = false → exec (.ckptCommit id) s = .next s) ∧
      (k.left = [] → paritiesAck s k = true →
        ∀ s' s2, engWrites s (cmdWho c) ([(k.desc + 0x20, 8, k.gen), (k.desc + 0x28, 8, k.cstep.toNat)] ++
          (if k.commitVa = 0 then [] else [(k.commitVa, 8, Config.freePick s.clk % 2 ^ 64)])) 0 = .ok s' →
        commitRows s' k = some s2 → Goes (exec (.ckptCommit id) s) (fun t => t.mem = s'.mem ∧ Done t c.count ∧
          ∃ d ∈ (modAt t m).cuts, d = { k with committed := true }))) ∧
    (c.op = .migr → bf c.blk 2 31 0 = 1 →
      let va := (c.blk.getD 1 0).toNat
      exec (.migrRun id) s = match migratePage s ⟨m, if regionOf va = some 2 then globalTag else bf c.blk 2 47 32, va / 65536⟩
          (tierNum (bf c.blk 3 1 0)) with
        | .moved s' => .next (finishCmd s' { c with count := 1 } 0)
        | .skip => .next (finishCmd s { c with count := 0 } 0)
        | .fail k => .next (finishCmd s { c with count := 0, failVa := BitVec.ofNat 64 (va / 65536 * 65536) } (codeOf k))
        | .wait => .next s)

/-! ### Machine events: tokens, dies, leases, hosts, service -/

/-- R342-R347: the token protocol of a line. The home answers a read with one token and the data, or with its last token, which is
the owner token; another owner answers alike; a write takes every token; messages arrive in turn; attempts fail and become
persistent requests, which are served one at a time, each until it has made its access; an evicted line returns its tokens; a
message of an older GEN is discarded; a recovery brings every token of the page home, and poisons a line whose owner token was lost
when the home's copy was not the value. All these events but the recovery keep the sum of 1024 tokens and the one owner token. What a
stopped die holds waits (log 34), and a read counts as a failed attempt only where the hamlet cannot read (log 8). -/
def Obligations.TokensTravel : Prop :=
  (∀ (s : State) (l : LineRef) (h : HamRef),
    let ln := lineAt s l
    let k := keyOfHam h
    let gen := (pageAt s (pageOfLine l)).gen
    let Now := fun (i : Instr) (P : Line → Prop) => Goes (exec i s) (fun t => t.mem = s.mem ∧ P (lineAt t l))
    (mayToken s l h false = true → persistBlocks ln k = false → tget ln.held 0 k = 0 → ln.flight.any (·.owner) = false →
      (ln.owner = none → 2 ≤ ln.home → Now (.transientRequest l h false false) (fun y =>
        y.home = ln.home - 1 ∧ y.held = ln.held ∧ y.owner = none ∧
        y.flight = ln.flight ++ [⟨fromHome, some k, 1, false, true, gen⟩])) ∧
      (ln.owner = none → ln.home = 1 → Now (.transientRequest l h false false) (fun y =>
        y.home = 0 ∧ y.held = ln.held ∧ y.flight = ln.flight ++ [⟨fromHome, some k, 1, true, true, gen⟩])) ∧
      (∀ o, ln.owner = some o → ln.valid.contains o = true → o ≠ k → stoppedHam s o = false →
        (2 ≤ tget ln.held 0 o → Now (.transientRequest l h false false) (fun y =>
          y.home = ln.home ∧ tget y.held 0 o = tget ln.held 0 o - 1 ∧ y.owner = some o ∧
          y.flight = ln.flight ++ [⟨fromHam l.m o, some k, 1, false, true, gen⟩])) ∧
        (tget ln.held 0 o = 1 → Now (.transientRequest l h false false) (fun y =>
          y.home = ln.home ∧ y.owner = none ∧ y.flight = ln.flight ++ [⟨fromHam l.m o, some k, 1, true, true, gen⟩])))) ∧
    (mayToken s l h true = true → persistBlocks ln k = false → ln.flight.any (·.owner) = false →
      (ln.held = [] → ln.owner = none → 0 < ln.home → Now (.transientRequest l h true false) (fun y =>
        y.home = 0 ∧ y.mvalid = false ∧ y.flight = ln.flight ++ [⟨fromHome, some k, ln.home, true, true, gen⟩])) ∧
      (∀ o n, ln.held = [(o, n)] → o ≠ k → 0 < n → ln.home = 0 → ln.owner = some o → stoppedHam s o = false →
        Now (.transientRequest l h true false) (fun y => y.held = [] ∧ y.owner = none ∧ y.mvalid = false ∧
          y.flight = ln.flight ++ [⟨fromHam l.m o, some k, n, true, true, gen⟩]))) ∧
    (∀ w t r, ln.flight = t :: r → t.toHam = some k → (pageAt s (pageOfLine l)).frozen = false →
      Now (.transientRequest l h w true) (fun y => y.flight = r ∧
        (t.gen = gen → tget y.held 0 k = tget ln.held 0 k + t.n ∧ y.owner = if t.owner then some k else ln.owner) ∧
        (t.gen ≠ gen → y.home = ln.home ∧ y.held = ln.held ∧ y.owner = ln.owner ∧ y.mvalid = ln.mvalid))) ∧
    (mayToken s l h false = true → tget ln.held 0 k ≠ allTokens →
      Now (.tokenAttemptTimeout l h) (fun y => tget y.tries 0 (2 * k + 1) = tget ln.tries 0 (2 * k + 1) + 1 ∧
        tget y.tries 0 (2 * k) = tget ln.tries 0 (2 * k) + if hasTokens ln k false then 0 else 1)) ∧
    (∀ w, mayToken s l h w = true → 3 ≤ tget ln.tries 0 (2 * k + if w then 1 else 0) → (∀ q ∈ ln.persist, q.1 ≠ k) →
      Now (.persistentRequest l h w) (fun y => y.persist = ln.persist ++ [(k, w)])) ∧
    (∀ p w r, ln.persist = (p, w) :: r →
      (pageHeld s (pageOfLine l) w = false → Now (.persistentActivation l) (fun y => y.active = true ∧ y.home = 0 ∧
        y.served = false ∧ y.persist = ln.persist ∧ ∀ g ∈ y.flight, g.toHam = some p)) ∧
      (ln.active = true → ln.served = true ∨ wantsLine s l (hamOfKey p) = false →
        Now (.persistentDeactivation l) (fun y => y = { ln with active := false, served := false, persist := r })) ∧
      (ln.active = true → ln.served = false → wantsLine s l (hamOfKey p) = true →
        exec (.persistentDeactivation l) s = .next s)) ∧
    ((tfind s.lines (lineKey l)).isSome = true → tget ln.held 0 k ≠ 0 → (pageAt s (pageOfLine l)).frozen = false →
      stoppedHam s k = false → ln.flight = [] → tsorted none ln.held = true → Goes (exec (.lineEviction l h) s) (fun t =>
        let y := lineAt t l
        y.home = ln.home + tget ln.held 0 k ∧ tget y.held 0 k = 0 ∧ y.owner = (if ln.owner = some k then none else ln.owner) ∧
        y.mvalid = (ln.mvalid || ln.owner = some k))) ∧
    (TokensOk s l →
      let Keeps := fun i : Instr => Goes (exec i s) (fun t => TokensOk t l)
      (∀ w a, Keeps (.transientRequest l h w a)) ∧ Keeps (.tokenAttemptTimeout l h) ∧ (∀ w, Keeps (.persistentRequest l h w)) ∧
      Keeps (.persistentActivation l) ∧ Keeps (.persistentDeactivation l) ∧ Keeps (.lineEviction l h))) ∧
  (∀ (s : State) (p : PageRef), modUp s p.m = true → (pageAt s p).recovering ≠ [] →
    ∃ u, exec (.tokenRecoveryComplete p) s = .next (s.mods.foldl (fun t q => recover t q.1) u) ∧
      (pageAt u p).frozen = false ∧ (pageAt u p).recovering = [] ∧ u.launches = s.launches ∧
      modAt u p.m = { modAt s p.m with sp := { (modAt s p.m).sp with retried := [] } } ∧
      (∀ m, m ≠ p.m → modAt u m = modAt s m) ∧
      ∀ q ∈ s.lines, pageOfLine (lineOfKey q.1) = p → (lineAt u (lineOfKey q.1)).home = allTokens ∧
        (lineAt u (lineOfKey q.1)).held = [] ∧ (lineAt u (lineOfKey q.1)).persist = []) ∧
  ∀ (s : State) (l : LineRef) (x : Line) (o : Nat) (e : Word) (a : Nat), lineOfKey (lineKey l) = l →
    s.lines = [(lineKey l, x)] → modUp s l.m = true → (pageAt s (pageOfLine l)).recovering ≠ [] → x.owner = some o →
    lostKey l.m (pageAt s (pageOfLine l)).recovering o = true → walkPage s l.m l.tag (l.ln * 128) = .leaf e a →
    let Done := fun P : State → Prop => ∃ u, exec (.tokenRecoveryComplete (pageOfLine l)) s =
      .next (s.mods.foldl (fun t q => recover t q.1) u) ∧ u.mem = s.mem ∧ P u
    (x.mvalid = false → Done (fun u => poisonAt u (physFlat l.m (leafPa e (l.ln * 128))) = true)) ∧
    (x.mvalid = true → Done (fun u => u.poison = s.poison))

/-- R332, R335, R340, R346, R348, R349, R362, R385, R386, R388, R391: dies and links. What both service processors agree on is
declared: a failed compute die has its FAIL bit set, its links dead, its pages frozen, is no longer mapped, and its recovery is queued;
in its turn a spare takes it over or fails its test; in its turn a die is evacuated, with its tokens home but those of frozen pages,
and reset; a lost tier die or stack, in its turn, no longer holds its frames; a dead link or channel is noted and routed round, and a
die that no route reaches is declared failed where both agree; a hot die runs on, or is stopped; a bit flips. What counts as out of
reach is the model's choice (log 39), and so are the agreement that a takeover needs (log 34) and the form of a flip of a product
(log 36). -/
def Obligations.DiesFail : Prop :=
  (∀ (s : State) (m site k : Nat), modUp s m = true → site < 18 → (modAt s m).dmap.fail.getLsbD site = false →
    agreed (modAt s m) site = true → dieAtSite (modAt s m).dmap site = some k → s.launches = [] → s.cmds = [] →
    let Declared := fun t : State => (modAt t m).dmap.fail.getLsbD site = true ∧ dieMapped (modAt t m).dmap k = false ∧
      (∀ n ∈ siteNbrs site, (site, n) ∈ (modAt t m).deadLinks) ∧
      ∀ q ∈ s.lines, (lineOfKey q.1).m = m → q.2.hint.contains k = true →
        (pageAt s (pageOfLine (lineOfKey q.1))).recovering = [] → (pageAt t (pageOfLine (lineOfKey q.1))).frozen = true
    (∃ u, exec (.dieFailureDeclared m site) s = .next (recover u m) ∧ Declared u ∧
      (modAt u m).sp.work = queueFailure (modAt s m).sp.work k) ∧
    ((modAt s m).sp.work = [] → Goes (exec (.dieFailureDeclared m site) s) Declared)) ∧
  (∀ (s : State) (m die site : Nat),
    let d := (modAt s m).dmap
    modUp s m = true → die < 16 → dieMapped d die = false → spareSite d site = true → agreedDie (modAt s m) die = true →
    (takeoverFree d = true → atHead (modAt s m) ⟨die, false, 1⟩ = false →
      ∀ ok, exec (.spareTakeover m die site ok) s = .next s) ∧
    (takeoverFree d = true → atHead (modAt s m) ⟨die, false, 1⟩ = true →
      Goes (exec (.spareTakeover m die site false) s) (fun t =>
        (modAt t m).dmap = { d with fail := d.fail ||| (1#18 <<< site) })) ∧
    (d.xv0 = false → atHead (modAt s m) ⟨die, false, 1⟩ = true → s.launches = [] →
      Goes (exec (.spareTakeover m die site true) s) (fun t =>
        (modAt t m).dmap = { d with xs0 := BitVec.ofNat 5 site, xl0 := BitVec.ofNat 4 die, xv0 := true } ∧
        ∀ w : SlotRef, w.m = m → w.d = die → w.c < 512 → w.k < 4 → slotAt t w = Slot.reset)) ∧
    (d.xv0 = true → d.xv1 = false → atHead (modAt s m) ⟨die, false, 1⟩ = true →
      Goes (exec (.spareTakeover m die site true) s) (fun t =>
        (modAt t m).dmap = { d with xs1 := BitVec.ofNat 5 site, xl1 := BitVec.ofNat 4 die, xv1 := true }))) ∧
  (∀ (s : State) (m die : Nat),
    let x := modAt s m
    let d := dieSt x die
    modUp s m = true → die < 16 → dieMapped x.dmap die = true →
    (d.stopped = false → agreed x (128 + siteOf x.dmap die) = true →
      ((∀ r ∈ x.sp.work, r.die ≠ die) → x.sp.work ≠ [] → exec (.dieEvacuation m die) s =
        .next (setWork s m (x.sp.work ++ [⟨die, true, 0⟩]))) ∧
      (x.sp.work = [] ∨ atHead x ⟨die, true, 0⟩ = true →
        (d.evacuating = false → Goes (exec (.dieEvacuation m die) s) (fun t => (dieSt (modAt t m) die).evacuating = true)) ∧
        (d.evacuating = true →
          let Evacuates := fun P : State → Prop => Goes (exec (.dieEvacuation m die) s) P
          ((∀ q ∈ s.lines, ∀ h ∈ q.2.held, h.1 / 64 ≠ m * 16 + die) →
            Evacuates (fun t => (dieSt (modAt t m) die).evacuated = true)) ∧
          ∀ l y h n, lineOfKey (lineKey l) = l → s.lines = [(lineKey l, y)] → y.held = [(h, n)] → h / 64 = m * 16 + die →
            y.flight = [] → n ≠ 0 →
            ((pageAt s (pageOfLine l)).frozen = false → Evacuates (fun t =>
              (dieSt (modAt t m) die).evacuated = true ∧ (lineAt t l).home = y.home + n)) ∧
            ((pageAt s (pageOfLine l)).frozen = true → Evacuates (fun t =>
              (dieSt (modAt t m) die).evacuated = d.evacuated ∧ t.lines = s.lines))))) ∧
    (d.evacuating = true → d.evacuated = false → agreedDie x die = true → s.launches = [] → s.cmds = [] →
      Goes (exec (.evacuationTimeout m die) s) (fun t => dieMapped (modAt t m).dmap die = false)) ∧
    (d.evacuated = true → agreed x (128 + siteOf x.dmap die) = true → atHead x ⟨die, true, 0⟩ = true → s.launches = [] →
      s.cmds = [] → tsorted none x.dies = true →
      Goes (exec (.controlledReset m die) s) (fun t => dieSt (modAt t m) die = ⟨false, false, false, false⟩ ∧
        ∀ w : SlotRef, w.m = m → w.d = die → w.c < 512 → w.k < 4 → slotAt t w = Slot.reset))) ∧
  (∀ (s : State) (m n : Nat), modUp s m = true → s.cmds = [] →
    let x := modAt s m
    let Lost := fun (i : Instr) (code : Nat) (P : Mod → Prop) => lossDue x code = false →
      (x.sp.work = [] → Goes (exec i s) (fun t => P (modAt t m))) ∧
      ∃ u, exec i s = .next (recover u m) ∧ (modAt u m).sp.work = x.sp.work ++ [⟨code, false, 0⟩] ∧
        (modAt u m).lostTier = x.lostTier ∧ (modAt u m).lostStacks = x.lostStacks
    (16 ≤ n → n < 30 → x.lostTier.contains n = false → agreed x (32 + n) = true →
      Lost (.tierDieLoss m n) (32 + n) (fun y => y.lostTier.contains n = true ∧
        ∀ pa, dieOfPa pa = some n → lostPa y pa = true)) ∧
    (n < 24 → x.lostStacks.contains n = false → Lost (.hbm4eStackLoss m n) (64 + n) (fun y =>
      y.lostStacks.contains n = true ∧ ∀ pa, pa / 2 ^ 36 = n → lostPa y pa = true))) ∧
  (∀ (s : State) (m a b : Nat),
    let x := modAt s m
    modUp s m = true →
    (a < 18 → (siteNbrs a).contains b = true → x.deadLinks.contains (a, b) = false → x.deadLinks.contains (b, a) = false →
      exec (.linkDeadDeclared m a b) s = .next (setMod s m { x with deadLinks := x.deadLinks ++ [(a, b)] })) ∧
    (cutOff x = [] → exec (.routeTableRewrite m) s = .next (stepDone (setMod s m { x with routed := x.deadLinks }) m)) ∧
    (∀ site, cutOff x = [site] → site < 18 →
      (agreed x site = true → s.launches = [] → s.cmds = [] →
        Goes (exec (.routeTableRewrite m) s) (fun t => (modAt t m).dmap.fail.getLsbD site = true)) ∧
      (agreed x site = false →
        exec (.routeTableRewrite m) s = .next (stepDone (setMod s m { x with routed := x.deadLinks }) m))) ∧
    (a < 32 → a ≠ m → b < 48 → x.deadChans.contains (a, a * 48 + b) = false →
      exec (.fabricChannelDead m a b) s = .next (setMod s m { x with deadChans := x.deadChans ++ [(a, a * 48 + b)] })) ∧
    (dieThere x a = true →
      Goes (exec (.thermalThrottle m a) s) (fun t => (dieSt (modAt t m) a).throttled = true ∧
        t = { s with mods := t.mods }) ∧
      Goes (exec (.throttleRelease m a) s) (fun t => (dieSt (modAt t m) a).throttled = false ∧
        t = { s with mods := t.mods }) ∧
      Goes (exec (.thermalStop m a) s) (fun t => dieRuns t m a = false ∧ t = { s with mods := t.mods }))) ∧
  ∀ (s : State) (bit : Nat), bit < 64 →
    (∀ c word, corePresent (modAt s c.m) c.d c.c = true → word < 2 ^ 17 → eccAt s (localWord c word) = Ecc.reset →
      Goes (exec (.bitFlip (.localWord c word bit)) s) (fun t =>
        eccAt t (localWord c word) = { Ecc.reset with flips := 1#64 <<< bit })) ∧
    (∀ m word, (modAt s m).present = true → (tierOf (modAt s m) (8 * word)).isSome = true →
      eccAt s (physFlat m 0 / 8 + word) = Ecc.reset → Goes (exec (.bitFlip (.memWord m word bit)) s) (fun t =>
        eccAt t (physFlat m 0 / 8 + word) = { Ecc.reset with flips := 1#64 <<< bit })) ∧
    (∀ w, isLive (slotAt s w) = true →
      exec (.bitFlip (.result w bit)) s = .next (setSlot s w { slotAt s w with flip := some bit })) ∧
    (∀ h row col, row < 2048 → col < 128 →
      let a := accAt (hamAt s h) row col
      exec (.bitFlip (.accEntry h row col bit)) s =
        .next (setHam s h (accPut (hamAt s h) row col { a with e := a.e ^^^ (1#64 <<< bit) }))) ∧
    ∀ h k j, j < 128 →
      (∀ i, i < 16 →
        let p := tget (hamAt s h).planes Plane.reset i
        let n := k * 128 + j
        k < planeK p.fmt → bit < tyBits p.fmt → exec (.bitFlip (.planeWeight h i k j bit)) s =
          .next (putPlane s h i { p with flips := tput p.flips n (tget p.flips 0 n ^^^ (1#16 <<< bit)) })) ∧
      (k < 512 → bit < 32 → exec (.bitFlip (.product h k j bit)) s =
        .next (setHam s h { hamAt s h with prod := some (k, j, bit) }))

/-- R235, R369-R373, R376, R378, R385: leases. A legal entry is granted and reaches its borrower, with its region zero when it is
lent; an illegal one, or one for a place where an active lease stands, changes nothing; a renewal moves EXPIRY later and only in
time; at EXPIRY a LEND lease begins its reclaim and a WINDOW lease is revoked, its pins dropped; once it reclaims, neither has any
effect; a reclaim may begin earlier, and makes the borrower's pages local; a release empties the entry, the deadline revokes it. A
lost block of a current row is rebuilt in its turn where the row's other blocks allow it, and one of a stale row is not; the field of
the code has inverses. That a revoked entry's index is granted again, that a revocation drops pins, and what becomes of a block that was
never committed, are the model's choice (log 33), and so is the frame that a switched page takes (log 17). -/
def Obligations.LeasesRun : Prop :=
  (∀ (s : State) (m i : Nat) (e : LeaseArg),
    (leaseLegal s m e = false ∨ entryUsed (modAt s m) i e.host = true → exec (.leaseGrant m i e) s = .next s) ∧
    (modUp s m = true → i < 256 → entryUsed (modAt s m) i e.host = false → leaseLegal s m e = true →
      let l : Lease := ⟨i, e.id, m, if e.host then m else e.borrower, e.window, false, false, e.size, e.pbase, e.lva, e.expiry, 0,
        e.host, true, []⟩
      let others := fun ls : List Lease => ls.filter (fun k => !(k.ix = i && k.lender = m && k.host = e.host && k.revoked))
      (e.host = true → exec (.leaseGrant m i e) s = .next (setMod s m { modAt s m with
        borrow := others (modAt s m).borrow ++ [l] })) ∧
      (e.host = false → Goes (exec (.leaseGrant m i e) s) (fun t => leaseAt (modAt t m).lend e.id = some l ∧
        (modAt t e.borrower).borrow = others (modAt s e.borrower).borrow ++ [l] ∧
        ∀ a, physFlat m e.pbase ≤ a → a < physFlat m e.pbase + e.size * 2 ^ 30 → memRead t.mem a 1 = 0)))) ∧
  (∀ (s : State) (m id : Nat) (l : Lease), leaseAt (modAt s m).lend id = some l → l.lender = m → l.host = false →
    modUp s m = true →
    let Has := fun (i : Instr) (o : Option Lease) => Goes (exec i s) (fun t => leaseAt (modAt t m).lend id = o)
    let b := l.borrower
    (∀ x : Word, l.reclaiming = false → l.expiry < x → s.tick < l.expiry →
      Has (.leaseRenewal m id x) (some { l with expiry := x })) ∧
    (l.window = false → l.reclaiming = false → l.expiry ≤ s.tick →
      Has (.leaseExpiry m id) (some { l with reclaiming := true, t0 := s.tick.toNat })) ∧
    (l.window = false → l.reclaiming = true → exec (.leaseExpiry m id) s = .next s ∧
      ∀ x, exec (.leaseRenewal m id x) s = .next s) ∧
    (l.window = true → (l.expiry ≤ s.tick → Has (.leaseExpiry m id) none) ∧ Has (.windowRevocation m id) none ∧
      Goes (exec (.windowRevocation m id) s) (fun t => ∀ c ∈ t.cores, ∀ p ∈ c.2.pins, ∀ q ∈ leasePages s b l, p.page ≠ q.1)) ∧
    (l.window = false → l.reclaiming = false → modUp s b = true → ∀ fs,
      Has (.reclaim m id fs) (some { l with reclaiming := true, t0 := s.tick.toNat })) ∧
    (l.window = false → l.reclaiming = true →
      (modUp s b = true → (∀ p e a f fs, MemOk s → s.lines = [] → leavesOf (leasePages s b l) = [(p, e, a)] →
        copyWaits s l p e = false →
        chooseFrame s p (BitVec.ofNat 64 (memRead s.mem a 8)) fs false = some f → Goes (exec (.reclaim m id fs) s) (fun t =>
          memRead t.mem a 8 = (switchedLeaf (BitVec.ofNat 64 (memRead s.mem a 8)) f).toNat)) ∧
        (leasePages s b l = [] → s.tick.toNat ≤ l.t0 + reclaimTime l → Has (.release m id) none)) ∧
      (∀ fs, l.t0 + reclaimTime l ≤ s.tick.toNat → Has (.reclaimDeadline m id fs) none))) ∧
  (∀ (s : State) (set row t : Nat), set < 4 → nubNat ((rowAt s set row).lost ++ (rowAt s set row).gone) = [t] →
    let m := 4 * t + set
    let Rebuilt := Goes (exec (.rowRebuild set row) s) (fun u => (rowAt u set row).lost = [] ∧ (rowAt u set row).gone = [])
    (rowCurrent s set row = false ∨ modUp s m = false ∨ (modAt s m).sp.work ≠ [] → exec (.rowRebuild set row) s = .next s) ∧
    (rowCurrent s set row = true → modUp s m = true → (modAt s m).sp.work = [] →
      (parTray row 0 ≠ t → parTray row 1 ≠ t →
        (pageInRow s m row = none → Rebuilt) ∧
        (∀ p va bs e a f, pageInRow s m row = some p → committedVa s p false = some va → committedBlock s p = some bs →
          (memberBlock s (m % 4) row (m / 4)).isSome = true → (pageAt s p).rebuild = true → MemOk s → s.lines = [] →
          walkPage s m p.tag (p.pn * 65536) = .leaf e a → leafPs e = 0 → spareFrame s m e = some f →
          Rebuilt ∧ Goes (exec (.rowRebuild set row) s) (fun u => (pageAt u p).rebuild = false ∧
            memRead u.mem a 8 = (leafWithFrame e f).toNat))) ∧
      (∀ p ds, p < 2 → parTray row p = t → (p = 1 → parTray row 0 ≠ t) → farUp s m = true → ds.length = 6 →
        (dataTrays row).map (fun u => (u, rowBlock s set row u)) = ds.map (fun d => (d.1, some d.2)) →
        Goes (exec (.rowRebuild set row) s) (fun u => (rowAt u set row).lost = [] ∧ (rowAt u set row).gone = [] ∧
          (if p = 0 then (rowAt u set row).par0 else (rowAt u set row).par1) = blockMem (rowSum row p ds))))) ∧
  ∀ i j d : Nat, i < 6 → j < 6 → d < 256 →
    solveOne (parCoef 1 i) (gfMul (parCoef 1 i) d 8) = d ∧
    (i ≠ j → solveOne (Nat.xor (parCoef 1 i) (parCoef 1 j)) (gfMul (Nat.xor (parCoef 1 i) (parCoef 1 j)) d 8) = d)

/-- R4, R219, R379-R382, R384, R386, R387, R389, R390: hosts and the service complex. A host request is answered: with the data or
the old value of an access that performs, with a NAK where the window or the kind of request does not allow it, with nothing while
the port is off; one that waits for a page holds up the later ones of its queue pair; window entries are checked; diagnoses and
votes are noted; three votes of five fence a module; boot takes its steps in order, and one that gives up leaves the module failed; an
alarm erases the keys; a module reset leaves its slots as after reset. That memory whose keys are gone reads 0 is the model's choice
(log 3), and so are that a module reset keeps memory (log 37), that requests wait behind one of their pair that waits (log 33), and
how a boot starts again and takes an alternate path (log 34). -/
def Obligations.HostsAndService : Prop :=
  (∀ (s : State) (r : HostReq),
    let Says := fun (i : Instr) (t : State) (a : HostAns) => exec i s = .next (answerHost t r a)
    let alone := s.hostHeld.any (fun q => samePair q.1 r) = false
    (portUp s r = false → ∀ k, Says (.unsupportedHostRequest r k) s .timeout) ∧
    (portUp s r = false → alone → ∀ data, Says (.rdmaWrite r data) s .timeout ∧ Says (.rdmaRead r) s .timeout) ∧
    (portUp s r = true → ∀ k, Says (.unsupportedHostRequest r k) s .nakInvalid) ∧
    (portUp s r = true → alone →
      (∀ data, hostAllowed s r data.length 1 = false → Says (.rdmaWrite r data) s .nakAccess) ∧
      (∀ data t, hostAllowed s r data.length 1 = true →
        engWrite s (hostWho r) r.va data.length (ofBytes data) data.length = .ok t → Says (.rdmaWrite r data) t .done) ∧
      (∀ data t, hostAllowed s r data.length 1 = true →
        engWrite s (hostWho r) r.va data.length (ofBytes data) data.length = .hold t → exec (.rdmaWrite r data) s =
          .next { s with pages := t.pages, hostHeld := s.hostHeld ++ [(r, .write data)] }) ∧
      (∀ x t, hostAllowed s r r.len 0 = true → engRead s (hostWho r) r.va r.len r.len = .ok t x false →
        Says (.rdmaRead r) t (.data (bytesOf r.len x))) ∧
      (r.va.toNat % 8 ≠ 0 → ∀ a b, Says (.compareSwap r a b) s .nakInvalid ∧ Says (.fetchAdd r a) s .nakInvalid) ∧
      (r.va.toNat % 8 = 0 → hostAllowed s r 8 2 = true → ∀ (a b : Word) (x : Nat) (t : State),
        (perfAtomic s (hostWho r) r.va 8 (fun old => if old = a.toNat then some b.toNat else none) true = .ok t x →
          Says (.compareSwap r a b) t (.value (BitVec.ofNat 64 x))) ∧
        (perfAtomic s (hostWho r) r.va 8 (fun old => some ((old + a.toNat) % 2 ^ 64)) true = .ok t x →
          Says (.fetchAdd r a) t (.value (BitVec.ofNat 64 x))))) ∧
    ∀ q p, s.hostHeld = [q] → samePair q.1 r = true → hostRun s q.1 q.2 = .wait { s with pages := p } →
      let Keeps := fun (i : Instr) (op : HostOp) => exec i s = .next { s with pages := p, hostHeld := [q, (r, op)] }
      (∀ data, Keeps (.rdmaWrite r data) (.write data)) ∧ Keeps (.rdmaRead r) .read ∧
      (∀ a b, Keeps (.compareSwap r a b) (.swap a b)) ∧ ∀ a, Keeps (.fetchAdd r a) (.add a)) ∧
  (∀ (s : State) (m i : Nat) (e : HostWinArg), modUp s m = true →
    (e.base.toNat % 65536 ≠ 0 → exec (.hostWindowWrite m i e) s = .next s) ∧
    (i < 64 → e.base.toNat % 65536 = 0 → e.len % 65536 = 0 → regionOf e.base.toNat = some 2 →
      e.base.toNat + e.len ≤ 0x100000000000000 → e.rights.toNat < 8 → e.ports.toNat < 16 →
      Goes (exec (.hostWindowWrite m i e) s) (fun t =>
        tfind (modAt t m).wins i = some ⟨e.base.toNat, e.len, e.rkey, e.rights, e.ports⟩ ∧ t.mem = s.mem))) ∧
  (∀ (s : State) (m n : Nat), modUp s m = true →
    Goes (exec (.hostConnectionFailure m n) s) (fun t => ∀ l ∈ (modAt t m).borrow,
      l.id = n → l.host = true → l.revoked = false → l.connected = false) ∧
    (∀ a b, Goes (exec (.diagnosisRepeat m n a b) s) (fun t =>
      agreed (modAt t m) n = (((modAt s m).sp.aliveA || (modAt s m).sp.aliveB) && a && b))) ∧
    (∀ isB, Goes (exec (.serviceProcessorFailure m isB) s) (fun t =>
      (if isB then (modAt t m).sp.aliveB else (modAt t m).sp.aliveA) = false ∧
      (if isB then (modAt t m).sp.diagB else (modAt t m).sp.diagA) = [])) ∧
    (n ≠ m → n < 32 →
      (modUp s n = true → (modAt s n).fenced = false →
        Goes (exec (.ackSilenceTimeout n m) s) (fun t => (modAt t m).sp.votes.contains n = true)) ∧
      ((modAt s m).sp.votes.contains n = false → Goes (exec (.voterTimeout n m) s) (fun t =>
        (modAt t m).sp.silent.contains n = true))) ∧
    (let votes := (votersOf s m).filter (fun v => (modAt s m).sp.votes.contains v)
     (3 ≤ votes.length → Goes (exec (.moduleFailureDeclared m) s) (fun t => (modAt t m).failed = true ∧
       (modAt t m).fenced = true ∧ (modAt t m).ports = 0)) ∧
     (votes.length < 3 → exec (.moduleFailureDeclared m) s = .next s)) ∧
    exec (.capabilityFault m .lease) s = .next s ∧ exec (.capabilityFault m .hostWindow) s = .next s ∧
    (∀ c g r, s.net = g :: r → entryKind g.raw = 2 → coreRefOf (msgSlot g) = c → g.dest = m →
      exec (.capabilityFault m (.record c)) s = .next { s with net := r }) ∧
    (∀ byB, Goes (exec (.capabilityFault m (.recovery byB)) s) (fun t =>
      if (modAt s m).sp.retried.contains (!byB) then (modAt t m).sp.reported = true ∧ (modAt t m).sp.retried = []
      else (modAt t m).sp.reported = (modAt s m).sp.reported ∧ (modAt t m).sp.retried.contains byB = true))) ∧
  ∀ (s : State) (m : Nat),
    (∀ step, m < 32 → (modAt s m).sp.bootAt = step → 1 ≤ step → step ≤ 10 →
      let p := (modAt s m).sp
      let alt := bootAlt (modAt s m) step
      (p.boot.head? ≠ some (.started step) → ∀ ok, Goes (exec (.bootStep m step ok) s) (fun t =>
        if alt = true ∧ (step = 5 ∨ step = 6) then (modAt t m).sp.bootAt = step + 1 ∧ (modAt t m).sp.boot = p.boot
        else (modAt t m).sp.bootAt = step ∧ (modAt t m).sp.boot = .started step :: p.boot)) ∧
      (p.boot.head? = some (.started step) →
        Goes (exec (.bootStep m step true) s) (fun t => (modAt t m).sp.bootAt = step + 1 ∧
          (modAt t m).sp.boot = .done step :: p.boot ∧ (step = 10 → modUp t m = true ∧ (modAt t m).fenced = false) ∧
          (step = 9 → (modAt t m).sp.keys = true)) ∧
        (alt = false → Goes (exec (.bootStep m step false) s) (fun t => (modAt t m).sp.bootAt = 1 ∧ (modAt t m).sp.boot = [] ∧
          bootAlt (modAt t m) step = true)) ∧
        (alt = true → Goes (exec (.bootStep m step false) s) (fun t => (modAt t m).sp.boot = .failed step :: p.boot ∧
          (modAt t m).sp.bootAt = (if step = 1 ∨ step = 9 ∨ step = 10 then 12 else step + 1) ∧
          (step = 1 ∨ step = 9 ∨ step = 10 → modUp t m = false))))) ∧
    ((modAt s m).present = true →
      Goes (exec (.tamperAlarm m) s) (fun t => (modAt t m).fenced = true ∧ (modAt t m).ports = 0 ∧
        (modAt t m).sp.keys = false ∧ ∀ pa, pa < 0x200000000000 → memRead t.mem (physFlat m pa) 1 = 0) ∧
      Goes (exec (.moduleReset m) s) (fun t => t.mem = s.mem ∧ (modAt t m).torus = false ∧
        ∀ w : SlotRef, w.m = m → w.d < 16 → w.c < 512 → w.k < 4 → slotAt t w = Slot.reset))

/-! ### Issue, reset, encoding, memory -/

/-- R13, R29, R38, R157, R194: time passes, then the agenda's next move runs. An event runs its meaning, after which each slot that
waits tries again; the issue of a core runs the instruction that the cell at the PC of its next slot decodes to, in the state that
the fetch left, with that slot the current and the last one; a held failure is reported first, a failed fetch is a precise fault. -/
def Obligations.StepRunsDecodedInstruction : Prop :=
  ∀ (s : State) (r : List Move) (i : Instr),
    let s1 := { passTime s with agenda := r }
    (s.agenda = .ev i :: r → step s = exec i (tryAgain s1)) ∧
    ∀ (c : CoreRef), s.agenda = .issue c :: r →
      (pickSlot s1 c = none → step s = .next s1) ∧
      ∀ w, pickSlot s1 c = some w →
        let s2 := atFetch s1 w
        let pc := (slotAt s2 w).pc
        ((slotAt s2 w).held ≠ [] → (slotAt s2 w).trap.inh = false → step s = .next (reportHeld s2 w)) ∧
        ((slotAt s2 w).held = [] ∨ (slotAt s2 w).trap.inh = true →
          (fetchAt s2 w pc = .ok i → step s = exec i (fetched s2 w pc)) ∧
          ∀ e v, fetchAt s2 w pc = .error (e, v) → step s = .next (raisePrecise (fetched s2 w pc) w e v))

/-- A step never faults and never refuses: whatever the state, the machine goes on. -/
def Obligations.StepAlwaysGoesOn : Prop := ∀ s : State, StepsOn s

/-- R19, R21, R22, R30: an instruction whose guard is false only moves the PC on, and parks for the switch marker. One whose guard
is true and which reads or writes a pending register is PENDING_ACCESS, which names one of them; a deferred one waits while 32
results are outstanding: so for every instruction that names a scalar or a vector register (predicates and masks are never pending).
Which register is named where several are pending is not stated (log 6). -/
def Obligations.GuardAndPendingChecks : Prop :=
  (∀ (s : State) (i : Instr) (w : CellWord), encode i = some w → canIssue (curSlot s) = true →
    guardHolds (curSlot s) (guardOf w) = false →
    exec i s = .next (setSlot s s.cur (retired (guardOf w) (curSlot s).pc (curSlot s)))) ∧
  ∀ (s : State) (g : Guard), canIssue (curSlot s) = true → guardHolds (curSlot s) g = true →
    let Names := fun (i : Instr) (us : List Use) => (∃ u ∈ us, usePend (curSlot s) u = true) →
      ∃ u ∈ us, usePend (curSlot s) u = true ∧ Faults s (exec i s) .pendingAccess (useVal u)
    let LoadWaits := fun (i : Instr) (us : List Use) (deferred : Bool) => Names i us ∧
      ((∀ u ∈ us, usePend (curSlot s) u = false) → deferred = true → 32 ≤ (curSlot s).outs.length → Stalls s (exec i s))
    let Waits := fun (i : Instr) (us : List Use) => LoadWaits i us true
    (∀ f : RForm,
      (∀ i ∈ ([.add, .sub, .mul, .mulh, .madd, .abs, .min, .max, .and, .or, .xor] : List (Guard → RForm → Instr)), Names (i g f) (usesR f)) ∧
      (∀ i ∈ ([.andn, .orn, .shl, .shr, .sar, .rot, .clz, .ctz, .popc, .brev, .bswap] : List (Guard → RForm → Instr)), Names (i g f) (usesR f)) ∧
      (∀ i ∈ ([.mov, .movi, .movhi, .ext, .bfx, .bfi, .lea, .fadd, .fsub, .fmul, .ffma] : List (Guard → RForm → Instr)), Names (i g f) (usesR f)) ∧
      (∀ i ∈ ([.fmin, .fmax, .fclass, .fcvt, .fcvti, .icvtf, .fsgn, .taskadd] : List (Guard → RForm → Instr)), Names (i g f) (usesR f)) ∧
      (∀ i ∈ ([.div, .rem, .fdiv, .fsqrt, .frcp, .frsq, .fexp2, .flog2] : List (Guard → RForm → Instr)), Waits (i g f) (usesR f)) ∧
      (∀ i ∈ ([.sel, .waita, .spawn] : List (Guard → RForm → Instr)), Names (i g f) [.s f.a, .s f.b, .ds f.d]) ∧
      (∀ i ∈ ([.cmp, .test, .fcmp] : List (Guard → RForm → Instr)), Names (i g f) [.s f.a, .s f.b, .dp f.d]) ∧
      Names (.addc g f) [.s f.a, .s f.b, .ds f.d, .dp f.c] ∧ Names (.pset g f) [.s f.a, .dp f.d] ∧
      (∀ i ∈ ([.pget, .bara, .peek, .dlog] : List (Guard → RForm → Instr)), Names (i g f) [.ds f.d]) ∧
      (∀ i ∈ ([.bri, .vote, .wake, .waitb, .cdopen, .rbegin] : List (Guard → RForm → Instr)), Names (i g f) [.s f.a]) ∧
      Names (.calli g f) [.s f.a, .ds 63] ∧ Names (.ret g f) [.s 63] ∧ Names (.barw g f) [.s f.b] ∧
      Names (.domset g f) [.s f.a, .ds f.d] ∧ Names (.walk g f) [.s f.a, .ds f.d] ∧ Waits (.recv g f) [.dv f.d] ∧
      Waits (.mstat g f) [.ds f.d] ∧ Names (.csrrd g f) [.ds f.d, .s f.b] ∧
      (∀ i ∈ ([.csrwr, .csrset, .csrclr] : List (Guard → RForm → Instr)), Names (i g f) [.ds f.d, .s f.a]) ∧
      Names (.resume g f) [.s f.a, .s f.b] ∧ Names (.cdout g f) [.s f.a, .s f.b] ∧ Names (.cdpres g f) [.s f.a, .s f.b, .s f.c]) ∧
    (∀ f : BForm,
      Names (.call g f) [.ds 63] ∧ Names (.loop g f) [.ds f.a]) ∧
    (∀ f : VForm,
      (∀ i ∈ ([.vadd, .vsub, .vmul, .vmulh, .vmin, .vmax, .vsgn, .vadds, .vsubs, .vand, .vor] : List (Guard → VForm → Instr)), Names (i g f) (usesV2 f)) ∧
      (∀ i ∈ ([.vxor, .vandn, .vshl, .vshr, .vsar, .vsel, .vperm, .vpack, .vdot4, .vtacc] : List (Guard → VForm → Instr)), Names (i g f) (usesV2 f)) ∧
      Names (.vfma g f) (usesV3 f) ∧ Waits (.vdiv g f) (usesV2 f) ∧
      (∀ i ∈ ([.vsqrt, .vrcp, .vrsq, .vexp2, .vlog2] : List (Guard → VForm → Instr)), Waits (i g f) (usesV1 f)) ∧
      (∀ i ∈ ([.vabs, .vpopc, .vscan, .vcvt, .vwiden, .vunpack3, .vexpand24] : List (Guard → VForm → Instr)), Names (i g f) (usesV1 f)) ∧
      Names (.vcmp g f) (.dm f.d :: .v f.a :: (if f.i then [] else [.v f.b])) ∧ Names (.vbcast g f) [.s f.a, .dv f.d] ∧
      Names (.vext g f) [.v f.a, .s f.b, .ds f.d] ∧ Names (.vins g f) [.s f.a, .s f.b, .dv f.d] ∧
      (∀ i ∈ ([.vrot, .vquant, .vdeq] : List (Guard → VForm → Instr)), Names (i g f) [.v f.a, .s f.b, .dv f.d]) ∧
      Names (.vmovi g f) [.dv f.d] ∧
      (∀ i ∈ ([.vredsum, .vredmin, .vredmax] : List (Guard → VForm → Instr)), Names (i g f) [.v f.a, .ds f.d]) ∧
      Names (.vsparse24 g f) (.dm f.c :: .dm (f.c + 1) :: usesV1 f) ∧ Names (.mpop g f) [.ds f.d] ∧
      Names (.mfirst g f) [.ds f.d] ∧
      Names (.mmov g f) (match f.sub.toNat with | 0 => [.s f.a, .dm f.d] | 1 => [.ds f.d] | _ => [.dm f.d])) ∧
    (∀ f : MForm,
      LoadWaits (.ld g f) (.ds f.d :: usesM f) (deferredAt f s) ∧ LoadWaits (.lda g f) (.ds f.d :: usesM f) (deferredAt f s) ∧
      Names (.st g f) (.s f.c :: usesM f) ∧ Names (.strel g f) (.s f.c :: usesM f) ∧ Waits (.ldc g f) (.ds f.d :: usesM f) ∧
      LoadWaits (.ldp g f) (.ds f.d :: .ds f.c :: usesM f) (deferredAt f s) ∧ Names (.stp g f) (.s f.c :: .s f.d :: usesM f) ∧
      Names (.pref g f) (usesM f) ∧ Names (.flush g f) (usesM f) ∧ Names (.pin g f) (.ds f.d :: usesM f) ∧
      Names (.unpin g f) (.ds f.d :: usesM f) ∧ Waits (.amo g f) (.ds f.d :: .s f.c :: usesM f) ∧
      Waits (.cas g f) (.ds f.d :: .s f.c :: usesM f) ∧
      Waits (.cas2 g f) (.ds f.d :: .ds (f.d + 1) :: .s f.c :: .s (f.c + 1) :: usesM f) ∧
      LoadWaits (.vld g f) (.dv f.d :: usesM f) (vDeferred f .contiguous s) ∧ Names (.vst g f) (.v f.c :: usesM f) ∧
      Names (.vsts g f) (.v f.c :: usesM f) ∧ LoadWaits (.vlds g f) (.dv f.d :: usesM f) (vDeferred f .strided s) ∧
      Waits (.vgather g f) [.dv f.d, .s f.a, .v f.b] ∧ Names (.vscatter g f) [.v f.c, .s f.a, .v f.b] ∧
      LoadWaits (.vldb g f) (.dv f.d :: usesM f) (vDeferred f .single s)) ∧
    (∀ f : EForm,
      Waits (.send g f) (usesE f (f.sub.toNat + 1)) ∧
      (∀ i ∈ ([.mloadw, .mstream, .accrd, .accwr, .migr] : List (Guard → EForm → Instr)), Waits (i g f) (usesE f 4)) ∧
      Waits (.mswap g f) (usesE f 1) ∧ Waits (.engq g f) (usesE f 1) ∧ Waits (.mzero g f) (usesE f 2) ∧
      Waits (.cpy g f) (usesE f 6) ∧ Waits (.cpyr g f) (usesE f 6) ∧ Waits (.cpy2 g f) (usesE f 7) ∧
      Waits (.ecode g f) (usesE f 7) ∧ Waits (.coll g f) (usesE f 5) ∧ Waits (.ckpt g f) (usesE f 3))

/-- R289, R290: an armed result injection makes the next checked arithmetic instruction raise RESIDUE, which writes nothing and clears
ARM. R319-R322: a comparator that matches sets HIT; its hit record, and an event with its number, go out while fewer than 511 wait, else
DROP counts it. With ACT = 1 the instruction raises WATCHPOINT; with ACT = 0 it runs, and its launch is asked to halt. Register
comparators are shown by ADD, with EQ and without; memory comparators by a load and by a store; box comparators by ACCRD. -/
def Obligations.InjectionsAndWatchpoints : Prop :=
  (∀ (s : State) (g : Guard),
    let x := curSlot s
    let z : Slot := { x with trap := { x.trap with einj := { x.trap.einj with arm := false } } }
    let Raises := fun (i : Instr) (v : Word) => exec i s = .next (raisePrecise (setSlot s s.cur z) s.cur .residue v)
    x.csr.rchk = true → x.trap.einj.arm = true → x.trap.einj.kind = 1 → x.flip = none →
    (∀ f : RForm,
      (Ready s g (usesR f) false →
        (∀ i ∈ ([.add, .sub, .mul, .madd] : List (Guard → RForm → Instr)), Raises (i g f) (f.d.setWidth 64)) ∧
        (f.ty = .f32 ∨ f.ty = .f64 → Raises (.fmul g f) (f.d.setWidth 64) ∧ Raises (.ffma g f) (f.d.setWidth 64))) ∧
      (Ready s g [.s f.a, .s f.b, .ds f.d, .dp f.c] false → Raises (.addc g f) (f.d.setWidth 64))) ∧
    ∀ f : VForm,
      let v : Word := 64 + f.d.setWidth 64
      let some_ := fun n : Nat => ∃ j, j < 512 / n ∧ (vMask x f).getLsbD j = true
      let int := tyIsInt f.ty = true
      let checked := int ∨ f.ty = .f32 ∨ f.ty = .f64
      (Ready s g (usesV2 f) false → some_ (tyBits f.ty) →
        (int → Raises (.vadd g f) v ∧ Raises (.vsub g f) v) ∧ (checked → Raises (.vmul g f) v)) ∧
      (Ready s g (usesV3 f) false → some_ (tyBits f.ty) → checked → Raises (.vfma g f) v) ∧
      (Ready s g (usesV2 f) false → some_ 32 → Raises (.vdot4 g f) v ∧
        ((∀ i, i < 64 → (vMask x f).getLsbD (i / 4) = true → elemOf 8 (vGet x f.b) i ∈ [0, 1, 0xFF]) → Raises (.vtacc g f) v))) ∧
  (∀ (s : State) (w : SlotRef) (n : Nat) (c : Watch) (v data : Word) (l : LaunchRef) (y : Launch),
    launchOf s w = some l → launchAt s l = some y →
    let x := slotAt s w
    let dev := deviceOf s w
    let s0 := setCoreOf s w { coreOf s w with watch := tput (coreOf s w).watch n { c with hit := true } }
    let s1 := if c.act then s0 else requestHalt s0 l
    let hd := devRead s1 dev y.save
    let waiting := hd - min (devRead s1 dev (y.save + 16)) hd
    (c.act = false → debugGroup s l = [l] → y.phase ≠ .ended → launchAt s1 l = some { y with haltReq := true }) ∧
    (511 ≤ waiting → recordHit s w n c v data = devWrite s1 dev (y.save + 8) 8 (devRead s1 dev (y.save + 8) + 1)) ∧
    (waiting < 511 → ∃ u m, recordHit s w n c v data = { u with net := u.net ++ [m] } ∧
      m.epa = (coreOf s w).fsup0 ∧ entryKind m.raw = 3 ∧ (wordsOf 8 m.raw).getD 1 0 = BitVec.ofNat 64 hd ∧
      u = devWrite ([x.pc, BitVec.ofNat 64 ((tget (coreOf s w).cnt 0 0).toNat + w.c * 2 ^ 16 + w.d * 2 ^ 25 + w.k * 2 ^ 29 + n * 2 ^ 31),
          s.tick, v, data, 0, 0, 0, sGet x 1, sGet x 2, sGet x 3, sGet x 4, sGet x 5, sGet x 6, sGet x 7, sGet x 8].mapIdx
            (fun i z => (i, z)) |>.foldl (fun u q =>
          devWrite u dev (y.save + BitVec.ofNat 64 (0x80 + 128 * (hd % 511)) + BitVec.ofNat 64 (8 * q.1)) 8 q.2.toNat) s1)
        dev y.save 8 (hd + 1))) ∧
  ∀ (s : State) (g : Guard) (n : Nat) (c : Watch) (l : LaunchRef) (y : Launch),
    let x := curSlot s
    let k := coreOf s s.cur
    k.watch = [(n, c)] → k.launch = some l → launchAt s l = some y → regionOf y.save.toNat = some 2 → hitPage s s.cur = none →
    let Hit := fun v data : Word => recordHit s s.cur n c v data
    let Traps := fun (i : Instr) (v data : Word) => exec i s = .next (raisePrecise (Hit v data) s.cur .watchpoint (BitVec.ofNat 64 n))
    (∀ f : RForm, MayRun s g (usesR f) false → NoFlip x → c.ty = 3 → c.sel.extractLsb' 0 2 = 0 → c.idx = f.d → f.d ≠ 0 →
      ∃ v fl, IntResult f.ty (f.sub = 1) (intA x f + intB x f) v fl ∧
        let Adds := fun u : State => Runs u g (exec (.add g f) s) (fun z => WritesS x z f.d v fl)
        (c.sel.getLsbD 2 = false ∨ v = c.val → (c.act = true → Traps (.add g f) v 0) ∧ (c.act = false → Adds (Hit v 0))) ∧
        (c.sel.getLsbD 2 = true → v ≠ c.val → Adds s)) ∧
    (∀ f : MForm, c.ty = 1 → ldaOut x = false →
      let ea := eaOf x f
      let b := tyBytes f.ty
      let asid := k.ident.asid
      let data := sGet x f.c &&& BitVec.ofNat 64 (256 ^ b - 1)
      ea.toNat ≤ c.val.toNat + c.len.toNat → c.val.toNat < ea.toNat + b →
      (MayRun s g (.ds f.d :: usesM f) false → c.sel.getLsbD 0 = true → c.act = true → ea.toNat < 2 ^ 20 → ea.toNat % b = 0 →
        localFree s s.cur [⟨ea, b, 0, none⟩] = true → localGood s ea b → Traps (.ld g f) ea 0) ∧
      (MayRun s g (.s f.c :: usesM f) false → c.sel.getLsbD 1 = true → checkEaPlain asid ea b = none → BufferRoom s →
        confine s.cur x [(ea, b)] = none →
        (c.act = true → Traps (.st g f) ea data) ∧
        (c.act = false → BuffersStore (Hit ea data) g (exec (.st g f) s) [⟨ea, b, 0, some (data.setWidth 128)⟩] none none))) ∧
    ∀ (f : EForm), c.ty = 2 → c.act = true → c.sel.getLsbD 0 = true → MayRun s g (usesE f 4) true →
      let b := eBlock x f 4
      epaBadEngine s.cur x.supv 1 false (eEpa x f) = false → (hdrNotify b = 0 ∨ epaBadSend (hdrNotify b) = false) →
      chkAcc f.ty b = none → confine s.cur x (cmdWrites .accrd f.ty f.sub.toNat 0 b) = none →
      let at_ := fun hi lo => c.val.toNat / 2 ^ lo % 2 ^ (hi + 1 - lo)
      let row := bf b 2 42 32
      let col := bf b 3 6 0
      let first := 128 * at_ 3 0 + at_ 10 4
      row ≤ 128 * at_ 3 0 + at_ 17 11 → first ≤ row + bf b 2 53 43 → col ≤ at_ 31 25 → at_ 24 18 ≤ col + bf b 3 14 8 →
      Traps (.accrd g f) ((accAt (hamAt s (hamOf (coreRefOf s.cur))) (max row first) (max col (at_ 24 18))).e) 0

/-- Cells that the spec writes out, and the instructions they are (R29-R37, by the encoding
examples of the files of spec/). -/
def Obligations.ExampleCellsDecode : Prop :=
  let g : Guard := ⟨false, 7, false⟩
  decode 0x380100000000000000000000#96 = some (.nop g ⟨.s8, false, 0, 0, 0, 0, 0, 0⟩) ∧
  decode 0x38101461C030000000000000#96 = some (.add g ⟨.s64, false, 0, 5, 6, 7, 0, 0⟩) ∧
  decode 0x391000000000000000000013#96 = some (.br g ⟨0, 0, 0, 0, 2, 3⟩) ∧
  decode 0x391500900000FFFFFFFFFFFB#96 = some (.loop g ⟨0, 9, 0, 0, -1, 3⟩) ∧
  decode 0x3C001420C02A000000000040#96 = some (.ld g ⟨.s32, 2, true, 5, 2, 3, 0, false, 0, 0, 0, 0x40⟩) ∧
  decode 0x3A000C414020100000000000#96 = some (.vadd g ⟨.s32, false, 0, 3, 4, 5, 0, false, 2, 0⟩) ∧
  decode 0x3D0224200000000000000000#96 = some (.bara g ⟨.s8, false, 0, 9, 2, 0, 0, 0⟩) ∧
  decode 0x3D103140000100000F83A800#96 = some (.send g ⟨.s8, false, 1, 12, 20, 0, 0, 0x0F83A800⟩) ∧
  decode 0x3C1128400B30030000000000#96 = some (.cas g ⟨.s64, 0, false, 10, 4, 0, 11, false, 0, 3, 0, 0⟩) ∧
  decode 0x3D8229401E90000000000000#96 = some (.mstream g ⟨.bf16, false, 0, 10, 20, 0, 30, 0⟩) ∧
  decode 0x3E0314000000000000000100#96 = some (.csrrd g ⟨.s8, false, 0, 5, 0, 0, 0, 0x100⟩) ∧
  decode 0xBD92E3201F00000000000000#96 = some (.cpyr ⟨false, 7, true⟩ ⟨.s8, false, 0, 56, 50, 0, 31, 0⟩)

/-- R29-R40: encoding and decoding agree. Every well-formed instruction that has a cell is what its cell decodes to, and every cell
that decodes is the cell of the well-formed instruction it decodes to, so no bit of a cell is dropped and no two instructions
share one. -/
def Obligations.DecodeAndEncodeAgree : Prop :=
  (∀ (i : Instr) (w : CellWord), encode i = some w → i.wf = true → decode w = some i) ∧
  ∀ (i : Instr) (w : CellWord), decode w = some i → encode i = some w ∧ i.wf = true

/-- R7, R8 and the Reset columns of R9, R141, R151, R193, R258, R287 and R319: after reset every slot is FREE with every register 0
but the fixed members, and every CSR read gives its Reset value; memory lists nothing and is in canonical form. -/
def Obligations.ResetValues : Prop :=
  ∀ w : SlotRef, w.k < 4 →
    let x := slotAt State.reset w
    let Reads := fun (n v : Nat) => csrRead State.reset w n 0 = BitVec.ofNat 64 v
    x.st = .free ∧ (∀ r, sGet x r = 0) ∧ (∀ r, vGet x r = 0) ∧ (∀ i, pGet x i = decide (i = 7)) ∧
    (∀ i, mGet x i = if i = 0 then BitVec.allOnes 64 else 0) ∧
    (∀ n ∈ [0x001, 0x002, 0x003, 0x004, 0x005, 0x011, 0x100, 0x101, 0x102, 0x104, 0x105, 0x108, 0x109, 0x10A, 0x10B, 0x10C, 0x10D,
        0x10E, 0x10F, 0x110, 0x111, 0x113, 0x120, 0x121, 0x122, 0x123, 0x124, 0x201, 0x202, 0x203, 0x204, 0x303, 0x304, 0x400,
        0x401, 0x402, 0x403, 0x405, 0x406, 0x408, 0x410, 0x411, 0x412, 0x413, 0x414, 0x415, 0x416, 0x417], Reads n 0) ∧
    Reads 0x006 w.k ∧ Reads 0x300 0x1F10081030 ∧ Reads 0x301 0x11111111 ∧ Reads 0x302 256 ∧
    State.reset.mem = [] ∧ MemOk State.reset

/-- R1: memory is bytes, the lowest address least significant. A write of `n` bytes keeps the canonical form, is read back, and
leaves every other byte; memories in canonical form that read alike are equal. -/
def Obligations.MemoryLaws : Prop :=
  (∀ (m : Memory) (a n v : Nat), m.wf = true →
    (memWrite m a n v).wf = true ∧ memRead (memWrite m a n v) a n = v % 256 ^ n ∧
    (∀ i, i < n → memRead (memWrite m a n v) (a + i) 1 = v / 256 ^ i % 256) ∧
    ∀ b j, b + j ≤ a ∨ a + n ≤ b → memRead (memWrite m a n v) b j = memRead m b j) ∧
  ∀ m1 m2 : Memory, m1.wf = true → m2.wf = true → (∀ a, memGet m1 a = memGet m2 a) → m1 = m2

/-- Every step of every instruction and every event keeps the canonical form of memory, so that equal memories stay equal data. -/
def Obligations.StepKeepsMemory : Prop := ∀ s t : State, MemOk s → step s = .next t → MemOk t
end

