-- ==== Sys2Proof/Laws/Encoding.lean ====
section
/-!
SUPPORT. The fields of an encoded cell, form by form: what decoding reads back.
-/

namespace Sys2Proof.Laws

open Sys2Proof Sys2Proof.Machine

/-- TYPE survives its four bits. -/
@[simp] theorem tyOf_code (t : Ty) : tyOf (BitVec.ofNat 4 (tyCode t)).toNat = t := by cases t <;> rfl

theorem tyCode_inj {t u : Ty} (h : tyCode t = tyCode u) : t = u := by cases t <;> cases u <;> first | rfl | cases h

/-- A field read at an offset of an appended pattern: the low part's. -/
theorem field_low {m n : Nat} (x : BitVec m) (y : BitVec n) (i k : Nat) (h : i + k ≤ n) :
    (x ++ y).extractLsb' i k = y.extractLsb' i k := by
  ext j hj
  simp only [BitVec.getElem_extractLsb', BitVec.getLsbD_append]
  rw [if_pos (by omega)]

/-- A field read at an offset of an appended pattern: the high part's. -/
theorem field_high {m n : Nat} (x : BitVec m) (y : BitVec n) (i k : Nat) (h : n ≤ i) :
    (x ++ y).extractLsb' i k = x.extractLsb' (i - n) k := by
  ext j hj
  simp only [BitVec.getElem_extractLsb', BitVec.getLsbD_append]
  rw [if_neg (by omega)]
  congr 1
  omega

/-- One bit of an appended pattern. -/
theorem bit_low {m n : Nat} (x : BitVec m) (y : BitVec n) (i : Nat) (h : i < n) : (x ++ y).getLsbD i = y.getLsbD i := by
  rw [BitVec.getLsbD_append, if_pos h]

theorem bit_high {m n : Nat} (x : BitVec m) (y : BitVec n) (i : Nat) (h : n ≤ i) :
    (x ++ y).getLsbD i = x.getLsbD (i - n) := by
  rw [BitVec.getLsbD_append, if_neg (by omega)]

/-- The one bit of a Boolean. -/
theorem bit_bool (b : Bool) : (BitVec.ofBool b).getLsbD 0 = b := by cases b <;> rfl

/-- A cell of form R. -/
theorem opcOf_encR (op : BitVec 11) (g : Guard) (f : RForm) : opcOf (encR op g f) = op.toNat := by
  simp (disch := omega) only [opcOf, encR, field_high, field_low, Nat.reduceSub, BitVec.extractLsb'_eq_self]

theorem guardOf_encR (op : BitVec 11) (g : Guard) (f : RForm) : guardOf (encR op g f) = g := by
  simp (disch := omega) only [guardOf, encR, field_high, field_low, bit_high, bit_low, bit_bool, Nat.reduceSub,
    BitVec.extractLsb'_eq_self]

theorem rOf_encR (op : BitVec 11) (g : Guard) (f : RForm) : rOf (encR op g f) = f := by
  simp (disch := omega) only [rOf, typeOf, fldD, fldA, fldB, fldC, encR, field_high, field_low, bit_high, bit_low,
    bit_bool, Nat.reduceSub, BitVec.extractLsb'_eq_self, tyOf_code]

/-- A cell of form V. -/
theorem opcOf_encV (op : BitVec 11) (g : Guard) (f : VForm) : opcOf (encV op g f) = op.toNat := by
  simp (disch := omega) only [opcOf, encV, field_high, field_low, Nat.reduceSub, BitVec.extractLsb'_eq_self]

theorem guardOf_encV (op : BitVec 11) (g : Guard) (f : VForm) : guardOf (encV op g f) = g := by
  simp (disch := omega) only [guardOf, encV, field_high, field_low, bit_high, bit_low, bit_bool, Nat.reduceSub,
    BitVec.extractLsb'_eq_self]

theorem vOf_encV (op : BitVec 11) (g : Guard) (f : VForm) : vOf (encV op g f) = f := by
  simp (disch := omega) only [vOf, typeOf, fldD, fldA, fldB, fldC, encV, field_high, field_low, bit_high, bit_low,
    bit_bool, Nat.reduceSub, BitVec.extractLsb'_eq_self, tyOf_code]

/-- A cell of form M. -/
theorem opcOf_encM (op : BitVec 11) (g : Guard) (f : MForm) : opcOf (encM op g f) = op.toNat := by
  simp (disch := omega) only [opcOf, encM, field_high, field_low, Nat.reduceSub, BitVec.extractLsb'_eq_self]

theorem guardOf_encM (op : BitVec 11) (g : Guard) (f : MForm) : guardOf (encM op g f) = g := by
  simp (disch := omega) only [guardOf, encM, field_high, field_low, bit_high, bit_low, bit_bool, Nat.reduceSub,
    BitVec.extractLsb'_eq_self]

theorem mOf_encM (op : BitVec 11) (g : Guard) (f : MForm) : mOf (encM op g f) = f := by
  simp (disch := omega) only [mOf, typeOf, fldD, fldA, fldB, fldC, encM, field_high, field_low, bit_high, bit_low,
    bit_bool, Nat.reduceSub, BitVec.extractLsb'_eq_self, tyOf_code]

/-- A cell of form B. -/
theorem opcOf_encB (op : BitVec 11) (g : Guard) (f : BForm) : opcOf (encB op g f) = op.toNat := by
  simp (disch := omega) only [opcOf, encB, field_high, field_low, Nat.reduceSub, BitVec.extractLsb'_eq_self]

theorem guardOf_encB (op : BitVec 11) (g : Guard) (f : BForm) : guardOf (encB op g f) = g := by
  simp (disch := omega) only [guardOf, encB, field_high, field_low, bit_high, bit_low, bit_bool, Nat.reduceSub,
    BitVec.extractLsb'_eq_self]

theorem bOf_encB (op : BitVec 11) (g : Guard) (f : BForm) : bOf (encB op g f) = f := by
  simp (disch := omega) only [bOf, fldD, fldA, fldB, fldC, encB, field_high, field_low, Nat.reduceSub,
    BitVec.extractLsb'_eq_self]

/-- A cell of form E. -/
theorem opcOf_encE (op : BitVec 11) (g : Guard) (f : EForm) : opcOf (encE op g f) = op.toNat := by
  simp (disch := omega) only [opcOf, encE, field_high, field_low, Nat.reduceSub, BitVec.extractLsb'_eq_self]

theorem guardOf_encE (op : BitVec 11) (g : Guard) (f : EForm) : guardOf (encE op g f) = g := by
  simp (disch := omega) only [guardOf, encE, field_high, field_low, bit_high, bit_low, bit_bool, Nat.reduceSub,
    BitVec.extractLsb'_eq_self]

theorem eOf_encE (op : BitVec 11) (g : Guard) (f : EForm) : eOf (encE op g f) = f := by
  simp (disch := omega) only [eOf, typeOf, fldD, fldA, fldB, fldC, encE, field_high, field_low, bit_high, bit_low,
    bit_bool, Nat.reduceSub, BitVec.extractLsb'_eq_self, tyOf_code]

/-- The reserved bits of an encoded cell are zero. -/
theorem resV_encV (op : BitVec 11) (g : Guard) (f : VForm) (i : Instr) : resV (encV op g f) i = some i := by
  have h : (encV op g f).getLsbD 46 = false := by
    simp (disch := omega) only [encV, bit_high, bit_low, Nat.reduceSub]; rfl
  rw [resV, h]; rfl

theorem resM_encM (op : BitVec 11) (g : Guard) (f : MForm) (i : Instr) : resM (encM op g f) i = some i := by
  have h : (encM op g f).getLsbD 46 = false := by
    simp (disch := omega) only [encM, bit_high, bit_low, Nat.reduceSub]; rfl
  have h' : (encM op g f).getLsbD 48 = false := by
    simp (disch := omega) only [encM, bit_high, bit_low, Nat.reduceSub]; rfl
  rw [resM, h, h']; rfl

theorem resB_encB (op : BitVec 11) (g : Guard) (f : BForm) (i : Instr) : resB (encB op g f) i = some i := by
  have h : (encB op g f).extractLsb' 48 8 = 0 := by
    simp (disch := omega) only [encB, field_high, field_low, Nat.reduceSub]; rfl
  simp [resB, h]

theorem resE_encE (op : BitVec 11) (g : Guard) (f : EForm) (i : Instr) : resE (encE op g f) i = some i := by
  have h : (encE op g f).extractLsb' 32 16 = 0 := by
    simp (disch := omega) only [encE, field_high, field_low, Nat.reduceSub]; rfl
  simp [resE, h]

/-- What a lookup answers, decoding answers when it is well formed. -/
theorem decode_of {w : CellWord} {i : Instr} (n : Nat) (hn : opcOf w = n) (h : byOpcode n w = some i) (hw : i.wf = true) :
    decode w = some i := by
  simp only [decode, hn, h, hw, if_true]

end Sys2Proof.Laws
end

