-- ==== Sys2Proof/Laws/State.lean ====
section
/-!
SUPPORT. Small lemmas about the accessors of the state: a table or register read after a write, and the frame of each update.
-/

namespace Sys2Proof.Machine

/-! ### Tables -/

@[simp] theorem tget_tput_same {α : Type} (t : Tbl α) (d : α) (k : Nat) (x : α) : tget (tput t k x) d k = x := by
  induction t with
  | nil => simp [tput, tget]
  | cons p r ih =>
    obtain ⟨i, y⟩ := p
    simp only [tput]
    split
    · simp [tget]
    · split
      · simp [tget]
      · rename_i h1 h2
        simp [tget, ih, Ne.symm h2]

theorem tget_tput_other {α : Type} (t : Tbl α) (d : α) (k j : Nat) (x : α) (h : j ≠ k) :
    tget (tput t k x) d j = tget t d j := by
  induction t with
  | nil => simp [tput, tget, Ne.symm h]
  | cons p r ih =>
    obtain ⟨i, y⟩ := p
    simp only [tput]
    split
    · simp [tget, Ne.symm h]
    · split
      · subst_vars; simp [tget, Ne.symm h]
      · simp [tget, ih]

@[simp] theorem tput_tput {α : Type} (t : Tbl α) (k : Nat) (x y : α) : tput (tput t k x) k y = tput t k y := by
  induction t with
  | nil => simp [tput]
  | cons p r ih =>
    obtain ⟨i, z⟩ := p
    simp only [tput]
    split
    · simp [tput]
    · split
      · simp [tput]
      · rename_i h1 h2
        simp [tput, h1, h2, ih]

@[simp] theorem tfind_tput_same {α : Type} (t : Tbl α) (k : Nat) (x : α) : tfind (tput t k x) k = some x := by
  induction t with
  | nil => simp [tput, tfind]
  | cons p r ih =>
    obtain ⟨i, y⟩ := p
    simp only [tput]
    split
    · simp [tfind]
    · split
      · simp [tfind]
      · rename_i h1 h2
        simp [tfind, ih, Ne.symm h2]

/-! ### Slots and cores -/

@[simp] theorem slotAt_setSlot (s : State) (w : SlotRef) (x : Slot) : slotAt (setSlot s w x) w = x := by
  simp [slotAt, setSlot]

theorem slotAt_setSlot_other (s : State) (w v : SlotRef) (x : Slot) (h : slotKey v ≠ slotKey w) :
    slotAt (setSlot s w x) v = slotAt s v := by
  simp [slotAt, setSlot, tget_tput_other _ _ _ _ _ h]

@[simp] theorem setSlot_setSlot (s : State) (w : SlotRef) (x y : Slot) :
    setSlot (setSlot s w x) w y = setSlot s w y := by
  simp [setSlot]

@[simp] theorem setSlot_cur (s : State) (w : SlotRef) (x : Slot) : (setSlot s w x).cur = s.cur := rfl
@[simp] theorem setSlot_mem (s : State) (w : SlotRef) (x : Slot) : (setSlot s w x).mem = s.mem := rfl
@[simp] theorem setSlot_ecc (s : State) (w : SlotRef) (x : Slot) : (setSlot s w x).ecc = s.ecc := rfl
@[simp] theorem setSlot_cores (s : State) (w : SlotRef) (x : Slot) : (setSlot s w x).cores = s.cores := rfl
@[simp] theorem setSlot_hams (s : State) (w : SlotRef) (x : Slot) : (setSlot s w x).hams = s.hams := rfl
@[simp] theorem setSlot_mods (s : State) (w : SlotRef) (x : Slot) : (setSlot s w x).mods = s.mods := rfl
@[simp] theorem setSlot_launches (s : State) (w : SlotRef) (x : Slot) : (setSlot s w x).launches = s.launches := rfl
@[simp] theorem setSlot_pages (s : State) (w : SlotRef) (x : Slot) : (setSlot s w x).pages = s.pages := rfl
@[simp] theorem setSlot_cmds (s : State) (w : SlotRef) (x : Slot) : (setSlot s w x).cmds = s.cmds := rfl
@[simp] theorem setSlot_net (s : State) (w : SlotRef) (x : Slot) : (setSlot s w x).net = s.net := rfl
@[simp] theorem setSlot_clk (s : State) (w : SlotRef) (x : Slot) : (setSlot s w x).clk = s.clk := rfl
@[simp] theorem setSlot_tick (s : State) (w : SlotRef) (x : Slot) : (setSlot s w x).tick = s.tick := rfl
@[simp] theorem setSlot_nextId (s : State) (w : SlotRef) (x : Slot) : (setSlot s w x).nextId = s.nextId := rfl

@[simp] theorem coreOf_setSlot (s : State) (w v : SlotRef) (x : Slot) : coreOf (setSlot s w x) v = coreOf s v := rfl

@[simp] theorem coreOf_setCoreOf (s : State) (w : SlotRef) (x : Core) : coreOf (setCoreOf s w x) w = x := by
  simp [coreOf, setCoreOf]

@[simp] theorem slotAt_setCoreOf (s : State) (w v : SlotRef) (x : Core) : slotAt (setCoreOf s w x) v = slotAt s v := rfl
@[simp] theorem setCoreOf_mem (s : State) (w : SlotRef) (x : Core) : (setCoreOf s w x).mem = s.mem := rfl
@[simp] theorem setCoreOf_cur (s : State) (w : SlotRef) (x : Core) : (setCoreOf s w x).cur = s.cur := rfl
@[simp] theorem setCoreOf_slots (s : State) (w : SlotRef) (x : Core) : (setCoreOf s w x).slots = s.slots := rfl

@[simp] theorem curSlot_withCur (s : State) (f : Slot → Slot) : curSlot (withCur s f) = f (curSlot s) := by
  simp [curSlot, withCur]

@[simp] theorem withCur_cur (s : State) (f : Slot → Slot) : (withCur s f).cur = s.cur := rfl

/-! ### Modules, pages, lines and mills -/

@[simp] theorem modAt_setMod (s : State) (m : Nat) (x : Mod) : modAt (setMod s m x) m = x := by simp [modAt, setMod]

theorem modAt_setMod_other (s : State) (m n : Nat) (x : Mod) (h : n ≠ m) : modAt (setMod s m x) n = modAt s n := by
  simp [modAt, setMod, tget_tput_other _ _ _ _ _ h]

@[simp] theorem setMod_setMod (s : State) (m : Nat) (x y : Mod) : setMod (setMod s m x) m y = setMod s m y := by
  simp [setMod]

@[simp] theorem pageAt_setPage (s : State) (p : PageRef) (x : Page) : pageAt (setPage s p x) p = x := by
  simp [pageAt, setPage]

@[simp] theorem lineAt_setLine (s : State) (l : LineRef) (x : Line) : lineAt (setLine s l x) l = x := by
  simp [lineAt, setLine]

@[simp] theorem hamAt_setHam (s : State) (h : HamRef) (x : Ham) : hamAt (setHam s h x) h = x := by simp [hamAt, setHam]

@[simp] theorem setMod_mem (s : State) (m : Nat) (x : Mod) : (setMod s m x).mem = s.mem := rfl
@[simp] theorem setMod_slots (s : State) (m : Nat) (x : Mod) : (setMod s m x).slots = s.slots := rfl
@[simp] theorem setMod_cores (s : State) (m : Nat) (x : Mod) : (setMod s m x).cores = s.cores := rfl
@[simp] theorem setMod_pages (s : State) (m : Nat) (x : Mod) : (setMod s m x).pages = s.pages := rfl
@[simp] theorem setMod_lines (s : State) (m : Nat) (x : Mod) : (setMod s m x).lines = s.lines := rfl
@[simp] theorem setMod_launches (s : State) (m : Nat) (x : Mod) : (setMod s m x).launches = s.launches := rfl
@[simp] theorem setMod_cmds (s : State) (m : Nat) (x : Mod) : (setMod s m x).cmds = s.cmds := rfl
@[simp] theorem setPage_mem (s : State) (p : PageRef) (x : Page) : (setPage s p x).mem = s.mem := rfl
@[simp] theorem setPage_mods (s : State) (p : PageRef) (x : Page) : (setPage s p x).mods = s.mods := rfl
@[simp] theorem setPage_lines (s : State) (p : PageRef) (x : Page) : (setPage s p x).lines = s.lines := rfl
@[simp] theorem setPage_launches (s : State) (p : PageRef) (x : Page) : (setPage s p x).launches = s.launches := rfl
@[simp] theorem setLine_mem (s : State) (l : LineRef) (x : Line) : (setLine s l x).mem = s.mem := rfl
@[simp] theorem setLine_mods (s : State) (l : LineRef) (x : Line) : (setLine s l x).mods = s.mods := rfl
@[simp] theorem setLine_pages (s : State) (l : LineRef) (x : Line) : (setLine s l x).pages = s.pages := rfl
@[simp] theorem setHam_mem (s : State) (h : HamRef) (x : Ham) : (setHam s h x).mem = s.mem := rfl
@[simp] theorem setHam_cmds (s : State) (h : HamRef) (x : Ham) : (setHam s h x).cmds = s.cmds := rfl

/-! ### Registers -/

theorem sGet_sPut_same (x : Slot) (r : RegIx) (v : Word) : sGet (sPut x r v) r = if r = 0 then 0 else v := by
  unfold sGet sPut; split <;> simp

theorem sGet_sPut_other (x : Slot) (r q : RegIx) (v : Word) (h : q ≠ r) : sGet (sPut x r v) q = sGet x q := by
  unfold sGet sPut
  by_cases hq : q = 0
  · simp [hq]
  · have : q.toNat ≠ r.toNat := fun e => h (BitVec.eq_of_toNat_eq e)
    by_cases hr : r = 0
    · rw [if_pos hr]
    · rw [if_neg hq, if_neg hq, if_neg hr]
      exact tget_tput_other _ _ _ _ _ this

@[simp] theorem sGet_zero (x : Slot) : sGet x 0 = 0 := by simp [sGet]

@[simp] theorem sPut_zero (x : Slot) (v : Word) : sPut x 0 v = x := by simp [sPut]

@[simp] theorem vGet_vPut_same (x : Slot) (r : RegIx) (v : VWord) : vGet (vPut x r v) r = v := by simp [vGet, vPut]

theorem vGet_vPut_other (x : Slot) (r q : RegIx) (v : VWord) (h : q ≠ r) : vGet (vPut x r v) q = vGet x q := by
  have : q.toNat ≠ r.toNat := fun e => h (BitVec.eq_of_toNat_eq e)
  simp [vGet, vPut, tget_tput_other _ _ _ _ _ this]

theorem mGet_mPut_same (x : Slot) (i : Nat) (v : BitVec 64) :
    mGet (mPut x i v) i = if i = 0 then BitVec.allOnes 64 else v := by
  unfold mGet mPut; split <;> simp_all

theorem mGet_mPut_other (x : Slot) (i j : Nat) (v : BitVec 64) (h : j ≠ i) : mGet (mPut x i v) j = mGet x j := by
  unfold mGet mPut
  by_cases hj : j = 0
  · simp [hj]
  · by_cases hi : i = 0 <;> simp [hj, hi, tget_tput_other _ _ _ _ _ h]

theorem pBits_getLsbD : ∀ (p : BitVec 8) (i j : Fin 8) (b : Bool),
    (pBits p i b).getLsbD j = if j = i then b else p.getLsbD j := by
  intro p i j b
  have hi := i.isLt
  have hj := j.isLt
  unfold pBits
  cases b <;> simp [hj] <;> by_cases h : j = i <;> simp_all [Fin.ext_iff] <;> omega

theorem pGet_pPut_same (x : Slot) (i : Nat) (b : Bool) (h : i < 8) :
    pGet (pPut x i b) i = if i = 7 then true else b := by
  unfold pGet pPut
  by_cases h7 : i = 7
  · simp [h7]
  · have := pBits_getLsbD x.preg ⟨i, h⟩ ⟨i, h⟩ b
    simp_all

theorem pGet_pPut_other (x : Slot) (i j : Nat) (b : Bool) (hi : i < 8) (hj : j < 8) (h : j ≠ i) :
    pGet (pPut x i b) j = pGet x j := by
  unfold pGet pPut
  by_cases h7 : j = 7
  · simp [h7]
  · by_cases hi7 : i = 7
    · simp [hi7]
    · have := pBits_getLsbD x.preg ⟨i, hi⟩ ⟨j, hj⟩ b
      simp_all [Fin.ext_iff]

@[simp] theorem sPut_outs (x : Slot) (r : RegIx) (v : Word) : (sPut x r v).outs = x.outs := by unfold sPut; split <;> rfl
@[simp] theorem sPut_st (x : Slot) (r : RegIx) (v : Word) : (sPut x r v).st = x.st := by unfold sPut; split <;> rfl
@[simp] theorem sPut_csr (x : Slot) (r : RegIx) (v : Word) : (sPut x r v).csr = x.csr := by unfold sPut; split <;> rfl
@[simp] theorem sPut_pc (x : Slot) (r : RegIx) (v : Word) : (sPut x r v).pc = x.pc := by unfold sPut; split <;> rfl
@[simp] theorem vPut_outs (x : Slot) (r : RegIx) (v : VWord) : (vPut x r v).outs = x.outs := rfl
@[simp] theorem vPut_st (x : Slot) (r : RegIx) (v : VWord) : (vPut x r v).st = x.st := rfl
@[simp] theorem pPut_outs (x : Slot) (i : Nat) (b : Bool) : (pPut x i b).outs = x.outs := by unfold pPut; split <;> rfl
@[simp] theorem pPut_st (x : Slot) (i : Nat) (b : Bool) : (pPut x i b).st = x.st := by unfold pPut; split <;> rfl
@[simp] theorem mPut_outs (x : Slot) (i : Nat) (v : BitVec 64) : (mPut x i v).outs = x.outs := by
  unfold mPut; split <;> rfl
@[simp] theorem mPut_st (x : Slot) (i : Nat) (v : BitVec 64) : (mPut x i v).st = x.st := by unfold mPut; split <;> rfl
@[simp] theorem raiseFl_outs (x : Slot) (fl : Flags) : (raiseFl x fl).outs = x.outs := rfl
@[simp] theorem raiseFl_st (x : Slot) (fl : Flags) : (raiseFl x fl).st = x.st := rfl
@[simp] theorem raiseFl_zero (x : Slot) : raiseFl x 0 = x := by simp [raiseFl]

end Sys2Proof.Machine

namespace Sys2Proof

open Sys2Proof.Machine

/-- A scalar write as the statements say it. -/
theorem writesS_sPut (x : Slot) (d : RegIx) (v : Word) (fl : Flags) : WritesS x (raiseFl (sPut x d v) fl) d v fl := by
  refine ⟨?_, ?_, ?_⟩
  · show sGet (sPut x d v) d = _
    exact sGet_sPut_same x d v
  · intro r h
    show sGet (sPut x d v) r = _
    exact sGet_sPut_other x d r v h
  · unfold raiseFl sPut; split <;> rfl

/-- A vector write as the statements say it. -/
theorem writesV_vPut (x : Slot) (d : RegIx) (v : VWord) (fl : Flags) : WritesV x (raiseFl (vPut x d v) fl) d v fl := by
  refine ⟨?_, ?_, rfl⟩
  · show vGet (vPut x d v) d = _
    simp
  · intro r h
    show vGet (vPut x d v) r = _
    exact vGet_vPut_other x d r v h

/-- A mask write as the statements say it. -/
theorem writesM_mPut (x : Slot) (d : Nat) (v : BitVec 64) (fl : Flags) : WritesM x (raiseFl (mPut x d v) fl) d v fl := by
  refine ⟨?_, ?_, ?_⟩
  · show mGet (mPut x d v) d = _
    exact mGet_mPut_same x d v
  · intro r h
    show mGet (mPut x d v) r = _
    exact mGet_mPut_other x d r v h
  · unfold raiseFl mPut; split <;> rfl

/-- A predicate write as the statements say it. -/
theorem writesP_pPut (x : Slot) (d : Nat) (b : Bool) (h : d < 8) : WritesP x (pPut x d b) d b :=
  ⟨pGet_pPut_same x d b h, fun _ hi hne => pGet_pPut_other x d _ b h hi hne, by unfold pPut; split <;> rfl⟩

end Sys2Proof
end

