-- ==== Sys2Proof/Laws/Issue.lean ====
section
/-!
SUPPORT. What issuing an instruction does (R19-R22, R30): one lemma per outcome, which the proofs about instructions cite
instead of unfolding `issue`.
-/

namespace Sys2Proof

open Sys2Proof.Machine

theorem pendingUse_none (clk : Nat) (x : Slot) (uses : List Use) (h : ∀ u ∈ uses, usePend x u = false) :
    pendingUse clk x uses = none := by
  have : uses.filter (usePend x) = [] := by
    rw [List.filter_eq_nil_iff]
    intro u hu
    simp [h u hu]
  unfold pendingUse
  rw [this]

/-- Recording matches of comparators none of which matches does nothing. -/
theorem watchFold_none (s : State) (uses : List Use) (accs : List Acc) (after : Option Slot) (l : List (Nat × Watch))
    (r : State × Option Nat) (h : ∀ p ∈ l, watchMatch s s.cur p.2 uses accs after = none) :
    l.foldl (fun r p => match watchMatch s s.cur p.2 uses accs after with
      | none => r
      | some (v, d) => (recordHit r.1 s.cur p.1 p.2 v d, if p.2.act then some (r.2.getD p.1) else r.2)) r = r := by
  induction l with
  | nil => rfl
  | cons p l ih =>
    rw [List.foldl_cons, h p (List.mem_cons_self ..)]
    exact ih fun q hq => h q (List.mem_cons_of_mem _ hq)

theorem watchAll_none (s : State) (uses : List Use) (accs : List Acc) (after : Option Slot) (h : NoWatch s uses accs) :
    watchAll s s.cur uses accs after = (s, none) := by
  unfold watchAll
  refine watchFold_none s uses accs after _ _ fun p hp => ?_
  obtain ⟨hp, ht⟩ := List.mem_filter.mp hp
  exact h p hp (by simpa using ht) after

/-- A hit record is placed only for a comparator that matches. -/
theorem hitHeld_none (s : State) (uses : List Use) (accs : List Acc) (after : Option Slot) (h : NoWatch s uses accs) :
    hitHeld s s.cur uses accs after = false := by
  unfold hitHeld
  rw [Bool.and_eq_false_iff]
  refine .inr (List.any_eq_false.mpr fun p hp => ?_)
  by_cases ht : p.2.ty = 0
  · simp [ht]
  · simp [h p hp ht after]

/-- A slot that may not issue changes nothing. -/
theorem issue_idle (g : Guard) (uses : List Use) (deferred : Bool) (body : State → Eff) (s : State)
    (accs : State → List Acc) (h : canIssue (curSlot s) = false) : issue g uses deferred body s accs = .next s := by
  have h' : canIssue (slotAt s s.cur) = false := h
  simp [issue, h']

/-- A false guard only moves the PC on (R30). -/
theorem issue_guard_false (g : Guard) (uses : List Use) (deferred : Bool) (body : State → Eff) (s : State)
    (accs : State → List Acc) (h : canIssue (curSlot s) = true) (hg : guardHolds (curSlot s) g = false) :
    issue g uses deferred body s accs = .next (afterIssue s s.cur g (nextCell (curSlot s).pc)) := by
  have h' : canIssue (slotAt s s.cur) = true := h
  have hg' : guardHolds (slotAt s s.cur) g = false := hg
  simp [issue, h', hg', curSlot]

/-- An instruction that issues normally has its effect. -/
theorem issue_ready (g : Guard) (uses : List Use) (deferred : Bool) (body : State → Eff) (s : State)
    (accs : State → List Acc) (h : Ready s g uses deferred (accs s)) :
    issue g uses deferred body s accs = .next (applyEff s s.cur g (curSlot s).pc (body s)) := by
  obtain ⟨⟨hc, hg, hp, ho⟩, hw⟩ := h
  have hc' : canIssue (slotAt s s.cur) = true := hc
  have hg' : guardHolds (slotAt s s.cur) g = true := hg
  have hp' := pendingUse_none s.clk (slotAt s s.cur) uses hp
  have ho' : (deferred && decide (32 ≤ (slotAt s s.cur).outs.length)) = false := by
    cases deferred
    · rfl
    · have := ho rfl
      simp only [curSlot] at this
      simp; omega
  unfold issue
  simp only [hc', hg', hp', ho', watchAll_none s uses (accs s) _ hw, hitHeld_none s uses (accs s) _ hw, Bool.not_true,
    Bool.false_eq_true, if_false, curSlot]
  split <;> rfl

/-- A done effect that changed the current slot only. -/
theorem applyEff_withCur (s : State) (g : Guard) (f : Slot → Slot) :
    applyEff s s.cur g (curSlot s).pc (.done (withCur s f)) =
      setSlot s s.cur (retired g (curSlot s).pc (f (curSlot s))) := by
  simp [applyEff, afterIssue, withCur, curSlot, retired]

/-- A register instruction that issues normally runs. -/
theorem runs_of_withCur (s : State) (g : Guard) (uses : List Use) (deferred : Bool) (body : State → Eff)
    (accs : State → List Acc) (f : Slot → Slot) (P : Slot → Prop) (h : Ready s g uses deferred (accs s))
    (hb : body s = .done (withCur s f)) (hP : P (f (curSlot s))) :
    Runs s g (issue g uses deferred body s accs) P :=
  ⟨f (curSlot s), by rw [issue_ready _ _ _ _ _ _ h, hb, applyEff_withCur], hP⟩

/-- An effect that adds one outstanding result to the current slot as `f` left it. -/
theorem applyEff_addOut (s : State) (g : Guard) (pc : Word) (f : Slot → Slot) (o : Out) :
    applyEff s s.cur g pc (.done (addOut { withCur s f with nextId := s.nextId + 1 } o)) =
      setSlot { s with nextId := s.nextId + 1 } s.cur
        (retired g pc { markDst (f (curSlot s)) o.dst with outs := (f (curSlot s)).outs ++ [o] }) := by
  simp [applyEff, afterIssue, addOut, withCur, curSlot, retired, setSlot, slotAt]

/-- A deferred instruction that issues normally leaves its result outstanding. -/
theorem defers_of_addOut (s : State) (g : Guard) (uses : List Use) (body : State → Eff) (accs : State → List Acc)
    (f : Slot → Slot) (o : Out) (P : Slot → Prop) (h : Ready s g uses true (accs s))
    (hb : body s = .done (addOut { withCur s f with nextId := s.nextId + 1 } o))
    (hid : o.id = s.nextId) (hpc : o.pc = (curSlot s).pc) (hk : o.pkey = (curSlot s).csr.pkey)
    (hv : o.supv = (curSlot s).supv) (hP : P (f (curSlot s))) :
    Defers s g (issue g uses true body s accs) o.dst o.kind o.units P :=
  ⟨f (curSlot s), o, hP, rfl, rfl, rfl, hid, hpc, hk, hv, by rw [issue_ready _ _ _ _ _ _ h, hb, applyEff_addOut]⟩

/-- Without a due injection or stray error the result check passes the result on (R289). -/
theorem finishChecked_clean (s : State) (cls : Word) (d : RegIx) (n r : Nat) (fin : State → Nat → Eff)
    (h : NoFlip (curSlot s)) : finishChecked s cls d n r fin = fin s r := by
  obtain ⟨h1, h2⟩ := h
  simp [finishChecked, flipDue, h2, h1]

end Sys2Proof
end

