-- ==== Sys2Proof/Laws/Integer.lean ====
section
/-!
SUPPORT. What narrowing and extending an integer result answers (R51, R52).
-/

namespace Sys2Proof

open Sys2Proof.Machine

theorem toInt_ofInt64 (x : Int) (h : -(2 ^ 63) ≤ x) (h' : x < 2 ^ 63) : (BitVec.ofInt 64 x).toInt = x := by
  rw [BitVec.toInt_ofInt, Int.bmod_def]
  norm_num at *
  omega

theorem wrapTo_cast (n : Nat) (r : Int) : ((wrapTo n r : Nat) : Int) = r % 2 ^ n := by
  unfold wrapTo
  exact Int.toNat_of_nonneg (Int.emod_nonneg _ (by positivity))

theorem sintOf_lt (n x : Nat) (h : 0 < n) : -(2 ^ (n - 1)) ≤ sintOf n x ∧ sintOf n x < 2 ^ (n - 1) := by
  obtain ⟨k, rfl⟩ : ∃ k, n = k + 1 := ⟨n - 1, by omega⟩
  have hl : x % 2 ^ (k + 1) < 2 ^ (k + 1) := Nat.mod_lt _ (by positivity)
  unfold sintOf
  simp only [Nat.add_sub_cancel]
  generalize x % 2 ^ (k + 1) = u at *
  have e : (2 : Int) ^ (k + 1) = 2 * ((2 ^ k : Nat) : Int) := by push_cast; ring
  have e' : (2 : Int) ^ k = ((2 ^ k : Nat) : Int) := by push_cast; rfl
  have hp : (2 : Nat) ^ (k + 1) = 2 * 2 ^ k := by ring
  rw [e, e', hp]
  rw [hp] at hl
  clear e e' hp
  generalize 2 ^ k = m at *
  split <;> constructor <;> omega

theorem sintOf_mod (n x : Nat) : ∃ q : Int, sintOf n x = x + q * 2 ^ n := by
  unfold sintOf
  have h : ((x % 2 ^ n : Nat) : Int) = x - 2 ^ n * ((x : Int) / 2 ^ n) := by
    rw [Int.natCast_mod, Int.emod_def]; push_cast; ring
  simp only []
  split
  · exact ⟨-((x : Int) / 2 ^ n), by rw [h]; ring⟩
  · exact ⟨-((x : Int) / 2 ^ n) - 1, by rw [h]; ring⟩

/-- The value of an extended pattern is the pattern's reading (R51, R82). -/
theorem valOf_extendTo (t : Ty) (x : Nat) : valOf t (extendTo t x) = intOf t x := by
  cases t <;>
    simp only [valOf, extendTo, intOf, tySigned, tyBits, if_true, if_false, Bool.false_eq_true]
  · obtain ⟨h1, h2⟩ := sintOf_lt 8 x (by norm_num); apply toInt_ofInt64 <;> norm_num at * <;> omega
  · obtain ⟨h1, h2⟩ := sintOf_lt 16 x (by norm_num); apply toInt_ofInt64 <;> norm_num at * <;> omega
  · obtain ⟨h1, h2⟩ := sintOf_lt 32 x (by norm_num); apply toInt_ofInt64 <;> norm_num at * <;> omega
  · obtain ⟨h1, h2⟩ := sintOf_lt 64 x (by norm_num); apply toInt_ofInt64 <;> norm_num at * <;> omega
  all_goals
    rw [BitVec.toNat_ofNat]
    norm_cast
    apply Nat.mod_eq_of_lt
    apply lt_of_lt_of_le (Nat.mod_lt _ (by positivity))
    norm_num

theorem intOf_range (t : Ty) (x : Nat) : tyMin t ≤ intOf t x ∧ intOf t x ≤ tyMax t := by
  cases t <;>
    simp only [tyMin, tyMax, intOf, tySigned, tyBits, if_true, if_false, Bool.false_eq_true]
  · have := sintOf_lt 8 x (by norm_num); omega
  · have := sintOf_lt 16 x (by norm_num); omega
  · have := sintOf_lt 32 x (by norm_num); omega
  · have := sintOf_lt 64 x (by norm_num); omega
  all_goals
    constructor
    · positivity
    · norm_num; omega

theorem intOf_mod (t : Ty) (x : Nat) : ∃ q : Int, intOf t x = x + q * 2 ^ tyBits t := by
  unfold intOf
  split
  · exact sintOf_mod _ _
  · refine ⟨-((x : Int) / 2 ^ tyBits t), ?_⟩
    rw [Int.natCast_mod, Int.emod_def]; push_cast; ring

theorem extended_extendTo (t : Ty) (x : Nat) : Extended t (extendTo t x) := by
  unfold Extended
  rw [valOf_extendTo t]
  exact intOf_range t x

/-- Two readings in the range of a type that differ by a multiple of 2^n are equal. -/
theorem eq_of_range (t : Ty) (a b q : Int) (ha : tyMin t ≤ a ∧ a ≤ tyMax t)
    (hb : tyMin t ≤ b ∧ b ≤ tyMax t) (h : a = b + q * 2 ^ tyBits t) : a = b := by
  have hq : q = 0 := by
    cases t <;>
      simp only [tyMin, tyMax, tySigned, tyBits, if_true, if_false, Bool.false_eq_true] at * <;> norm_num at * <;> omega
  simpa [hq] using h

/-- Narrowing and extending answer what R51 and R52 say. -/
theorem intResult_narrow (t : Ty) (sat : Bool) (r : Int) :
    IntResult t sat r (extendTo t (narrow t sat r).1) (narrow t sat r).2 := by
  refine ⟨extended_extendTo t _, ?_, ?_⟩
  · rintro rfl
    refine ⟨rfl, ?_⟩
    rw [valOf_extendTo t]
    obtain ⟨q, hq⟩ := intOf_mod t (narrow t false r).1
    refine ⟨q - r / 2 ^ tyBits t, ?_⟩
    rw [hq]
    simp only [narrow, Bool.false_eq_true, if_false, wrapTo_cast]
    rw [Int.emod_def]; ring
  · rintro rfl
    have hle : tyMin t ≤ tyMax t := by
      have := intOf_range t 0; omega
    have hr : tyMin t ≤ (clampTo t r).1 ∧ (clampTo t r).1 ≤ tyMax t := by
      unfold clampTo; split
      · exact ⟨le_refl _, hle⟩
      · split
        · exact ⟨hle, le_refl _⟩
        · constructor <;> simp only [] <;> omega
    have hc : (clampTo t r).1 = max (tyMin t) (min r (tyMax t)) := by
      unfold clampTo; split
      · simp only []; omega
      · split <;> simp only [] <;> omega
    constructor
    · rw [valOf_extendTo t, ← hc]
      obtain ⟨q, hq⟩ := intOf_mod t (narrow t true r).1
      refine eq_of_range t _ _ (q - (clampTo t r).1 / 2 ^ tyBits t) (intOf_range t _) hr ?_
      rw [hq]
      simp only [narrow, if_true, wrapTo_cast]
      rw [Int.emod_def]; ring
    · simp only [narrow, if_true, clampTo]
      split
      · simp [*]
      · split <;> simp_all

/-- The extension of a pattern, as the statements say it. -/
theorem patResult_extendTo (t : Ty) (p q : Nat) (h : q % 2 ^ tyBits t = p % 2 ^ tyBits t) :
    PatResult t p (extendTo t q) := by
  refine ⟨extended_extendTo t q, ?_⟩
  rw [← h]
  have hv := valOf_extendTo t q
  obtain ⟨k, hk⟩ := intOf_mod t q
  rw [hk] at hv
  have h64 : ∃ j : Int, ((extendTo t q).toNat : Int) = valOf t (extendTo t q) + j * 2 ^ tyBits t := by
    unfold valOf
    split
    · rw [BitVec.toInt_eq_toNat_cond]
      split
      · exact ⟨0, by ring⟩
      · refine ⟨2 ^ (64 - tyBits t), ?_⟩
        have : (2 : Int) ^ (64 - tyBits t) * 2 ^ tyBits t = 2 ^ 64 := by
          cases t <;> simp only [tyBits] <;> norm_num
        rw [this]; push_cast; ring
    · exact ⟨0, by ring⟩
  obtain ⟨j, hj⟩ := h64
  have : (((extendTo t q).toNat % 2 ^ tyBits t : Nat) : Int) = ((q % 2 ^ tyBits t : Nat) : Int) := by
    push_cast
    rw [hj, hv, show (q : Int) + k * 2 ^ tyBits t + j * 2 ^ tyBits t = q + (k + j) * 2 ^ tyBits t by ring,
      Int.add_mul_emod_self_right]
  exact_mod_cast this

end Sys2Proof
end

