-- ==== Sys2Proof/Laws/Memory.lean ====
section
/-!
SUPPORT. The laws of memory: every operation on the list keeps the canonical form, and reads see what was written.
-/

namespace Sys2Proof.Machine

theorem memWfFrom_mono {m : Memory} {lo lo' : Nat} (h : memWfFrom lo m = true) (hl : lo' ≤ lo) : memWfFrom lo' m = true := by
  cases m with
  | nil => rfl
  | cons p r =>
    obtain ⟨i, b⟩ := p
    simp only [memWfFrom, Bool.and_eq_true, decide_eq_true_eq] at h ⊢
    exact ⟨⟨by omega, h.1.2⟩, h.2⟩

/-- An address below all that are listed is not listed. -/
theorem memGet_below {m : Memory} {lo a : Nat} (h : memWfFrom lo m = true) (ha : a < lo) : memGet m a = unlisted := by
  induction m generalizing lo with
  | nil => rfl
  | cons p r ih =>
    obtain ⟨i, b⟩ := p
    simp only [memWfFrom, Bool.and_eq_true, decide_eq_true_eq] at h
    have hi : i ≠ a := by omega
    simp only [memGet, hi, if_false]
    exact ih h.2 (by omega)

theorem memDel_wf {m : Memory} {lo : Nat} (a : Nat) (h : memWfFrom lo m = true) : memWfFrom lo (memDel m a) = true := by
  induction m generalizing lo with
  | nil => rfl
  | cons p r ih =>
    obtain ⟨i, b⟩ := p
    simp only [memWfFrom, Bool.and_eq_true, decide_eq_true_eq] at h
    by_cases hi : i = a
    · simp only [memDel, hi, if_true]
      exact memWfFrom_mono h.2 (by omega)
    · simp only [memDel, hi, if_false, memWfFrom, Bool.and_eq_true, decide_eq_true_eq]
      exact ⟨h.1, ih h.2⟩

theorem memIns_wf {m : Memory} {lo a : Nat} {v : Byte} (h : memWfFrom lo m = true) (hl : lo ≤ a) (hv : (v != unlisted) = true) :
    memWfFrom lo (memIns m a v) = true := by
  induction m generalizing lo with
  | nil => simp [memIns, memWfFrom, hl, hv]
  | cons p r ih =>
    obtain ⟨i, b⟩ := p
    simp only [memWfFrom, Bool.and_eq_true, decide_eq_true_eq] at h
    unfold memIns
    split
    · rename_i hai
      simp only [memWfFrom, Bool.and_eq_true, decide_eq_true_eq]
      exact ⟨⟨hl, hv⟩, ⟨by omega, h.1.2⟩, h.2⟩
    · split
      · rename_i hai
        simp only [memWfFrom, Bool.and_eq_true, decide_eq_true_eq]
        exact ⟨⟨hl, hv⟩, by rw [hai]; exact h.2⟩
      · simp only [memWfFrom, Bool.and_eq_true, decide_eq_true_eq]
        exact ⟨h.1, ih h.2 (by omega)⟩

/-- A write of one byte keeps the canonical form. -/
theorem memPut_wf {m : Memory} (a : Nat) (v : Byte) (h : m.wf = true) : (memPut m a v).wf = true := by
  unfold memPut
  split
  · exact memDel_wf a h
  · exact memIns_wf h (Nat.zero_le a) (by simpa using ‹¬v = unlisted›)

/-- A write of `n` bytes keeps the canonical form. -/
theorem memWrite_wf {m : Memory} (a n x : Nat) (h : m.wf = true) : (memWrite m a n x).wf = true := by
  induction n generalizing m a x with
  | zero => exact h
  | succ k ih => exact ih (a + 1) (x / 256) (memPut_wf a _ h)

/-- Dropping entries keeps the canonical form. -/
theorem memFilter_wf {m : Memory} {lo : Nat} (f : Nat × Byte → Bool) (h : memWfFrom lo m = true) :
    memWfFrom lo (m.filter f) = true := by
  induction m generalizing lo with
  | nil => rfl
  | cons p r ih =>
    obtain ⟨i, b⟩ := p
    simp only [memWfFrom, Bool.and_eq_true, decide_eq_true_eq] at h
    rw [List.filter_cons]
    split
    · simp only [memWfFrom, Bool.and_eq_true, decide_eq_true_eq]
      exact ⟨h.1, ih h.2⟩
    · exact memWfFrom_mono (ih h.2) (by omega)

theorem memGet_del {m : Memory} {lo : Nat} (a b : Nat) (h : memWfFrom lo m = true) :
    memGet (memDel m a) b = if b = a then unlisted else memGet m b := by
  induction m generalizing lo with
  | nil => simp [memDel, memGet]
  | cons p r ih =>
    obtain ⟨i, y⟩ := p
    simp only [memWfFrom, Bool.and_eq_true, decide_eq_true_eq] at h
    by_cases hi : i = a
    · subst hi
      by_cases hb : b = i
      · simp only [memDel, if_true, hb]
        exact memGet_below h.2 (by omega)
      · have : ¬ i = b := fun e => hb e.symm
        simp [memDel, memGet, hb, this]
    · have hd : memDel ((i, y) :: r) a = (i, y) :: memDel r a := by simp only [memDel, hi, if_false]
      rw [hd]
      by_cases hib : i = b
      · have hb : ¬ b = a := by omega
        simp only [memGet, hib, hb, if_true, if_false]
      · simp only [memGet, hib, if_false, ih h.2]

theorem memGet_ins (m : Memory) (a b : Nat) (v : Byte) : memGet (memIns m a v) b = if b = a then v else memGet m b := by
  induction m with
  | nil =>
    by_cases h : b = a
    · simp [memIns, memGet, h]
    · have : ¬ a = b := fun e => h e.symm
      simp [memIns, memGet, h, this]
  | cons p r ih =>
    obtain ⟨i, y⟩ := p
    unfold memIns
    split
    · by_cases h : b = a
      · simp [memGet, h]
      · have : ¬ a = b := fun e => h e.symm
        simp [memGet, h, this]
    · split
      · rename_i hai
        by_cases h : b = a
        · simp [memGet, h]
        · have h1 : ¬ a = b := fun e => h e.symm
          have h2 : ¬ i = b := by omega
          simp [memGet, h, h1, h2]
      · rename_i hlt hne
        by_cases hib : i = b
        · have : ¬ b = a := by omega
          simp [memGet, hib, this]
        · simp only [memGet, hib, if_false, ih]

/-- A read of one byte after a write of one. -/
theorem memGet_put {m : Memory} (a b : Nat) (v : Byte) (h : m.wf = true) :
    memGet (memPut m a v) b = if b = a then v else memGet m b := by
  unfold memPut
  split
  · rename_i hv
    rw [memGet_del a b h, hv]
  · exact memGet_ins m a b v

/-- A byte outside those written is as before. -/
theorem memGet_write_other {m : Memory} (a n x b : Nat) (h : m.wf = true) (hb : b < a ∨ a + n ≤ b) :
    memGet (memWrite m a n x) b = memGet m b := by
  induction n generalizing m a x with
  | zero => rfl
  | succ k ih =>
    simp only [memWrite]
    rw [ih (a + 1) (x / 256) (memPut_wf a _ h) (by omega), memGet_put a b _ h, if_neg (by omega)]

/-- Numbering a protected page leaves memory alone. -/
theorem numberPage_mem (s : State) (p : PageRef) (e : Word) : (numberPage s p e).mem = s.mem := by
  unfold numberPage
  dsimp only
  split <;> rfl

/-- Numbering the pages of a leaf leaves memory alone. -/
theorem numberPages_mem (s : State) (p : PageRef) (e : Word) : (numberPages s p e).mem = s.mem := by
  have h : ∀ (l : List Nat) (s : State),
      (l.foldl (fun s i => numberPage s { p with pn := p.pn + i } e) s).mem = s.mem := by
    intro l
    induction l with
    | nil => intro s; rfl
    | cons i l ih => intro s; rw [List.foldl_cons, ih, numberPage_mem]
  unfold numberPages
  split
  · split
    · exact h _ s
    · rfl
  · exact numberPage_mem s p e

/-- Reset memory is in canonical form. -/
theorem reset_memOk : MemOk State.reset := rfl

end Sys2Proof.Machine
end

