-- ==== Sys2Proof/Laws/PerInstr.lean ====
section
/-!
SUPPORT. Per instruction: decoding the cell that the encoder gives a well-formed instruction answers that instruction (R29-R40).
A machine event has no cell.
-/

namespace Sys2Proof.Laws.RoundTrip

open Sys2Proof

/-- Decoding reads back what encoding wrote, for a well-formed instruction. -/
def Statement (i : Instr) : Prop := ∀ w, encode i = some w → i.wf = true → decode w = some i

/-- An instruction of form R. -/
theorem ofR (op : BitVec 11) (i : Guard → RForm → Instr) (g : Guard) (f : RForm)
    (he : encode (i g f) = some (encR op g f))
    (hb : byOpcode op.toNat (encR op g f) =
      resR (encR op g f) (i (guardOf (encR op g f)) (rOf (encR op g f)))) : Statement (i g f) := by
  intro w h hw
  rw [he] at h
  cases h
  rw [guardOf_encR, rOf_encR] at hb
  exact decode_of _ (opcOf_encR op g f) hb hw

/-- An instruction of form V. -/
theorem ofV (op : BitVec 11) (i : Guard → VForm → Instr) (g : Guard) (f : VForm)
    (he : encode (i g f) = some (encV op g f))
    (hb : byOpcode op.toNat (encV op g f) =
      resV (encV op g f) (i (guardOf (encV op g f)) (vOf (encV op g f)))) : Statement (i g f) := by
  intro w h hw
  rw [he] at h
  cases h
  rw [guardOf_encV, vOf_encV, resV_encV] at hb
  exact decode_of _ (opcOf_encV op g f) hb hw

/-- An instruction of form M. -/
theorem ofM (op : BitVec 11) (i : Guard → MForm → Instr) (g : Guard) (f : MForm)
    (he : encode (i g f) = some (encM op g f))
    (hb : byOpcode op.toNat (encM op g f) =
      resM (encM op g f) (i (guardOf (encM op g f)) (mOf (encM op g f)))) : Statement (i g f) := by
  intro w h hw
  rw [he] at h
  cases h
  rw [guardOf_encM, mOf_encM, resM_encM] at hb
  exact decode_of _ (opcOf_encM op g f) hb hw

/-- An instruction of form B. -/
theorem ofB (op : BitVec 11) (i : Guard → BForm → Instr) (g : Guard) (f : BForm)
    (he : encode (i g f) = some (encB op g f))
    (hb : byOpcode op.toNat (encB op g f) =
      resB (encB op g f) (i (guardOf (encB op g f)) (bOf (encB op g f)))) : Statement (i g f) := by
  intro w h hw
  rw [he] at h
  cases h
  rw [guardOf_encB, bOf_encB, resB_encB] at hb
  exact decode_of _ (opcOf_encB op g f) hb hw

/-- An instruction of form E. -/
theorem ofE (op : BitVec 11) (i : Guard → EForm → Instr) (g : Guard) (f : EForm)
    (he : encode (i g f) = some (encE op g f))
    (hb : byOpcode op.toNat (encE op g f) =
      resE (encE op g f) (i (guardOf (encE op g f)) (eOf (encE op g f)))) : Statement (i g f) := by
  intro w h hw
  rw [he] at h
  cases h
  rw [guardOf_encE, eOf_encE, resE_encE] at hb
  exact decode_of _ (opcOf_encE op g f) hb hw

theorem nop (g : Guard) (f : RForm) : Statement (.nop g f) := ofR 0x001#11 .nop g f rfl rfl
theorem add (g : Guard) (f : RForm) : Statement (.add g f) := ofR 0x010#11 .add g f rfl rfl
theorem sub (g : Guard) (f : RForm) : Statement (.sub g f) := ofR 0x011#11 .sub g f rfl rfl
theorem mul (g : Guard) (f : RForm) : Statement (.mul g f) := ofR 0x012#11 .mul g f rfl rfl
theorem mulh (g : Guard) (f : RForm) : Statement (.mulh g f) := ofR 0x013#11 .mulh g f rfl rfl
theorem madd (g : Guard) (f : RForm) : Statement (.madd g f) := ofR 0x014#11 .madd g f rfl rfl
theorem div (g : Guard) (f : RForm) : Statement (.div g f) := ofR 0x015#11 .div g f rfl rfl
theorem rem (g : Guard) (f : RForm) : Statement (.rem g f) := ofR 0x016#11 .rem g f rfl rfl
theorem abs (g : Guard) (f : RForm) : Statement (.abs g f) := ofR 0x017#11 .abs g f rfl rfl
theorem min (g : Guard) (f : RForm) : Statement (.min g f) := ofR 0x018#11 .min g f rfl rfl
theorem max (g : Guard) (f : RForm) : Statement (.max g f) := ofR 0x019#11 .max g f rfl rfl
theorem and (g : Guard) (f : RForm) : Statement (.and g f) := ofR 0x020#11 .and g f rfl rfl
theorem or (g : Guard) (f : RForm) : Statement (.or g f) := ofR 0x021#11 .or g f rfl rfl
theorem xor (g : Guard) (f : RForm) : Statement (.xor g f) := ofR 0x022#11 .xor g f rfl rfl
theorem andn (g : Guard) (f : RForm) : Statement (.andn g f) := ofR 0x023#11 .andn g f rfl rfl
theorem orn (g : Guard) (f : RForm) : Statement (.orn g f) := ofR 0x024#11 .orn g f rfl rfl
theorem shl (g : Guard) (f : RForm) : Statement (.shl g f) := ofR 0x025#11 .shl g f rfl rfl
theorem shr (g : Guard) (f : RForm) : Statement (.shr g f) := ofR 0x026#11 .shr g f rfl rfl
theorem sar (g : Guard) (f : RForm) : Statement (.sar g f) := ofR 0x027#11 .sar g f rfl rfl
theorem rot (g : Guard) (f : RForm) : Statement (.rot g f) := ofR 0x028#11 .rot g f rfl rfl
theorem clz (g : Guard) (f : RForm) : Statement (.clz g f) := ofR 0x029#11 .clz g f rfl rfl
theorem ctz (g : Guard) (f : RForm) : Statement (.ctz g f) := ofR 0x02A#11 .ctz g f rfl rfl
theorem popc (g : Guard) (f : RForm) : Statement (.popc g f) := ofR 0x02B#11 .popc g f rfl rfl
theorem brev (g : Guard) (f : RForm) : Statement (.brev g f) := ofR 0x02C#11 .brev g f rfl rfl
theorem bswap (g : Guard) (f : RForm) : Statement (.bswap g f) := ofR 0x02D#11 .bswap g f rfl rfl
theorem mov (g : Guard) (f : RForm) : Statement (.mov g f) := ofR 0x030#11 .mov g f rfl rfl
theorem movi (g : Guard) (f : RForm) : Statement (.movi g f) := ofR 0x031#11 .movi g f rfl rfl
theorem movhi (g : Guard) (f : RForm) : Statement (.movhi g f) := ofR 0x032#11 .movhi g f rfl rfl
theorem sel (g : Guard) (f : RForm) : Statement (.sel g f) := ofR 0x033#11 .sel g f rfl rfl
theorem ext (g : Guard) (f : RForm) : Statement (.ext g f) := ofR 0x034#11 .ext g f rfl rfl
theorem bfx (g : Guard) (f : RForm) : Statement (.bfx g f) := ofR 0x035#11 .bfx g f rfl rfl
theorem bfi (g : Guard) (f : RForm) : Statement (.bfi g f) := ofR 0x036#11 .bfi g f rfl rfl
theorem lea (g : Guard) (f : RForm) : Statement (.lea g f) := ofR 0x037#11 .lea g f rfl rfl
theorem cmp (g : Guard) (f : RForm) : Statement (.cmp g f) := ofR 0x038#11 .cmp g f rfl rfl
theorem test (g : Guard) (f : RForm) : Statement (.test g f) := ofR 0x039#11 .test g f rfl rfl
theorem addc (g : Guard) (f : RForm) : Statement (.addc g f) := ofR 0x03A#11 .addc g f rfl rfl
theorem pand (g : Guard) (f : RForm) : Statement (.pand g f) := ofR 0x100#11 .pand g f rfl rfl
theorem por (g : Guard) (f : RForm) : Statement (.por g f) := ofR 0x101#11 .por g f rfl rfl
theorem pxor (g : Guard) (f : RForm) : Statement (.pxor g f) := ofR 0x102#11 .pxor g f rfl rfl
theorem pset (g : Guard) (f : RForm) : Statement (.pset g f) := ofR 0x103#11 .pset g f rfl rfl
theorem pget (g : Guard) (f : RForm) : Statement (.pget g f) := ofR 0x104#11 .pget g f rfl rfl
theorem br (g : Guard) (f : BForm) : Statement (.br g f) := ofB 0x110#11 .br g f rfl rfl
theorem bri (g : Guard) (f : RForm) : Statement (.bri g f) := ofR 0x111#11 .bri g f rfl rfl
theorem call (g : Guard) (f : BForm) : Statement (.call g f) := ofB 0x112#11 .call g f rfl rfl
theorem calli (g : Guard) (f : RForm) : Statement (.calli g f) := ofR 0x113#11 .calli g f rfl rfl
theorem ret (g : Guard) (f : RForm) : Statement (.ret g f) := ofR 0x114#11 .ret g f rfl rfl
theorem loop (g : Guard) (f : BForm) : Statement (.loop g f) := ofB 0x115#11 .loop g f rfl rfl
theorem fadd (g : Guard) (f : RForm) : Statement (.fadd g f) := ofR 0x180#11 .fadd g f rfl rfl
theorem fsub (g : Guard) (f : RForm) : Statement (.fsub g f) := ofR 0x181#11 .fsub g f rfl rfl
theorem fmul (g : Guard) (f : RForm) : Statement (.fmul g f) := ofR 0x182#11 .fmul g f rfl rfl
theorem ffma (g : Guard) (f : RForm) : Statement (.ffma g f) := ofR 0x183#11 .ffma g f rfl rfl
theorem fdiv (g : Guard) (f : RForm) : Statement (.fdiv g f) := ofR 0x184#11 .fdiv g f rfl rfl
theorem fsqrt (g : Guard) (f : RForm) : Statement (.fsqrt g f) := ofR 0x185#11 .fsqrt g f rfl rfl
theorem fmin (g : Guard) (f : RForm) : Statement (.fmin g f) := ofR 0x186#11 .fmin g f rfl rfl
theorem fmax (g : Guard) (f : RForm) : Statement (.fmax g f) := ofR 0x187#11 .fmax g f rfl rfl
theorem fcmp (g : Guard) (f : RForm) : Statement (.fcmp g f) := ofR 0x188#11 .fcmp g f rfl rfl
theorem fclass (g : Guard) (f : RForm) : Statement (.fclass g f) := ofR 0x189#11 .fclass g f rfl rfl
theorem fcvt (g : Guard) (f : RForm) : Statement (.fcvt g f) := ofR 0x18A#11 .fcvt g f rfl rfl
theorem fcvti (g : Guard) (f : RForm) : Statement (.fcvti g f) := ofR 0x18B#11 .fcvti g f rfl rfl
theorem icvtf (g : Guard) (f : RForm) : Statement (.icvtf g f) := ofR 0x18C#11 .icvtf g f rfl rfl
theorem frcp (g : Guard) (f : RForm) : Statement (.frcp g f) := ofR 0x18D#11 .frcp g f rfl rfl
theorem frsq (g : Guard) (f : RForm) : Statement (.frsq g f) := ofR 0x18E#11 .frsq g f rfl rfl
theorem fexp2 (g : Guard) (f : RForm) : Statement (.fexp2 g f) := ofR 0x18F#11 .fexp2 g f rfl rfl
theorem flog2 (g : Guard) (f : RForm) : Statement (.flog2 g f) := ofR 0x190#11 .flog2 g f rfl rfl
theorem fsgn (g : Guard) (f : RForm) : Statement (.fsgn g f) := ofR 0x191#11 .fsgn g f rfl rfl
theorem vadd (g : Guard) (f : VForm) : Statement (.vadd g f) := ofV 0x200#11 .vadd g f rfl rfl
theorem vsub (g : Guard) (f : VForm) : Statement (.vsub g f) := ofV 0x201#11 .vsub g f rfl rfl
theorem vmul (g : Guard) (f : VForm) : Statement (.vmul g f) := ofV 0x202#11 .vmul g f rfl rfl
theorem vmulh (g : Guard) (f : VForm) : Statement (.vmulh g f) := ofV 0x203#11 .vmulh g f rfl rfl
theorem vfma (g : Guard) (f : VForm) : Statement (.vfma g f) := ofV 0x204#11 .vfma g f rfl rfl
theorem vdiv (g : Guard) (f : VForm) : Statement (.vdiv g f) := ofV 0x205#11 .vdiv g f rfl rfl
theorem vsqrt (g : Guard) (f : VForm) : Statement (.vsqrt g f) := ofV 0x206#11 .vsqrt g f rfl rfl
theorem vmin (g : Guard) (f : VForm) : Statement (.vmin g f) := ofV 0x207#11 .vmin g f rfl rfl
theorem vmax (g : Guard) (f : VForm) : Statement (.vmax g f) := ofV 0x208#11 .vmax g f rfl rfl
theorem vabs (g : Guard) (f : VForm) : Statement (.vabs g f) := ofV 0x209#11 .vabs g f rfl rfl
theorem vsgn (g : Guard) (f : VForm) : Statement (.vsgn g f) := ofV 0x20A#11 .vsgn g f rfl rfl
theorem vadds (g : Guard) (f : VForm) : Statement (.vadds g f) := ofV 0x20B#11 .vadds g f rfl rfl
theorem vsubs (g : Guard) (f : VForm) : Statement (.vsubs g f) := ofV 0x20C#11 .vsubs g f rfl rfl
theorem vand (g : Guard) (f : VForm) : Statement (.vand g f) := ofV 0x210#11 .vand g f rfl rfl
theorem vor (g : Guard) (f : VForm) : Statement (.vor g f) := ofV 0x211#11 .vor g f rfl rfl
theorem vxor (g : Guard) (f : VForm) : Statement (.vxor g f) := ofV 0x212#11 .vxor g f rfl rfl
theorem vandn (g : Guard) (f : VForm) : Statement (.vandn g f) := ofV 0x213#11 .vandn g f rfl rfl
theorem vshl (g : Guard) (f : VForm) : Statement (.vshl g f) := ofV 0x214#11 .vshl g f rfl rfl
theorem vshr (g : Guard) (f : VForm) : Statement (.vshr g f) := ofV 0x215#11 .vshr g f rfl rfl
theorem vsar (g : Guard) (f : VForm) : Statement (.vsar g f) := ofV 0x216#11 .vsar g f rfl rfl
theorem vpopc (g : Guard) (f : VForm) : Statement (.vpopc g f) := ofV 0x217#11 .vpopc g f rfl rfl
theorem vcmp (g : Guard) (f : VForm) : Statement (.vcmp g f) := ofV 0x220#11 .vcmp g f rfl rfl
theorem vsel (g : Guard) (f : VForm) : Statement (.vsel g f) := ofV 0x221#11 .vsel g f rfl rfl
theorem vbcast (g : Guard) (f : VForm) : Statement (.vbcast g f) := ofV 0x222#11 .vbcast g f rfl rfl
theorem vext (g : Guard) (f : VForm) : Statement (.vext g f) := ofV 0x223#11 .vext g f rfl rfl
theorem vins (g : Guard) (f : VForm) : Statement (.vins g f) := ofV 0x224#11 .vins g f rfl rfl
theorem vperm (g : Guard) (f : VForm) : Statement (.vperm g f) := ofV 0x225#11 .vperm g f rfl rfl
theorem vrot (g : Guard) (f : VForm) : Statement (.vrot g f) := ofV 0x226#11 .vrot g f rfl rfl
theorem vmovi (g : Guard) (f : VForm) : Statement (.vmovi g f) := ofV 0x227#11 .vmovi g f rfl rfl
theorem vredsum (g : Guard) (f : VForm) : Statement (.vredsum g f) := ofV 0x230#11 .vredsum g f rfl rfl
theorem vredmin (g : Guard) (f : VForm) : Statement (.vredmin g f) := ofV 0x231#11 .vredmin g f rfl rfl
theorem vredmax (g : Guard) (f : VForm) : Statement (.vredmax g f) := ofV 0x232#11 .vredmax g f rfl rfl
theorem vscan (g : Guard) (f : VForm) : Statement (.vscan g f) := ofV 0x233#11 .vscan g f rfl rfl
theorem vcvt (g : Guard) (f : VForm) : Statement (.vcvt g f) := ofV 0x240#11 .vcvt g f rfl rfl
theorem vpack (g : Guard) (f : VForm) : Statement (.vpack g f) := ofV 0x241#11 .vpack g f rfl rfl
theorem vwiden (g : Guard) (f : VForm) : Statement (.vwiden g f) := ofV 0x242#11 .vwiden g f rfl rfl
theorem vunpack3 (g : Guard) (f : VForm) : Statement (.vunpack3 g f) := ofV 0x243#11 .vunpack3 g f rfl rfl
theorem vsparse24 (g : Guard) (f : VForm) : Statement (.vsparse24 g f) := ofV 0x244#11 .vsparse24 g f rfl rfl
theorem vexpand24 (g : Guard) (f : VForm) : Statement (.vexpand24 g f) := ofV 0x245#11 .vexpand24 g f rfl rfl
theorem vdot4 (g : Guard) (f : VForm) : Statement (.vdot4 g f) := ofV 0x246#11 .vdot4 g f rfl rfl
theorem vtacc (g : Guard) (f : VForm) : Statement (.vtacc g f) := ofV 0x247#11 .vtacc g f rfl rfl
theorem vquant (g : Guard) (f : VForm) : Statement (.vquant g f) := ofV 0x248#11 .vquant g f rfl rfl
theorem vdeq (g : Guard) (f : VForm) : Statement (.vdeq g f) := ofV 0x249#11 .vdeq g f rfl rfl
theorem vrcp (g : Guard) (f : VForm) : Statement (.vrcp g f) := ofV 0x250#11 .vrcp g f rfl rfl
theorem vrsq (g : Guard) (f : VForm) : Statement (.vrsq g f) := ofV 0x251#11 .vrsq g f rfl rfl
theorem vexp2 (g : Guard) (f : VForm) : Statement (.vexp2 g f) := ofV 0x252#11 .vexp2 g f rfl rfl
theorem vlog2 (g : Guard) (f : VForm) : Statement (.vlog2 g f) := ofV 0x253#11 .vlog2 g f rfl rfl
theorem mand (g : Guard) (f : VForm) : Statement (.mand g f) := ofV 0x260#11 .mand g f rfl rfl
theorem mor (g : Guard) (f : VForm) : Statement (.mor g f) := ofV 0x261#11 .mor g f rfl rfl
theorem mxor (g : Guard) (f : VForm) : Statement (.mxor g f) := ofV 0x262#11 .mxor g f rfl rfl
theorem mnot (g : Guard) (f : VForm) : Statement (.mnot g f) := ofV 0x263#11 .mnot g f rfl rfl
theorem mpop (g : Guard) (f : VForm) : Statement (.mpop g f) := ofV 0x264#11 .mpop g f rfl rfl
theorem mfirst (g : Guard) (f : VForm) : Statement (.mfirst g f) := ofV 0x265#11 .mfirst g f rfl rfl
theorem mmov (g : Guard) (f : VForm) : Statement (.mmov g f) := ofV 0x266#11 .mmov g f rfl rfl
theorem ld (g : Guard) (f : MForm) : Statement (.ld g f) := ofM 0x400#11 .ld g f rfl rfl
theorem st (g : Guard) (f : MForm) : Statement (.st g f) := ofM 0x401#11 .st g f rfl rfl
theorem lda (g : Guard) (f : MForm) : Statement (.lda g f) := ofM 0x402#11 .lda g f rfl rfl
theorem strel (g : Guard) (f : MForm) : Statement (.strel g f) := ofM 0x403#11 .strel g f rfl rfl
theorem ldc (g : Guard) (f : MForm) : Statement (.ldc g f) := ofM 0x404#11 .ldc g f rfl rfl
theorem ldp (g : Guard) (f : MForm) : Statement (.ldp g f) := ofM 0x405#11 .ldp g f rfl rfl
theorem stp (g : Guard) (f : MForm) : Statement (.stp g f) := ofM 0x406#11 .stp g f rfl rfl
theorem pref (g : Guard) (f : MForm) : Statement (.pref g f) := ofM 0x407#11 .pref g f rfl rfl
theorem fence (g : Guard) (f : MForm) : Statement (.fence g f) := ofM 0x408#11 .fence g f rfl rfl
theorem flush (g : Guard) (f : MForm) : Statement (.flush g f) := ofM 0x409#11 .flush g f rfl rfl
theorem pin (g : Guard) (f : MForm) : Statement (.pin g f) := ofM 0x40A#11 .pin g f rfl rfl
theorem unpin (g : Guard) (f : MForm) : Statement (.unpin g f) := ofM 0x40B#11 .unpin g f rfl rfl
theorem amo (g : Guard) (f : MForm) : Statement (.amo g f) := ofM 0x410#11 .amo g f rfl rfl
theorem cas (g : Guard) (f : MForm) : Statement (.cas g f) := ofM 0x411#11 .cas g f rfl rfl
theorem cas2 (g : Guard) (f : MForm) : Statement (.cas2 g f) := ofM 0x412#11 .cas2 g f rfl rfl
theorem vld (g : Guard) (f : MForm) : Statement (.vld g f) := ofM 0x480#11 .vld g f rfl rfl
theorem vst (g : Guard) (f : MForm) : Statement (.vst g f) := ofM 0x481#11 .vst g f rfl rfl
theorem vlds (g : Guard) (f : MForm) : Statement (.vlds g f) := ofM 0x482#11 .vlds g f rfl rfl
theorem vsts (g : Guard) (f : MForm) : Statement (.vsts g f) := ofM 0x483#11 .vsts g f rfl rfl
theorem vgather (g : Guard) (f : MForm) : Statement (.vgather g f) := ofM 0x484#11 .vgather g f rfl rfl
theorem vscatter (g : Guard) (f : MForm) : Statement (.vscatter g f) := ofM 0x485#11 .vscatter g f rfl rfl
theorem vldb (g : Guard) (f : MForm) : Statement (.vldb g f) := ofM 0x486#11 .vldb g f rfl rfl
theorem sync (g : Guard) (f : RForm) : Statement (.sync g f) := ofR 0x500#11 .sync g f rfl rfl
theorem vote (g : Guard) (f : RForm) : Statement (.vote g f) := ofR 0x501#11 .vote g f rfl rfl
theorem bara (g : Guard) (f : RForm) : Statement (.bara g f) := ofR 0x502#11 .bara g f rfl rfl
theorem barw (g : Guard) (f : RForm) : Statement (.barw g f) := ofR 0x503#11 .barw g f rfl rfl
theorem domset (g : Guard) (f : RForm) : Statement (.domset g f) := ofR 0x504#11 .domset g f rfl rfl
theorem send (g : Guard) (f : EForm) : Statement (.send g f) := ofE 0x510#11 .send g f rfl rfl
theorem recv (g : Guard) (f : RForm) : Statement (.recv g f) := ofR 0x511#11 .recv g f rfl rfl
theorem peek (g : Guard) (f : RForm) : Statement (.peek g f) := ofR 0x512#11 .peek g f rfl rfl
theorem waita (g : Guard) (f : RForm) : Statement (.waita g f) := ofR 0x513#11 .waita g f rfl rfl
theorem wake (g : Guard) (f : RForm) : Statement (.wake g f) := ofR 0x514#11 .wake g f rfl rfl
theorem walk (g : Guard) (f : RForm) : Statement (.walk g f) := ofR 0x520#11 .walk g f rfl rfl
theorem tend (g : Guard) (f : RForm) : Statement (.tend g f) := ofR 0x521#11 .tend g f rfl rfl
theorem taskadd (g : Guard) (f : RForm) : Statement (.taskadd g f) := ofR 0x522#11 .taskadd g f rfl rfl
theorem spawn (g : Guard) (f : RForm) : Statement (.spawn g f) := ofR 0x523#11 .spawn g f rfl rfl
theorem yield (g : Guard) (f : RForm) : Statement (.yield g f) := ofR 0x524#11 .yield g f rfl rfl
theorem exit (g : Guard) (f : RForm) : Statement (.exit g f) := ofR 0x525#11 .exit g f rfl rfl
theorem mloadw (g : Guard) (f : EForm) : Statement (.mloadw g f) := ofE 0x580#11 .mloadw g f rfl rfl
theorem mswap (g : Guard) (f : EForm) : Statement (.mswap g f) := ofE 0x581#11 .mswap g f rfl rfl
theorem mstream (g : Guard) (f : EForm) : Statement (.mstream g f) := ofE 0x582#11 .mstream g f rfl rfl
theorem mzero (g : Guard) (f : EForm) : Statement (.mzero g f) := ofE 0x583#11 .mzero g f rfl rfl
theorem accrd (g : Guard) (f : EForm) : Statement (.accrd g f) := ofE 0x584#11 .accrd g f rfl rfl
theorem accwr (g : Guard) (f : EForm) : Statement (.accwr g f) := ofE 0x585#11 .accwr g f rfl rfl
theorem mstat (g : Guard) (f : RForm) : Statement (.mstat g f) := ofR 0x586#11 .mstat g f rfl rfl
theorem cpy (g : Guard) (f : EForm) : Statement (.cpy g f) := ofE 0x590#11 .cpy g f rfl rfl
theorem cpy2 (g : Guard) (f : EForm) : Statement (.cpy2 g f) := ofE 0x591#11 .cpy2 g f rfl rfl
theorem cpyr (g : Guard) (f : EForm) : Statement (.cpyr g f) := ofE 0x592#11 .cpyr g f rfl rfl
theorem coll (g : Guard) (f : EForm) : Statement (.coll g f) := ofE 0x593#11 .coll g f rfl rfl
theorem ecode (g : Guard) (f : EForm) : Statement (.ecode g f) := ofE 0x594#11 .ecode g f rfl rfl
theorem ckpt (g : Guard) (f : EForm) : Statement (.ckpt g f) := ofE 0x595#11 .ckpt g f rfl rfl
theorem migr (g : Guard) (f : EForm) : Statement (.migr g f) := ofE 0x596#11 .migr g f rfl rfl
theorem gset (g : Guard) (f : RForm) : Statement (.gset g f) := ofR 0x5A0#11 .gset g f rfl rfl
theorem cbatch (g : Guard) (f : RForm) : Statement (.cbatch g f) := ofR 0x5A1#11 .cbatch g f rfl rfl
theorem waitb (g : Guard) (f : RForm) : Statement (.waitb g f) := ofR 0x5A2#11 .waitb g f rfl rfl
theorem engq (g : Guard) (f : EForm) : Statement (.engq g f) := ofE 0x5A3#11 .engq g f rfl rfl
theorem trap (g : Guard) (f : RForm) : Statement (.trap g f) := ofR 0x600#11 .trap g f rfl rfl
theorem eret (g : Guard) (f : RForm) : Statement (.eret g f) := ofR 0x601#11 .eret g f rfl rfl
theorem brk (g : Guard) (f : RForm) : Statement (.brk g f) := ofR 0x602#11 .brk g f rfl rfl
theorem csrrd (g : Guard) (f : RForm) : Statement (.csrrd g f) := ofR 0x603#11 .csrrd g f rfl rfl
theorem csrwr (g : Guard) (f : RForm) : Statement (.csrwr g f) := ofR 0x604#11 .csrwr g f rfl rfl
theorem csrset (g : Guard) (f : RForm) : Statement (.csrset g f) := ofR 0x605#11 .csrset g f rfl rfl
theorem csrclr (g : Guard) (f : RForm) : Statement (.csrclr g f) := ofR 0x606#11 .csrclr g f rfl rfl
theorem ifence (g : Guard) (f : RForm) : Statement (.ifence g f) := ofR 0x607#11 .ifence g f rfl rfl
theorem dlog (g : Guard) (f : RForm) : Statement (.dlog g f) := ofR 0x608#11 .dlog g f rfl rfl
theorem resume (g : Guard) (f : RForm) : Statement (.resume g f) := ofR 0x609#11 .resume g f rfl rfl
theorem cdopen (g : Guard) (f : RForm) : Statement (.cdopen g f) := ofR 0x610#11 .cdopen g f rfl rfl
theorem cdpres (g : Guard) (f : RForm) : Statement (.cdpres g f) := ofR 0x611#11 .cdpres g f rfl rfl
theorem cdout (g : Guard) (f : RForm) : Statement (.cdout g f) := ofR 0x612#11 .cdout g f rfl rfl
theorem cdclose (g : Guard) (f : RForm) : Statement (.cdclose g f) := ofR 0x613#11 .cdclose g f rfl rfl
theorem cdfail (g : Guard) (f : RForm) : Statement (.cdfail g f) := ofR 0x614#11 .cdfail g f rfl rfl
theorem rbegin (g : Guard) (f : RForm) : Statement (.rbegin g f) := ofR 0x615#11 .rbegin g f rfl rfl
theorem rcommit (g : Guard) (f : RForm) : Statement (.rcommit g f) := ofR 0x616#11 .rcommit g f rfl rfl
theorem deferredResultReturn x0 x1 x2 : Statement (.deferredResultReturn x0 x1 x2) := fun _ h _ => nomatch h
theorem deferredFailure x0 : Statement (.deferredFailure x0) := fun _ h _ => nomatch h
theorem faultDelivery x0 : Statement (.faultDelivery x0) := fun _ h _ => nomatch h
theorem localTrapEntry x0 : Statement (.localTrapEntry x0) := fun _ h _ => nomatch h
theorem resumeDelivery x0 : Statement (.resumeDelivery x0) := fun _ h _ => nomatch h
theorem cdRollback x0 : Statement (.cdRollback x0) := fun _ h _ => nomatch h
theorem contextSwapOut x0 : Statement (.contextSwapOut x0) := fun _ h _ => nomatch h
theorem pageMadeResident x0 x1 : Statement (.pageMadeResident x0 x1) := fun _ h _ => nomatch h
theorem contextRestore x0 x1 : Statement (.contextRestore x0 x1) := fun _ h _ => nomatch h
theorem storeBufferDrain x0 : Statement (.storeBufferDrain x0) := fun _ h _ => nomatch h
theorem farStoreDrain x0 x1 x2 : Statement (.farStoreDrain x0 x1 x2) := fun _ h _ => nomatch h
theorem logMerge x0 x1 : Statement (.logMerge x0 x1) := fun _ h _ => nomatch h
theorem messageArrival x0 : Statement (.messageArrival x0) := fun _ h _ => nomatch h
theorem spillRingMove x0 : Statement (.spillRingMove x0) := fun _ h _ => nomatch h
theorem wakeDelivery x0 : Statement (.wakeDelivery x0) := fun _ h _ => nomatch h
theorem walkTaskDispatch x0 x1 : Statement (.walkTaskDispatch x0 x1) := fun _ h _ => nomatch h
theorem queuedTaskDispatch x0 : Statement (.queuedTaskDispatch x0) := fun _ h _ => nomatch h
theorem footprintWriteOut x0 : Statement (.footprintWriteOut x0) := fun _ h _ => nomatch h
theorem syncDomainComplete x0 x1 x2 x3 : Statement (.syncDomainComplete x0 x1 x2 x3) := fun _ h _ => nomatch h
theorem exchangeComplete x0 x1 x2 x3 x4 : Statement (.exchangeComplete x0 x1 x2 x3 x4) := fun _ h _ => nomatch h
theorem syncTimeout x0 : Statement (.syncTimeout x0) := fun _ h _ => nomatch h
theorem barrierRelease x0 x1 : Statement (.barrierRelease x0 x1) := fun _ h _ => nomatch h
theorem launchUnitPass x0 : Statement (.launchUnitPass x0) := fun _ h _ => nomatch h
theorem launchEntry x0 : Statement (.launchEntry x0) := fun _ h _ => nomatch h
theorem launchEnd x0 : Statement (.launchEnd x0) := fun _ h _ => nomatch h
theorem patienceExpiry x0 x1 : Statement (.patienceExpiry x0 x1) := fun _ h _ => nomatch h
theorem drainBoundaryHold x0 x1 : Statement (.drainBoundaryHold x0 x1) := fun _ h _ => nomatch h
theorem drainLimitExpiry x0 : Statement (.drainLimitExpiry x0) := fun _ h _ => nomatch h
theorem saveComplete x0 x1 : Statement (.saveComplete x0 x1) := fun _ h _ => nomatch h
theorem saveLimitExpiry x0 : Statement (.saveLimitExpiry x0) := fun _ h _ => nomatch h
theorem launchRestore x0 : Statement (.launchRestore x0) := fun _ h _ => nomatch h
theorem checkpointRestart x0 : Statement (.checkpointRestart x0) := fun _ h _ => nomatch h
theorem engineCommandArrival x0 : Statement (.engineCommandArrival x0) := fun _ h _ => nomatch h
theorem crierWindowExpiry x0 : Statement (.crierWindowExpiry x0) := fun _ h _ => nomatch h
theorem commandCompletion x0 : Statement (.commandCompletion x0) := fun _ h _ => nomatch h
theorem engineWatchdogExpiry x0 : Statement (.engineWatchdogExpiry x0) := fun _ h _ => nomatch h
theorem mloadwRun x0 : Statement (.mloadwRun x0) := fun _ h _ => nomatch h
theorem mswapRun x0 : Statement (.mswapRun x0) := fun _ h _ => nomatch h
theorem mstreamTileStep x0 x1 : Statement (.mstreamTileStep x0 x1) := fun _ h _ => nomatch h
theorem mzeroTileStep x0 : Statement (.mzeroTileStep x0) := fun _ h _ => nomatch h
theorem accrdTileStep x0 : Statement (.accrdTileStep x0) := fun _ h _ => nomatch h
theorem accwrTileStep x0 : Statement (.accwrTileStep x0) := fun _ h _ => nomatch h
theorem mstatQueryRun x0 : Statement (.mstatQueryRun x0) := fun _ h _ => nomatch h
theorem scrubberRead x0 x1 : Statement (.scrubberRead x0 x1) := fun _ h _ => nomatch h
theorem millSubarrayGating x0 x1 : Statement (.millSubarrayGating x0 x1) := fun _ h _ => nomatch h
theorem cpyRun x0 x1 : Statement (.cpyRun x0 x1) := fun _ h _ => nomatch h
theorem cpy2Run x0 x1 : Statement (.cpy2Run x0 x1) := fun _ h _ => nomatch h
theorem cpyrRun x0 x1 : Statement (.cpyrRun x0 x1) := fun _ h _ => nomatch h
theorem collRun x0 x1 : Statement (.collRun x0 x1) := fun _ h _ => nomatch h
theorem ecodeRun x0 : Statement (.ecodeRun x0) := fun _ h _ => nomatch h
theorem ckptCutBoundary x0 : Statement (.ckptCutBoundary x0) := fun _ h _ => nomatch h
theorem ckptPageCopy x0 x1 : Statement (.ckptPageCopy x0 x1) := fun _ h _ => nomatch h
theorem ckptCommit x0 : Statement (.ckptCommit x0) := fun _ h _ => nomatch h
theorem ckptRestoreRun x0 : Statement (.ckptRestoreRun x0) := fun _ h _ => nomatch h
theorem migrRun x0 : Statement (.migrRun x0) := fun _ h _ => nomatch h
theorem engqQueryRun x0 : Statement (.engqQueryRun x0) := fun _ h _ => nomatch h
theorem engqDrainComplete x0 : Statement (.engqDrainComplete x0) := fun _ h _ => nomatch h
theorem einjResultArm x0 x1 : Statement (.einjResultArm x0 x1) := fun _ h _ => nomatch h
theorem einjStoreSingleFlip x0 x1 : Statement (.einjStoreSingleFlip x0 x1) := fun _ h _ => nomatch h
theorem einjStoreDoubleFlip x0 x1 : Statement (.einjStoreDoubleFlip x0 x1) := fun _ h _ => nomatch h
theorem einjAccumulatorArm x0 x1 : Statement (.einjAccumulatorArm x0 x1) := fun _ h _ => nomatch h
theorem accumulatorFlip x0 : Statement (.accumulatorFlip x0) := fun _ h _ => nomatch h
theorem logRegisterWrite x0 x1 x2 : Statement (.logRegisterWrite x0 x1 x2) := fun _ h _ => nomatch h
theorem spillbaseWrite x0 x1 : Statement (.spillbaseWrite x0 x1) := fun _ h _ => nomatch h
theorem mflgposClear x0 : Statement (.mflgposClear x0) := fun _ h _ => nomatch h
theorem pageTableChange x0 x1 x2 : Statement (.pageTableChange x0 x1 x2) := fun _ h _ => nomatch h
theorem thresholdMigration x0 : Statement (.thresholdMigration x0) := fun _ h _ => nomatch h
theorem transientRequest x0 x1 x2 x3 : Statement (.transientRequest x0 x1 x2 x3) := fun _ h _ => nomatch h
theorem tokenAttemptTimeout x0 x1 : Statement (.tokenAttemptTimeout x0 x1) := fun _ h _ => nomatch h
theorem persistentRequest x0 x1 x2 : Statement (.persistentRequest x0 x1 x2) := fun _ h _ => nomatch h
theorem persistentActivation x0 : Statement (.persistentActivation x0) := fun _ h _ => nomatch h
theorem persistentDeactivation x0 : Statement (.persistentDeactivation x0) := fun _ h _ => nomatch h
theorem lineEviction x0 x1 : Statement (.lineEviction x0 x1) := fun _ h _ => nomatch h
theorem dieFailureDeclared x0 x1 : Statement (.dieFailureDeclared x0 x1) := fun _ h _ => nomatch h
theorem tokenRecoveryComplete x0 : Statement (.tokenRecoveryComplete x0) := fun _ h _ => nomatch h
theorem spareTakeover x0 x1 x2 x3 : Statement (.spareTakeover x0 x1 x2 x3) := fun _ h _ => nomatch h
theorem dieEvacuation x0 x1 : Statement (.dieEvacuation x0 x1) := fun _ h _ => nomatch h
theorem evacuationTimeout x0 x1 : Statement (.evacuationTimeout x0 x1) := fun _ h _ => nomatch h
theorem tierDieLoss x0 x1 : Statement (.tierDieLoss x0 x1) := fun _ h _ => nomatch h
theorem linkDeadDeclared x0 x1 x2 : Statement (.linkDeadDeclared x0 x1 x2) := fun _ h _ => nomatch h
theorem routeTableRewrite x0 : Statement (.routeTableRewrite x0) := fun _ h _ => nomatch h
theorem fabricChannelDead x0 x1 x2 : Statement (.fabricChannelDead x0 x1 x2) := fun _ h _ => nomatch h
theorem remoteAccessArrival x0 x1 : Statement (.remoteAccessArrival x0 x1) := fun _ h _ => nomatch h
theorem leaseGrant x0 x1 x2 : Statement (.leaseGrant x0 x1 x2) := fun _ h _ => nomatch h
theorem leaseRenewal x0 x1 x2 : Statement (.leaseRenewal x0 x1 x2) := fun _ h _ => nomatch h
theorem leaseExpiry x0 x1 : Statement (.leaseExpiry x0 x1) := fun _ h _ => nomatch h
theorem reclaim x0 x1 x2 : Statement (.reclaim x0 x1 x2) := fun _ h _ => nomatch h
theorem release x0 x1 : Statement (.release x0 x1) := fun _ h _ => nomatch h
theorem reclaimDeadline x0 x1 x2 : Statement (.reclaimDeadline x0 x1 x2) := fun _ h _ => nomatch h
theorem windowRevocation x0 x1 : Statement (.windowRevocation x0 x1) := fun _ h _ => nomatch h
theorem rowRebuild x0 x1 : Statement (.rowRebuild x0 x1) := fun _ h _ => nomatch h
theorem rdmaWrite x0 x1 : Statement (.rdmaWrite x0 x1) := fun _ h _ => nomatch h
theorem rdmaRead x0 : Statement (.rdmaRead x0) := fun _ h _ => nomatch h
theorem compareSwap x0 x1 x2 : Statement (.compareSwap x0 x1 x2) := fun _ h _ => nomatch h
theorem fetchAdd x0 x1 : Statement (.fetchAdd x0 x1) := fun _ h _ => nomatch h
theorem diagnosisRepeat x0 x1 x2 x3 : Statement (.diagnosisRepeat x0 x1 x2 x3) := fun _ h _ => nomatch h
theorem ackSilenceTimeout x0 x1 : Statement (.ackSilenceTimeout x0 x1) := fun _ h _ => nomatch h
theorem voterTimeout x0 x1 : Statement (.voterTimeout x0 x1) := fun _ h _ => nomatch h
theorem moduleFailureDeclared x0 : Statement (.moduleFailureDeclared x0) := fun _ h _ => nomatch h
theorem capabilityFault x0 x1 : Statement (.capabilityFault x0 x1) := fun _ h _ => nomatch h
theorem bootStep x0 x1 x2 : Statement (.bootStep x0 x1 x2) := fun _ h _ => nomatch h
theorem tamperAlarm x0 : Statement (.tamperAlarm x0) := fun _ h _ => nomatch h
theorem thermalThrottle x0 x1 : Statement (.thermalThrottle x0 x1) := fun _ h _ => nomatch h
theorem throttleRelease x0 x1 : Statement (.throttleRelease x0 x1) := fun _ h _ => nomatch h
theorem thermalStop x0 x1 : Statement (.thermalStop x0 x1) := fun _ h _ => nomatch h
theorem moduleReset x0 : Statement (.moduleReset x0) := fun _ h _ => nomatch h
theorem debugHalt x0 : Statement (.debugHalt x0) := fun _ h _ => nomatch h
theorem debugContinue x0 : Statement (.debugContinue x0) := fun _ h _ => nomatch h
theorem debugGroupHalt x0 : Statement (.debugGroupHalt x0) := fun _ h _ => nomatch h
theorem boundaryDump x0 : Statement (.boundaryDump x0) := fun _ h _ => nomatch h
theorem forcedDump x0 x1 : Statement (.forcedDump x0 x1) := fun _ h _ => nomatch h
theorem counterSnapshot x0 : Statement (.counterSnapshot x0) := fun _ h _ => nomatch h
theorem hostWindowWrite x0 x1 x2 : Statement (.hostWindowWrite x0 x1 x2) := fun _ h _ => nomatch h
theorem queueRegistration x0 x1 x2 x3 x4 x5 x6 : Statement (.queueRegistration x0 x1 x2 x3 x4 x5 x6) := fun _ h _ => nomatch h
theorem preemptionRequest x0 : Statement (.preemptionRequest x0) := fun _ h _ => nomatch h
theorem controlledReset x0 x1 : Statement (.controlledReset x0 x1) := fun _ h _ => nomatch h
theorem hbm4eStackLoss x0 x1 : Statement (.hbm4eStackLoss x0 x1) := fun _ h _ => nomatch h
theorem bitFlip x0 : Statement (.bitFlip x0) := fun _ h _ => nomatch h
theorem serviceProcessorFailure x0 x1 : Statement (.serviceProcessorFailure x0 x1) := fun _ h _ => nomatch h
theorem hostConnectionFailure x0 x1 : Statement (.hostConnectionFailure x0 x1) := fun _ h _ => nomatch h
theorem unsupportedHostRequest x0 x1 : Statement (.unsupportedHostRequest x0 x1) := fun _ h _ => nomatch h

end Sys2Proof.Laws.RoundTrip
end

