-- ==== Sys2Proof/Laws/Seen.lean ====
section
/-!
SUPPORT. What a read may change: a translation sets A bits and counts in its page's entry, a read corrects words, and nothing else
changes. The launch unit's reads of a queue and of its records are such reads.
-/

namespace Sys2Proof.Machine

/-- The two states differ at most in memory, error entries and page entries. -/
def OnlyRead (s t : State) : Prop := t = { s with mem := t.mem, ecc := t.ecc, pages := t.pages }

theorem onlyRead_refl (s : State) : OnlyRead s s := rfl

theorem onlyRead_trans {s t u : State} (h : OnlyRead s t) (k : OnlyRead t u) : OnlyRead s u := by
  unfold OnlyRead at *
  rw [k, h]

theorem touchPage_reads (s : State) (p : PageRef) (a : Nat) : OnlyRead s (touchPage s p a) := by
  unfold touchPage
  dsimp only
  split <;> rfl

theorem missTouch_reads (s : State) (p : PageRef) (a : Nat) : OnlyRead s (missTouch s p a) := by
  unfold missTouch
  split
  · exact touchPage_reads s p a
  · exact onlyRead_refl s

theorem translate_reads (s : State) (w : Who) (va : Word) (l : LineRef) (a own : Nat) : OnlyRead s (translate s w va l a own) := by
  have h := missTouch_reads s (pageOfLine l) a
  unfold translate
  dsimp only
  split
  · split
    · exact onlyRead_trans h (missTouch_reads _ _ _)
    · exact h
  · exact h

theorem failSeen_reads (s : State) (w : Who) (va : Word) : OnlyRead s (failSeen s w va) := by
  unfold failSeen
  split
  · split
    · dsimp only
      split
      · exact missTouch_reads _ _ _
      · split
        · split
          · exact onlyRead_trans (missTouch_reads _ _ _) (missTouch_reads _ _ _)
          · exact missTouch_reads _ _ _
        · exact missTouch_reads _ _ _
    · exact onlyRead_refl s
  · exact onlyRead_refl s

theorem readFlat_reads (s : State) (a n : Nat) : OnlyRead s (readFlat s a n).2 := by
  unfold readFlat
  dsimp only
  split <;> rfl

theorem luTouch_reads (s : State) (w : Who) (va : Word) (n k : Nat) : OnlyRead s (luTouch s w va n k) := by
  induction k generalizing s va n with
  | zero => exact onlyRead_refl s
  | succ k ih =>
    unfold luTouch
    dsimp only
    split
    · exact onlyRead_refl s
    · split
      · exact onlyRead_trans (onlyRead_trans (translate_reads _ _ _ _ _ _) (readFlat_reads _ _ _)) (ih _ _ _)
      · exact onlyRead_trans (onlyRead_trans (touchPage_reads _ _ _) (readFlat_reads _ _ _)) (ih _ _ _)
      · exact onlyRead_trans (readFlat_reads _ _ _) (ih _ _ _)
      · exact failSeen_reads _ _ _
      · exact onlyRead_refl s

theorem recSeen_reads (s : State) (m : Nat) (ws : List Word) (code : Nat) : OnlyRead s (recSeen s m ws code) := by
  unfold recSeen
  dsimp only
  generalize recReads s (luWho m (recFields ws).asid) ws code = rs
  have h : ∀ (rs : List (Word × Nat)) (t : State), OnlyRead s t →
      OnlyRead s (rs.foldl (fun s r => luTouch s (luWho m (recFields ws).asid) r.1 r.2 (r.2 / 128 + 2)) t) := by
    intro rs
    induction rs with
    | nil => exact fun t h => h
    | cons r rs ih => exact fun t h => ih _ (onlyRead_trans h (luTouch_reads _ _ _ _ _))
  exact h rs s (onlyRead_refl s)

theorem headSeen_reads (s : State) (m : Nat) (u : Queue) (h code : Nat) : OnlyRead s (headSeen s m u h code) := by
  unfold headSeen
  dsimp only
  have k := onlyRead_trans (luTouch_reads s (luWho m 0) u.desc 64 1) (luTouch_reads _ (luWho m 0) (ringSlot s m u h) 256 3)
  split
  · exact onlyRead_trans k (recSeen_reads _ _ _ _)
  · exact k

end Sys2Proof.Machine
end

