-- ==== Sys2Proof/Tests/Slice0.lean ====
section
/-!
SUPPORT. Tests: well-formedness refuses ill-formed terms, cells that the spec writes out decode to their instructions, and
single steps give the values of the spec's worked examples.
-/

namespace Sys2Proof.Tests

set_option Elab.async false

open Sys2Proof Sys2Proof.Machine

/-- The guard of an unguarded instruction (R30). -/
def g0 : Guard := ⟨false, 7, false⟩

/-- Forms with every field zero. -/
def rz : RForm := ⟨.s8, false, 0, 0, 0, 0, 0, 0⟩
def vz : VForm := ⟨.s8, false, 0, 0, 0, 0, 0, false, 0, 0⟩
def mz : MForm := ⟨.s8, 0, false, 0, 0, 0, 0, false, 0, 0, 0, 0⟩
def bz : BForm := ⟨0, 0, 0, 0, 0, 0⟩
def ez : EForm := ⟨.s8, false, 0, 0, 0, 0, 0, 0⟩

/-- Slot 0 of core 0. -/
def w0 : SlotRef := ⟨0, 0, 0, 0⟩

/-- A slot that is READY at cell 0 of the line at 0. -/
def x0 : Slot := { Slot.reset with st := .ready, pc := 4 }

/-- The machine after reset with the given slot 0. -/
def with0 (x : Slot) : State := setSlot State.reset w0 x

/-! ### Well-formedness refuses -/

theorem test_wf_guard : (Instr.nop ⟨true, 7, false⟩ rz).wf = false := by decide
theorem test_wf_guard_ok : (Instr.nop ⟨true, 6, false⟩ rz).wf = true := by decide
theorem test_wf_type : (Instr.add g0 { rz with ty := .f32 }).wf = false := by decide
theorem test_wf_sub : (Instr.add g0 { rz with sub := 2 }).wf = false := by decide
theorem test_wf_unused_field : (Instr.add g0 { rz with c := 1 }).wf = false := by decide
theorem test_wf_unused_imm : (Instr.add g0 { rz with imm := 1 }).wf = false := by decide
theorem test_wf_imm_ok : (Instr.add g0 { rz with i := true, imm := 1 }).wf = true := by decide
theorem test_wf_imm_not_allowed : (Instr.abs g0 { rz with i := true }).wf = false := by decide
theorem test_wf_imm_with_b : (Instr.add g0 { rz with i := true, b := 1 }).wf = false := by decide
theorem test_wf_predicate : (Instr.cmp g0 { rz with d := 8 }).wf = false := by decide
theorem test_wf_bitfield : (Instr.bfx g0 { rz with ty := .s64, imm := 0xFC1 }).wf = false := by decide
theorem test_wf_ext_type : (Instr.ext g0 { rz with ty := .s32 }).wf = false := by decide
theorem test_wf_pset : (Instr.pset g0 { rz with i := true, a := 1 }).wf = false := by decide
theorem test_wf_pget : (Instr.pget g0 { rz with sub := 1, a := 1 }).wf = false := by decide
theorem test_wf_branch_cell : (Instr.br g0 { bz with cell := 5 }).wf = false := by decide
theorem test_wf_loop_s0 : (Instr.loop g0 bz).wf = false := by decide
theorem test_wf_rounding : (Instr.fadd g0 { rz with ty := .f32, sub := 1 }).wf = false := by decide
theorem test_wf_cvt_source : (Instr.fcvt g0 { rz with ty := .f32 }).wf = false := by decide
theorem test_wf_cvt_sat : (Instr.fcvt g0 { rz with ty := .f32, imm := 0x19 }).wf = false := by decide
theorem test_wf_vector_field : (Instr.vadd g0 { vz with d := 32 }).wf = false := by decide
theorem test_wf_vector_round : (Instr.vadd g0 { vz with sub := 4 }).wf = false := by decide
theorem test_wf_vector_mask : (Instr.vsel g0 { vz with mask := 1 }).wf = false := by decide
theorem test_wf_reduce_sat : (Instr.vredsum g0 { vz with ty := .f32, sub := 1 }).wf = false := by decide
theorem test_wf_vcvt_part : (Instr.vcvt g0 { vz with ty := .f32, vimm := 0x49 }).wf = false := by decide
theorem test_wf_mask_pair : (Instr.vsparse24 g0 { vz with c := 3 }).wf = false := by decide
theorem test_wf_mmov : (Instr.mmov g0 { vz with sub := 2, a := 8 }).wf = false := by decide
theorem test_wf_index : (Instr.ld g0 { mz with b := 1 }).wf = false := by decide
theorem test_wf_no_index : (Instr.fence g0 { mz with idx := true }).wf = false := by decide
theorem test_wf_stride : (Instr.vlds g0 { mz with ty := .s32, idx := true }).wf = false := by decide
theorem test_wf_gather : (Instr.vgather g0 { mz with ty := .s32 }).wf = false := by decide
theorem test_wf_scope : (Instr.lda g0 { mz with scope := 6 }).wf = false := by decide
theorem test_wf_no_scope : (Instr.ld g0 { mz with scope := 1 }).wf = false := by decide
theorem test_wf_load_pair : (Instr.ldp g0 { mz with ty := .s64, d := 1, c := 1 }).wf = false := by decide
theorem test_wf_prefetch : (Instr.pref g0 { mz with ext := 3 }).wf = false := by decide
theorem test_wf_atomic_type : (Instr.amo g0 { mz with ty := .f32 }).wf = false := by decide
theorem test_wf_even_pair : (Instr.cas2 g0 { mz with ty := .s64, d := 3, c := 2 }).wf = false := by decide
theorem test_wf_block_end : (Instr.mswap g0 { ez with a := 63 }).wf = true ∧ (Instr.cpy g0 { ez with a := 59 }).wf = false := by
  decide
theorem test_wf_engine_guard : (Instr.mloadw g0 { ez with ty := .f16, g := true }).wf = false := by decide
theorem test_wf_engine_epa : (Instr.cpy g0 { ez with c := 1, epa := 1 }).wf = false := by decide
theorem test_wf_coll_type : (Instr.coll g0 ez).wf = false := by decide
theorem test_wf_csr : (Instr.csrrd g0 { rz with imm := 0x7 }).wf = false := by decide
theorem test_wf_csr_index : (Instr.csrrd g0 { rz with imm := 0x100, b := 1 }).wf = false := by decide
theorem test_wf_resume : (Instr.resume g0 { rz with b := 1 }).wf = false := by decide
theorem test_wf_cdopen : (Instr.cdopen g0 { rz with imm := 0x50000 }).wf = false := by decide
theorem test_wf_cdpres : (Instr.cdpres g0 { rz with sub := 1, c := 1 }).wf = false := by decide

/-! ### Cells written out in the spec -/

-- 02, encoding examples
theorem test_decode_add : decode 0x38101461C030000000000000#96 =
    some (.add g0 ⟨.s64, false, 0, 5, 6, 7, 0, 0⟩) := by decide +kernel
theorem test_decode_br : decode 0x391000000000000000000013#96 = some (.br g0 ⟨0, 0, 0, 0, 2, 3⟩) := by decide +kernel
-- 01, line example
theorem test_decode_nop : decode 0x380100000000000000000000#96 = some (.nop g0 rz) := by decide +kernel
theorem test_step_runs_placed_cell : (match step (State.reset.withFetchWord 96 0x380100000000000000000000) with
    | .next t => (slotAt t w0).pc | _ => 0) = 16 := by decide +kernel
-- 04
theorem test_decode_loop : decode 0x391500900000FFFFFFFFFFFB#96 = some (.loop g0 ⟨0, 9, 0, 0, -1, 3⟩) := by decide +kernel
theorem test_decode_ld : decode 0x3C001420C02A000000000040#96 =
    some (.ld g0 ⟨.s32, 2, true, 5, 2, 3, 0, false, 0, 0, 0, 0x40⟩) := by decide +kernel
-- 05
theorem test_decode_vadd : decode 0x3A000C414020100000000000#96 =
    some (.vadd g0 ⟨.s32, false, 0, 3, 4, 5, 0, false, 2, 0⟩) := by decide +kernel
-- 07
theorem test_decode_bara : decode 0x3D0224200000000000000000#96 =
    some (.bara g0 ⟨.s8, false, 0, 9, 2, 0, 0, 0⟩) := by decide +kernel
theorem test_decode_send : decode 0x3D103140000100000F83A800#96 =
    some (.send g0 ⟨.s8, false, 1, 12, 20, 0, 0, 0x0F83A800⟩) := by decide +kernel
-- 08
theorem test_decode_vtacc : decode 0x3A471020C020000000000000#96 =
    some (.vtacc g0 ⟨.s32, false, 0, 4, 2, 3, 0, false, 0, 0⟩) := by decide +kernel
-- 11, 13, 14
theorem test_decode_cas : decode 0x3C1128400B30030000000000#96 =
    some (.cas g0 ⟨.s64, 0, false, 10, 4, 0, 11, false, 0, 3, 0, 0⟩) := by decide +kernel
theorem test_decode_mstream : decode 0x3D8229401E90000000000000#96 =
    some (.mstream g0 ⟨.bf16, false, 0, 10, 20, 0, 30, 0⟩) := by decide +kernel
theorem test_decode_csrrd : decode 0x3E0314000000000000000100#96 =
    some (.csrrd g0 ⟨.s8, false, 0, 5, 0, 0, 0, 0x100⟩) := by decide +kernel
-- 16, 18, 21, 22
theorem test_decode_guarded : decode 0x0E0403C00000000000000408#96 =
    some (.csrwr ⟨false, 1, false⟩ ⟨.s8, false, 0, 0, 60, 0, 0, 0x408⟩) := by decide +kernel
theorem test_decode_strel : decode 0x3C0300F00E30030000000000#96 =
    some (.strel g0 ⟨.s64, 0, false, 0, 15, 0, 14, false, 0, 3, 0, 0⟩) := by decide +kernel
theorem test_decode_switch : decode 0xBD92E3201F00000000000000#96 =
    some (.cpyr ⟨false, 7, true⟩ ⟨.s8, false, 0, 56, 50, 0, 31, 0⟩) := by decide +kernel
theorem test_decode_indexed_csr : decode 0x3E035805C000000000000502#96 =
    some (.csrrd g0 ⟨.s8, false, 0, 22, 0, 23, 0, 0x502⟩) := by decide +kernel

-- Written out bit by bit from the encoding tables: PG at 93-91, OPC at 90-80, D 79-74, A 73-68, B 67-62, C 61-56, MOD 55-48.
theorem test_decode_pand : decode 0b0_0_111_001_00000000_000001_000010_000011_000000_00000010_000000000000000000000000000000000000000000000000#96 =
    some (.pand g0 ⟨.s8, false, 2, 1, 2, 3, 0, 0⟩) := by decide +kernel
theorem test_decode_ffma : decode 0b0_0_111_001_10000011_000101_000001_000010_000011_10100000_000000000000000000000000000000000000000000000000#96 =
    some (.ffma g0 ⟨.f32, false, 0, 5, 1, 2, 3, 0⟩) := by decide +kernel
theorem test_decode_cdclose : decode 0b0_0_111_110_00010011_000000_000000_000000_000000_00000000_000000000000000000000000000000000000000000000000#96 =
    some (.cdclose g0 rz) := by decide +kernel
-- R38: an unassigned opcode and a reserved bit are no instruction
theorem test_decode_opcode_zero : decode 0x380000000000000000000000#96 = none := by decide +kernel
theorem test_decode_reserved : decode 0x380100000000000000000001#96 = none := by decide +kernel

/-! ### Worked examples, one step each -/

/-- A register after an instruction. -/
def sAfter (o : Out_) (r : RegIx) : Word := match o with | .next t => sGet (slotAt t w0) r | _ => 0

/-- The flags after an instruction. -/
def flAfter (o : Out_) : BitVec 7 := match o with | .next t => (slotAt t w0).csr.fflg | _ => 0

/-- The cause of the fault that an instruction took in task mode, and its TRAPVAL. -/
def faultOf (o : Out_) : Nat × Word :=
  match o with | .next t => ((slotAt t w0).trap.cause.toNat, (slotAt t w0).trap.val) | _ => (0, 0)

/-- `s6` and `s7` set. -/
def args (a b : Word) : State := with0 { x0 with sreg := [(6, a), (7, b)] }

def r567 (t : Ty) (sub : BitVec 3) : RForm := ⟨t, false, sub, 5, 6, 7, 0, 0⟩

-- 04 R84 example: 112 + 32 in s8, with and without .sat, and in z8
theorem test_add_wraps : sAfter (exec (.add g0 (r567 .s8 0)) (args 112 32)) 5 = 0xFFFFFFFFFFFFFF90 := by decide +kernel
theorem test_add_sat : sAfter (exec (.add g0 (r567 .s8 1)) (args 112 32)) 5 = 0x7F ∧
    flAfter (exec (.add g0 (r567 .s8 1)) (args 112 32)) = flSAT := by decide +kernel
theorem test_add_unsigned : sAfter (exec (.add g0 (r567 .z8 0)) (args 112 32)) 5 = 0x90 := by decide +kernel
-- 04 R87 example
theorem test_movhi : sAfter (exec (.movhi g0 ⟨.s8, false, 0, 5, 6, 0, 0, 0x1234⟩) (args 0x56789ABCDEF0 0)) 5 =
    0x123456789ABCDEF0 := by decide +kernel
-- R7: a write of s0 is discarded
theorem test_write_s0 : sAfter (exec (.add g0 ⟨.s64, false, 0, 0, 6, 7, 0, 0⟩) (args 1 2)) 0 = 0 := by decide +kernel
-- R86: a shift amount is taken modulo the width
theorem test_shl_modulo : sAfter (exec (.shl g0 (r567 .s32 0)) (args 1 33)) 5 = 2 := by decide +kernel
-- 04 R94 example: ffma keeps what fmul rounds away
theorem test_ffma_exact : sAfter (exec (.ffma g0 ⟨.f32, false, 0, 5, 1, 2, 3, 0⟩)
    (with0 { x0 with sreg := [(1, 0x3F800001), (2, 0x3F7FFFFE), (3, 0xBF800000)] })) 5 = 0xA8800000 := by decide +kernel
theorem test_fmul_inexact : sAfter (exec (.fmul g0 (r567 .f32 0)) (args 0x3F800001 0x3F7FFFFE)) 5 = 0x3F800000 ∧
    flAfter (exec (.fmul g0 (r567 .f32 0)) (args 0x3F800001 0x3F7FFFFE)) = 0x10 := by decide +kernel
-- 03 R55 example: 1 + 2^-8 in bf16, rounded to even and up
theorem test_cvt_ties : sAfter (exec (.fcvt g0 ⟨.bf16, false, 4, 5, 6, 0, 0, 10⟩) (args 0x3F808000 0)) 5 = 0x3F80 ∧
    sAfter (exec (.fcvt g0 ⟨.bf16, false, 6, 5, 6, 0, 0, 10⟩) (args 0x3F808000 0)) 5 = 0x3F81 := by decide +kernel
-- 03 R62 example: 500.0 to e4m3, with and without .sat
theorem test_cvt_e4m3 : sAfter (exec (.fcvt g0 ⟨.e4m3, false, 4, 5, 6, 0, 0, 10⟩) (args 0x43FA0000 0)) 5 = 0x7F ∧
    sAfter (exec (.fcvt g0 ⟨.e4m3, false, 4, 5, 6, 0, 0, 0x1A⟩) (args 0x43FA0000 0)) 5 = 0x7E := by decide +kernel
-- R302: TRAP in task mode leaves the slot FAULTED with its code (cause 21 of R282)
theorem test_trap : faultOf (exec (.trap g0 { rz with imm := 0x1234 }) (with0 x0)) = (21, 0x1234) := by decide +kernel
-- R303: ERET in task mode is PRIVILEGE (cause 22), with bits [95:32] of its cell
theorem test_eret_privilege : (faultOf (exec (.eret g0 rz) (with0 x0))).1 = 22 := by decide +kernel
-- R183: an address in no region
theorem test_ld_no_region : faultOf (exec (.ld g0 { mz with ty := .s64, a := 6, d := 5 }) (args 0x0200000000000000 0)) =
    (8, 0x0200000000000000) := by decide +kernel
-- R104: alignment of a LOCAL access
theorem test_ld_misaligned : (faultOf (exec (.ld g0 { mz with ty := .s64, a := 6, d := 5 }) (args 0x2044 0))).1 = 7 := by
  decide +kernel
-- R93: LOOP falls through at zero
theorem test_loop_end : sAfter (exec (.loop g0 ⟨0, 6, 0, 0, -1, 3⟩) (args 1 0)) 6 = 0 ∧
    (match exec (.loop g0 ⟨0, 6, 0, 0, -1, 3⟩) (args 1 0) with | .next t => (slotAt t w0).pc | _ => 0) = 16 := by
  decide +kernel

/-- A vector register after an instruction. -/
def vAfter (o : Out_) (r : RegIx) : VWord := match o with | .next t => vGet (slotAt t w0) r | _ => 0

/-- The lanes of `v1` that the reduction example of 03 gives: 1.0, 2^24, 1.0, -2^24, then +0. -/
def treeLanes : State := with0 { x0 with vreg := [(1, packElems 32 [0x3F800000, 0x4B800000, 0x3F800000, 0xCB800000])] }

theorem test_vredsum_tree : sAfter (exec (.vredsum g0 { vz with ty := .f32, sub := 4, d := 5, a := 1 }) treeLanes) 5 =
    0x40000000 := by decide +kernel
theorem test_vscan_in_order : vAfter (exec (.vscan g0 { vz with ty := .f32, sub := 4, d := 2, a := 1 }) treeLanes) 2 =
    packElems 32 [0x3F800000, 0x4B800000, 0x4B800000] := by decide +kernel
-- 05, R122 example
theorem test_vsparse24 :
    let o := exec (.vsparse24 g0 { vz with ty := .f32, d := 5, a := 4, c := 2 })
      (with0 { x0 with vreg := [(4, packElems 32 [0xC0400000, 0x7FC00000, 0x40400000, 0x80000000, 0, 0x80000000, 0x3F800000])] })
    vAfter o 5 = packElems 32 [0xC0400000, 0x7FC00000, 0, 0x3F800000] ∧
    (match o with | .next t => (mGet (slotAt t w0) 2, mGet (slotAt t w0) 3) | _ => (1, 1)) = (0, 0x59) := by decide +kernel
-- 05, R124 example
theorem test_vquant :
    let o := exec (.vquant g0 ⟨.g4, false, 4, 9, 8, 20, 0, false, 3, 10⟩)
      (with0 { x0 with sreg := [(20, 0x00083800)], mreg := [(3, 0xF)],
                       vreg := [(8, packElems 32 [0x3FA66666, 0xC0200000, 0x42C80000, 0x7FC00001])] })
    (vAfter o 9).extractLsb' 0 16 = 0x8F3B ∧ (flAfter o).getLsbD 4 = true := by decide +kernel
-- 05, R120 example
theorem test_vunpack3 :
    let o := exec (.vunpack3 g0 ⟨.s8, false, 1, 2, 1, 0, 0, false, 1, 8⟩)
      (with0 { x0 with mreg := [(1, 0xFFFFFFFFFF)], vreg := [(1, BitVec.ofNat 512 ((121 + 200 * 256 + 247 * 65536) * 2 ^ 64))] })
    (vAfter o 2).extractLsb' 0 120 = BitVec.ofNat 120 ((1 + 255 * 256 + 256 ^ 4) * 256 ^ 5) ∧ flAfter o = flTERN ∧
    (match o with | .next t => (slotAt t w0).csr.ternidx | _ => 0) = 10 := by decide +kernel
-- 19, R378 example: data 1 and data 3 of a byte position solved from the other six
theorem test_row_solve : solveTwo (parCoef 1 1) (parCoef 1 3) 0x06 0x24 = (0x02, 0x04) ∧
    [1, 2, 3, 4, 5, 6].foldl Nat.xor 0 = 0x07 ∧
    (List.range 6).foldl (fun a i => Nat.xor a (gfMul (parCoef 1 i) (i + 1) 8)) 0 = 0xB9 := by decide +kernel

end Sys2Proof.Tests
end

