-- ==== Sys2Proof/Tests/Witness.lean ====
section
/-!
SUPPORT. For each statement about instructions, a concrete state and operands that meet the hypotheses of each of its
clauses together.
-/

namespace Sys2Proof.Tests

set_option Elab.async false

open Sys2Proof Sys2Proof.Machine

/-- The decidable part of `Ready`: the slot may issue, the guard holds, nothing is pending, no comparator is set. -/
def quietSlot (s : State) (g : Guard) : Bool :=
  canIssue (curSlot s) && guardHolds (curSlot s) g && (curSlot s).pendS == 0 && (curSlot s).pendV == 0 &&
    decide ((curSlot s).outs.length < 32) && (coreOf s s.cur).watch.isEmpty

/-- The slot issues an instruction with these registers normally, whatever its accesses are. -/
def IsReady (s : State) (g : Guard) (us : List Use) (d : Bool) : Prop := ∀ accs, Ready s g us d accs

/-- A quiet slot issues any instruction normally. -/
theorem ready_of {s : State} {g : Guard} (us : List Use) (d : Bool) (h : quietSlot s g = true := by decide +kernel) :
    IsReady s g us d := by
  intro accs
  simp only [quietSlot, Bool.and_eq_true, beq_iff_eq, decide_eq_true_eq, List.isEmpty_iff] at h
  obtain ⟨⟨⟨⟨⟨h1, h2⟩, h3⟩, h4⟩, h5⟩, h6⟩ := h
  refine ⟨⟨h1, h2, ?_, fun _ => h5⟩, ?_⟩
  · intro u _
    cases u <;> simp [usePend, sPend, vPend, h3, h4]
  · intro p hp
    rw [h6] at hp
    cases hp

/-- With every trap disabled no result traps (R57). -/
theorem quiet_all {x : Slot} (h : x.csr.fena = 0 := by decide +kernel) (n : Nat) (m : BitVec 64) (op : Nat → Nat × Flags) : QuietElems x n m op := by
  intro j _ _
  rw [h]
  exact BitVec.and_zero

theorem noFlip_of {x : Slot} (h : (x.trap.einj.arm && x.trap.einj.kind = 1#3) = false := by decide +kernel)
    (h' : x.flip = none := by decide +kernel) : NoFlip x :=
  ⟨h, h'⟩

/-- Scalar registers of the register-form witnesses: integers, ones in f32, a ill-formed record in `s20`. -/
def xReg : Slot :=
  { x0 with sreg := [(5, 3), (6, 0x3F800000), (7, 0x40000000), (8, 1), (20, 0x0008B800), (21, 0x00083800)],
            vreg := [(1, BitVec.ofNat 512 (2 * 256 ^ 63)), (4, packElems 32 [0x3F800000, 0x40000000])] }

def sReg : State := with0 xReg

/-- A comparator on a scalar register that no witness names. -/
def wReg : Watch := ⟨2, true, false, 0, 40, 0, 0⟩

/-- A core with that comparator set. -/
def sWatch : State := setCore sReg ⟨0, 0, 0⟩ { Core.reset with watch := [(1, wReg)] }

def fReg (t : Ty) : RForm := ⟨t, false, 0, 5, 6, 7, 0, 0⟩
def fVec (t : Ty) : VForm := ⟨t, false, 0, 9, 4, 4, 0, false, 0, 0⟩

/-! ### Scalar instructions -/

theorem witness_IntegerArithmeticResults :
    (∃ s g f, IsReady s g (usesR f) false ∧ NoFlip (curSlot s) ∧ (exec (.add g f) s ≠ .next s)) ∧
    ∃ s g f, Ready s g (usesR f) false ∧ (coreOf s s.cur).watch ≠ [] ∧ ∀ p ∈ (coreOf s s.cur).watch, p.2.ty ≠ 0 :=
  ⟨⟨sReg, g0, fReg .s32, ready_of _ _, noFlip_of, by
      intro h
      have := congrArg (fun o => sAfter o 5) h
      exact absurd this (by decide +kernel)⟩,
    sWatch, g0, fReg .s32, ⟨⟨by decide +kernel, by decide +kernel, by decide +kernel, by decide +kernel⟩, by
      intro p hp _ after
      rw [show (coreOf sWatch sWatch.cur).watch = [(1, wReg)] by decide +kernel] at hp
      obtain rfl := List.mem_singleton.1 hp
      cases after <;> exact of_decide_eq_true rfl⟩, by decide +kernel, by decide +kernel⟩

theorem witness_DivisionDefersItsResult :
    (∃ s g f, IsReady s g (usesR f) true ∧ intB (curSlot s) f ≠ 0) ∧ ∃ s g f, IsReady s g (usesR f) true ∧ intB (curSlot s) f = 0 :=
  ⟨⟨sReg, g0, fReg .s32, ready_of _ _, by decide +kernel⟩,
    sReg, g0, { fReg .s32 with b := 0 }, ready_of _ _, by decide +kernel⟩

theorem witness_PatternResults : ∃ s g f, IsReady s g (usesR f) false ∧ f.ty = .z16 :=
  ⟨sReg, g0, fReg .z16, ready_of _ _, rfl⟩

theorem witness_MoveResults : ∃ s g f, IsReady s g (usesR f) false ∧ IsReady s g [.s f.a, .s f.b, .ds f.d] false :=
  ⟨sReg, g0, fReg .s8, ready_of _ _, ready_of _ _⟩

theorem witness_CompareAndPredicateResults :
    ∃ (s : State) (g : Guard) (f : RForm), IsReady s g [.s f.a, .s f.b, .dp f.d] false ∧ f.d.toNat < 8 ∧
      (f.sub = 2 ∧ (True ↔ intA (curSlot s) f < intB (curSlot s) f)) ∧
      IsReady s g [.s f.a, .s f.b, .ds f.d, .dp f.c] false ∧ NoFlip (curSlot s) ∧ f.c.toNat < 8 ∧ IsReady s g [] false ∧
      IsReady s g [.dp f.d] false ∧ IsReady s g [.s f.a, .dp f.d] false ∧ IsReady s g [.ds f.d] false :=
  ⟨sReg, g0, ⟨.s32, false, 2, 7, 6, 7, 7, 0⟩, ready_of _ _, by decide, ⟨rfl, by decide +kernel⟩,
    ready_of _ _, noFlip_of, by decide, ready_of _ _,
    ready_of _ _, ready_of _ _, ready_of _ _⟩

/-- A line with a NOP in cell 0 at 0, the counters and targets of the transfers in registers. -/
def sJump : State :=
  placeWord (with0 { x0 with sreg := [(6, 5), (7, 4), (8, 1), (9, 6), (10, 0x100004), (63, 4)] }) 0x380100000000000000000000

/-- The line at 0 has the given line word. -/
def sWord (v : Nat) : State := { with0 x0 with mem := memWrite [] (localFlat ⟨0, 0, 0⟩ 0) 4 v }

theorem witness_TransfersOfControl :
    (∃ (s : State) (g : Guard) (f : BForm) (r : RForm), IsReady s g [] false ∧ IsReady s g [.s r.a] false ∧
      IsReady s g [.ds 63] false ∧ IsReady s g [.s r.a, .ds 63] false ∧ IsReady s g [.s 63] false ∧ IsReady s g [.ds f.a] false ∧
      checkTarget s s.cur (branchTarget (curSlot s).pc f) = none ∧ checkTarget s s.cur (sGet (curSlot s) r.a) = none ∧
      checkTarget s s.cur (sGet (curSlot s) 63) = none ∧ sGet (curSlot s) f.a - 1 ≠ 0) ∧
    (∃ (s : State) (g : Guard) (f : BForm), IsReady s g [.ds f.a] false ∧ sGet (curSlot s) f.a - 1 = 0) ∧
    (∃ (s : State) (g : Guard) (f : BForm) (r : RForm), IsReady s g [] false ∧ IsReady s g [.s r.a] false ∧
      IsReady s g [.s r.a, .ds 63] false ∧ IsReady s g [.s 63] false ∧
      checkTarget s s.cur (branchTarget (curSlot s).pc f) = some .fetchAlign ∧
      cellIx (branchTarget (curSlot s).pc f) = none ∧
      checkTarget s s.cur (sGet (curSlot s) r.a) = some .fetchAlign ∧ sGet (curSlot s) f.a - 1 ≠ 0) ∧
    (∃ (s : State) (g : Guard) (f : BForm), IsReady s g [.s 63] false ∧ sGet (curSlot s) f.a - 1 ≠ 0 ∧
      checkTarget s s.cur (sGet (curSlot s) 63) = some .branchTarget) ∧
    (∃ (s : State) (g : Guard) (f : BForm), IsReady s g [.ds 63] false ∧ cellIx (branchTarget (curSlot s).pc f) ≠ none ∧
      (branchTarget (curSlot s).pc f).extractLsb' 20 44 ≠ 0) ∧
    ∀ c ∈ [(Cause.lineParity, 1), (.illegalLine, 0xC000), (.branchTarget, 2 ^ 13 + 2)], ∃ (s : State) (g : Guard) (f : BForm),
      IsReady s g [] false ∧ IsReady s g [.ds 63] false ∧ cellIx (branchTarget (curSlot s).pc f) = some 0 ∧
      (branchTarget (curSlot s).pc f).extractLsb' 20 44 = 0 ∧ checkTarget s s.cur (branchTarget (curSlot s).pc f) = some c.1 ∧
      memRead s.mem (localFlat ⟨0, 0, 0⟩ 0) 4 = c.2 :=
  ⟨⟨sJump, g0, ⟨0, 6, 0, 0, 0, 0⟩, { rz with a := 7 }, ready_of _ _, ready_of _ _,
      ready_of _ _, ready_of _ _, ready_of _ _,
      ready_of _ _, by decide +kernel, by decide +kernel, by decide +kernel, by decide +kernel⟩,
    ⟨sJump, g0, ⟨0, 8, 0, 0, 0, 0⟩, ready_of _ _, by decide +kernel⟩,
    ⟨sJump, g0, ⟨0, 6, 0, 0, 0, 5⟩, { rz with a := 9 }, ready_of _ _, ready_of _ _,
      ready_of _ _, ready_of _ _, by decide +kernel, by decide +kernel,
      by decide +kernel, by decide +kernel⟩,
    ⟨placeWord (with0 { x0 with sreg := [(6, 5), (63, 16)] }) 0x380100000000000000000000, g0, ⟨0, 6, 0, 0, 0, 0⟩,
      ready_of _ _, by decide +kernel, by decide +kernel⟩,
    ⟨sJump, g0, ⟨0, 6, 0, 0, 16384, 0⟩, ready_of _ _, by decide +kernel, by decide +kernel⟩, by
      intro c hc
      simp only [List.mem_cons, List.not_mem_nil, or_false] at hc
      rcases hc with rfl | rfl | rfl
      · exact ⟨sWord 1, g0, bz, ready_of _ _, ready_of _ _, by decide +kernel⟩
      · exact ⟨sWord 0xC000, g0, bz, ready_of _ _, ready_of _ _, by decide +kernel⟩
      · exact ⟨sWord (2 ^ 13 + 2), g0, bz, ready_of _ _, ready_of _ _, by decide +kernel⟩⟩

/-! ### Scalar floating point -/

theorem witness_FloatResults : ∃ s g f, IsReady s g (usesR f) false ∧ NoFlip (curSlot s) ∧
    ieee (fpAdd (fmtOf f.ty) (rmOf (curSlot s) f.sub) (fpA (curSlot s) f) (fpB (curSlot s) f)).2 &&& (curSlot s).csr.fena = 0 :=
  ⟨sReg, g0, fReg .f32, ready_of _ _, noFlip_of, by decide +kernel⟩

theorem witness_FloatCompareAndConvertResults :
    (∃ (s : State) (g : Guard) (f : RForm), IsReady s g [.s f.a, .s f.b, .dp f.d] false ∧ f.d.toNat < 8 ∧
      IsReady s g (usesR f) false ∧ (curSlot s).csr.fena = 0) ∧
    (∃ (ty : Ty) (u : Int) (x y z : Nat) (m1 m2 m3 : Nat) (e1 e2 e3 i : Int),
      let t := fmtOf ty
      u < qMin t ∧ fpDecode t x = .fin false m1 e1 ∧ fpDecode t y = .fin true m2 e2 ∧ fpDecode t z = .fin false m3 e3 ∧
      m1 ≠ 0 ∧ m2 ≠ 0 ∧ m3 = 0 ∧ u ≤ e1 ∧ u ≤ e2 ∧ u ≤ e3 ∧ u ≤ e1 + e2 ∧ u ≤ e1 - e2 ∧ u ≤ -e1 ∧ 2 * u ≤ e1 ∧ 2 * u ≤ -e1 ∧
      u ≤ i ∧ -4000 ≤ i ∧ i ≤ 4000 ∧ signedOf false m1 * 2 ^ (e1 - u).toNat = i * 2 ^ (-u).toNat ∧
      signedOf false m1 * 2 ^ (e1 - u).toNat = 2 ^ (1 - u).toNat) ∧
    ∃ (src to_ : Ty) (x r : Nat) (m : Nat) (e : Int), fpDecode (fmtOf src) x = .fin true m e ∧ tyIsInt to_ = true ∧
      (recScaleVal r).1 ≠ 0 :=
  ⟨⟨sReg, g0, { fReg .f32 with imm := 9 }, ready_of _ _, by decide, ready_of _ _, by decide +kernel⟩,
    ⟨.f32, -200, 0x40000000, 0xC0000000, 0, 2 ^ 23, 2 ^ 23, 0, -22, -22, -149, 2, by decide +kernel⟩,
    .f32, .s8, 0x80000001, 0x00083800, 1, -149, by decide +kernel⟩

/-- As `sReg` with the trap of NV enabled. -/
def sTrapNv : State := with0 { xReg with csr := { xReg.csr with fena := 1 } }

theorem witness_DeferredFloatResults :
    (∃ s g f, IsReady s g (usesR f) true ∧ (curSlot s).csr.fena = 0) ∧
    ∃ s g f, IsReady s g (usesR f) true ∧ (curSlot s).csr.fena ≠ 0 ∧
      (∀ r ∈ [fpDiv (fmtOf f.ty) (rmOf (curSlot s) f.sub) (fpA (curSlot s) f) (fpB (curSlot s) f),
          fpSqrt (fmtOf f.ty) (rmOf (curSlot s) f.sub) (fpA (curSlot s) f),
          fpRcp (fmtOf f.ty) (rmOf (curSlot s) f.sub) (fpA (curSlot s) f),
          fpRsq (fmtOf f.ty) (rmOf (curSlot s) f.sub) (fpA (curSlot s) f),
          fpExp2 (fmtOf f.ty) (rmOf (curSlot s) f.sub) (fpA (curSlot s) f),
          fpLog2 (fmtOf f.ty) (rmOf (curSlot s) f.sub) (fpA (curSlot s) f)],
        ieee r.2 &&& (curSlot s).csr.fena = 0) :=
  ⟨⟨sReg, g0, fReg .f32, ready_of _ _, by decide +kernel⟩,
    sTrapNv, g0, fReg .f32, ready_of _ _, by decide +kernel, by decide +kernel⟩

/-- Signalling NaN operands with the trap of NV enabled. -/
def sNan : State :=
  with0 { x0 with sreg := [(6, 0x7F800001), (7, 0x7F800001)], csr := { x0.csr with fena := 1 } }

/-- A vector with a signalling NaN in `v4`, a group record in `s21`, the trap of NV enabled. -/
def sNanV : State :=
  with0 { x0 with sreg := [(21, 0x00083800)], vreg := [(4, packElems 32 [0x3F800000, 0x7F800001])], csr := { x0.csr with fena := 1 } }

/-- The flags of some of the first `k` elements, each with an active element that raises it. -/
def Raised (x : Slot) (f : VForm) (k : Nat) (op : Nat → Nat × Flags) (fl : BitVec 5) : Prop :=
  (∀ q, q < 5 → (fl.getLsbD q = true ↔ ∃ j, j < k ∧ (vMask x f).getLsbD j = true ∧ (op j).2.getLsbD q = true)) ∧
    fl &&& x.csr.fena ≠ 0

theorem witness_EnabledFlagsTrap : (∃ (s : State) (g : Guard) (f : RForm), IsReady s g (usesR f) false ∧ NoFlip (curSlot s) ∧
    IsReady s g (usesR f) true ∧ IsReady s g [.s f.a, .s f.b, .dp f.d] false ∧
    let x := curSlot s
    let t := fmtOf f.ty
    let rm := rmOf x f.sub
    let a := fpA x f
    let b := fpB x f
    ∀ fl ∈ [(fpAdd t rm a b).2, (fpSub t rm a b).2, (fpMul t rm a b).2, (fpFma t rm a b (fpC x f)).2,
        (fpMinMax t false a b).2, (fpMinMax t true a b).2, (fpDiv t rm a b).2, (fpSqrt t rm a).2, (fpRcp t rm a).2,
        (fpRsq t rm a).2, (fpExp2 t rm a).2, (fpLog2 t rm a).2, (fpCmp t f.sub.toNat a b).2],
      ieee fl &&& x.csr.fena ≠ 0) ∧
    (∀ ty ∈ [Ty.f64, .s32, .f16], ∃ (s : State) (g : Guard) (f : RForm), IsReady s g (usesR f) false ∧
      let x := curSlot s
      let e := (sGet x f.a).toNat % 2 ^ tyBits (cvtSrc f)
      f.ty = ty ∧ ieee (if ty = .f16 then intCvtFp (fmtOf f.ty) (rmOf x f.sub) false (intOf (cvtSrc f) e)
        else if ty = .s32 then fpCvtInt f.ty (fmtOf (cvtSrc f)) (rmOf x f.sub) e
        else fpCvt (fmtOf f.ty) (fmtOf (cvtSrc f)) (rmOf x f.sub) false e).2 &&& x.csr.fena ≠ 0) ∧
    (∃ (s : State) (g : Guard) (f : VForm) (fl : BitVec 5), NoFlip (curSlot s) ∧ tyIsInt f.ty = false ∧
      IsReady s g (usesV1 f) false ∧ IsReady s g (usesV2 f) false ∧ IsReady s g (usesV3 f) false ∧ IsReady s g (usesV1 f) true ∧
      IsReady s g (usesV2 f) true ∧ IsReady s g [.v f.a, .ds f.d] false ∧
      IsReady s g (.dm f.d :: .v f.a :: (if f.i then [] else [.v f.b])) false ∧
      let x := curSlot s
      Raised x f 16 (fun j => fpMul (fmtOf .f32) (rmOf x f.sub) (vA x f j) (vB x f j)) fl ∧
      Raised x f 16 (fun j => (0, (fpCmp (fmtOf .f32) f.sub.toNat (vA x f j) (vB x f j)).2)) fl ∧
      ieee (treeFold (redAdd x f) 4 ((List.range 16).map (fun j => vA x f j)) 0).2 &&& x.csr.fena ≠ 0) ∧
    ∃ (s : State) (g : Guard) (f : VForm) (fl : BitVec 5), NoFlip (curSlot s) ∧ IsReady s g (usesV1 f) false ∧
      IsReady s g [.v f.a, .s f.b, .dv f.d] false ∧ recBad (f.ty = .g4) ((sGet (curSlot s) f.b).toNat % 2 ^ 32) = false ∧
      convPart f * 16 + 16 ≤ 512 / tyBits f.ty ∧
      Raised (curSlot s) f 16 (fun j => quantElem (f.ty = .g4) 0x00083800 (fmtOf (convSrc f)) (rmOf (curSlot s) f.sub)
        (elemOf (tyBits (convSrc f)) (vGet (curSlot s) f.a) j)) fl :=
  ⟨⟨sNan, g0, fReg .f32, ready_of _ _, noFlip_of, ready_of _ _, ready_of _ _, by decide +kernel⟩, by
      intro ty h
      simp only [List.mem_cons, List.not_mem_nil, or_false] at h
      rcases h with rfl | rfl | rfl
      · exact ⟨sNan, g0, { fReg .f64 with a := 6, imm := 10 }, ready_of _ _, by decide +kernel⟩
      · exact ⟨sNan, g0, { fReg .s32 with a := 6, imm := 10 }, ready_of _ _, by decide +kernel⟩
      · exact ⟨with0 { x0 with sreg := [(6, 2049)], csr := { x0.csr with fena := 16 } }, g0, { fReg .f16 with a := 6, imm := 3 },
          ready_of _ _, by decide +kernel⟩,
    ⟨sNanV, g0, fVec .f32, 1, noFlip_of, rfl, ready_of _ _, ready_of _ _, ready_of _ _, ready_of _ _, ready_of _ _, ready_of _ _,
      ready_of _ _, by unfold Raised; decide +kernel⟩,
    sNanV, g0, ⟨.g4, false, 0, 9, 4, 21, 0, false, 0, 10⟩, 1, noFlip_of, ready_of _ _, ready_of _ _, by unfold Raised; decide +kernel⟩

/-! ### Vector instructions -/

/-- The register lists of vector forms are met by a quiet slot, with traps disabled and no flip due. -/
theorem witness_VectorArithmeticResults :
    (∃ s g f, NoFlip (curSlot s) ∧ IsReady s g (usesV2 f) false ∧ IsReady s g (usesV3 f) false ∧ IsReady s g (usesV1 f) false ∧
      tyIsInt f.ty = true ∧ ∀ n m op, QuietElems (curSlot s) n m op) ∧
    ∃ s g f, NoFlip (curSlot s) ∧ IsReady s g (usesV2 f) false ∧ tyIsInt f.ty = false ∧ ∀ n m op, QuietElems (curSlot s) n m op :=
  ⟨⟨sReg, g0, fVec .s32, noFlip_of, ready_of _ _, ready_of _ _,
      ready_of _ _, rfl, quiet_all⟩,
    sReg, g0, fVec .f32, noFlip_of, ready_of _ _, rfl,
      quiet_all⟩

theorem witness_DeferredVectorResults :
    (∃ s g f, IsReady s g (usesV2 f) true ∧ IsReady s g (usesV1 f) true ∧ (curSlot s).csr.fena = 0 ∧ tyIsInt f.ty = false) ∧
    (∃ s g f, IsReady s g (usesV2 f) true ∧ tyIsInt f.ty = true ∧ (curSlot s).csr.fena ≠ 0) ∧
    ∃ s g f, IsReady s g (usesV2 f) true ∧ IsReady s g (usesV1 f) true ∧ (curSlot s).csr.fena ≠ 0 ∧ tyIsInt f.ty = false ∧
      ∀ j, j < 512 / tyBits f.ty → (vMask (curSlot s) f).getLsbD j = true →
        ieee (fpDiv (fmtOf f.ty) (rmOf (curSlot s) f.sub) (vA (curSlot s) f j) (vB (curSlot s) f j)).2 &&&
          (curSlot s).csr.fena = 0 :=
  ⟨⟨sReg, g0, fVec .f32, ready_of _ _, ready_of _ _, by decide +kernel, rfl⟩,
    ⟨sTrapNv, g0, fVec .s32, ready_of _ _, rfl, by decide +kernel⟩,
    with0 { xReg with csr := { xReg.csr with fena := 1 }, mreg := [(1, 3)] }, g0, { fVec .f32 with mask := 1 },
      ready_of _ _, ready_of _ _, by decide +kernel, rfl, by decide +kernel⟩

theorem witness_VectorPatternAndMoveResults :
    ∃ (s : State) (g : Guard) (f : VForm), IsReady s g (usesV2 f) false ∧ IsReady s g (usesV1 f) false ∧
      IsReady s g [.s f.a, .dv f.d] false ∧ IsReady s g [.v f.a, .s f.b, .ds f.d] false ∧
      IsReady s g [.s f.a, .s f.b, .dv f.d] false ∧ IsReady s g [.v f.a, .s f.b, .dv f.d] false ∧ IsReady s g [.dv f.d] false :=
  ⟨sReg, g0, fVec .s16, ready_of _ _, ready_of _ _, ready_of _ _,
    ready_of _ _, ready_of _ _, ready_of _ _,
    ready_of _ _⟩

theorem witness_MaskResults :
    (∃ (s : State) (g : Guard) (f : VForm), IsReady s g (.dm f.d :: .v f.a :: (if f.i then [] else [.v f.b])) false ∧
      (∀ n m op, QuietElems (curSlot s) n m op) ∧ IsReady s g [.dm f.d] false ∧ 1 < f.sub.toNat) ∧
    (∃ (s : State) (g : Guard) (f : VForm), IsReady s g [.ds f.d] false ∧ f.sub = 1) ∧
    ∃ (s : State) (g : Guard) (f : VForm), IsReady s g [.s f.a, .dm f.d] false ∧ f.sub = 0 :=
  ⟨⟨sReg, g0, { fVec .f32 with sub := 2, d := 7 }, ready_of _ _, quiet_all,
      ready_of _ _, by decide⟩,
    ⟨sReg, g0, { fVec .s8 with sub := 1 }, ready_of _ _, rfl⟩,
    sReg, g0, fVec .s8, ready_of _ _, rfl⟩

theorem witness_AllReductionResults :
    (∃ (s : State) (g : Guard) (f : VForm), IsReady s g [.v f.a, .ds f.d] false ∧ IsReady s g (usesV1 f) false ∧
      0 < 512 / tyBits f.ty ∧ (curSlot s).csr.fena = 0) ∧
    (∃ (s : State) (g : Guard) (f : VForm), tyIsInt f.ty = true ∧ IsReady s g [.v f.a, .ds f.d] false ∧ f.sub ≠ 1 ∧
      (List.range (512 / tyBits f.ty)).filter (fun j => (vMask (curSlot s) f).getLsbD j) ≠ []) ∧
    ∃ (s : State) (g : Guard) (f : VForm), tyIsInt f.ty = true ∧ IsReady s g [.v f.a, .ds f.d] false ∧
      (List.range (512 / tyBits f.ty)).filter (fun j => (vMask (curSlot s) f).getLsbD j) = [] :=
  ⟨⟨sReg, g0, fVec .f32, ready_of _ _, ready_of _ _, by decide, by decide +kernel⟩,
    ⟨sReg, g0, fVec .s8, rfl, ready_of _ _, by decide, by decide +kernel⟩,
    sReg, g0, { fVec .s8 with mask := 1 }, rfl, ready_of _ _, by decide +kernel⟩

theorem witness_VectorConversionResults :
    ∃ (s : State) (g : Guard) (f : VForm), IsReady s g (usesV1 f) false ∧ IsReady s g (usesV2 f) false ∧
      IsReady s g [.v f.a, .s f.b, .dv f.d] false ∧ (curSlot s).csr.fena = 0 ∧
      recBad (f.ty = .g4) ((sGet (curSlot s) f.b).toNat % 2 ^ 32) = false ∧
      recBad (convSrc f = .g4) ((sGet (curSlot s) f.b).toNat % 2 ^ 32) = false :=
  ⟨sReg, g0, ⟨.g4, false, 4, 9, 8, 21, 0, false, 0, 10⟩, ready_of _ _, ready_of _ _,
    ready_of _ _, by decide +kernel, by decide +kernel, by decide +kernel⟩

theorem witness_IllFormedDataFault :
    (∃ (s : State) (g : Guard) (f : VForm), IsReady s g [.v f.a, .s f.b, .dv f.d] false ∧
      recBad (f.ty = .g4) ((sGet (curSlot s) f.b).toNat % 2 ^ 32) = true ∧
      recBad (convSrc f = .g4) ((sGet (curSlot s) f.b).toNat % 2 ^ 32) = true) ∧
    (∃ (s : State) (g : Guard) (f : VForm), IsReady s g (usesV1 f) false ∧ badTrit (curSlot s) f = some 10 ∧ f.sub = 0) ∧
    ∃ (s : State) (g : Guard) (f : VForm), IsReady s g (usesV2 f) false ∧
      let t := fun i => elemOf 8 (vGet (curSlot s) f.b) i
      (vMask (curSlot s) f).getLsbD (63 / 4) = true ∧ t 63 ≠ 0 ∧ t 63 ≠ 1 ∧ t 63 ≠ 0xFF ∧
      ∀ j, j < 63 → (vMask (curSlot s) f).getLsbD (j / 4) = true → t j = 0 ∨ t j = 1 ∨ t j = 0xFF :=
  ⟨⟨sReg, g0, ⟨.g4, false, 4, 9, 8, 20, 0, false, 0, 10⟩, ready_of _ _, by decide +kernel,
      by decide +kernel⟩,
    ⟨with0 { x0 with vreg := [(1, BitVec.ofNat 512 (247 * 256 ^ 10))] }, g0, ⟨.s8, false, 0, 2, 1, 0, 0, false, 0, 8⟩,
      ready_of _ _, by decide +kernel, rfl⟩,
    sReg, g0, ⟨.s32, false, 0, 4, 2, 1, 0, false, 0, 0⟩, ready_of _ _, by decide +kernel⟩

theorem witness_TernaryAndSparseResults :
    (∃ (s : State) (g : Guard) (f : VForm), NoFlip (curSlot s) ∧ IsReady s g (usesV1 f) false ∧ badTrit (curSlot s) f = none ∧
      IsReady s g (.dm f.c :: .dm (f.c + 1) :: usesV1 f) false) ∧
    (∃ (s : State) (g : Guard) (f : VForm), NoFlip (curSlot s) ∧ IsReady s g (usesV1 f) false ∧
      badTrit (curSlot s) f = some 10 ∧ f.sub ≠ 0) ∧
    ∃ (s : State) (g : Guard) (f : VForm), NoFlip (curSlot s) ∧ IsReady s g (usesV2 f) false ∧
      ∀ i, i < 64 → (vMask (curSlot s) f).getLsbD (i / 4) = true →
        intOf .s8 (elemOf 8 (vGet (curSlot s) f.b) i) = 0 ∨ intOf .s8 (elemOf 8 (vGet (curSlot s) f.b) i) = 1 ∨
          intOf .s8 (elemOf 8 (vGet (curSlot s) f.b) i) = -1 :=
  ⟨⟨sReg, g0, ⟨.s8, false, 0, 2, 9, 0, 6, false, 0, 0⟩,
    noFlip_of, ready_of _ _, by decide +kernel,
      ready_of _ _⟩,
    ⟨with0 { x0 with vreg := [(1, BitVec.ofNat 512 (247 * 256 ^ 10))] }, g0, ⟨.s8, false, 1, 2, 1, 0, 0, false, 0, 8⟩,
      noFlip_of, ready_of _ _, by decide +kernel, by decide⟩,
    with0 { x0 with vreg := [(3, BitVec.ofNat 512 (0xFF01))] }, g0, ⟨.s32, false, 0, 4, 2, 3, 0, false, 0, 0⟩,
      noFlip_of, ready_of _ _, by decide +kernel⟩

end Sys2Proof.Tests
end

