-- ==== Sys2Proof/Tests/WitnessB.lean ====
section
/-!
SUPPORT. As Witness, for the statements about memory, parallel, engine, system and containment instructions.
-/

namespace Sys2Proof.Tests

set_option Elab.async false

open Sys2Proof Sys2Proof.Machine

/-! ### States with a page, a launch, a containment frame -/

/-- The first global address. -/
def gva : Word := 0x80000000000000

/-- A slot with registers: `s6` LOCAL, `s7` global, `s8` in no region, `s9` misaligned, `s10` a small number. -/
def xMem : Slot :=
  { x0 with sreg := [(6, 0x2000), (7, gva), (8, 0x200000000000000), (9, 0x2001), (10, 0x7FFF0), (11, 2), (12, 0x100000)] }

def sMem : State := with0 xMem

/-- The page at `gva` mapped by this leaf word: root, two pointer tables and the leaf table in frames 0 to 3. -/
def mapWith (s : State) (leaf : Nat) : State :=
  let p := fun n : Nat => 1 + n * 2 ^ 28
  setMod { s with mem := memWrite (memWrite (memWrite (memWrite s.mem (tableAt 0 0 1) 8 (p 1)) (tableAt 0 1 0) 8 (p 2))
    (tableAt 0 2 0) 8 (p 3)) (tableAt 0 3 0) 8 leaf } 0 { modAt s 0 with groot := 1 }

/-- Leaf fields: V, W, X and the copy of VA[55], a frame, and more bits. -/
def leafBits (frame more : Nat) : Nat := 0xF + frame * 2 ^ 28 + more

/-- `gva` mapped to frame 16, of the near tier. -/
def sPage : State := mapWith sMem (leafBits 16 0)

/-- A launch record with one die and a mesh of 8 × 2 cores, one barrier over it and one domain level. -/
def rec0 : Rec :=
  { asid := 1, prio := 0, holes := false, cdpol := 0, code := gva, codelen := 64, entry := 4, preload := [], nlev := 1,
    nbar := 1, dies := [0], dgx := 1, rx := 0, ry := 0, rw := 8, rh := 2, doms := [(8, 2), (0, 0), (0, 0)],
    bars := [(0, 0, 8, 2)], xplan := 0, layouts := 0, idtens := 0, fsup0 := 0, fsup1 := 0, t1 := 200, t2 := 500, preds := [],
    patience := 0, syncto := 100, nlayout := 0 }

/-- A running launch of that record. -/
def launch0 : Launch :=
  { record := rec0, raw := [], climb := 0, supv := false, save := gva, phase := .running, order := 0, kill := none, rung := 0, time := 0, bars := [],
    guards := [], exch := [], haltReq := false, haltAt := none, preempt := false, slots := [], cores := [], hams := [], locals := [],
    resumes := [], dieLost := false, ferr := 0, endStep := 0, plan := [], dump := [] }

def l0 : LaunchRef := ⟨0, 0, 0⟩
def c0 : CoreRef := ⟨0, 0, 0⟩

/-- A core of the launch at mesh position (0, 0). -/
def coreIn : Core := { Core.reset with launch := some l0, ident := ⟨true, 0, 0, 8, 2, [], [], 1⟩ }

/-- Slot 0 as given, in a core of the launch. -/
def inLaunch (x : Slot) (c : Core) (l : Launch) : State := setLaunch (setCore (with0 x) c0 c) l0 l

def sRun : State := inLaunch xMem coreIn launch0

/-- A containment frame with its save area at 0x8000. -/
def frame0 : Frame := ⟨1, false, 4, 0, 0x8000, [], [], [], 0, none⟩

/-! ### Memory instructions -/

theorem witness_AddressFaults :
    (∃ (ea : Word), 0x100000200000000 ≤ ea.toNat) ∧
    (∃ (ea : Word), ea.toNat < 0x100000200000000 ∧ ea.toNat % 8 ≠ 0) ∧
    (∃ (ea : Word), ea.toNat < 0x100000200000000 ∧ ea.toNat % 8 = 0 ∧ 0x100000000000000 ≤ ea.toNat ∧
      384 ≤ ea.toNat / 2 ^ 20 % 512) ∧
    (∃ (ea : Word), ea.toNat < 0x100000200000000 ∧ ea.toNat % 8 = 0 ∧
      ¬ (0x100000000000000 ≤ ea.toNat ∧ 384 ≤ ea.toNat / 2 ^ 20 % 512)) ∧
    (∃ (ea : Word), 2 ^ 57 ≤ ea.toNat) ∧ (∃ (ea : Word), ea.toNat < 2 ^ 57 ∧ ea.toNat % 8 ≠ 0) ∧
    (∃ (ea : Word), ea.toNat < 2 ^ 57 ∧ ea.toNat % 8 = 0 ∧ 0x100000200000000 ≤ ea.toNat) ∧
    (∃ (s : State) (g : Guard) (f : MForm), ldaOut (curSlot s) = false ∧ IsReady s g (.ds f.d :: usesM f) true ∧
      checkEa (coreOf s s.cur).ident.asid (eaOf (curSlot s) f) (tyBytes f.ty) = none ∧
      ∀ tag va, placeOf (coreOf s s.cur).ident.asid (eaOf (curSlot s) f) ≠ .page tag va) ∧
    ∃ (s : State) (g : Guard) (f : MForm) (c : Cause), ldaOut (curSlot s) = false ∧
      IsReady s g (.ds f.d :: usesM f) (deferredAt f s) ∧ IsReady s g (.ds f.d :: .ds f.c :: usesM f) (deferredAt f s) ∧
      IsReady s g (.ds f.d :: usesM f) true ∧ IsReady s g (.s f.c :: usesM f) false ∧
      IsReady s g (.s f.c :: .s f.d :: usesM f) false ∧ IsReady s g (.ds f.d :: .s f.c :: usesM f) true ∧
      IsReady s g (.ds f.d :: .ds (f.d + 1) :: .s f.c :: .s (f.c + 1) :: usesM f) true ∧
      IsReady s g (.ds f.d :: usesM f) false ∧
      checkEa (coreOf s s.cur).ident.asid (eaOf (curSlot s) f) 1 = some c ∧
      checkEa (coreOf s s.cur).ident.asid (eaOf (curSlot s) f) 16 = some c ∧
      checkEa (coreOf s s.cur).ident.asid (eaOf (curSlot s) f) (tyBytes f.ty) = some c ∧
      checkEaPlain (coreOf s s.cur).ident.asid (eaOf (curSlot s) f) 16 = some c ∧
      checkEaPlain (coreOf s s.cur).ident.asid (eaOf (curSlot s) f) (tyBytes f.ty) = some c :=
  ⟨⟨0x100000200000000, by decide⟩, ⟨0x1000001FFFFFFFF, by decide⟩, ⟨0x100000018000000, by decide⟩,
    ⟨0x100000017FFFFF8, by decide⟩, ⟨0x200000000000000, by decide⟩, ⟨0x1FFFFFFFFFFFFFF, by decide⟩, ⟨0x1FFFFFFFFFFFFF8, by decide⟩,
    ⟨sMem, g0, { mz with ty := .s64, a := 6, d := 2 }, by decide +kernel, ready_of _ _, by decide +kernel, by
      intro tag va h
      rw [show placeOf (coreOf sMem sMem.cur).ident.asid (eaOf (curSlot sMem) { mz with ty := .s64, a := 6, d := 2 }) =
        .lcl 0x2000 by decide +kernel] at h
      cases h⟩,
    sMem, g0, { mz with ty := .s64, a := 8, d := 2 }, .access, by decide +kernel, ready_of _ _,
      ready_of _ _, ready_of _ _, ready_of _ _,
      ready_of _ _, ready_of _ _, ready_of _ _,
      ready_of _ _, by decide +kernel, by decide +kernel, by decide +kernel, by decide +kernel,
      by decide +kernel⟩

/-- An atomic of the slot on the word at LOCAL 0x2000, not yet performed. -/
def outAmo : Out := ⟨0, 4, .amo 0 .s64 1 0, [⟨0x2000, 8, 0, none⟩], .sreg 2, [], none, 0, false⟩

/-- Where the page at `gva` stands. -/
def gflat : Nat := physFlat 0 0x100000

/-- A slot whose loads are of the page at `gva`, for LDC. -/
def sLdc (cc : Tbl (BitVec 1024)) (bad : Tbl Bool) : State :=
  { setHam sPage ⟨0, 0, 0⟩ { Ham.reset with cc := cc } with poison := bad }

theorem witness_LoadResults :
    (∃ (s : State) (g : Guard) (f : MForm), (eaOf (curSlot s) f).toNat < 2 ^ 20 ∧ ldaOut (curSlot s) = false ∧
      IsReady s g (.ds f.d :: usesM f) false ∧ IsReady s g (.ds f.d :: .ds f.c :: usesM f) false ∧
      (eaOf (curSlot s) f).toNat % tyBytes f.ty = 0 ∧ (eaOf (curSlot s) f).toNat % 16 = 0 ∧
      localFree s s.cur [⟨eaOf (curSlot s) f, tyBytes f.ty, 0, none⟩] = true ∧
      localFree s s.cur [⟨eaOf (curSlot s) f, 16, 0, none⟩] = true ∧
      localGood s (eaOf (curSlot s) f) (tyBytes f.ty) ∧ localGood s (eaOf (curSlot s) f) 16) ∧
    (∃ (s : State) (g : Guard) (f : MForm), (eaOf (curSlot s) f).toNat < 2 ^ 20 ∧ ldaOut (curSlot s) = false ∧
      IsReady s g (.ds f.d :: usesM f) false ∧ IsReady s g (.ds f.d :: .ds f.c :: usesM f) false ∧
      (eaOf (curSlot s) f).toNat % tyBytes f.ty = 0 ∧ (eaOf (curSlot s) f).toNat % 16 = 0 ∧
      localFree s s.cur [⟨eaOf (curSlot s) f, tyBytes f.ty, 0, none⟩] = true ∧
      localFree s s.cur [⟨eaOf (curSlot s) f, 16, 0, none⟩] = true ∧
      ¬ localGood s (eaOf (curSlot s) f) (tyBytes f.ty) ∧ ¬ localGood s (eaOf (curSlot s) f) 16) ∧
    (∃ (s : State) (g : Guard) (f : MForm), (eaOf (curSlot s) f).toNat < 2 ^ 20 ∧ ldaOut (curSlot s) = false ∧
      IsReady s g (.ds f.d :: usesM f) false ∧ IsReady s g (.ds f.d :: .ds f.c :: usesM f) false ∧
      (eaOf (curSlot s) f).toNat % tyBytes f.ty = 0 ∧ (eaOf (curSlot s) f).toNat % 16 = 0 ∧
      localFree s s.cur [⟨eaOf (curSlot s) f, tyBytes f.ty, 0, none⟩] = false ∧
      localFree s s.cur [⟨eaOf (curSlot s) f, 16, 0, none⟩] = false) ∧
    (∀ (s : State), s ∈ [sLdc [] [], sLdc [] [(gflat / 128, true)],
        sLdc [(lineKey (lineOf 0 globalTag gva.toNat), 5)] []] → ∃ (f : MForm) (e : Word) (a o : Nat) (u : Bool),
      2 ^ 20 ≤ (eaOf (curSlot s) f).toNat ∧ ldaOut (curSlot s) = false ∧
      ldcPlace s s.cur (eaOf (curSlot s) f) = .line gflat (lineOf 0 globalTag gva.toNat) e a o u ∧
      (poisonAt s gflat = true ∨ poisonAt s gflat = false) ∧ eccBad s gflat (tyBytes f.ty) = false ∧
      (tfind (hamAt s ⟨0, 0, 0⟩).cc (lineKey (lineOf 0 globalTag gva.toNat)) = none ∨
        tfind (hamAt s ⟨0, 0, 0⟩).cc (lineKey (lineOf 0 globalTag gva.toNat)) = some 5)) ∧
    ∃ (s : State) (g : Guard) (f : MForm), 2 ^ 20 ≤ (eaOf (curSlot s) f).toNat ∧ ldaOut (curSlot s) = false ∧
      IsReady s g (.ds f.d :: usesM f) true ∧ IsReady s g (.ds f.d :: .ds f.c :: usesM f) true ∧
      checkEa (coreOf s s.cur).ident.asid (eaOf (curSlot s) f) (tyBytes f.ty) = none ∧
      checkEaPlain (coreOf s s.cur).ident.asid (eaOf (curSlot s) f) (tyBytes f.ty) = none ∧
      checkEaPlain (coreOf s s.cur).ident.asid (eaOf (curSlot s) f) 16 = none ∧
      ∃ tag va, placeOf (coreOf s s.cur).ident.asid (eaOf (curSlot s) f) = .page tag va :=
  ⟨⟨sMem, g0, { mz with ty := .s64, a := 6, d := 2, c := 3 }, by decide +kernel, by decide +kernel, ready_of _ _,
      ready_of _ _, by decide +kernel, by decide +kernel, by decide +kernel, by decide +kernel,
      by unfold localGood; decide +kernel, by unfold localGood; decide +kernel⟩,
    ⟨{ sMem with ecc := [(0x400, ⟨3, false⟩)] }, g0, { mz with ty := .s64, a := 6, d := 2, c := 3 }, by decide +kernel, by decide +kernel,
      ready_of _ _, ready_of _ _, by decide +kernel, by decide +kernel, by decide +kernel,
      by decide +kernel, by unfold localGood; decide +kernel, by unfold localGood; decide +kernel⟩,
    ⟨with0 { xMem with outs := [outAmo] }, g0, { mz with ty := .s64, a := 6, d := 3, c := 4 }, by decide +kernel, by decide +kernel,
      ready_of _ _, ready_of _ _, by decide +kernel, by decide +kernel, by decide +kernel,
      by decide +kernel⟩,
    by
      intro s hs
      simp only [List.mem_cons, List.not_mem_nil, or_false] at hs
      rcases hs with rfl | rfl | rfl <;>
        exact ⟨{ mz with ty := .s64, a := 7, d := 2 }, BitVec.ofNat 64 (leafBits 16 0), tableAt 0 3 0, tableAt 0 3 0, false,
          by decide +kernel, by decide +kernel, by decide +kernel, by decide +kernel, by decide +kernel, by decide +kernel⟩,
    sMem, g0, { mz with ty := .s64, a := 7, d := 2, c := 3 }, by decide +kernel, by decide +kernel, ready_of _ _,
      ready_of _ _, by decide +kernel, by decide +kernel, by decide +kernel, globalTag, gva.toNat, by decide +kernel⟩

/-- An outstanding load, acquire with scope `core` when asked. -/
def out0 (acq : Option Nat) : Out := ⟨1, 4, .load .s64 acq, [⟨gva, 8, 0, none⟩], .sreg 2, [], none, 0, false⟩

/-- A store of 8 bytes waiting in a buffer. -/
def ent0 (id : Nat) (va : Word) : StEnt := ⟨id, 0, 4, [⟨va, 8, 0, some 7⟩], [], none, 0, false, [], none, none, 0, false⟩

theorem witness_StoresEnterTheBuffers :
    (∃ (s : State) (g : Guard) (f : MForm), ldaOut (curSlot s) = false ∧ BufferRoom s ∧ IsReady s g (.s f.c :: usesM f) false ∧
      IsReady s g (.s f.c :: .s f.d :: usesM f) false ∧ IsReady s g (.v f.c :: usesM f) false ∧
      IsReady s g [.v f.c, .s f.a, .v f.b] false ∧
      checkEa (coreOf s s.cur).ident.asid (eaOf (curSlot s) f) (tyBytes f.ty) = none ∧
      confine s.cur (curSlot s) [(eaOf (curSlot s) f, tyBytes f.ty)] = none ∧
      checkEaPlain (coreOf s s.cur).ident.asid (eaOf (curSlot s) f) (tyBytes f.ty) = none ∧
      checkEaPlain (coreOf s s.cur).ident.asid (eaOf (curSlot s) f) 16 = none ∧
      confine s.cur (curSlot s) [(eaOf (curSlot s) f, 16)] = none ∧
      ∀ k ∈ [VAddr.contiguous, .strided, .indexed], vCheck (coreOf s s.cur).ident.asid (curSlot s) f k = none ∧
        confine s.cur (curSlot s) ((vActive (curSlot s) f k).map (fun e => (e.2, tyBytes f.ty))) = none) ∧
    (∀ b : Bool, ∃ (s : State) (g : Guard) (f : MForm), ldaOut (curSlot s) = false ∧ BufferRoom s ∧ IsReady s g (usesM f) false ∧
      flushIdle s s.cur (eaOf (curSlot s) f &&& ~~~127#64) = b ∧
        ∃ tag va, placeOf (coreOf s s.cur).ident.asid (eaOf (curSlot s) f) = .page tag va) ∧
    (∃ (s : State) (g : Guard) (f : MForm), ldaOut (curSlot s) = false ∧ BufferRoom s ∧ IsReady s g (usesM f) false ∧
      placeOf (coreOf s s.cur).ident.asid (eaOf (curSlot s) f) = .bad) ∧
    ∃ (s : State) (g : Guard) (f : MForm), ldaOut (curSlot s) = false ∧ BufferRoom s ∧ IsReady s g (usesM f) false ∧
      placeOf (coreOf s s.cur).ident.asid (eaOf (curSlot s) f) = .lcl 0x2000 :=
  ⟨⟨sMem, g0, { mz with ty := .s64, a := 6, c := 3, d := 4 }, by decide +kernel, by unfold BufferRoom; decide +kernel,
      ready_of _ _, ready_of _ _, ready_of _ _,
      ready_of _ _, by decide +kernel, by decide +kernel, by decide +kernel, by decide +kernel,
      by decide +kernel, by decide +kernel⟩,
    fun b => by
      cases b
      · exact ⟨setCore sMem c0 { Core.reset with sbuf := [ent0 1 gva] }, g0, { mz with a := 7 }, by decide +kernel,
          by unfold BufferRoom; decide +kernel, ready_of _ _, by decide +kernel, globalTag, gva.toNat,
          by decide +kernel⟩
      · exact ⟨sMem, g0, { mz with a := 7 }, by decide +kernel, by unfold BufferRoom; decide +kernel,
          ready_of _ _, by decide +kernel, globalTag, gva.toNat, by decide +kernel⟩,
    ⟨sMem, g0, { mz with a := 8 }, by decide +kernel, by unfold BufferRoom; decide +kernel, ready_of _ _,
      by decide +kernel⟩,
    sMem, g0, { mz with a := 6 }, by decide +kernel, by unfold BufferRoom; decide +kernel, ready_of _ _,
      by decide +kernel⟩

theorem witness_MemoryInstructionsWait :
    (∃ (s : State) (g : Guard) (f : MForm), ldaOut (curSlot s) = true ∧ IsReady s g (.ds f.d :: usesM f) (deferredAt f s) ∧
      IsReady s g (.ds f.d :: usesM f) true ∧ IsReady s g (.ds f.d :: usesM f) false ∧
      IsReady s g (.s f.c :: usesM f) false ∧ IsReady s g (.ds f.d :: .s f.c :: usesM f) true ∧ IsReady s g (usesM f) false) ∧
    (∃ (s : State) (g : Guard) (f : MForm), ldaOut (curSlot s) = false ∧
      isNear s (whoOf s s.cur) (eaOf (curSlot s) f) = true ∧ 16 ≤ (coreOf s s.cur).sbuf.length ∧
      IsReady s g (.s f.c :: usesM f) false ∧
      checkEa (coreOf s s.cur).ident.asid (eaOf (curSlot s) f) (tyBytes f.ty) = none ∧
      checkEaPlain (coreOf s s.cur).ident.asid (eaOf (curSlot s) f) (tyBytes f.ty) = none ∧
      confine s.cur (curSlot s) [(eaOf (curSlot s) f, tyBytes f.ty)] = none) ∧
    ∃ (s : State) (g : Guard) (f : MForm), ldaOut (curSlot s) = false ∧
      isNear s (whoOf s s.cur) (eaOf (curSlot s) f) = false ∧ 16 ≤ (coreOf s s.cur).fq.length ∧
      IsReady s g (.s f.c :: usesM f) false ∧
      checkEa (coreOf s s.cur).ident.asid (eaOf (curSlot s) f) (tyBytes f.ty) = none ∧
      checkEaPlain (coreOf s s.cur).ident.asid (eaOf (curSlot s) f) (tyBytes f.ty) = none ∧
      confine s.cur (curSlot s) [(eaOf (curSlot s) f, tyBytes f.ty)] = none :=
  ⟨⟨with0 { xMem with outs := [out0 (some 0)] }, g0, { mz with ty := .s64, a := 6 }, by decide +kernel,
      ready_of _ _, ready_of _ _, ready_of _ _, ready_of _ _, ready_of _ _, ready_of _ _⟩,
    ⟨setCore sMem c0 { Core.reset with sbuf := List.replicate 16 (ent0 1 0) }, g0, { mz with ty := .s64, a := 6 }, by decide +kernel,
      by decide +kernel, by decide +kernel, ready_of _ _, by decide +kernel, by decide +kernel, by decide +kernel⟩,
    setCore sMem c0 { Core.reset with fq := List.replicate 16 (ent0 1 gva) }, g0, { mz with ty := .s64, a := 7 }, by decide +kernel,
      by decide +kernel, by decide +kernel, ready_of _ _, by decide +kernel, by decide +kernel, by decide +kernel⟩

theorem witness_VectorLoadResults :
    (∃ (s : State) (g : Guard) (f : MForm), ldaOut (curSlot s) = false ∧ 8 ≤ tyBits f.ty ∧ IsReady s g (.dv f.d :: usesM f) false ∧
      ∀ k ∈ [VAddr.contiguous, .single, .strided], vCheck (coreOf s s.cur).ident.asid (curSlot s) f k = none ∧
        vLocal (curSlot s) f k = true ∧ localFree s s.cur (vAccUnits (curSlot s) f k none) = true ∧
        ∀ j, j < 64 / tyBytes f.ty → (mGet (curSlot s) f.mask.toNat).getLsbD j = true →
          localGood s (vAddrOf (curSlot s) f k j) (tyBytes f.ty)) ∧
    ∃ (s : State) (g : Guard) (f : MForm), ldaOut (curSlot s) = false ∧ 8 ≤ tyBits f.ty ∧ IsReady s g (.dv f.d :: usesM f) true ∧
      IsReady s g [.dv f.d, .s f.a, .v f.b] true ∧
      (∀ k ∈ [VAddr.contiguous, .single, .strided], vCheck (coreOf s s.cur).ident.asid (curSlot s) f k = none ∧
        vLocal (curSlot s) f k = false) ∧ vCheck (coreOf s s.cur).ident.asid (curSlot s) f .indexed = none :=
  ⟨⟨sMem, g0, { mz with ty := .s64, a := 6, d := 3 }, by decide +kernel, by decide, ready_of _ _,
      by unfold localGood; decide +kernel⟩,
    sMem, g0, { mz with ty := .s64, a := 7, d := 3 }, by decide +kernel, by decide, ready_of _ _,
      ready_of _ _, by decide +kernel, by decide +kernel⟩

theorem witness_AtomicResults :
    (∃ (s : State) (g : Guard) (f : MForm), ldaOut (curSlot s) = false ∧ IsReady s g (.ds f.d :: .s f.c :: usesM f) true ∧
      checkEa (coreOf s s.cur).ident.asid (eaOf (curSlot s) f) (tyBytes f.ty) = none ∧
      confine s.cur (curSlot s) [(eaOf (curSlot s) f, tyBytes f.ty)] = none ∧
      IsReady s g (.ds f.d :: .ds (f.d + 1) :: .s f.c :: .s (f.c + 1) :: usesM f) true ∧
      checkEa (coreOf s s.cur).ident.asid (eaOf (curSlot s) f) 16 = none ∧
      confine s.cur (curSlot s) [(eaOf (curSlot s) f, 16)] = none) ∧
    (∃ (t : Ty) (old : Nat), (tyBits t = 32 ∨ tyBits t = 64) ∧ old < 2 ^ tyBits t ∧ tySigned t = true) ∧
    (∃ (t : Ty) (old : Nat), (tyBits t = 32 ∨ tyBits t = 64) ∧ old < 2 ^ tyBits t ∧ (t = .z32 ∨ t = .z64)) ∧
    (∃ (t : Ty) (old : Nat), (tyBits t = 32 ∨ tyBits t = 64) ∧ old < 2 ^ tyBits t ∧ (t = .f32 ∨ t = .f64)) ∧
    (∀ k ∈ [OutKind.amo 7 .f32 1 0, .cas .s32 0 1 0, .cas2 0 1 0], ∃ (o : Out) (u : AccUnit) (b : BitVec 128), o.units = [u] ∧
      u.val = some b ∧ o.kind = k) ∧
    ∃ old : Nat, old < 2 ^ 128 :=
  ⟨⟨sMem, g0, { mz with ty := .s64, a := 7, d := 2, c := 4 }, by decide +kernel, ready_of _ _, by decide +kernel,
      by decide +kernel, ready_of _ _, by decide +kernel, by decide +kernel⟩,
    ⟨.s32, 2 ^ 32 - 1, by decide⟩, ⟨.z64, 2 ^ 64 - 1, by decide⟩, ⟨.f32, 2 ^ 31, by decide⟩,
    fun k _ => ⟨{ outAmo with kind := k, units := [⟨0x2000, 8, 0, some 5⟩] }, ⟨0x2000, 8, 0, some 5⟩, 5, rfl, rfl, rfl⟩,
    ⟨2 ^ 128 - 1, by decide⟩⟩

/-- `gva` mapped with more leaf bits, the core holding these pins. -/
def sPins (leaf : Nat) (ps : List Pin) : State := setCore (mapWith sMem leaf) c0 { Core.reset with pins := ps }

/-- The page of `gva`. -/
def gpage : PageRef := pageOf 0 globalTag gva.toNat

/-- `gva` is mapped and not present, and the slot has asked for it when `b`. -/
def with0W (b : Bool) : State :=
  setSlot (mapWith sMem (leafBits 16 0 - 1)) ⟨0, 0, 0, 0⟩ { xMem with waitFor := if b then some (gpage, 4) else none }

theorem witness_FencePrefetchAndPinResults :
    (∃ (s : State) (g : Guard) (f : MForm), IsReady s g [] false ∧ (∀ o ∈ (curSlot s).outs, o.units = []) ∧ f.scope = 0 ∧
      (∀ e ∈ (coreOf s s.cur).sbuf ++ (coreOf s s.cur).fq, e.k = s.cur.k → e.flush = none) ∧
      ownVeil s (coreRefOf s.cur) s.cur.k = false ∧
      (∃ e ∈ (coreOf s s.cur).sbuf ++ (coreOf s s.cur).fq, e.k = s.cur.k ∧ e.rel.isSome = true) ∧
      (∀ e ∈ (coreOf s s.cur).sbuf ++ (coreOf s s.cur).fq, e.k = s.cur.k → e.rel.isSome = true → immature s s.cur e = false) ∧
      IsReady s g (usesM f) false) ∧
    (∃ (s : State) (g : Guard) (f : MForm), IsReady s g [] false ∧ (∀ o ∈ (curSlot s).outs, o.units = []) ∧ f.scope ≠ 0 ∧
      (∀ e ∈ (coreOf s s.cur).sbuf ++ (coreOf s s.cur).fq, e.k = s.cur.k → e.flush = none) ∧
      (∀ e ∈ (coreOf s s.cur).sbuf ++ (coreOf s s.cur).fq, e.k ≠ s.cur.k) ∧ ownVeil s (coreRefOf s.cur) s.cur.k = false ∧
      ∀ i ∈ (curSlot s).obs, ∀ e ∈ (coreOf s s.cur).sbuf ++ (coreOf s s.cur).fq, e.id ≠ i) ∧
    (∃ (s : State) (g : Guard), IsReady s g [] false ∧ ¬ ∀ o ∈ (curSlot s).outs, o.units = []) ∧
    (∃ (s : State) (g : Guard), IsReady s g [] false ∧ (∀ o ∈ (curSlot s).outs, o.units = []) ∧
      ownVeil s (coreRefOf s.cur) s.cur.k = true) ∧
    (∃ (s : State) (g : Guard), IsReady s g [] false ∧ (∀ o ∈ (curSlot s).outs, o.units = []) ∧
      ∃ e ∈ (coreOf s s.cur).sbuf, e.k = s.cur.k ∧ e.rel.isSome = true ∧ immature s s.cur e = true) ∧
    (∀ b : Bool, ∃ (s : State) (f : MForm) (a : Nat), IsReady s g0 (.ds f.d :: usesM f) false ∧ ldaOut (curSlot s) = false ∧
      placeOf (coreOf s s.cur).ident.asid (eaOf (curSlot s) f) = .page globalTag gva.toNat ∧
      walkPage s 0 globalTag gva.toNat = .absent a ∧ roomGone s s.cur gpage = b) ∧
    (∃ (s : State) (f : MForm) (e : Word) (a : Nat), IsReady s g0 (.ds f.d :: usesM f) false ∧ ldaOut (curSlot s) = false ∧
      placeOf (coreOf s s.cur).ident.asid (eaOf (curSlot s) f) = .page globalTag gva.toNat ∧
      walkPage s 0 globalTag gva.toNat = .leaf e a ∧ pageHeld s gpage false = true) ∧
    (∃ (s : State) (g : Guard) (f : MForm), IsReady s g (.ds f.d :: usesM f) false ∧ ldaOut (curSlot s) = false ∧
      placeOf (coreOf s s.cur).ident.asid (eaOf (curSlot s) f) = .lcl 0x2000 ∧
      checkEa (coreOf s s.cur).ident.asid (eaOf (curSlot s) f) 1 = none) ∧
    (∀ (s : State) (f : MForm), s ∈ [sMem, sPins (leafBits 16 0) [⟨gpage, 184, 0⟩], sPins (leafBits 16 0) [⟨gpage, 0, 1⟩],
        sPins (leafBits 0x1000000 (2 ^ 26)) [], sPins (leafBits 16 (1 * 64)) []] → f = { mz with a := 7, d := 2 } →
      IsReady s g0 (.ds f.d :: usesM f) false ∧ ldaOut (curSlot s) = false ∧
      placeOf (coreOf s s.cur).ident.asid (eaOf (curSlot s) f) = .page globalTag gva.toNat) ∧
    walkPage sMem 0 globalTag gva.toNat = .unmapped ∧
    (let s := sPins (leafBits 16 0) [⟨gpage, 184, 0⟩]
     let e := BitVec.ofNat 64 (leafBits 16 0)
     walkPage s 0 globalTag gva.toNat = .leaf e (tableAt 0 3 0) ∧ keyRefuses (some 0) globalTag e false = false ∧
     keyRefuses (some 1) globalTag e false = true ∧ pageHeld s gpage false = false ∧ leafMode e ≠ 1 ∧ leafMode e ≠ 2 ∧
     leafPs e ≠ 1 ∧ 184 ≤ pinCount (coreOf s s.cur) ∧ (∃ q ∈ (coreOf s s.cur).pins, q.page = gpage ∧ q.prog ≠ 0)) ∧
    (let s := sPins (leafBits 16 0) [⟨gpage, 0, 1⟩]
     walkPage s 0 globalTag gva.toNat = .leaf (BitVec.ofNat 64 (leafBits 16 0)) (tableAt 0 3 0) ∧
     pinCount (coreOf s s.cur) < 184 ∧ ∀ q ∈ (coreOf s s.cur).pins, q.page = gpage → q.prog = 0) ∧
    (let e := BitVec.ofNat 64 (leafBits 0x1000000 (2 ^ 26))
     walkPage (sPins (leafBits 0x1000000 (2 ^ 26)) []) 0 globalTag gva.toNat = .leaf e (tableAt 0 3 0) ∧ leafPs e = 1) ∧
    (let e := BitVec.ofNat 64 (leafBits 16 (1 * 64))
     walkPage (sPins (leafBits 16 (1 * 64)) []) 0 globalTag gva.toNat = .leaf e (tableAt 0 3 0) ∧ leafMode e = 1) :=
  ⟨⟨setCore sMem c0 { Core.reset with sbuf := [{ ent0 1 0x2000 with rel := some 1 }] }, g0, { mz with a := 7 }, ready_of _ _,
      by decide +kernel, rfl, by decide +kernel, by decide +kernel, by decide +kernel, by decide +kernel, ready_of _ _⟩,
    ⟨with0 { x0 with obs := [3] }, g0, { mz with scope := 5 }, ready_of _ _, by decide +kernel⟩,
    ⟨with0 { x0 with outs := [out0 none] }, g0, ready_of _ _, by decide +kernel⟩,
    ⟨{ setCore sMem c0 { Core.reset with fq := [ent0 1 gva] } with veils := [⟨0, 8, c0, 0, 1, [1]⟩] }, g0, ready_of _ _,
      by decide +kernel⟩,
    ⟨setCore sMem c0 { Core.reset with sbuf := [{ ent0 2 0x2000 with rel := some 1, covers := [1] }], fq := [ent0 1 gva] }, g0,
      ready_of _ _, by decide +kernel⟩,
    fun b => ⟨setPage (with0W b) gpage { pageAt sMem gpage with asked := false, noRoom := if b then some 5 else none },
      { mz with a := 7, d := 2 }, tableAt 0 3 0, by cases b <;> exact ready_of _ _, by cases b <;> decide +kernel⟩,
    ⟨setPage sPage gpage { pageAt sMem gpage with frozen := true }, { mz with a := 7, d := 2 }, BitVec.ofNat 64 (leafBits 16 0),
      tableAt 0 3 0, ready_of _ _, by decide +kernel⟩,
    ⟨sMem, g0, { mz with a := 6, d := 2 }, ready_of _ _, by decide +kernel, by decide +kernel,
      by decide +kernel⟩,
    by
      intro s f hs hf
      subst hf
      simp only [List.mem_cons, List.not_mem_nil, or_false] at hs
      rcases hs with rfl | rfl | rfl | rfl | rfl <;>
        exact ⟨ready_of _ _, by decide +kernel, by decide +kernel⟩,
    by decide +kernel, by decide +kernel, by decide +kernel, by decide +kernel, by decide +kernel⟩

end Sys2Proof.Tests
end

