-- ==== Sys2Proof/Tests/WitnessC.lean ====
section
/-!
SUPPORT. As Witness, for the statements about parallel, message, engine, system and containment instructions.
-/

namespace Sys2Proof.Tests

set_option Elab.async false

open Sys2Proof Sys2Proof.Machine

/-! ### Parallel execution -/

/-- A slot that is not parked in SYNC says nothing about levels. -/
theorem no_sync {x : Slot} {P : Nat → Prop} (h : x.st = .ready ∨ x.st = .free) : ∀ k sw, x.st = .parked (.sync k) sw → P k := by
  intro k sw hk
  rcases h with h | h <;> rw [h] at hk <;> cases hk

theorem witness_SyncAndBarrierResultsAndFaults :
    (∃ (s : State) (g : Guard) (f : RForm), IsReady s g [] false ∧ (curSlot s).frames = [] ∧ (curSlot s).task = .none ∧
      (∀ v ∈ slotsOf (coreRefOf s.cur), ∀ k sw, (slotAt s v).st = .parked (.sync k) sw → k = (coreOf s s.cur).level) ∧
      (coreOf s s.cur).openB = [] ∧ IsReady s g [.s f.a] false ∧ IsReady s g [.s f.a, .ds f.d] false ∧ IsReady s g [.ds f.d] false) ∧
    (∃ (s : State) (g : Guard), IsReady s g [] false ∧ (coreOf s s.cur).openB ≠ [] ∧ (coreOf s s.cur).closed.length < 16) ∧
    (∃ (s : State) (g : Guard) (f : RForm) (l : LaunchRef) (r : Launch) (bar : Bar), IsReady s g [.ds f.d] false ∧
      (curSlot s).frames = [] ∧ barOf s s.cur f.a.toNat = some (l, r, bar) ∧
      (tget (coreOf s s.cur).arrived 0 f.a.toNat).toNat + 1 < bar.r + 3 ∧ releaseAfter s s.cur 3 = [] ∧
      (coreOf s s.cur).arrivals = []) ∧
    (∃ (s : State) (g : Guard), IsReady s g [] false ∧ (curSlot s).frames = [] ∧
      (∃ v ∈ slotsOf (coreRefOf s.cur), v.k ≠ s.cur.k ∧ ∃ k sw, (slotAt s v).st = .parked (.sync k) sw ∧
        k ≠ (coreOf s s.cur).level) ∧ (curSlot s).task = .none) ∧
    (∃ (s : State) (g : Guard), IsReady s g [] false ∧ (curSlot s).frames = [] ∧
      (¬ ∃ v ∈ slotsOf (coreRefOf s.cur), v.k ≠ s.cur.k ∧ ∃ k sw, (slotAt s v).st = .parked (.sync k) sw ∧
        k ≠ (coreOf s s.cur).level) ∧ (curSlot s).task ≠ .none) ∧
    (∃ (s : State) (g : Guard) (f : RForm), IsReady s g [.ds f.d] false ∧ (curSlot s).frames = [] ∧
      barOf s s.cur f.a.toNat = none ∧ IsReady s g [.s f.b] false) ∧
    (∃ (s : State) (g : Guard) (f : RForm) (l : LaunchRef) (r : Launch) (bar : Bar), IsReady s g [.ds f.d] false ∧
      (curSlot s).frames = [] ∧ barOf s s.cur f.a.toNat = some (l, r, bar) ∧
      bar.r + 3 ≤ (tget (coreOf s s.cur).arrived 0 f.a.toNat).toNat + 1) ∧
    ∃ (s : State) (g : Guard) (f : RForm), (curSlot s).frames ≠ [] ∧ IsReady s g [] false ∧ IsReady s g [.ds f.d] false ∧
      IsReady s g [.s f.a, .ds f.d] false ∧ IsReady s g (usesR f) false ∧ IsReady s g [.s f.a, .s f.b, .ds f.d] false := by
  refine ⟨⟨sRun, g0, fReg .s8, ready_of _ _, by decide +kernel, by decide +kernel, ?_, by decide +kernel,
      ready_of _ _, ready_of _ _, ready_of _ _⟩,
    ⟨inLaunch xMem { coreIn with openB := [3] } launch0, g0, ready_of _ _, by decide +kernel,
      by decide +kernel⟩,
    ⟨sRun, g0, { rz with d := 5 }, l0, launch0, Bar.reset, ready_of _ _, by decide +kernel,
      by decide +kernel, by decide +kernel, by decide +kernel, by decide +kernel⟩,
    ⟨setSlot sRun ⟨0, 0, 0, 1⟩ { x0 with st := .parked (.sync 1) false }, g0, ready_of _ _,
      by decide +kernel, ⟨⟨0, 0, 0, 1⟩, by decide +kernel, by decide, 1, false, by decide +kernel, by decide +kernel⟩,
      by decide +kernel⟩,
    ⟨inLaunch { xMem with task := .queued } coreIn launch0, g0, ready_of _ _, by decide +kernel, ?_,
      by decide +kernel⟩,
    ⟨sRun, g0, { rz with d := 5, a := 1 }, ready_of _ _, by decide +kernel, by decide +kernel,
      ready_of _ _⟩,
    ⟨inLaunch xMem { coreIn with arrived := [(0, 2)] } launch0, g0, { rz with d := 5 }, l0, launch0, Bar.reset,
      ready_of _ _, by decide +kernel, by decide +kernel, by decide +kernel⟩,
    inLaunch { xMem with frames := [frame0] } coreIn launch0, g0, fReg .s8, by decide +kernel, ready_of _ _,
      ready_of _ _, ready_of _ _, ready_of _ _,
      ready_of _ _⟩
  · have h : ∀ v ∈ slotsOf (coreRefOf sRun.cur), (slotAt sRun v).st = .ready ∨ (slotAt sRun v).st = .free := by decide +kernel
    exact fun v hv => no_sync (h v hv)
  · have h : ∀ v ∈ slotsOf (coreRefOf (inLaunch { xMem with task := .queued } coreIn launch0).cur),
        (slotAt (inLaunch { xMem with task := .queued } coreIn launch0) v).st = .ready ∨
        (slotAt (inLaunch { xMem with task := .queued } coreIn launch0) v).st = .free := by decide +kernel
    rintro ⟨v, hv, _, k, sw, hk, _⟩
    exact no_sync (P := fun _ => False) (h v hv) k sw hk

theorem witness_WaitResults :
    (∃ (s : State) (g : Guard) (f : RForm) (l : LaunchRef) (r : Launch) (bar : Bar), IsReady s g [.s f.b] false ∧
      barOf s s.cur f.a.toNat = some (l, r, bar) ∧ (sGet (curSlot s) f.b).toNat ≤ bar.r ∧ f.i = false) ∧
    (∃ (s : State) (g : Guard) (f : RForm) (l : LaunchRef) (r : Launch) (bar : Bar), IsReady s g [.s f.b] false ∧
      barOf s s.cur f.a.toNat = some (l, r, bar) ∧ bar.r < (f.imm.signExtend 64 : Word).toNat ∧ f.i = true) ∧
    (∃ (s : State) (g : Guard) (f : RForm), IsReady s g [.s f.a, .s f.b, .ds f.d] false ∧
      0x100000 ≤ (sGet (curSlot s) f.a).toNat) ∧
    (∃ (s : State) (g : Guard) (f : RForm), IsReady s g [.s f.a, .s f.b, .ds f.d] false ∧
      (sGet (curSlot s) f.a).toNat < 0x100000 ∧ (sGet (curSlot s) f.a).toNat % 8 ≠ 0) ∧
    (∃ (s : State) (g : Guard) (f : RForm), IsReady s g [.s f.a, .s f.b, .ds f.d] false ∧
      (sGet (curSlot s) f.a).toNat < 0x100000 ∧ (sGet (curSlot s) f.a).toNat % 8 = 0 ∧
      localFree s s.cur [⟨sGet (curSlot s) f.a, 8, 0, none⟩] = false) ∧
    (∃ (s : State) (g : Guard) (f : RForm), IsReady s g [.s f.a, .s f.b, .ds f.d] false ∧
      (sGet (curSlot s) f.a).toNat < 0x100000 ∧ (sGet (curSlot s) f.a).toNat % 8 = 0 ∧
      localFree s s.cur [⟨sGet (curSlot s) f.a, 8, 0, none⟩] = true ∧ ¬ localGood s (sGet (curSlot s) f.a) 8) ∧
    (∃ (s : State) (g : Guard) (f : RForm), IsReady s g [.s f.a, .s f.b, .ds f.d] false ∧
      (sGet (curSlot s) f.a).toNat < 0x100000 ∧ (sGet (curSlot s) f.a).toNat % 8 = 0 ∧
      localFree s s.cur [⟨sGet (curSlot s) f.a, 8, 0, none⟩] = true ∧ localGood s (sGet (curSlot s) f.a) 8 ∧
      BitVec.ofNat 64 (localSeen s (sGet (curSlot s) f.a) 8) ≠ sGet (curSlot s) f.b) ∧
    ∃ (s : State) (g : Guard) (f : RForm), IsReady s g [.s f.a, .s f.b, .ds f.d] false ∧
      (sGet (curSlot s) f.a).toNat < 0x100000 ∧ (sGet (curSlot s) f.a).toNat % 8 = 0 ∧
      localFree s s.cur [⟨sGet (curSlot s) f.a, 8, 0, none⟩] = true ∧ localGood s (sGet (curSlot s) f.a) 8 ∧
      BitVec.ofNat 64 (localSeen s (sGet (curSlot s) f.a) 8) = sGet (curSlot s) f.b ∧ (curSlot s).pendingWake = false :=
  ⟨⟨sRun, g0, rz, l0, launch0, Bar.reset, ready_of _ _, by decide +kernel, by decide +kernel, rfl⟩,
    ⟨sRun, g0, { rz with i := true, imm := 1 }, l0, launch0, Bar.reset, ready_of _ _, by decide +kernel,
      by decide +kernel, rfl⟩,
    ⟨sMem, g0, { rz with a := 12 }, ready_of _ _, by decide +kernel⟩,
    ⟨sMem, g0, { rz with a := 9 }, ready_of _ _, by decide +kernel, by decide +kernel⟩,
    ⟨with0 { xMem with outs := [outAmo] }, g0, { rz with a := 6 }, ready_of _ _, by decide +kernel,
      by decide +kernel, by decide +kernel⟩,
    ⟨{ sMem with ecc := [(0x400, ⟨3, false⟩)] }, g0, { rz with a := 6 }, ready_of _ _, by decide +kernel,
      by decide +kernel, by decide +kernel, by unfold localGood; decide +kernel⟩,
    ⟨sMem, g0, { rz with a := 6, b := 11 }, ready_of _ _, by decide +kernel, by decide +kernel, by decide +kernel,
      by unfold localGood; decide +kernel, by decide +kernel⟩,
    sMem, g0, { rz with a := 6 }, ready_of _ _, by decide +kernel, by decide +kernel, by decide +kernel,
      by unfold localGood; decide +kernel, by decide +kernel, by decide +kernel⟩

/-- The EPA of slot 0 of core 5 of hamlet 3 on the issuer's die (07, example), with its slot field 1. -/
def epaEx : BitVec 32 := 0x0F83A800

/-- A message entry addressed to slot 0. -/
def entry0 : VWord := 7#512 <<< 64

theorem witness_MessageResults :
    (∃ (s : State) (g : Guard) (e : EForm), IsReady s g (usesE e (e.sub.toNat + 1)) true ∧ epaBadSend (eEpa (curSlot s) e) = true) ∧
    (∃ (s : State) (g : Guard) (e : EForm), IsReady s g (usesE e (e.sub.toNat + 1)) true ∧ epaBadSend (eEpa (curSlot s) e) = false) ∧
    (∃ (s : State) (g : Guard) (f : RForm), IsReady s g [.dv f.d] true ∧ takeEntry s.cur.k (coreOf s s.cur).inbox = none ∧
      IsReady s g [.ds f.d] false) ∧
    (∃ (s : State) (g : Guard) (f : RForm) (raw : VWord) (rest : List InEntry), IsReady s g [.dv f.d] true ∧
      takeEntry s.cur.k (coreOf s s.cur).inbox = some (raw, rest) ∧ (∀ o ∈ (curSlot s).outs, waitingRecv o = false) ∧
      (curSlot s).bindId = some 0 ∧ ∀ i, (curSlot s).bindId = some i → i ≤ s.nextId) ∧
    (∃ (s : State) (g : Guard) (f : RForm), IsReady s g [.s f.a] false ∧
      (epaBadSend ((sGet (curSlot s) f.a).setWidth 32) = true ∨ epaPv ((sGet (curSlot s) f.a).setWidth 32) = true)) ∧
    ∃ (s : State) (g : Guard) (f : RForm), IsReady s g [.s f.a] false ∧
      epaBadSend ((sGet (curSlot s) f.a).setWidth 32) = false ∧ epaPv ((sGet (curSlot s) f.a).setWidth 32) = false :=
  ⟨⟨sRun, g0, { ez with sub := 6, a := 20, epa := 0x10000000 }, ready_of _ _, by decide +kernel⟩,
    ⟨sRun, g0, { ez with sub := 1, d := 12, a := 20, epa := epaEx }, ready_of _ _, by decide +kernel⟩,
    ⟨sRun, g0, rz, ready_of _ _, by decide +kernel, ready_of _ _⟩,
    ⟨inLaunch { xMem with bindId := some 0 } { coreIn with inbox := [⟨entry0, none⟩] } launch0, g0, rz, entry0, [], ready_of _ _,
      by decide +kernel, by decide +kernel, by decide +kernel, fun i _ => by
        rename_i h
        rw [show (curSlot (inLaunch { xMem with bindId := some 0 } { coreIn with inbox := [⟨entry0, none⟩] } launch0)).bindId = some 0
          by decide +kernel] at h
        cases h
        exact Nat.zero_le _⟩,
    ⟨with0 { x0 with sreg := [(6, 0x10000000)] }, g0, { rz with a := 6 }, ready_of _ _, by decide +kernel⟩,
    with0 { x0 with sreg := [(6, 0x0F83A800)] }, g0, { rz with a := 6 }, ready_of _ _, by decide +kernel,
      by decide +kernel⟩

/-- A read that has answered. -/
def gotIt : Got → Bool | .ok _ _ => true | _ => false

theorem got_ok {g : Got} (h : gotIt g = true) : ∃ s ws, g = .ok s ws := by
  cases g <;> simp_all [gotIt]

/-- The words that a read has answered. -/
def gotWords : Got → List Word | .ok _ ws => ws | _ => []

/-- A walk descriptor at 0x2000: body 0x1004, one dimension of 4 tiles, no footprint. -/
def sWalk (frames : List Frame) : State :=
  let s := inLaunch { xMem with frames := frames } coreIn launch0
  { s with mem := memWrite (memWrite (memWrite s.mem 0x2000 8 (0x1004 + 2 ^ 32)) 0x2008 4 4) 0x2018 4 1 }

theorem witness_TaskResults :
    (∃ (s : State) (g : Guard) (f : RForm), (curSlot s).frames = [] ∧ IsReady s g [.s f.a, .ds f.d] false ∧
      checkEa (coreOf s s.cur).ident.asid (sGet (curSlot s) f.a) 64 = none ∧ (coreOf s s.cur).walk ≠ none) ∧
    (∃ (s : State) (g : Guard) (f : RForm) (s' : State) (ws : List Word) (k : Walk), (curSlot s).frames = [] ∧
      IsReady s g [.s f.a, .ds f.d] false ∧ checkEa (coreOf s s.cur).ident.asid (sGet (curSlot s) f.a) 64 = none ∧
      (coreOf s s.cur).walk = none ∧ loadWords s s.cur (sGet (curSlot s) f.a) 32 = .ok s' ws ∧
      readWalk ws (curSlot s).csr.pkey = some k) ∧
    (∃ (s : State) (g : Guard) (f : RForm) (s' : State) (ws : List Word), (curSlot s).frames = [] ∧
      IsReady s g [.s f.a, .ds f.d] false ∧ checkEa (coreOf s s.cur).ident.asid (sGet (curSlot s) f.a) 64 = none ∧
      (coreOf s s.cur).walk = none ∧ loadWords s s.cur (sGet (curSlot s) f.a) 32 = .ok s' ws ∧
      readWalk ws (curSlot s).csr.pkey = none) ∧
    (∃ (s : State) (g : Guard) (f : RForm), (curSlot s).frames = [] ∧ IsReady s g (usesR f) false ∧
      32 ≤ (coreOf s s.cur).tasks.length) ∧
    (∃ (s : State) (g : Guard) (f : RForm), (curSlot s).frames = [] ∧ IsReady s g (usesR f) false ∧
      (coreOf s s.cur).tasks.length < 32) ∧
    (∃ (s : State) (g : Guard) (f : RForm), (curSlot s).frames = [] ∧ IsReady s g [.s f.a, .s f.b, .ds f.d] false ∧
      freeSlotOf s (coreRefOf s.cur) = none) ∧
    (∃ (s : State) (g : Guard) (f : RForm) (v : SlotRef), (curSlot s).frames = [] ∧ IsReady s g [.s f.a, .s f.b, .ds f.d] false ∧
      freeSlotOf s (coreRefOf s.cur) = some v ∧ checkTarget (setSlot s v Slot.reset) v (sGet (curSlot s) f.a) = none) ∧
    (let recv := fun o : Out => match o.kind with | .recv _ => true | _ => false
     (∃ (s : State) (g : Guard), (curSlot s).frames = [] ∧ IsReady s g [] false ∧ (curSlot s).outs.all recv = true ∧
       (curSlot s).held = [] ∧ (curSlot s).task = .none) ∧
     (∃ (s : State) (g : Guard), (curSlot s).frames = [] ∧ IsReady s g [] false ∧ (curSlot s).outs.all recv = true ∧
       (curSlot s).held = [] ∧ (curSlot s).task = .walked [0] none [] none) ∧
     ∃ (s : State) (g : Guard), (curSlot s).frames = [] ∧ IsReady s g [] false ∧ (curSlot s).outs.all recv = false) := by
  refine ⟨⟨inLaunch xMem { coreIn with walk := some ⟨4, [1], [1], [], 0, [], [], 0⟩ } launch0, g0, { rz with a := 6, d := 5 },
      by decide +kernel, ready_of _ _, by decide +kernel, by decide +kernel⟩, ?_, ?_,
    ⟨inLaunch xMem { coreIn with tasks := List.replicate 32 ⟨4, 0, 0, 0⟩ } launch0, g0, fReg .s8, by decide +kernel,
      ready_of _ _, by decide +kernel⟩,
    ⟨inLaunch xMem { coreIn with tasks := List.replicate 31 ⟨4, 0, 0, 0⟩ } launch0, g0, fReg .s8, by decide +kernel,
      ready_of _ _, by decide +kernel⟩,
    ⟨setSlot (setSlot (setSlot sRun ⟨0, 0, 0, 1⟩ x0) ⟨0, 0, 0, 2⟩ x0) ⟨0, 0, 0, 3⟩ x0, g0, fReg .s8, by decide +kernel,
      ready_of _ _, by decide +kernel⟩,
    ⟨sJump, g0, { rz with a := 7, b := 6, d := 5 }, ⟨0, 0, 0, 1⟩, by decide +kernel, ready_of _ _,
      by decide +kernel, by decide +kernel⟩,
    ⟨sRun, g0, by decide +kernel, ready_of _ _, by decide +kernel, by decide +kernel, by decide +kernel⟩,
    ⟨inLaunch { xMem with task := .walked [0] none [] none } coreIn launch0, g0, by decide +kernel,
      ready_of _ _, by decide +kernel, by decide +kernel, by decide +kernel⟩,
    with0 { xMem with outs := [out0 none] }, g0, by decide +kernel, ready_of _ _, by decide +kernel⟩
  · have h : ∃ k, readWalk (gotWords (loadWords (sWalk []) (sWalk []).cur (sGet (curSlot (sWalk [])) 6) 32))
        (curSlot (sWalk [])).csr.pkey = some k :=
      Option.isSome_iff_exists.mp (by decide +kernel)
    obtain ⟨s', ws, hl⟩ := got_ok (show gotIt (loadWords (sWalk []) (sWalk []).cur (sGet (curSlot (sWalk [])) 6) 32) = true by
      decide +kernel)
    obtain ⟨k, hk⟩ := h
    rw [hl] at hk
    exact ⟨sWalk [], g0, { rz with a := 6, d := 5 }, s', ws, k, by decide +kernel, ready_of _ _,
      by decide +kernel, by decide +kernel, hl, hk⟩
  · have h : readWalk (gotWords (loadWords sRun sRun.cur (sGet (curSlot sRun) 6) 32)) (curSlot sRun).csr.pkey = none := by
      decide +kernel
    obtain ⟨s', ws, hl⟩ := got_ok (show gotIt (loadWords sRun sRun.cur (sGet (curSlot sRun) 6) 32) = true by decide +kernel)
    rw [hl] at h
    exact ⟨sRun, g0, { rz with a := 6, d := 5 }, s', ws, by decide +kernel, ready_of _ _,
      by decide +kernel, by decide +kernel, hl, h⟩

/-! ### Engines -/

/-- A slot whose block from `s20` on is `ws` and whose EPA register `s30` is `e`. -/
def xCmd (e : BitVec 32) (ws : List Word) (supv : Bool) : Slot :=
  { x0 with sreg := ws.mapIdx (fun i v => (20 + i, v)) ++ [(30, e.setWidth 64)], supv := supv }

/-- The mill of core 0, a copy engine, a collective engine, and the engines of supervisors. -/
def epaMill : BitVec 32 := 0x1F800000
def epaCopy : BitVec 32 := 0x29020000
def epaColl : BitVec 32 := 0x3F800000
def epaMigr : BitVec 32 := 0x5E000000
def epaCkpt : BitVec 32 := 0x6E000000
def epaPeerCopy : BitVec 32 := 0x2F800060

/-- The hypotheses under which a command is sent. -/
def SendHyp (s : State) (g : Guard) (f : EForm) (op : CmdOp) (n ty : Nat) (peer : Bool) (chk : List Word → Option Nat)
    (m : Nat) : Prop :=
  IsReady s g (usesE f n) true ∧ epaBadEngine s.cur (curSlot s).supv ty peer (eEpa (curSlot s) f) = false ∧
    (hdrNotify (eBlock (curSlot s) f n) = 0 ∨ epaBadSend (hdrNotify (eBlock (curSlot s) f n)) = false) ∧
    chk (eBlock (curSlot s) f n) = none ∧
    confine s.cur (curSlot s) (cmdWrites op f.ty f.sub.toNat m (eBlock (curSlot s) f n)) = none

/-- A state whose slot has a command block and an EPA. -/
def sCmd (e : BitVec 32) (ws : List Word) : State := inLaunch (xCmd e ws true) coreIn launch0

def eCmd (t : Ty) : EForm := { ez with ty := t, d := 12, a := 20, c := 30 }

theorem witness_CommandsAreSentOrFault :
    (∃ s g f, SendHyp s g f .mloadw 4 1 false (chkMloadw f.ty) 0) ∧ (∃ s g f, SendHyp s g f .mswap 1 1 false chkHeader 0) ∧
    (∃ s g f, pairOk (coreOf s s.cur).actFmt f.ty = true ∧
      SendHyp s g f .mstream 4 1 false (chkMstream f.ty (coreOf s s.cur).actFmt) 0) ∧
    (∃ s g f, SendHyp s g f .mzero 2 1 false (chkMzero (f.sub = 1)) 0) ∧
    (∃ s g f, SendHyp s g f .accrd 4 1 false (chkAcc f.ty) 0) ∧ (∃ s g f, SendHyp s g f .accwr 4 1 false (chkAcc f.ty) 0) ∧
    (∃ s g f, SendHyp s g f .cpy 6 2 false chkCpy 0) ∧ (∃ s g f, SendHyp s g f .cpy2 7 2 false chkCpy2 0) ∧
    (∃ s g f, SendHyp s g f .cpyr 6 2 true chkCpy 0) ∧
    (∃ s g f, SendHyp s g f .coll 5 3 false
      (chkColl f.ty f.sub.toNat (match recOf s s.cur with | some r => r.nlev | none => 0)
        (domCores s s.cur (bf (eBlock (curSlot s) f 5) 0 1 0)).length)
      (domCores s s.cur (bf (eBlock (curSlot s) f 5) 0 1 0)).length) ∧
    (∃ s g f, SendHyp s g f .ecode 7 2 false (chkEcode (f.sub = 1)) 0) ∧
    (∃ s g f, SendHyp s g f .ckpt 3 6 false chkCkpt 0) ∧ (∃ s g f, SendHyp s g f .migr 4 5 false chkMigr 0) ∧
    (∃ s g f ty, ty = epaType (eEpa (curSlot s) f) ∧ 1 ≤ ty ∧ ty ≤ 6 ∧ SendHyp s g f .engq 1 ty false chkHeader 0) ∧
    (∃ (s : State) (g : Guard) (f : EForm), (∀ n, IsReady s g (usesE f n) true) ∧
      ∀ p ∈ [(1, false), (2, false), (2, true), (3, false), (5, false), (6, false), (16, false)],
        epaBadEngine s.cur (curSlot s).supv p.1 p.2 (eEpa (curSlot s) f) = true) ∧
    (∃ (s : State) (g : Guard) (f : EForm), IsReady s g (usesE f 6) true ∧
      epaBadEngine s.cur (curSlot s).supv 2 false (eEpa (curSlot s) f) = false ∧ hdrNotify (eBlock (curSlot s) f 6) ≠ 0 ∧
      epaBadSend (hdrNotify (eBlock (curSlot s) f 6)) = true) ∧
    (∃ (s : State) (g : Guard) (f : EForm), IsReady s g (usesE f 6) true ∧
      epaBadEngine s.cur (curSlot s).supv 2 false (eEpa (curSlot s) f) = false ∧ hdrNotify (eBlock (curSlot s) f 6) = 0 ∧
      chkCpy (eBlock (curSlot s) f 6) = some 3) ∧
    (∃ (s : State) (g : Guard) (f : EForm), IsReady s g (usesE f 5) true ∧
      epaBadEngine s.cur (curSlot s).supv 3 false (eEpa (curSlot s) f) = false ∧ hdrNotify (eBlock (curSlot s) f 5) = 0 ∧
      ∃ k, chkColl f.ty f.sub.toNat (match recOf s s.cur with | some r => r.nlev | none => 0)
        (domCores s s.cur (bf (eBlock (curSlot s) f 5) 0 1 0)).length (eBlock (curSlot s) f 5) = some k) ∧
    ∃ (s : State) (g : Guard) (f : EForm), IsReady s g (usesE f 4) true ∧
      epaBadEngine s.cur (curSlot s).supv 1 false (eEpa (curSlot s) f) = false ∧ hdrNotify (eBlock (curSlot s) f 4) = 0 ∧
      chkMstream f.ty (coreOf s s.cur).actFmt (eBlock (curSlot s) f 4) = none ∧ pairOk (coreOf s s.cur).actFmt f.ty = false := by
  have mk : ∀ (s : State) (f : EForm) (op : CmdOp) (n ty : Nat) (peer : Bool) (chk : List Word → Option Nat) (m : Nat),
      quietSlot s g0 = true → epaBadEngine s.cur (curSlot s).supv ty peer (eEpa (curSlot s) f) = false →
      hdrNotify (eBlock (curSlot s) f n) = 0 → chk (eBlock (curSlot s) f n) = none → (curSlot s).frames = [] →
      SendHyp s g0 f op n ty peer chk m := by
    intro s f op n ty peer chk m h1 h2 h3 h4 h5
    refine ⟨ready_of _ _ h1, h2, .inl h3, h4, ?_⟩
    simp [confine, h5]
  refine ⟨⟨sCmd epaMill [0, 0x2000, 0, 2], g0, eCmd .bf16, mk _ _ _ _ _ _ _ _ ?_ ?_ ?_ ?_ ?_⟩,
    ⟨sCmd epaMill [0], g0, eCmd .s8, mk _ _ _ _ _ _ _ _ ?_ ?_ ?_ ?_ ?_⟩,
    ⟨sCmd epaMill [0, 0x2000, 2, 0], g0, eCmd .bf16, by decide +kernel, mk _ _ _ _ _ _ _ _ ?_ ?_ ?_ ?_ ?_⟩,
    ⟨sCmd epaMill [0, 1], g0, eCmd .s8, mk _ _ _ _ _ _ _ _ ?_ ?_ ?_ ?_ ?_⟩,
    ⟨sCmd epaMill [0, 0x2000, 0, 0], g0, eCmd .s64, mk _ _ _ _ _ _ _ _ ?_ ?_ ?_ ?_ ?_⟩,
    ⟨sCmd epaMill [0, 0x2000, 0, 0], g0, eCmd .s64, mk _ _ _ _ _ _ _ _ ?_ ?_ ?_ ?_ ?_⟩,
    ⟨sCmd epaCopy [0, 0x2000, 0x3000, 64, 0x4000, 1], g0, eCmd .s8, mk _ _ _ _ _ _ _ _ ?_ ?_ ?_ ?_ ?_⟩,
    ⟨sCmd epaCopy [0, 0x2000, 0x3000, 0x200000040, 0x4000000040, 0, 0], g0, eCmd .s8, mk _ _ _ _ _ _ _ _ ?_ ?_ ?_ ?_ ?_⟩,
    ⟨sCmd epaPeerCopy [0, gva, gva, 64, 0, 0], g0, eCmd .s8, mk _ _ _ _ _ _ _ _ ?_ ?_ ?_ ?_ ?_⟩,
    ⟨sCmd epaColl [0, 0x2000, 0x3000, 1, 0], g0, eCmd .s32, mk _ _ _ _ _ _ _ _ ?_ ?_ ?_ ?_ ?_⟩,
    ⟨sCmd epaCopy [0, 0x2000, 0x3000, 64, 0, 0x4000, 0], g0, eCmd .s8, mk _ _ _ _ _ _ _ _ ?_ ?_ ?_ ?_ ?_⟩,
    ⟨sCmd epaCkpt [0, gva, 0], g0, eCmd .s8, mk _ _ _ _ _ _ _ _ ?_ ?_ ?_ ?_ ?_⟩,
    ⟨sCmd epaMigr [0, gva, 1, 0], g0, eCmd .s8, mk _ _ _ _ _ _ _ _ ?_ ?_ ?_ ?_ ?_⟩,
    ⟨sCmd epaCopy [0], g0, eCmd .s8, 2, by decide +kernel, by decide, by decide, mk _ _ _ _ _ _ _ _ ?_ ?_ ?_ ?_ ?_⟩,
    ⟨sCmd 0x10000001 [0], g0, eCmd .s8, fun n => ready_of _ _, by decide +kernel⟩,
    ⟨sCmd epaCopy [0x100000000000, 0x2000, 0x3000, 64, 0, 0], g0, eCmd .s8, ready_of _ _, by decide +kernel,
      by decide +kernel, by decide +kernel⟩,
    ⟨sCmd epaCopy [0, 0x2000, 0x3000, 0, 0, 0], g0, eCmd .s8, ready_of _ _, by decide +kernel,
      by decide +kernel, by decide +kernel⟩,
    ⟨sCmd epaColl [0, 0x2000, 0x3000, 0, 0], g0, eCmd .s32, ready_of _ _, by decide +kernel, by decide +kernel,
      Option.isSome_iff_exists.mp (by decide +kernel)⟩,
    sCmd epaMill [0, 0x2000, 2, 0], g0, eCmd .s64, ready_of _ _, by decide +kernel⟩ <;> decide +kernel

theorem witness_EngineControlResults :
    (∃ (s : State) (g : Guard) (f : RForm), IsReady s g [.ds f.d] true ∧ IsReady s g [] false ∧ (coreOf s s.cur).openB = []) ∧
    (∃ (s : State) (g : Guard), IsReady s g [] false ∧ (coreOf s s.cur).openB ≠ [] ∧ 16 ≤ (coreOf s s.cur).closed.length) ∧
    (∃ (s : State) (g : Guard) (f : RForm), IsReady s g [.s f.a] false ∧ (coreOf s s.cur).openB = [] ∧
      (coreOf s s.cur).closed.length ≤ (sGet (curSlot s) f.a).toNat) ∧
    ∃ (s : State) (g : Guard) (f : RForm), IsReady s g [.s f.a] false ∧ (coreOf s s.cur).openB = [] ∧
      (sGet (curSlot s) f.a).toNat < (coreOf s s.cur).closed.length :=
  ⟨⟨sRun, g0, fReg .s8, ready_of _ _, ready_of _ _, by decide +kernel⟩,
    ⟨inLaunch xMem { coreIn with openB := [9], closed := List.replicate 16 [1] } launch0, g0, ready_of _ _,
      by decide +kernel, by decide +kernel⟩,
    ⟨inLaunch xMem { coreIn with closed := [[1], [2]] } launch0, g0, { rz with a := 11 }, ready_of _ _,
      by decide +kernel, by decide +kernel⟩,
    inLaunch xMem { coreIn with closed := [[1], [2]] } launch0, g0, rz, ready_of _ _,
      by decide +kernel, by decide +kernel⟩

/-! ### System instructions -/

/-- A supervisor in a handler, to return to 16. -/
def xTrap : Slot :=
  { xMem with supv := true, trap := { TrapRegs.reset with inh := true, defer := true, pc := 16 }, failed := .out (out0 none) }

theorem witness_TrapInstructionResults :
    (∃ (s : State) (g : Guard) (f : RForm), IsReady s g [] false ∧ (curSlot s).supv = false ∧ IsReady s g [.s f.a, .s f.b] false) ∧
    (∃ (s : State) (g : Guard) (o : Out), IsReady s g [] false ∧ (curSlot s).supv = true ∧ (curSlot s).trap.inh = true ∧
      checkPc (curSlot s).trap.pc = none ∧ (curSlot s).trap.defer = true ∧ (curSlot s).failed = .out o) ∧
    (∃ (s : State) (g : Guard), IsReady s g [] false ∧ (curSlot s).supv = true ∧ (curSlot s).trap.inh = true ∧
      checkPc (curSlot s).trap.pc = none ∧ (curSlot s).trap.defer = false) ∧
    (∃ (s : State) (g : Guard), IsReady s g [] false ∧ (curSlot s).supv = true ∧ (curSlot s).trap.inh = true ∧
      checkPc (curSlot s).trap.pc = some .fetchAlign) ∧
    (∃ (s : State) (g : Guard), IsReady s g [] false ∧ (curSlot s).supv = true ∧ (curSlot s).trap.inh = false) ∧
    (∃ (s : State) (g : Guard) (f : RForm), IsReady s g [.s f.a, .s f.b] false ∧ (curSlot s).supv = true ∧
      epaBadSend ((sGet (curSlot s) f.a).setWidth 32) = true) ∧
    (∃ (s : State) (g : Guard) (f : RForm), IsReady s g [.s f.a, .s f.b] false ∧ (curSlot s).supv = true ∧
      epaBadSend ((sGet (curSlot s) f.a).setWidth 32) = false ∧ epaPv ((sGet (curSlot s) f.a).setWidth 32) = false) ∧
    ∃ (g : Guard) (f : RForm) (c : CellWord), encode (.eret g f) = some c :=
  ⟨⟨sRun, g0, rz, ready_of _ _, by decide +kernel, ready_of _ _⟩,
    ⟨with0 xTrap, g0, out0 none, ready_of _ _, by decide +kernel, by decide +kernel, by decide +kernel,
      by decide +kernel, by decide +kernel⟩,
    ⟨with0 { xTrap with trap := { xTrap.trap with defer := false } }, g0, ready_of _ _, by decide +kernel,
      by decide +kernel, by decide +kernel, by decide +kernel⟩,
    ⟨with0 { xTrap with trap := { xTrap.trap with pc := 6 } }, g0, ready_of _ _, by decide +kernel,
      by decide +kernel, by decide +kernel⟩,
    ⟨with0 { xMem with supv := true }, g0, ready_of _ _, by decide +kernel, by decide +kernel⟩,
    ⟨with0 (xCmd 0x10000000 [] true), g0, { rz with a := 30 }, ready_of _ _, by decide +kernel,
      by decide +kernel⟩,
    ⟨with0 (xCmd epaEx [] true), g0, { rz with a := 30 }, ready_of _ _, by decide +kernel,
      by decide +kernel, by decide +kernel⟩,
    g0, rz, _, rfl⟩

theorem witness_CsrAndLogInstructionResults :
    (∃ (s : State) (g : Guard) (f : RForm), IsReady s g [.ds f.d, .s f.b] false ∧ (curSlot s).supv = false ∧
      readPriv (f.imm.extractLsb' 0 12).toNat = true ∧ IsReady s g [.ds f.d, .s f.a] false ∧
      writePriv (f.imm.extractLsb' 0 12).toNat = true) ∧
    (∃ (s : State) (g : Guard) (f : RForm), IsReady s g [.ds f.d, .s f.b] false ∧
      readPriv (f.imm.extractLsb' 0 12).toNat = false ∧ IsReady s g [.ds f.d, .s f.a] false ∧ f.d = f.a ∧
      writePriv (f.imm.extractLsb' 0 12).toNat = false ∧
      fieldPriv s s.cur (f.imm.extractLsb' 0 12).toNat (sGet (curSlot s) f.a) = false ∧
      (f.imm.extractLsb' 0 12).toNat = 0x201) ∧
    (∃ (s : State) (g : Guard), IsReady s g [] false ∧ localDrained s s.cur = false) ∧
    ∃ (s : State) (g : Guard) (f : RForm), IsReady s g [] false ∧ localDrained s s.cur = true ∧ IsReady s g [.ds f.d] false :=
  ⟨⟨sRun, g0, { rz with imm := 0x400 }, ready_of _ _, by decide +kernel, by decide +kernel,
      ready_of _ _, by decide +kernel⟩,
    ⟨sRun, g0, { rz with a := 6, d := 6, imm := 0x201 }, ready_of _ _, by decide +kernel,
      ready_of _ _, rfl, by decide +kernel, by decide +kernel, by decide⟩,
    ⟨setCore sMem c0 { Core.reset with sbuf := [ent0 1 0x2000] }, g0, ready_of _ _, by decide +kernel⟩,
    sMem, g0, rz, ready_of _ _, by decide +kernel, ready_of _ _⟩

/-! ### Containment -/

/-- A slot with one frame, its register area in `s6`, a small count in `s11`. -/
def xFrame (f : Frame) : Slot := { xMem with frames := [f], trap := { TrapRegs.reset with limit := 2 } }

theorem witness_ContainmentDomainResults :
    (∃ (s : State) (g : Guard) (f : RForm), IsReady s g [.s f.a] false ∧
      openCheck s.cur (curSlot s) (sGet (curSlot s) f.a) = none ∧ MemOk s ∧ (curSlot s).outs = [] ∧ nearIdle s s.cur = true ∧
      ∀ v ∈ slotsOf (coreRefOf s.cur), waitsOn (slotAt s v) (sGet (curSlot s) f.a).toNat 0xA80 = false) ∧
    (∃ (s : State) (g : Guard) (f : RForm), IsReady s g [.s f.a] false ∧
      openCheck s.cur (curSlot s) (sGet (curSlot s) f.a) = none ∧ ¬ ((curSlot s).outs = [] ∧ nearIdle s s.cur = true)) ∧
    (∃ (s : State) (g : Guard) (f : RForm) (v : Word), IsReady s g [.s f.a] false ∧
      openCheck s.cur (curSlot s) (sGet (curSlot s) f.a) = some (.dataAlign, v)) ∧
    (∃ (s : State) (g : Guard) (f : RForm) (fr : Frame), (curSlot s).frames = [fr] ∧ fr.remote = false ∧
      IsReady s g [.s f.a, .s f.b, .s f.c] false ∧ f.sub = 0 ∧
      let a := (sGet (curSlot s) f.a).toNat
      let n := (sGet (curSlot s) f.b).toNat
      let c := (sGet (curSlot s) f.c).toNat
      MemOk s ∧ (a % 8 = 0 ∧ c % 8 = 0 ∧ n % 8 = 0 ∧ 8 ≤ n ∧ a + n ≤ 2 ^ 20 ∧ c + n ≤ 2 ^ 20) ∧
      fr.preserved = [] ∧ hitsAny a n (heldRanges (curSlot s).frames) = false ∧
      hitsAny c n ((a, n) :: heldRanges (curSlot s).frames ++ frameRanges s.cur (curSlot s).frames) = false ∧
      (curSlot s).outs = [] ∧ nearIdle s s.cur = true ∧ s.cur.k < 4 ∧ (coreOf s s.cur).fq = [] ∧ s.veils = [] ∧
      firstBad s (coreRefOf s.cur) a (n / 8) = none ∧
      ∀ v ∈ slotsOf (coreRefOf s.cur), waitsOn (slotAt s v) c n = false) ∧
    (∃ (s : State) (g : Guard) (f : RForm) (fr : Frame), (curSlot s).frames = [fr] ∧ fr.remote = false ∧
      IsReady s g [.s f.a, .s f.b, .s f.c] false ∧ f.sub ≠ 0 ∧ IsReady s g [.s f.a, .s f.b] false ∧ sGet (curSlot s) f.b ≠ 0 ∧
      (sGet (curSlot s) f.b).toNat < 2 ^ 32 ∧ fr.preserved.length < 8 ∧ fr.outputs.length < 8 ∧
      oneRegion (sGet (curSlot s) f.a) (sGet (curSlot s) f.b).toNat = true ∧
      hitsAny (normVa s.cur (sGet (curSlot s) f.a)) (sGet (curSlot s) f.b).toNat (heldRanges (curSlot s).frames) = false ∧
      fr.preserved = [] ∧ fr.outputs = []) ∧
    (∃ (s : State) (g : Guard) (fr q : Frame), (curSlot s).frames = [fr, q] ∧ fr.remote = false ∧ q.remote = false ∧
      IsReady s g [] false ∧ onlyRecv (curSlot s) = true ∧ frameCmds s fr.uid = false ∧ fr.fail = none) ∧
    (∃ (s : State) (g : Guard) (fr : Frame), (curSlot s).frames = [fr] ∧ fr.remote = true ∧ IsReady s g [] false ∧
      remoteBusy s s.cur fr.uid = false) ∧
    (∃ (s : State) (g : Guard), IsReady s g [] false ∧ (curSlot s).frames = []) ∧
    ∃ (s : State) (g : Guard) (fr : Frame), IsReady s g [] false ∧ (curSlot s).frames = [fr] ∧ fr.preserved = [] ∧
      fr.retries < (curSlot s).trap.limit.toNat ∧ onlyRecv (curSlot s) = true ∧ openCmds s s.cur = false ∧
      ownStores s s.cur = [] ∧ nearIdle s s.cur = true ∧ firstBad s (coreRefOf s.cur) fr.save.toNat 336 = none ∧
      checkTarget s s.cur fr.retryPc = none :=
  ⟨⟨sMem, g0, { rz with a := 6 }, ready_of _ _, by decide +kernel, by unfold MemOk; decide +kernel⟩,
    ⟨setCore sMem c0 { Core.reset with sbuf := [ent0 1 gva] }, g0, { rz with a := 6 }, ready_of _ _, by decide +kernel⟩,
    ⟨sMem, g0, { rz with a := 9 }, 0x2001, ready_of _ _, by decide +kernel⟩,
    ⟨with0 { xFrame frame0 with sreg := [(6, 0x2000), (7, 16), (8, 0x3000)] }, g0, { rz with a := 6, b := 7, c := 8 }, frame0,
      by decide +kernel, rfl, ready_of _ _, rfl, by unfold MemOk; decide +kernel⟩,
    ⟨with0 (xFrame frame0), g0, { rz with sub := 1, a := 6, b := 11 }, frame0, by decide +kernel, rfl,
      ready_of _ _, by decide, ready_of _ _, by decide +kernel, by decide +kernel,
      by decide, by decide, by decide +kernel, by decide +kernel, rfl, rfl⟩,
    ⟨with0 { xMem with frames := [frame0, { frame0 with uid := 2, save := 0x9000 }] }, g0, frame0,
      { frame0 with uid := 2, save := 0x9000 }, by decide +kernel, rfl, rfl, ready_of _ _, by decide +kernel,
      by decide +kernel, rfl⟩,
    ⟨with0 (xFrame { frame0 with remote := true }), g0, { frame0 with remote := true }, by decide +kernel, rfl,
      ready_of _ _, by decide +kernel⟩,
    ⟨sMem, g0, ready_of _ _, by decide +kernel⟩,
    placeWord (with0 (xFrame frame0)) 0x380100000000000000000000, g0, frame0, ready_of _ _,
      by decide +kernel, rfl, by decide +kernel⟩

end Sys2Proof.Tests
end

