-- ==== Sys2Proof/Tests/WitnessD.lean ====
section
/-!
SUPPORT. As Witness, for the statements about the machine events of slots, stores, messages and tasks.
-/

namespace Sys2Proof.Tests

set_option Elab.async false

open Sys2Proof Sys2Proof.Machine

/-! ### Slots -/

/-- The load of `out0` with its value there. -/
def out1 : Out := { out0 none with units := [⟨gva, 8, 0, some 9⟩] }

theorem witness_ResultsReturnOrFail :
    (∃ (s : State) (w : SlotRef) (i : Nat) (o : Out) (v : VWord), (slotAt s w).outs.find? (fun p => p.id = i) = some o ∧
      (∀ u ∈ o.units, u.val.isSome = true) ∧ outValue (slotAt s w) o = some v ∧ (slotAt s w).stop = none ∧
      (slotAt s w).st = .ready ∧ (slotAt s w).wasEnding = none ∧ (coreAt s (coreRefOf w)).arrivals = []) ∧
    (∃ (s : State) (w : SlotRef) (i : Nat) (o : Out) (k : Cause) (va : Word),
      (slotAt s w).outs.find? (fun p => p.id = i) = some o ∧ outFailure s w o = some (k, va) ∧ (slotAt s w).stop = none ∧
      (slotAt s w).st = .ready ∧ (slotAt s w).trap.inh = false ∧ (slotAt s w).frames = [] ∧
      onlyRecv { slotAt s w with outs := (slotAt s w).outs.filter (fun p => p.id != i) } = true ∧ (slotAt s w).supv = false) ∧
    (∃ (s : State) (w : SlotRef) (i : Nat) (o : Out) (k : Cause) (va : Word),
      (slotAt s w).outs.find? (fun p => p.id = i) = some o ∧ outFailure s w o = some (k, va) ∧ (slotAt s w).stop = none ∧
      (slotAt s w).st = .ready ∧ (slotAt s w).trap.inh = false ∧ (slotAt s w).frames = [] ∧
      onlyRecv { slotAt s w with outs := (slotAt s w).outs.filter (fun p => p.id != i) } = false) ∧
    (∃ (s : State) (c : CoreRef) (e : StEnt) (k : Cause) (va : Word), (slotAt s (slotOf c e.k)).frames = [] ∧
      (coreAt s c).sbuf = [e] ∧ storeFailure s c e (e.units.take 1) = some (k, va)) ∧
    ∃ (s : State) (c : CoreRef) (e : StEnt) (k : Cause) (va : Word), (slotAt s (slotOf c e.k)).frames = [] ∧
      (coreAt s c).fq.find? (fun d => d.id = e.id) = some e ∧ storeFailure s c e e.units = some (k, va) :=
  ⟨⟨with0 { x0 with outs := [out1] }, w0, 1, out1, 9, by decide +kernel⟩,
    ⟨with0 { x0 with outs := [out0 none] }, w0, 1, out0 none, .access, gva, by decide +kernel⟩,
    ⟨with0 { x0 with outs := [out0 none, { out1 with id := 2 }] }, w0, 1, out0 none, .access, gva, by decide +kernel⟩,
    ⟨setCore sMem c0 { Core.reset with sbuf := [ent0 1 gva] }, c0, ent0 1 gva, .access, gva, by decide +kernel⟩,
    setCore sMem c0 { Core.reset with fq := [ent0 1 gva] }, c0, ent0 1 gva, .access, gva, by decide +kernel⟩

/-- A frame with a copied range. -/
def frameC : Frame := { frame0 with preserved := [⟨0x2000, 16, some 0x3000⟩] }

/-- A stop that waits for nothing. -/
def stop0 (roll : Option RollAt) : Stop := ⟨.poison, gva, 4, 16, true, false, .none, roll⟩

/-- Slot 0 in a launch, with a line of code at 0 that may be entered at its first cell. -/
def inCode (x : Slot) : State := { inLaunch x coreIn launch0 with mem := sJump.mem }

/-- Slot 0 with a stop. -/
def sStop (roll : Option RollAt) (supv inh : Bool) (frames : List Frame) : State :=
  inCode { xMem with stop := some (stop0 roll), supv := supv, frames := frames,
                     trap := { TrapRegs.reset with vec := 4, inh := inh, limit := 2 } }

theorem witness_FaultsAreTaken :
    (∃ (s : State) (w : SlotRef) (st : Stop), (slotAt s w).stop = some st ∧ st.roll = none ∧ onlyRecv (slotAt s w) = true ∧
      (slotAt s w).supv = false) ∧
    (∃ (s : State) (w : SlotRef) (st : Stop), (slotAt s w).stop = some st ∧ st.roll = none ∧ onlyRecv (slotAt s w) = true ∧
      (slotAt s w).supv = true ∧ (slotAt s w).trap.inh = false ∧ checkTarget s w (slotAt s w).trap.vec = none) ∧
    (∃ (s : State) (w : SlotRef) (st : Stop) (l : LaunchRef) (r : Launch), (slotAt s w).stop = some st ∧ st.roll = none ∧
      onlyRecv (slotAt s w) = true ∧ (slotAt s w).supv = true ∧ (slotAt s w).trap.inh = true ∧ launchOf s w = some l ∧
      launchAt s l = some r ∧ r.kill = none) ∧
    (∃ (s : State) (w : SlotRef) (st : Stop) (f : Frame), (slotAt s w).stop = some st ∧ st.roll = some .innermost ∧
      rollReady s w = true ∧ (slotAt s w).frames = [f] ∧ f.retries ≠ (slotAt s w).trap.limit.toNat ∧
      (∀ p ∈ f.preserved, p.backup = none) ∧ firstBad s (coreRefOf w) f.save.toNat 336 = none) ∧
    ∃ (s : State) (w : SlotRef) (st : Stop) (f : Frame) (p : Preserved) (b : Word), (slotAt s w).stop = some st ∧
      st.roll = some .innermost ∧ rollReady s w = true ∧ MemOk s ∧ (slotAt s w).frames = [f] ∧
      f.retries ≠ (slotAt s w).trap.limit.toNat ∧ f.preserved = [p] ∧ p.backup = some b ∧ p.start.toNat + p.len ≤ 2 ^ 20 ∧
      p.start.toNat % 8 = 0 ∧ b.toNat % 8 = 0 ∧ p.len % 8 = 0 ∧ overlaps (p.start.toNat, p.len) (b.toNat, p.len) = false ∧
      overlaps (p.start.toNat, p.len) (f.save.toNat, 0xA80) = false ∧ (coreAt s (coreRefOf w)).fq = [] ∧
      (∀ v ∈ slotsOf (coreRefOf w), waitsOn (slotAt s v) p.start.toNat p.len = false) ∧
      firstBad s (coreRefOf w) b.toNat (p.len / 8) = none ∧ firstBad s (coreRefOf w) f.save.toNat 336 = none :=
  ⟨⟨sStop none false false [], w0, stop0 none, by decide +kernel⟩, ⟨sStop none true false [], w0, stop0 none, by decide +kernel⟩,
    ⟨sStop none true true [], w0, stop0 none, l0, launch0, by decide +kernel⟩,
    ⟨sStop (some .innermost) false false [frame0], w0, stop0 (some .innermost), frame0, by decide +kernel⟩,
    sStop (some .innermost) false false [frameC], w0, stop0 (some .innermost), frameC, ⟨0x2000, 16, some 0x3000⟩, 0x3000,
      by decide +kernel, rfl, by decide +kernel, by unfold MemOk; decide +kernel⟩

/-- A RESUME or WAKE for slot 0 of core 0. -/
def poke0 (act : Nat) : Poke := ⟨0, 0x0F800000, some l0, true, act, 4⟩

/-- Slot 0 FAULTED, and a RESUME for it; `acc` is the access that failed, if one did. -/
def sPoke (acc : FailAcc) (act : Nat) : State :=
  { inCode { xMem with st := .faulted, failed := acc, trap := { TrapRegs.reset with defer := acc ≠ .none } } with
    resumes := [poke0 act] }

/-- What the clauses of ResumeActions ask of a RESUME with a slot FAULTED. -/
def Resumed (s : State) (p : Poke) (acc : FailAcc) : Prop :=
  corePresent (modAt s (pokeSlot p).m) (pokeSlot p).d (pokeSlot p).c = true ∧
  (coreOf s (pokeSlot p)).launch.isSome = true ∧ launchAway s (pokeSlot p) = false ∧
  (slotAt s (pokeSlot p)).st = .faulted ∧ (slotAt s (pokeSlot p)).trap.esc = false ∧
  (slotAt s (pokeSlot p)).trap.defer = decide (acc ≠ .none) ∧ (slotAt s (pokeSlot p)).wasEnding = none ∧
  (slotAt s (pokeSlot p)).failed = acc ∧ checkTarget s (pokeSlot p) p.pc = none ∧
  (slotAt s (pokeSlot p)).task = .none ∧ launchOf s (pokeSlot p) = some l0 ∧ launchAt s l0 = some launch0 ∧
  launch0.kill = none

theorem resumed_none : ∀ a : Fin 5, Resumed (sPoke .none a) (poke0 a) .none := by unfold Resumed; decide +kernel
theorem resumed_out : ∀ a : Fin 5, Resumed (sPoke (.out (out0 none)) a) (poke0 a) (.out (out0 none)) := by
  unfold Resumed; decide +kernel

theorem witness_ResumeActions :
    (∀ act < 5, ∃ (s : State) (i : Nat) (p : Poke), s.resumes[i]? = some p ∧ p.act = act ∧ Resumed s p .none) ∧
    (∀ act < 5, ∃ (s : State) (i : Nat) (p : Poke) (o : Out), s.resumes[i]? = some p ∧ p.act = act ∧ isLdc o = false ∧
      Resumed s p (.out o)) ∧
    (∃ (s : State) (i : Nat) (p : Poke), s.resumes[i]? = some p ∧
      corePresent (modAt s (pokeSlot p).m) (pokeSlot p).d (pokeSlot p).c = false) ∧
    ∃ (s : State) (i : Nat) (p : Poke), s.resumes[i]? = some p ∧
      corePresent (modAt s (pokeSlot p).m) (pokeSlot p).d (pokeSlot p).c = true ∧ (slotAt s (pokeSlot p)).st ≠ .faulted ∧
      ∀ q ∈ s.launches, q.2.phase = .saved → (tget q.2.slots Slot.reset (slotKey (pokeSlot p))).st ≠ .faulted :=
  ⟨fun act h => ⟨sPoke .none act, 0, poke0 act, rfl, rfl, resumed_none ⟨act, h⟩⟩,
    fun act h => ⟨sPoke (.out (out0 none)) act, 0, poke0 act, out0 none, rfl, rfl, rfl, resumed_out ⟨act, h⟩⟩,
    ⟨{ State.reset with resumes := [{ poke0 0 with epa := 0x0FFF0000 }] }, 0, { poke0 0 with epa := 0x0FFF0000 }, rfl, by decide +kernel⟩,
    { inCode xMem with resumes := [poke0 0] }, 0, poke0 0, rfl, by decide +kernel, by decide +kernel, by decide +kernel⟩

/-! ### Contexts and pages -/

/-- With one FREE slot that slot is the one picked. -/
theorem anyFree_one {s : State} {c : CoreRef} {w : SlotRef}
    (h : (slotsOf c).filter (fun v => (slotAt s v).st = .free) = [w]) : anyFree s c = some w := by
  unfold anyFree
  rw [h]
  simp [Nat.mod_one]

/-- A walk that ends in a leaf. -/
def isLeaf : Xl → Bool | .leaf .. => true | _ => false

/-- A leaf's word and where it stands. -/
def leafPair : Xl → Word × Nat | .leaf e a => (e, a) | _ => (0, 0)

theorem leaf_of {t : Xl} (h : isLeaf t = true) : t = .leaf (leafPair t).1 (leafPair t).2 := by
  cases t <;> simp_all [isLeaf, leafPair]

/-- A walk that ends in a swapped-out entry. -/
def absentAt (t : Xl) (a : Nat) : Bool := match t with | .absent b => b == a | _ => false

theorem absent_of {t : Xl} {a : Nat} (h : absentAt t a = true) : t = .absent a := by
  cases t <;> simp_all [absentAt]

/-- A core with a SWAPPED context and one FREE slot. -/
def sCtx : State :=
  setCore (setSlot (setSlot (setSlot (with0 x0) ⟨0, 0, 0, 1⟩ x0) ⟨0, 0, 0, 2⟩ x0) ⟨0, 0, 0, 3⟩ Slot.reset) c0
    { Core.reset with swapped := [⟨9, { x0 with swapReq := [gpage] }, 0⟩] }

/-- The page of `gva` not present: a swapped-out entry of a nonzero value. -/
def sAbsent : State := setPage (mapWith sMem 0x7000000000) gpage { Page.reset with asked := true }

/-- A migrating page in LPDDR that has reached its threshold. -/
def sHot : State := setPage (mapWith sMem (leafBits 0x10000000 0xC0)) gpage { Page.reset with tlb := true, count := 16 }

theorem absent_leaf : absentAt (walkPage sAbsent 0 globalTag gva.toNat) (tableAt 0 3 0) = true := by decide +kernel

/-- The page after that of `gva`. -/
def gnext : PageRef := { gpage with pn := gpage.pn + 1 }

/-- As `sAbsent`, and the next page, which a core has pinned, is in frame 16. -/
def sTwo : State :=
  setCore { sAbsent with mem := memWrite sAbsent.mem (tableAt 0 3 1) 8 (leafBits 16 0) } c0
    { Core.reset with launch := some l0, pins := [⟨gnext, 1, 0⟩] }

theorem absent_two : absentAt (walkPage sTwo 0 globalTag gva.toNat) (tableAt 0 3 0) = true := by decide +kernel

theorem witness_ContextsAndPages :
    (∃ (s : State) (w : SlotRef), (slotAt s w).st = .ready ∧ (slotAt s w).swapReq ≠ [] ∧ (slotAt s w).stop = none ∧
      (slotAt s w).outs.all (canSwap s w) = true) ∧
    (∃ (s : State) (c : CoreRef) (q : Ctx) (w : SlotRef), (coreAt s c).swapped.find? (fun t => t.id = q.id) = some q ∧
      anyFree s c = some w ∧ ctxReady s c q = true ∧ q.slot.st = .ready ∧ (coreAt s c).spill.bound = []) ∧
    (∃ (s : State) (p : PageRef) (leaf : Word) (a : Nat), walkPage s p.m p.tag (p.pn * 65536) = .absent a ∧
      (pageAt s p).asked = true ∧ leafV leaf = true ∧ leafPs leaf = 0 ∧ leafOk (modAt s p.m) (p.pn * 65536) leaf = true ∧
      (pageAt s p).saved = none ∧ inFrame s p.m leaf = []) ∧
    (∃ (s : State) (p : PageRef) (leaf : Word) (a : Nat) (q : PageRef × Word × Nat), walkPage s p.m p.tag (p.pn * 65536) = .absent a ∧
      (pageAt s p).asked = true ∧ leafV leaf = true ∧ leafPs leaf = 0 ∧ leafOk (modAt s p.m) (p.pn * 65536) leaf = true ∧
      leafLocal leaf = true ∧ q ∈ inFrame s p.m leaf ∧ evictable s q = false) ∧
    (∃ (s : State) (p : PageRef) (leaf : Word) (a : Nat), walkPage s p.m p.tag (p.pn * 65536) = .absent a ∧
      (pageAt s p).asked = true ∧ leaf ≠ 0 ∧ leafV leaf = false ∧ leafPs leaf = 0 ∧ noFrame s p = true) ∧
    (∃ (s : State) (p : PageRef) (entry : Word), (modAt s p.m).present = true ∧ p.tag = globalTag ∧ entry = 5 ∧
      rangeFrozen s p (2 ^ 41) = false) ∧
    (∃ (s : State) (p : PageRef), (modAt s p.m).present = true ∧ p.tag < 65536 ∧
      rangeFrozen s p (2 ^ 41) = false) ∧
    (∃ (s : State) (p : PageRef), (modAt s p.m).present = true ∧ MemOk s ∧
      ∀ level, 1 ≤ level → level ≤ 3 → rangeFrozen s p (2 ^ (13 * level)) = false ∧ ∃ a, entryAt s p level = some a) ∧
    (∃ (s : State) (p : PageRef) (entry : Word) (a : Nat), (modAt s p.m).present = true ∧ MemOk s ∧ entryAt s p 0 = some a ∧
      rangeFrozen s p (entryPages 0 (BitVec.ofNat 64 (memRead s.mem a 8)) entry) = false ∧
      changeBarred s p (BitVec.ofNat 64 (memRead s.mem a 8)) entry = false) ∧
    ∃ (s : State) (p : PageRef) (e : Word) (a : Nat), MemOk s ∧ walkPage s p.m p.tag (p.pn * 65536) = .leaf e a ∧
      leafMode e = 3 ∧ (pageAt s p).tlb = true ∧ 2 ^ (leafThresh e + 4) ≤ (pageAt s p).count ∧
      0x18000000000 ≤ leafFrame e * 65536 ∧ mayMove s p e = true ∧ pagePoisoned s p.m e = false ∧
      pageStuck s p = false ∧ lostPa (modAt s p.m) (leafFrame e * 65536) = false ∧ tierOf (modAt s p.m) (leafFrame e * 65536) ≠ some .near ∧
      pageHeld s p false = false ∧
      tierStopped (modAt s p.m) p.tag (p.pn * 65536) (leafPa e (p.pn * 65536)) = false := by
  refine ⟨⟨with0 { x0 with swapReq := [gpage], outs := [{ out0 none with kind := .recv none, units := [] }] }, w0, by decide +kernel⟩,
    ⟨sCtx, c0, ⟨9, { x0 with swapReq := [gpage] }, 0⟩, ⟨0, 0, 0, 3⟩, by decide +kernel, anyFree_one (by decide +kernel),
      by decide +kernel⟩,
    ⟨sAbsent, gpage, BitVec.ofNat 64 (leafBits 16 0), tableAt 0 3 0, absent_of absent_leaf, by decide +kernel⟩,
    ⟨sTwo, gpage, BitVec.ofNat 64 (leafBits 16 0), tableAt 0 3 0, (gnext, BitVec.ofNat 64 (leafBits 16 0), tableAt 0 3 1),
      absent_of absent_two, by decide +kernel⟩,
    ⟨sAbsent, gpage, 2, tableAt 0 3 0, absent_of absent_leaf, by decide +kernel⟩, ⟨sPage, gpage, 5, by decide +kernel⟩,
    ⟨sPage, ⟨0, 1, 0⟩, by decide +kernel⟩, ⟨sPage, gpage, by decide +kernel, by unfold MemOk; decide +kernel, ?_⟩,
    ⟨sPage, gpage, BitVec.ofNat 64 (leafBits 17 0), tableAt 0 3 0, by decide +kernel, by unfold MemOk; decide +kernel,
      by decide +kernel⟩, ?_⟩
  · intro level h1 h2
    obtain rfl | rfl | rfl : level = 1 ∨ level = 2 ∨ level = 3 := by omega
    · exact ⟨by decide +kernel, tableAt 0 2 0, by decide +kernel⟩
    · exact ⟨by decide +kernel, tableAt 0 1 0, by decide +kernel⟩
    · exact ⟨by decide +kernel, tableAt 0 0 1, by decide +kernel⟩
  · have h : isLeaf (walkPage sHot 0 globalTag gva.toNat) = true := by decide +kernel
    exact ⟨sHot, gpage, _, _, by unfold MemOk; decide +kernel, leaf_of h, by decide +kernel⟩

/-! ### Buffered stores, messages, wakes -/

/-- A target that is a line. -/
def isLine : Tgt → Bool | .line .. => true | _ => false
def lineFl : Tgt → Nat | .line f .. => f | _ => 0
def lineRf : Tgt → LineRef | .line _ l .. => l | _ => ⟨0, 0, 0⟩
def lineLf : Tgt → Word × Nat × Nat × Bool | .line _ _ e a o u => (e, a, o, u) | _ => (0, 0, 0, false)

theorem line_of {t : Tgt} (h : isLine t = true) :
    t = .line (lineFl t) (lineRf t) (lineLf t).1 (lineLf t).2.1 (lineLf t).2.2.1 (lineLf t).2.2.2 := by
  cases t <;> simp_all [isLine, lineFl, lineRf, lineLf]

/-- A store to `gva` in the far store queue. -/
def sFar : State := setCore sPage c0 { Core.reset with fq := [ent0 1 gva] }

/-- Modules 0 and 1 of a pod; module 0 has lent its frames from 1 GiB on to module 1. -/
def lease0 : Lease := ⟨0, 7, 0, 1, false, false, false, 1, 2 ^ 30, gva + 2 ^ 30, 100, 0, false, true, []⟩

def sLease (l : Lease) : State :=
  let x := modAt State.reset 0
  setMod (setMod State.reset 0 { x with lend := [l] }) 1 { x with borrow := [l] }

/-- The borrower has one page of the region, in direct mode. -/
def sBorrow (l : Lease) : State :=
  let s := sLease l
  let p := fun n : Nat => 1 + n * 2 ^ 28
  setMod { s with mem := memWrite (memWrite (memWrite (memWrite s.mem (tableAt 1 0 1) 8 (p 1)) (tableAt 1 1 0) 8 (p 2))
    (tableAt 1 2 0) 8 (p 3)) (tableAt 1 3 0) 8 (leafBits 0x4000 0x40) } 1 { modAt s 1 with groot := 1 }

def bpage : PageRef := ⟨1, globalTag, gva.toNat / 65536⟩

/-- The lender maps the page too, and a core of the borrower has a store to it in its far store queue. -/
def sLent : State :=
  let s := sBorrow lease0
  let p := fun n : Nat => 1 + n * 2 ^ 28
  setCore (setMod { s with mem := memWrite (memWrite (memWrite (memWrite s.mem (tableAt 0 0 1) 8 (p 1)) (tableAt 0 1 0) 8 (p 2))
    (tableAt 0 2 2) 8 (p 3)) (tableAt 0 3 0) 8 (leafBits 0x4000 0) } 0 { modAt s 0 with groot := 1 }) ⟨1, 0, 0⟩
    { Core.reset with fq := [ent0 1 gva] }

/-- A dirty log that has one entry and is half full: the page of `gva`. -/
def sLog : State :=
  let d : DirtyLog := ⟨2, 2, 0, 1, []⟩
  setCore { sPage with mem := memWrite sPage.mem (localFlat c0 (logAddr d 0)) 8 (2 ^ 47 + gva.toNat / 65536 % 2 ^ 40) } c0
    { Core.reset with log := d }

/-- As `sLog` with that page swapped out, and with no page there. -/
def sLogAbsent : State := { sLog with mem := memWrite sLog.mem (tableAt 0 3 0) 8 0x7000000000 }
def sLogNone : State := { sLog with mem := memWrite sLog.mem (tableAt 0 3 0) 8 0 }

theorem witness_BufferedStoresReachMemory :
    (∃ (s : State) (c : CoreRef) (e : StEnt) (va : Word) (n off : Nat) (d : BitVec 128), (coreAt s c).sbuf = [e] ∧
      dieStopped (modAt s c.m) c.d = false ∧ e.units = [⟨va, n, off, some d⟩] ∧ e.flush = none ∧ va.toNat < 2 ^ 20 ∧
      storeOrder s (slotOf c 0) e ⟨va, n, off, some d⟩ = true ∧ groupReady s (slotOf c 0) e = true) ∧
    (∀ rem : Bool, ∃ (s : State) (c : CoreRef) (e : StEnt) (u : AccUnit) (d : BitVec 128) (f : Nat) (l : LineRef) (le : Word)
      (a own : Nat) (unc : Bool), MemOk s ∧ dieStopped (modAt s c.m) c.d = false ∧ (coreAt s c).fq.find? (fun x => x.id = e.id) = some e ∧ e.units[0]? = some u ∧
      u.val = some d ∧ e.flush = none ∧ storeOrder s (slotOf c 0) e u = true ∧ groupReady s (slotOf c 0) e = true ∧
      unitsMeet (slotOf c 0) (e.units.take 0) [u] = false ∧
      resolve s (whoAs s (slotOf c 0) e.pkey e.supv) u.va true = .line f l le a own unc ∧
      lineBlocked s (lineAt s l) (whoAs s (slotOf c 0) e.pkey e.supv) unc true = false ∧
      noteWrite s (whoAs s (slotOf c 0) e.pkey e.supv) u.va l a own unc ≠ none ∧
      isRemote s (whoAs s (slotOf c 0) e.pkey e.supv) u.va = rem ∧
      (rem = true → isDirect s (whoAs s (slotOf c 0) e.pkey e.supv) u.va = true ∧ lineTurn s (slotOf c 0) e.id u.va = true)) ∧
    ∃ c : CoreRef, (∀ s ∈ [sLog, sLogAbsent, sLogNone], (coreAt s c).log.cnt ≠ 0 ∧
      logSize (coreAt s c).log ≤ 2 * (coreAt s c).log.cnt ∧ MemOk s) ∧
      let page := fun s : State =>
        let e := memRead s.mem (localFlat c (logAddr (coreAt s c).log 0)) 8
        walkPage s c.m (if e.testBit 47 then globalTag else e / 2 ^ 48) (e % 2 ^ 40 * 65536)
      (∃ le a, page sLog = .leaf le a) ∧ (∃ a, page sLogAbsent = .absent a) ∧ page sLogNone = .unmapped := by
  have h : isLine (resolve sFar (whoAs sFar (slotOf c0 0) 0 false) gva true) = true := by decide +kernel
  have hb : isLine (resolve sLent (whoAs sLent (slotOf ⟨1, 0, 0⟩ 0) 0 false) gva true) = true := by decide +kernel
  have hl : let e := memRead sLog.mem (localFlat c0 (logAddr (coreAt sLog c0).log 0)) 8
      isLeaf (walkPage sLog 0 (if e.testBit 47 then globalTag else e / 2 ^ 48) (e % 2 ^ 40 * 65536)) = true := by decide +kernel
  refine ⟨⟨setCore sMem c0 { Core.reset with sbuf := [ent0 1 0x2000] }, c0, ent0 1 0x2000, 0x2000, 8, 0, 7,
      by decide +kernel, by decide +kernel, rfl, by decide +kernel, by decide +kernel, by decide +kernel⟩, ?_,
    c0, by unfold MemOk; decide +kernel, ⟨_, _, leaf_of hl⟩, ⟨tableAt 0 3 0, absent_of (by decide +kernel)⟩, by decide +kernel⟩
  rintro (_ | _)
  · exact ⟨sFar, c0, ent0 1 gva, ⟨gva, 8, 0, some 7⟩, 7, _, _, _, _, _, _, by unfold MemOk; decide +kernel,
      by decide +kernel, by decide +kernel, by decide +kernel, rfl, rfl, by decide +kernel, by decide +kernel, by decide +kernel,
      line_of h, by decide +kernel⟩
  · exact ⟨sLent, ⟨1, 0, 0⟩, ent0 1 gva, ⟨gva, 8, 0, some 7⟩, 7, _, _, _, _, _, _, by unfold MemOk; decide +kernel,
      by decide +kernel, by decide +kernel, by decide +kernel, rfl, rfl, by decide +kernel, by decide +kernel, by decide +kernel,
      line_of hb, by decide +kernel⟩

/-- A message to slot 0 of core 0 from slot 1. -/
def msg0 (why : MsgFor) : Msg := ⟨⟨0, 0, 0, 1⟩, 0, 0x0F800000, 0, none, false, why, none⟩

/-- A read of a device that has answered. -/
def resIs {α : Type} : Res α → Bool | .ok _ _ => true | _ => false

theorem res_ok {α : Type} {r : Res α} (h : resIs r = true) : ∃ s x, r = .ok s x := by
  cases r <;> simp_all [resIs]

/-- A core with a spill ring of one entry at `gva`. -/
def ring0 (b : Option Nat) : Spill := ⟨(gva >>> 16).setWidth 41, 0, false, 0, [b], [], none⟩

/-- Slot 0 with what it is bound to, the ring's entry bound to `b`, a swapped context 9. -/
def sRing (x b : Option Nat) : State :=
  setCore (setSlot sPage w0 { xMem with bindId := x }) c0
    { Core.reset with spill := ring0 b, swapped := [⟨9, x0, 1⟩] }

/-- What the slot and the ring's entry are bound to: nothing, a swapped context, one that is gone, one that the slot holds. -/
def ringCases : List (Option Nat × Option Nat) := [(none, none), (none, some 9), (none, some 8), (some 8, some 8)]

theorem ring_case {x b : Option Nat} {P : Prop}
    (h : resIs (perfRead (sRing x b) (deviceOf (sRing x b) (slotOf c0 0)) (ringAddr (coreAt (sRing x b) c0).spill 0) 64) = true)
    (hq : ∀ k : BitVec 2, (slotAt (sRing x b) (slotOf c0 k.toNat)).outs.any waitingRecv = false) (hp : P) :
    ∃ (s' : State) (v : Nat), let s := sRing x b
      let d := deviceOf s (slotOf c0 0)
      let raw := BitVec.ofNat 512 (devOver s' d (ringAddr (coreAt s c0).spill 0) 64 v)
      perfRead s d (ringAddr (coreAt s c0).spill 0) 64 = .ok s' v ∧
      (slotAt s (slotOf c0 (entrySlot raw))).outs.any waitingRecv = false ∧ P := by
  obtain ⟨s', v, h⟩ := res_ok h
  exact ⟨s', v, h, hq _, hp⟩

theorem witness_MessagesAndWakesArrive :
    (∃ (s : State) (i : Nat) (m : Msg), s.net[i]? = some m ∧ (s.net.take i).any (fun a => msgOrdered s a m) = false ∧
      (modAt s m.dest).fenced = false ∧ modUp s m.dest = true ∧ dieStopped (modAt s (msgSlot m).m) (msgSlot m).d = false ∧
      noReceiver s m (msgSlot m) = true ∧ m.why = .send w0 3) ∧
    (∃ (s : State) (i : Nat) (m : Msg), s.net[i]? = some m ∧ (s.net.take i).any (fun a => msgOrdered s a m) = false ∧
      (modAt s m.dest).fenced = false ∧ dieStopped (modAt s (msgSlot m).m) (msgSlot m).d = false ∧
      noReceiver s m (msgSlot m) = false ∧
      (coreOf s (msgSlot m)).inbox.length + claimedCount s (coreRefOf (msgSlot m)) = 63 ∧
      (coreOf s (msgSlot m)).spill.bound = [] ∧ (slotAt s (msgSlot m)).outs.any waitingRecv = false) ∧
    (∀ xb ∈ ringCases, ∃ (s' : State) (v : Nat), let s := sRing xb.1 xb.2
      let d := deviceOf s (slotOf c0 0)
      let raw := BitVec.ofNat 512 (devOver s' d (ringAddr (coreAt s c0).spill 0) 64 v)
      perfRead s d (ringAddr (coreAt s c0).spill 0) 64 = .ok s' v ∧
      (slotAt s (slotOf c0 (entrySlot raw))).outs.any waitingRecv = false ∧
      (coreAt s c0).spill.bound = [xb.2] ∧ (coreAt s c0).inbox.length + claimedCount s c0 < 64 ∧
      dieStopped (modAt s c0.m) c0.d = false ∧
      (xb.1 = none → ∀ w ∈ slotsOf c0, (slotAt s w).bindId = none) ∧
      (xb.2 = some 9 → ∃ q ∈ (coreAt s c0).swapped, q.id = 9) ∧ (xb.2 = some 8 → ∀ q ∈ (coreAt s c0).swapped, q.id ≠ 8) ∧
      (xb.1 = some 8 → (∀ w ∈ slotsOf c0, (slotAt s w).bindId = some 8 ↔ w = w0) ∧
        (slotAt s w0).outs.any waitingRecv = false)) ∧
    (∃ (s : State) (i : Nat) (p : Poke), s.wakes[i]? = some p ∧
      corePresent (modAt s (pokeSlot p).m) (pokeSlot p).d (pokeSlot p).c = true ∧
      (coreOf s (pokeSlot p)).launch.isSome = true ∧ (coreOf s (pokeSlot p)).launch = p.launch ∧
      (slotAt s (pokeSlot p)).st = .ready ∧ dieStopped (modAt s (pokeSlot p).m) (pokeSlot p).d = false) ∧
    ∃ (s : State) (i : Nat) (p : Poke) (a v : Word) (d : RegIx), s.wakes[i]? = some p ∧
      corePresent (modAt s (pokeSlot p).m) (pokeSlot p).d (pokeSlot p).c = true ∧
      (coreOf s (pokeSlot p)).launch.isSome = true ∧ (coreOf s (pokeSlot p)).launch = p.launch ∧
      (slotAt s (pokeSlot p)).st = .parked (.waita a v d) false ∧
      dieStopped (modAt s (pokeSlot p).m) (pokeSlot p).d = false ∧ s.veils = [] ∧
      wordsBad s (pokeSlot p) s.nextId (localFlat (coreRefOf (pokeSlot p)) a.toNat) a 8 = false := by
  refine ⟨⟨{ sMem with net := [msg0 (.send w0 3)] }, 0, msg0 (.send w0 3), rfl, by decide +kernel⟩,
    ⟨{ inLaunch xMem { coreIn with inbox := List.replicate 63 ⟨entry0, none⟩ } launch0 with net := [msg0 .none] }, 0, msg0 .none,
      rfl, by decide +kernel⟩, ?_, ⟨{ sRun with wakes := [poke0 0] }, 0, poke0 0, rfl, by decide +kernel⟩,
    { inLaunch { xMem with st := .parked (.waita 0x2000 1 5) false } coreIn launch0 with wakes := [poke0 0] }, 0, poke0 0,
      0x2000, 1, 5, rfl, by decide +kernel⟩
  intro xb hb
  simp only [ringCases, List.mem_cons, List.not_mem_nil, or_false] at hb
  rcases hb with rfl | rfl | rfl | rfl
  all_goals
    refine ring_case ?_ ?_ ?_
    all_goals decide +kernel

end Sys2Proof.Tests
end

