-- ==== Sys2Proof/Tests/WitnessE.lean ====
section
/-!
SUPPORT. As Witness, for the statements about the machine events of tasks, launches and engines.
-/

namespace Sys2Proof.Tests

set_option Elab.async false

open Sys2Proof Sys2Proof.Machine

/-! ### Register writes, tasks, supersteps -/

theorem witness_RegisterWriteEvents :
    (∀ k : BitVec 2, ∃ x : Word, (einjOf x).arm = true ∧ (einjOf x).kind = k.setWidth 3 + 1) ∧
    (∃ (s : State) (c : CoreRef), (coreAt s c).spill.bound = []) ∧
    (∃ (s : State) (c : CoreRef) (x : Word), (coreAt s c).spill.bound ≠ [] ∧
      (x.extractLsb' 16 41, x.extractLsb' 0 3) ≠ ((coreAt s c).spill.base, (coreAt s c).spill.size)) ∧
    ∃ (s : State) (c : CoreRef) (x : Word), (x.extractLsb' 3 17 : BitVec 17) ≠ (coreAt s c).log.head ∧
      (x.extractLsb' 3 17 : BitVec 17) ≠ (coreAt s c).log.lim :=
  ⟨fun k => ⟨k.setWidth 64 + 9, by revert k; decide +kernel⟩, ⟨State.reset, c0, by decide +kernel⟩,
    ⟨sRing none none, c0, 1, by decide +kernel, by decide +kernel⟩, State.reset, c0, 8, by decide +kernel, by decide +kernel⟩

/-- A walk over 4 tiles of a body at 4, with footprints. -/
def walk0 (fps : List Footprint) : Walk := ⟨4, [4], [1], fps, 0, [], [], 0⟩

/-- A core of a launch whose only FREE slot is slot 3. -/
def oneFree (c : Core) : State :=
  setSlot (setSlot (setCore (inCode x0) c0 { c with launch := some l0, ident := coreIn.ident }) ⟨0, 0, 0, 1⟩ x0) ⟨0, 0, 0, 2⟩ x0

/-- Slot 0 alone, parked; every core of the mesh has arrived at level 1. -/
def parked0 (p : Park) : Slot := { xMem with st := .parked p false }

/-- The launch with a level-1 exchange under way at (0, 0), and with a limit on waiting. -/
def launchX : Launch := { launch0 with exch := [⟨1, 0, 0, 0, 0xFFFF⟩] }

/-- A walked task of tile 0 in its TEND. -/
def sTend : State := inLaunch { xMem with st := .ending true, task := .walked [0] none [] none } { coreIn with walk := some (walk0 []) } launch0

theorem witness_TasksAndSupersteps :
    (∃ (s : State) (c : CoreRef) (k : Walk) (w : SlotRef) (tile : List Nat), (coreAt s c).walk = some k ∧
      anyFree s c = some w ∧ coreRuns s c = true ∧ ctxWaiting s c = false ∧ tileOpen k tile = true ∧
      ((coreAt s c).rrTask = false ∨ (coreAt s c).tasks = []) ∧ (∀ f ∈ k.fps, f.mode = 0) ∧ pinCount (coreAt s c) ≤ 184 ∧
      checkTarget (setSlot s w Slot.reset) w k.body = none) ∧
    (∃ (s : State) (c : CoreRef) (q : QTask) (w : SlotRef), (coreAt s c).tasks = [q] ∧ anyFree s c = some w ∧
      coreRuns s c = true ∧ ctxWaiting s c = false ∧ ((coreAt s c).rrTask = true ∨ walkHas s c = false) ∧
      checkTarget (setSlot s w Slot.reset) w q.pc = none) ∧
    (∃ (s : State) (w : SlotRef) (k : Walk) (tile : List Nat) (r : WroteRows), (slotAt s w).st = .ending true ∧
      (slotAt s w).task = .walked tile none [] none ∧ (coreOf s w).walk = some k ∧ (slotAt s w).outs = [] ∧
      (slotAt s w).stop = none ∧ (slotAt s w).held = [] ∧ localDrained s w = true ∧
      writeRows s (walkWho s (coreRefOf w) k) (((k.fps.filter (fun f => f.mode = 2 || f.mode = 3)).map
        (fun f => fpRows f tile 0)).flatten) = r ∧ r.why = none ∧ r.waiting = [] ∧ r.absent = none) ∧
    (∃ (s : State) (l : LaunchRef) (z : Launch), launchAt s l = some z ∧ launchRuns s (some l) = true ∧ launchWhole s l z = true ∧
      exchangeOf z 1 0 0 = none ∧ 1 ≤ z.record.nlev ∧
      (domainCores s l z.record 1 0 0).all (coreArrived s 1) = true ∧
      (domainCores s l z.record 1 0 0).any (hasSync s 1) = true) ∧
    (∃ (s : State) (l : LaunchRef) (z : Launch) (e : Exchange) (s' : State), launchAt s l = some z ∧
      holdsCores z = true ∧ exchangeOf z 1 0 0 = some e ∧ (domainCores s l z.record 1 0 0).Nodup ∧
      runPlan s s l.m z.record (permuted (z.plan.filter (fun p => p.v = e.vor.toNat % 4 && p.level = 1 &&
        ((domainAt z.record 1 p.x p.y).1 = e.x && (domainAt z.record 1 p.x p.y).2.1 = e.y))) []) [] = (s', some [])) ∧
    (∃ (s : State) (w : SlotRef) (r : Rec), recOf s w = some r ∧ r.syncto ≠ 0 ∧
      (slotAt s w).st = .parked (.sync 1) false ∧ syncWaits s w 1 = true) ∧
    (∃ (s : State) (w : SlotRef) (r : Rec), recOf s w = some r ∧ r.syncto ≠ 0 ∧
      (slotAt s w).st = .parked (.barrier 0 1) false) ∧
    ∃ (s : State) (l : LaunchRef) (z : Launch) (q : Nat × Nat × Nat × Nat), launchAt s l = some z ∧ holdsCores z = true ∧ launchWhole s l z = true ∧
      z.record.bars[0]? = some q ∧ 0 < z.record.nbar ∧ coresIn s l.m z.record q ≠ [] ∧
      (tget z.bars Bar.reset 0).c0 = (coresIn s l.m z.record q).length := by
  refine ⟨⟨oneFree { Core.reset with walk := some (walk0 []) }, c0, walk0 [], ⟨0, 0, 0, 3⟩, [2], by decide +kernel,
      anyFree_one (by decide +kernel), by decide +kernel, by decide +kernel, by decide +kernel, by decide +kernel, by decide,
      by decide +kernel, by decide +kernel⟩,
    ⟨oneFree { Core.reset with tasks := [⟨4, 1, 2, 3⟩] }, c0, ⟨4, 1, 2, 3⟩, ⟨0, 0, 0, 3⟩, by decide +kernel,
      anyFree_one (by decide +kernel), by decide +kernel, by decide +kernel, by decide +kernel, by decide +kernel⟩,
    ⟨sTend, w0, walk0 [], [0], _, by decide +kernel, by decide +kernel, by decide +kernel, by decide +kernel, by decide +kernel,
      by decide +kernel, by decide +kernel, rfl, rfl, rfl, rfl⟩,
    ⟨inLaunch (parked0 (.sync 1)) coreIn launch0, l0, launch0, by decide +kernel, by decide +kernel, by decide +kernel,
      by decide, by decide +kernel, by decide +kernel⟩,
    ⟨inLaunch (parked0 (.sync 1)) coreIn launchX, l0, launchX, ⟨1, 0, 0, 0, 0xFFFF⟩, inLaunch (parked0 (.sync 1)) coreIn launchX,
      by decide +kernel, rfl, by decide +kernel, by decide +kernel, rfl⟩,
    ⟨inLaunch (parked0 (.sync 1)) coreIn launch0, w0, rec0, by decide +kernel, by decide, by decide +kernel, by decide +kernel⟩,
    ⟨inLaunch (parked0 (.barrier 0 1)) coreIn launch0, w0, rec0, by decide +kernel, by decide, by decide +kernel⟩,
    inLaunch xMem coreIn { launch0 with bars := [(0, ⟨false, 16, 0, 0⟩)] }, l0, { launch0 with bars := [(0, ⟨false, 16, 0, 0⟩)] },
      (0, 0, 8, 2), by decide +kernel⟩

/-! ### Launches -/

/-- The global page holds a queue descriptor at its start, a ring of two records at 0x1000 (one core, FSUP0 given) and a line
of code at 0x2000. -/
def qMem (s : State) : State :=
  let w := fun (m : Memory) (q : Nat × Nat × Nat) => memWrite m (physFlat 0 (16 * 65536) + q.1) q.2.1 q.2.2
  let l := [(0, 8, gva.toNat + 0x1000), (8, 8, 1), (0x10, 8, 1), (0x30, 8, gva.toNat + 0x8000), (0x1000, 2, 1),
    (0x1002, 2, 1), (0x1008, 8, gva.toNat + 0x2000), (0x1010, 4, 64), (0x1014, 4, 4), (0x1024, 2, 1), (0x1026, 1, 1),
    (0x102A, 1, 1), (0x102B, 1, 1), (0x10D0, 4, 0x0F800000), (0x10F0, 4, 9)]
  { s with mem := l.foldl w s.mem }

def queue0 : Queue := ⟨gva, false, false, false⟩

/-- A queue with one record, its pass due. -/
def sQueue : State :=
  let s := qMem (mapWith State.reset (leafBits 16 0))
  setMod s 0 { modAt s 0 with queues := [(0, queue0)], passDue := true }

/-- The state as its pass sees it. -/
def sPass : State := setMod (seeTails sQueue 0) 0 { modAt (seeTails sQueue 0) 0 with passDue := false }

/-- The record that the ring holds. -/
def rHead : Rec :=
  { rec0 with code := gva + 0x2000, nlev := 0, nbar := 0, rw := 1, rh := 1, doms := [(0, 0), (0, 0), (0, 0)],
              bars := List.replicate 16 (0, 0, 0, 0), fsup0 := 0x0F800000, t1 := 0, t2 := 0, patience := 9, syncto := 0 }

def vHead (w : List Word) : Valid := ⟨rHead, w, [], [], none⟩

/-- A check that passes with that record alone. -/
def chkIs : Chk Valid → Bool
  | .ok v => v.r == rHead && v.plan.isEmpty && v.lays.isEmpty && v.ident.isNone
  | _ => false

theorem chk_ok {c : Chk Valid} (h : chkIs c = true) : ∃ w, c = .ok (vHead w) := by
  cases c with
  | ok v => obtain ⟨r, w, p, l, i⟩ := v; exact ⟨w, by simp_all [chkIs, vHead]⟩
  | err n => simp [chkIs] at h
  | hold p => simp [chkIs] at h

theorem head_pass : ∃ w, headRecord sPass 0 0 queue0 (headOf sPass 0 queue0) = .ok (vHead w) := chk_ok (by decide +kernel)
theorem head_due : ∃ w, headRecord sQueue 0 0 queue0 (headOf sQueue 0 queue0) = .ok (vHead w) := chk_ok (by decide +kernel)

/-- What the launch unit has read leaves the cores, the module and the lines. -/
theorem seen_keeps (s : State) (m h code : Nat) (u : Queue) : let t := headSeen s m u h code
    t.cores = s.cores ∧ t.mods = s.mods ∧ t.lines = s.lines := by
  intro t
  have h : t = { s with mem := t.mem, ecc := t.ecc, pages := t.pages } := headSeen_reads s m u h code
  have h1 := congrArg State.cores h
  have h2 := congrArg State.mods h
  have h3 := congrArg State.lines h
  exact ⟨h1, h2, h3⟩

theorem pass_free : let s2 := headSeen sPass 0 queue0 (headOf sPass 0 queue0) 12
    (∀ c ∈ claimedCores 0 rHead, (coreAt s2 c).launch = none) ∧
    (∀ k ∈ rHead.dies, dieMapped (modAt s2 0).dmap k = true ∧ (dieSt (modAt s2 0) k).evacuating = false) ∧
    addLayouts (modAt s2 0) rHead.asid [] = some (modAt s2 0) ∧ layFrozen s2 0 rHead.asid [] = false := by
  intro s2
  obtain ⟨h1, h2, h3⟩ := seen_keeps sPass 0 (headOf sPass 0 queue0) 12 queue0
  simp only [coreAt, modAt, layFrozen, s2, h1, h2, h3]
  exact ⟨by decide +kernel, by decide +kernel, by decide +kernel, by decide +kernel⟩

/-- A launch of one core. -/
def launch1 : Launch := { launch0 with record := { rec0 with rw := 1, rh := 1, doms := [(1, 1), (0, 0), (0, 0)], bars := [(0, 0, 1, 1)] } }

/-- That launch at the given point of its life, its core with the given slot 0. -/
def sOne (x : Slot) (l : Launch) : State := { inLaunch x coreIn l with mem := sJump.mem }

theorem witness_LaunchesStartAndEnd :
    (∃ (s : State) (m q : Nat) (desc ring : Word) (log2n : Nat), modUp s m = true ∧ q = 15 ∧ desc.toNat % 64 = 0 ∧
      regionOf desc.toNat = some 2 ∧ regionOf ring.toNat = some 2 ∧ log2n = 16) ∧
    (∃ (s s1 : State) (m q : Nat) (u : Queue) (v : Valid) (y : Mod),
      s1 = setMod (seeTails s m) m { modAt (seeTails s m) m with passDue := false } ∧ modUp s m = true ∧
        (modAt s m).passDue = true ∧ (modAt s1 m).queues = [(q, u)] ∧ savedOf s1 m q = none ∧
      advanceDone s1 m q = s1 ∧ descHeld s1 m u = none ∧ headOf s1 m u < tailOf s1 m u ∧ headRecord s1 m q u (headOf s1 m u) = .ok v ∧ v.r.preds = [] ∧
      v.r.prio < 8 ∧
      (let s2 := headSeen s1 m u (headOf s1 m u) 12
       (∀ c ∈ claimedCores m v.r, (coreAt s2 c).launch = none) ∧
       (∀ k ∈ v.r.dies, dieMapped (modAt s2 m).dmap k = true ∧ (dieSt (modAt s2 m) k).evacuating = false)) ∧
      addLayouts (modAt (headSeen s1 m u (headOf s1 m u) 12) m) v.r.asid v.lays = some y ∧
      layFrozen (headSeen s1 m u (headOf s1 m u) 12) m v.r.asid v.lays = false) ∧
    (∃ (s : State) (l : LaunchRef) (x : Launch), launchAt s l = some x ∧ x.phase = .starting ∧ x.dieLost = false ∧
      stopsHere s l x = false ∧ (∀ c ∈ launchCores s l.m x.record,
        checkTarget (setSlot s (slotOf c 0) Slot.reset) (slotOf c 0) x.record.entry = none) ∧ launchCores s l.m x.record ≠ []) ∧
    (∃ (s : State) (l : LaunchRef) (x : Launch), launchAt s l = some x ∧
      (launchCores s l.m x.record).all (coreDrained s) = true ∧ launchWhole s l x = true ∧ layoutsWait s l x = false ∧
      s.cmds.any (fun c => c.launch = some l && !guardWaits c) = false ∧
      x.phase = .running ∧ x.kill = none ∧ x.exch = [] ∧ (launchCores s l.m x.record).all (coreIdle s) = true) ∧
    (∃ (s : State) (l : LaunchRef) (x : Launch), launchAt s l = some x ∧
      (launchCores s l.m x.record).all (coreDrained s) = true ∧ launchWhole s l x = true ∧ layoutsWait s l x = false ∧
      s.cmds.any (fun c => c.launch = some l && !guardWaits c) = false ∧
      x.phase = .running ∧ x.kill = some 2) ∧
    ∃ (s : State) (m q : Nat) (u : Queue) (v : Valid), tfind (modAt s m).queues q = some u ∧ descHeld s m u = none ∧ headOf s m u < tailOf s m u ∧
      savedOf s m q = none ∧ headRecord s m q u (headOf s m u) = .ok v ∧ v.r.patience ≠ 0 ∧ predsDone (headSeen s m u (headOf s m u) 12) m v.r = true := by
  obtain ⟨w1, h1⟩ := head_pass
  obtain ⟨w2, h2⟩ := head_due
  exact ⟨⟨State.reset, 0, 15, gva, gva, 16, by decide +kernel, rfl, by decide, by decide, by decide, rfl⟩,
    ⟨sQueue, sPass, 0, 0, queue0, vHead w1, modAt (headSeen sPass 0 queue0 (headOf sPass 0 queue0) 12) 0, rfl, by decide +kernel,
      by decide +kernel, by decide +kernel, by decide +kernel, by decide +kernel, by decide +kernel, by decide +kernel, h1, rfl,
      (by decide : rHead.prio < 8), ⟨pass_free.1, pass_free.2.1⟩, pass_free.2.2.1, pass_free.2.2.2⟩,
    ⟨sOne xMem { launch1 with phase := .starting }, l0, { launch1 with phase := .starting }, by decide +kernel⟩,
    ⟨sOne Slot.reset launch1, l0, launch1, by decide +kernel⟩,
    ⟨sOne xMem { launch1 with kill := some 2 }, l0, { launch1 with kill := some 2 }, by decide +kernel⟩,
    sQueue, 0, 0, queue0, vHead w2, by decide +kernel, by decide +kernel, by decide +kernel, by decide +kernel, h2,
      (by decide : rHead.patience ≠ 0),
      (rfl : predsDone (headSeen sQueue 0 queue0 (headOf sQueue 0 queue0) 12) 0 rHead = true)⟩

end Sys2Proof.Tests
end

