-- ==== Sys2Proof/Tests/WitnessF.lean ====
section
/-!
SUPPORT. As Witness, for the statements about the ladder of a launch, engine commands, the mill, copies and checkpoints.
-/

namespace Sys2Proof.Tests

set_option Elab.async false

open Sys2Proof Sys2Proof.Machine

/-! ### The ladder, halts, dumps -/

/-- A committed cut of the launch. -/
def cut0 : Cut :=
  { launch := l0, cmd := 5, desc := 0x2000, area := gva + 0x10000, arealen := 0x8000000, commitVa := 0, gen := 1, prev := none,
    recs := 0, cstep := 0, bars := [], guards := [],
    eras := false, scope := [], copies := [], left := [], slots := [], cores := [], hams := [], locals := [],
    committed := true }

/-- The launch of one core in the given phase. -/
def inPhase (p : LPhase) : Launch := { launch1 with phase := p }

/-- A state that holds that launch, and its cut if `k`. -/
def sPhase (l : Launch) (k : Bool) : State :=
  let s := sOne xMem l
  setMod s 0 { modAt s 0 with cuts := if k then [cut0] else [] }

theorem launch_phase (l : Launch) (k : Bool) : launchAt (sPhase l k) l0 = some l := by
  simp [launchAt, sPhase, sOne, inLaunch, setLaunch, setMod]

/-- A restore that has been made. -/
def restored : Restored → Bool | .done .. => true | _ => false

theorem restored_done {r : Restored} (h : restored r = true) : ∃ s n, r = .done s n := by
  cases r <;> simp_all [restored]

theorem witness_LaunchesStopAndGoOn :
    (∀ (p : LPhase) (b h : Bool), ∃ (s : State) (l : LaunchRef) (x : Launch), launchAt s l = some x ∧ x.phase = p ∧
      x.preempt = b ∧ x.haltReq = h ∧ x.haltAt = none ∧ x.kill = none ∧ x.dieLost = false ∧ x.record.t1 = 200 ∧
      (debugGroup s l).length ≤ 1) ∧
    (∀ b : Bool, ∃ (s : State) (l : LaunchRef) (x : Launch), launchAt s l = some x ∧
      x.phase = (if b then .running else .starting) ∧ x.preempt = false ∧ x.record.t1 = 0) ∧
    (∃ (s : State) (l : LaunchRef) (x : Launch) (us : Nat), launchAt s l = some x ∧ x.phase = .held ∧ x.preempt = true ∧
      launchCmds s l = false ∧ us ≤ x.record.t1) ∧
    (∃ (s : State) (l : LaunchRef) (x : Launch) (us : Nat), launchAt s l = some x ∧ x.phase = .saving ∧ x.kill = none ∧
      us ≤ x.record.t2 ∧ launchCmds s l = false ∧ x.exch = [] ∧ areaHeld s l x true = none ∧ (launchCores s l.m x.record).all (coreDrained s) = true ∧
      (launchCores s l.m x.record).all (fun c => (slotsOf c).all (slotSettled s) &&
        (coreAt s c).swapped.all ctxSettled) = true) ∧
    (∃ (s : State) (l : LaunchRef) (x : Launch), launchAt s l = some x ∧ x.phase = .saved ∧
      (∀ c ∈ claimedCores l.m x.record, (coreAt s c).launch = some l) ∧ areaHeld s l x false = none) ∧
    (∃ (s : State) (l : LaunchRef) (x : Launch), launchAt s l = some x ∧ x.phase = .reset ∧ x.dieLost = false ∧ x.kill = none ∧
      recoveryDue s l x = false ∧ layoutsWait s l x = false ∧ newestCut s l = none) ∧
    (∃ (s : State) (l : LaunchRef) (x : Launch) (k : Cut) (s' : State) (n : Nat), launchAt s l = some x ∧ x.phase = .reset ∧
      x.dieLost = false ∧ x.kill = none ∧ recoveryDue s l x = false ∧ layoutsWait s l x = false ∧ newestCut s l = some k ∧
      restoreCut s l x k = .done s' n) ∧
    (∀ n : Nat, n = 0 ∨ n = 5 → ∃ (s : State) (l : LaunchRef) (x : Launch), launchAt s l = some x ∧ x.phase = .held ∧
      x.preempt = false ∧ x.haltAt = some n ∧ (n = 0 → cnt0Of s l x = n % 2 ^ 16) ∧
      (n = 5 → cnt0Of s l x ≠ n % 2 ^ 16 ∧ stopsHere s l { x with haltReq := false } = false)) ∧
    (∃ (s : State) (l : LaunchRef) (x : Launch), launchAt s l = some x ∧ groupStopped x = false ∧ x.phase ≠ .ended ∧
      x.haltAt = none ∧ areaHeld s l x true = none) ∧
    (∃ (s : State) (l : LaunchRef) (x : Launch), launchAt s l = some x ∧ atBoundary x = true ∧ areaHeld s l x true = none) ∧
    (∃ (s : State) (l1 l2 : LaunchRef) (x1 x2 : Launch), launchAt s l1 = some x1 ∧ launchAt s l2 = some x2 ∧
      x1.phase = .held ∧ x2.phase = .held ∧ cnt0Of s l1 x1 < cnt0Of s l2 x2 ∧ launchKey l1 ≠ launchKey l2) ∧
    ∃ (s : State) (m k : Nat), modUp s m = true ∧ k = 30 := by
  have hr : restored (restoreCut (sPhase (inPhase .reset) true) l0 (inPhase .reset) cut0) = true := by decide +kernel
  obtain ⟨s', n, hr⟩ := restored_done hr
  refine ⟨fun p b h => ⟨sPhase { inPhase p with preempt := b, haltReq := h } false, l0, _, launch_phase _ _, rfl, rfl, rfl, rfl,
      rfl, rfl, rfl, by simp [debugGroup, sPhase, sOne, inLaunch, setLaunch, setMod, setCore, with0, setSlot, State.reset]⟩,
    fun b => ⟨sPhase { inPhase (if b then .running else .starting) with record := { launch1.record with t1 := 0 } } false, l0, _,
      launch_phase _ _, rfl, rfl, rfl⟩,
    ⟨sPhase { inPhase .held with preempt := true } false, l0, _, 200, launch_phase _ _, rfl, rfl, by decide +kernel, by decide⟩,
    ⟨sPhase (inPhase .saving) false, l0, _, 500, launch_phase _ _, rfl, rfl, by decide, by decide +kernel⟩,
    ⟨sPhase (inPhase .saved) false, l0, _, launch_phase _ _, rfl, by decide +kernel⟩,
    ⟨sPhase (inPhase .reset) false, l0, _, launch_phase _ _, rfl, rfl, rfl, by decide +kernel⟩,
    ⟨sPhase (inPhase .reset) true, l0, _, cut0, s', n, launch_phase _ _, rfl, rfl, rfl, by decide +kernel, by decide +kernel,
      by decide +kernel, hr⟩,
    fun n hn => ⟨sPhase { inPhase .held with haltAt := some n } false, l0, _, launch_phase _ _, rfl, rfl, rfl, by
      rcases hn with rfl | rfl <;> decide +kernel⟩,
    ⟨sPhase (inPhase .running) false, l0, _, launch_phase _ _, by decide +kernel⟩,
    ⟨sPhase (inPhase .held) false, l0, _, launch_phase _ _, by decide +kernel⟩,
    ⟨setLaunch (setCore (sPhase (inPhase .held) false) ⟨0, 0, 1⟩ { coreIn with cnt := [(0, 7)] }) ⟨0, 0, 1⟩
      { inPhase .held with record := { launch1.record with rx := 1 } }, l0, ⟨0, 0, 1⟩, inPhase .held,
      { inPhase .held with record := { launch1.record with rx := 1 } }, by decide +kernel, by decide +kernel, rfl, rfl,
      by decide +kernel, by decide⟩,
    State.reset, 0, 30, by decide +kernel, rfl⟩

/-! ### Engine commands -/

/-- A command of slot 0 of core 0 in the launch. -/
def cmd0 (op : CmdOp) (epa : BitVec 32) (ty : Ty) (blk : List Word) : Cmd :=
  { id := 5, w := w0, ctx := none, op := op, ty := ty, sub := 0, g := none, epa := epa, blk := blk, asid := 1, pkey := 0,
    supv := true, launch := some l0, dst := 5, st := .queued, group := 0, guardVal := none, prog := 0, count := 0, res := false,
    ovf := false, zrep := false, code := 0, failVa := 0, answer := 0, num := 0, frame := none, remote := none,
    dropped := false, suspended := false, buf := [] }

/-- A running launch with commands. -/
def sCmds (cs : List Cmd) : State := { sRun with cmds := cs }

/-- A copy of 8 bytes within the global page. -/
def cpy0 : Cmd := cmd0 .cpy epaCopy .s8 [0, gva, gva + 0x100, 8, 0, 0]

/-- That copy, from another core of its hamlet. -/
def cpyOn (c : Nat) : Cmd := { cpy0 with id := 5 + c, w := ⟨0, 0, c, 0⟩ }

/-- ENGQ `.drain` of the launch unit, or of a copy engine. -/
def engq0 (lu : Bool) : Cmd := { cmd0 .engq (if lu then 0x4F800000 else epaCopy) .s8 [0] with sub := 1 }

/-- A mill command of core 1, on its own queue, merged into that of core 0. -/
def twinOf (c : Cmd) : Cmd := { c with id := 6, w := ⟨0, 0, 1, 0⟩, st := .merged, group := 5 }

/-- MSWAP and MLOADW of core 0. -/
def swap0 : Cmd := cmd0 .mswap epaMill .s8 [0]
def load0 : Cmd := cmd0 .mloadw epaMill .bf16 [0, 0x2000, 0, 2]

theorem witness_MergedCommands :
    (∀ b : Bool, ∃ (s : State) (c : Cmd), isMill c = b ∧ mergedInto s c ≠ []) ∧
    (∃ (s : State) (id : Nat) (c l : Cmd), cmdAt s id = some c ∧ c.st = .merged ∧ cmdAt s c.group = some l ∧ l.st = .queued ∧
      engineThere s c = true ∧ c.guardVal = none ∧ c.op ≠ .engq) ∧
    (∀ b : Bool, ∃ (s : State) (id : Nat) (c : Cmd), cmdAt s id = some c ∧ c.st = .queued ∧ c.op = .mloadw ∧ watchdogOff s c = false ∧
      (∀ d ∈ mergedInto s c, d.id ≠ c.id) ∧
      ((∃ d ∈ earlierCmds s c, (d.op = .mswap ∨ d.op = .mloadw) ∧ d.st ≠ .done) ↔ b = true)) ∧
    ∃ (s : State) (id : Nat) (c d : Cmd), cmdAt s id = some c ∧ millGo s c = true ∧ c.op = .mswap ∧ mergedInto s c = [d] ∧
      cmdAt s d.id = some d ∧ d.id ≠ c.id ∧ d.op = .mswap ∧ cmdHam d = cmdHam c ∧ cmdQueue d ≠ cmdQueue c ∧ c.prog = 0 ∧ d.prog = 0 :=
  ⟨fun b => ⟨sCmds [twinOf (if b then swap0 else cpy0)], if b then swap0 else cpy0, by cases b <;> decide +kernel⟩,
    ⟨sCmds [cpy0, twinOf cpy0], 6, twinOf cpy0, cpy0, by decide +kernel⟩,
    fun b => ⟨sCmds (if b then [{ swap0 with id := 4 }, load0] else [load0]), 5, load0, by cases b <;> decide +kernel⟩,
    sCmds [swap0, twinOf swap0], 5, swap0, twinOf swap0, by decide +kernel⟩

theorem witness_EngineCommandEvents :
    (∀ b : Bool, ∃ (s : State) (id : Nat) (c : Cmd), cmdAt s id = some c ∧ c.st = .net ∧ crierTakes c = false ∧
      mayArrive s c = true ∧ engineThere s c = b ∧ c.guardVal = some false) ∧
    (∃ (s : State) (id : Nat) (c : Cmd), cmdAt s id = some c ∧ c.st = .net ∧ crierTakes c = false ∧ mayArrive s c = true ∧
      engineThere s c = true ∧ c.guardVal ≠ some false ∧ c.op ≠ .engq) ∧
    (∀ b : Bool, ∃ (s : State) (id : Nat) (c : Cmd), cmdAt s id = some c ∧ c.st = .crier ∧ c.group = id ∧
      s.cmds.filter (fun d => d.st = .crier && d.group = c.group) = [c] ∧ mayArrive s c = true ∧ engineThere s c = true ∧
      c.guardVal ≠ some false ∧ c.op = .engq ∧ (decide (epaType c.epa = 4)) = b) ∧
    (∃ (s : State) (id : Nat) (c : Cmd), cmdAt s id = some c ∧ c.st = .net ∧ crierTakes c = false ∧ mayArrive s c = false) ∧
    (∃ (s : State) (id : Nat) (c d : Cmd), cmdAt s id = some c ∧ c.st = .net ∧ crierTakes c = true ∧
      s.cmds.filter (fun d => d.st = .crier && identical c d) = [d] ∧
      s.cmds.any (fun e => e.st = .crier && e.group = d.group && coreRefOf e.w = coreRefOf c.w) = false) ∧
    (∃ (s : State) (id : Nat) (c d : Cmd), cmdAt s id = some c ∧ c.st = .crier ∧ c.group = id ∧
      s.cmds.filter (fun e => e.st = .crier && e.group = c.group) = [c, d] ∧ [c, d].all (mayArrive s) = true ∧
      engineThere s c = true ∧ c.guardVal = none ∧ c.op ≠ .engq) ∧
    (∃ (s : State) (id : Nat) (c : Cmd), cmdAt s id = some c ∧ c.st = .crier ∧ c.group = id ∧
      s.cmds.filter (fun d => d.st = .crier && d.group = c.group) = [c] ∧ mayArrive s c = true ∧ engineThere s c = true ∧
        c.guardVal ≠ some false ∧
      c.op ≠ .engq) ∧
    (∃ (s : State) (id : Nat) (c : Cmd), cmdAt s id = some c ∧ c.st = .net ∧ crierTakes c = true ∧
      s.cmds.filter (fun d => d.st = .crier && identical c d) = []) ∧
    (∀ n : BitVec 32, ∃ (s : State) (id : Nat) (c : Cmd), cmdAt s id = some c ∧ c.st = .done ∧ c.op ≠ .mstat ∧ c.op ≠ .accflip ∧
      c.ctx = none ∧ c.frame = none ∧ c.code ≠ 5 ∧ c.code ≠ 9 ∧ c.blk = [n.setWidth 64 <<< 32]) ∧
    (∃ (s : State) (id : Nat) (c : Cmd), cmdAt s id = some c ∧ c.st = .begun ∧ c.op ≠ .mstat ∧ c.op ≠ .accflip ∧ c.op ≠ .ckpt ∧
      c.op ≠ .engq ∧ c.op ≠ .mloadw ∧ watchdogOff s c = false) ∧
    (∃ (s : State) (id : Nat) (c : Cmd), cmdAt s id = some c ∧ c.st = .queued ∧ c.op = .mswap ∧ c.prog = 0 ∧
      watchdogOff s c = false) ∧
    (∀ b : Bool, ∃ (s : State) (id : Nat) (c : Cmd), cmdAt s id = some c ∧ c.op = .engq ∧ c.st = .queued ∧ c.g = none ∧
      engineRuns s c = true ∧ watchdogOff s c = false ∧ epaType c.epa ≠ 4 ∧ c.sub = (if b then 1 else 0) ∧
      onlyCmds (earlierCmds s c) = []) ∧
    (∃ (s : State) (id : Nat) (c : Cmd), cmdAt s id = some c ∧ c.op = .engq ∧ c.st = .queued ∧ c.g = none ∧
      engineRuns s c = true ∧ watchdogOff s c = false ∧ epaType c.epa ≠ 4 ∧ c.sub = 1 ∧ onlyCmds (earlierCmds s c) ≠ []) ∧
    (∃ (s : State) (id : Nat) (c : Cmd), cmdAt s id = some c ∧ c.op = .engq ∧ c.st = .queued ∧ c.g = none ∧
      engineRuns s c = true ∧ epaType c.epa = 4 ∧ c.sub = 1 ∧ recordsLeft s c.w.m (c.blk.drop 1) = 0) ∧
    ∃ (s : State) (id : Nat) (c : Cmd), cmdAt s id = some c ∧ c.op = .mstat ∧ c.st = .queued ∧
      ∀ d ∈ earlierCmds s c, d.st = .done := by
  refine ⟨fun b => ?_,
    ⟨sCmds [{ cpy0 with st := .net, blk := [0, 0x2000, 0x100, 8, 0, 0], g := some 0 }], 5, _, rfl, rfl, by decide +kernel,
      by decide +kernel, by decide +kernel, by decide, by decide⟩,
    fun b => ⟨sCmds [{ engq0 b with st := .crier, group := 5 }], 5, { engq0 b with st := .crier, group := 5 }, by revert b; decide +kernel⟩,
    ⟨setCore (sCmds [{ engq0 true with st := .net, g := some 0 }]) c0 { coreOf sRun w0 with sbuf := [ent0 1 0x2000] }, 5,
      { engq0 true with st := .net, g := some 0 }, by decide +kernel, rfl, by decide +kernel, by decide +kernel⟩,
    ⟨sCmds [{ cpy0 with st := .net }, { cpyOn 1 with st := .crier, group := 6 }], 5, { cpy0 with st := .net },
      { cpyOn 1 with st := .crier, group := 6 }, by decide +kernel, rfl, by decide +kernel, by decide +kernel, by decide +kernel⟩,
    ⟨sCmds [{ cpy0 with st := .crier, group := 5 }, { cpyOn 1 with st := .crier, group := 5 }], 5,
      { cpy0 with st := .crier, group := 5 }, { cpyOn 1 with st := .crier, group := 5 }, by decide +kernel, rfl, rfl,
      by decide +kernel, by decide +kernel, by decide +kernel, rfl, by decide⟩,
    ⟨sCmds [{ cpy0 with st := .crier, group := 5 }], 5, _, rfl, rfl, rfl, by decide +kernel, by decide +kernel, by decide +kernel,
      by decide, by decide⟩,
    ⟨sCmds [{ cpy0 with st := .net }], 5, _, rfl, rfl, by decide +kernel, by decide +kernel⟩,
    fun n => ⟨sCmds [{ cpy0 with st := .done, blk := [n.setWidth 64 <<< 32] }], 5, _, rfl, rfl, by show CmdOp.cpy ≠ .mstat; decide,
      by show CmdOp.cpy ≠ .accflip; decide, rfl, rfl, by show (0 : Nat) ≠ 5; decide, by show (0 : Nat) ≠ 9; decide, rfl⟩,
    ⟨sCmds [{ cpy0 with st := .begun }], 5, _, rfl, rfl, by decide, by decide, by decide, by decide, by decide, by decide +kernel⟩,
    ⟨sCmds [swap0], 5, swap0, by decide +kernel⟩,
    fun b => ?_,
    ⟨sCmds [{ cpy0 with id := 4 }, { cmd0 .engq epaCopy .s8 [0] with sub := 1 }], 5, { cmd0 .engq epaCopy .s8 [0] with sub := 1 },
      by decide +kernel, rfl, rfl, rfl, by decide +kernel, by decide +kernel, by decide, rfl, by decide +kernel⟩,
    ⟨sCmds [engq0 true], 5, engq0 true, rfl, rfl, rfl, rfl, by decide +kernel, by decide, rfl, by decide +kernel⟩,
    sCmds [cmd0 .mstat epaMill .s8 [0]], 5, _, rfl, rfl, rfl, by decide +kernel⟩
  · cases b
    · exact ⟨{ sMem with cmds := [{ cmd0 .mswap epaMill .s8 [0] with st := .net, guardVal := some false, g := some 0 }] }, 5, _, rfl, rfl,
        by decide +kernel, by decide +kernel, by decide +kernel, rfl⟩
    · exact ⟨sCmds [{ cpy0 with st := .net, guardVal := some false, g := some 0 }], 5, _, rfl, rfl, by decide +kernel,
        by decide +kernel, by decide +kernel, rfl⟩
  · cases b
    · exact ⟨sCmds [cmd0 .engq epaCopy .s8 [0]], 5, _, rfl, rfl, rfl, rfl, by decide +kernel, by decide +kernel, by decide +kernel, rfl,
        by decide +kernel⟩
    · exact ⟨sCmds [{ cmd0 .engq epaCopy .s8 [0] with sub := 1 }], 5, _, rfl, rfl, rfl, rfl, by decide +kernel, by decide +kernel,
      by decide +kernel, rfl,
        by decide +kernel⟩

/-! ### The mill -/

/-- Reads that have answered with `n` values, none of them bad. -/
def rdsIs (n : Nat) : ERds → Bool | .ok _ xs => xs.length = n && xs.all (fun e => !e.2) | _ => false

theorem rds_ok {n : Nat} {r : ERds} (h : rdsIs n r = true) : ∃ s xs, r = .ok s xs ∧ xs.length = n ∧ ∀ e ∈ xs, e.2 = false := by
  cases r <;> simp_all [rdsIs]

/-- A hamlet with an entry, and one of its queues. -/
def sMill (c : Cmd) (acc : Tbl AccEntry) (planes : Tbl Plane) : State :=
  setHam (sCmds [c]) ⟨0, 0, 0⟩ { Ham.reset with acc := acc, planes := planes }

/-- A read that has answered a word other than 0. -/
def resWord : Res Nat → Bool | .ok _ v => BitVec.ofNat 64 v != 0 | _ => false

theorem res_word {r : Res Nat} (h : resWord r = true) : ∃ s v, r = .ok s v ∧ BitVec.ofNat 64 v ≠ 0 := by
  cases r <;> simp_all [resWord]

/-- A command to the mill. -/
def mcmd (op : CmdOp) (ty : Ty) (blk : List Word) : Cmd := cmd0 op epaMill ty blk

/-- ACCWR of the word 7 at 0x2000. -/
def sAccwr : State :=
  let s := sMill (mcmd .accwr .s64 [0, 0x2000, 0, 0]) [] []
  { s with mem := memWrite s.mem (localFlat c0 0x2000) 8 7 }

theorem witness_MillEvents :
    (∀ b : Bool, ∃ (s : State) (id : Nat) (c : Cmd), cmdAt s id = some c ∧ millGo s c = true ∧ mergedInto s c = [] ∧ c.op = .mswap ∧
      (c.prog = 0 ↔ b = true)) ∧
    (∃ (s : State) (id : Nat) (c : Cmd) (s' : State) (ws : List (Nat × Bool)), cmdAt s id = some c ∧ millGo s c = true ∧
      mergedInto s c = [] ∧ c.op = .mloadw ∧ isGrouped c.ty = false ∧ c.prog = 0 ∧
      engReads (setHam s (cmdHam c) (millServed (hamAt s (cmdHam c)) (cmdQueue c)))
        (cmdWho { c with st := .begun, suspended := false })
        ((List.range ((bf c.blk 3 40 32 + 1) * (bf c.blk 3 47 41 + 1))).map (fun i => (c.blk.getD 1 0 + BitVec.ofNat 64
          (i / (bf c.blk 3 47 41 + 1) * bf c.blk 3 31 0 + elemAt c.ty (i % (bf c.blk 3 47 41 + 1))), tyBytes c.ty))) [] =
            .ok s' ws ∧ ws.length = (bf c.blk 3 40 32 + 1) * (bf c.blk 3 47 41 + 1) ∧ ∀ e ∈ ws, e.2 = false) ∧
    (∃ (s : State) (id : Nat) (c : Cmd), cmdAt s id = some c ∧ millGo s c = true ∧ mergedInto s c = [] ∧ c.op = .mstream ∧
      (activeOf (hamAt s (cmdHam c)) (cmdQueue c)).invalid = true) ∧
    (∀ b : Bool, ∃ (s : State) (id : Nat) (c : Cmd), cmdAt s id = some c ∧ millGo s c = true ∧ mergedInto s c = [] ∧ c.op = .mstream ∧
      (hamAt s (cmdHam c)).prod = (if b then some (0, 0, 3) else none) ∧
      (activeOf (hamAt s (cmdHam c)) (cmdQueue c)).invalid = false ∧
      pairOk (activeOf (hamAt s (cmdHam c)) (cmdQueue c)).fmt c.ty = true ∧
      awaitsAuto (hamAt s (cmdHam c)) ((bf c.blk 2 52 42 + c.count) / 128) = false ∧
      let m := min (bf c.blk 2 41 32 + 1 - c.count) (128 - (bf c.blk 2 52 42 + c.count) % 128)
      let r := streamRows (setHam s (cmdHam c) (millServed (hamAt s (cmdHam c)) (cmdQueue c)))
        { c with st := .begun, suspended := false } c.count m
      r.held = false ∧ r.stop.isNone = true ∧ r.rows.length = m) ∧
    (∃ (s : State) (id : Nat) (c : Cmd), cmdAt s id = some c ∧ millGo s c = true ∧ mergedInto s c = [] ∧ c.op = .mzero ∧
      (List.range 16).filter (fun t => (bf c.blk 1 15 0).testBit t && decide (c.prog ≤ t)) = [3, 15]) ∧
    (∃ (s : State) (id : Nat) (c : Cmd) (s' : State), cmdAt s id = some c ∧ millGo s c = true ∧ mergedInto s c = [] ∧ c.op = .accrd ∧ c.ty = .s64 ∧
      c.count = 0 ∧ bf c.blk 2 53 43 = 0 ∧ bf c.blk 3 14 8 = 0 ∧ (c.blk.getD 1 0).toNat % 8 = 0 ∧
      perfWrite (setHam s (cmdHam c) (millServed (hamAt s (cmdHam c)) (cmdQueue c)))
        (cmdWho { c with st := .begun, suspended := false }) (c.blk.getD 1 0) 8
        (accAt (hamAt s (cmdHam c)) (bf c.blk 2 42 32) (bf c.blk 3 6 0)).e.toNat = .ok s' ()) ∧
    (∃ (s : State) (id : Nat) (c : Cmd) (s' : State) (v : Nat), cmdAt s id = some c ∧ millGo s c = true ∧ mergedInto s c = [] ∧ c.op = .accwr ∧
      c.ty = .s64 ∧ c.count = 0 ∧ bf c.blk 2 53 43 = 0 ∧ bf c.blk 3 14 8 = 0 ∧ (c.blk.getD 1 0).toNat % 8 = 0 ∧
      perfRead (setHam s (cmdHam c) (millServed (hamAt s (cmdHam c)) (cmdQueue c)))
        (cmdWho { c with st := .begun, suspended := false }) (c.blk.getD 1 0) 8 = .ok s' v ∧ BitVec.ofNat 64 v ≠ 0) ∧
    (∃ (s : State) (id : Nat) (c : Cmd), cmdAt s id = some c ∧ millGo s c = true ∧ mergedInto s c = [] ∧ c.op = .accflip ∧
      { accAt (hamAt s (cmdHam c)) (c.blk.getD 0 0).toNat (c.blk.getD 1 0).toNat with
        e := (accAt (hamAt s (cmdHam c)) (c.blk.getD 0 0).toNat (c.blk.getD 1 0).toNat).e ^^^ (1#64 <<< c.sub) } ≠
          AccEntry.reset) ∧
    (∃ (s : State) (h : HamRef), dieRuns s h.m h.d = true ∧
      (∃ p ∈ (hamAt s h).acc, p.1 / (128 * 128) = 0 ∧ accBad p.2 = true) ∧ (hamAt s h).millidle ≠ 0) ∧
    ∃ (s : State) (h : HamRef), dieRuns s h.m h.d = true ∧
      ∀ p ∈ (hamAt s h).acc, p.1 / (128 * 128) = 0 → accBad p.2 = false := by
  refine ⟨fun b => ⟨sMill { mcmd .mswap .s8 [0] with prog := if b then 0 else 1 } [] [], 5,
      { mcmd .mswap .s8 [0] with prog := if b then 0 else 1 }, by cases b <;> decide +kernel⟩, ?_,
    ⟨sMill (mcmd .mstream .bf16 [0, 0x2000, 2, 0]) [] [(0, { Plane.reset with invalid := true })], 5, _, rfl,
      by decide +kernel, by decide +kernel, rfl, by decide +kernel⟩,
    fun b => ⟨setHam (sMill (mcmd .mstream .bf16 [0, 0x2000, 2, 0]) [] []) ⟨0, 0, 0⟩
        { Ham.reset with prod := if b then some (0, 0, 3) else none }, 5, mcmd .mstream .bf16 [0, 0x2000, 2, 0], rfl,
      by revert b; decide +kernel⟩,
    ⟨sMill (mcmd .mzero .s8 [0, 0x8008]) [] [], 5, _, rfl, by decide +kernel, rfl, rfl, by decide +kernel⟩, ?_, ?_,
    ⟨sMill { mcmd .accflip .s8 [3, 4] with sub := 63 } [] [], 5, _, rfl, by decide +kernel, rfl, rfl, by decide +kernel⟩,
    ⟨sMill (mcmd .mswap .s8 [0]) [(0, ⟨1, 0⟩)] [], ⟨0, 0, 0⟩, by decide +kernel, ⟨(0, ⟨1, 0⟩), by decide +kernel, rfl,
      by decide +kernel⟩, by decide +kernel⟩,
    sMill (mcmd .mswap .s8 [0]) [(0, ⟨1, 1⟩)] [], ⟨0, 0, 0⟩, by decide +kernel, by decide +kernel⟩
  · obtain ⟨s', ws, h1, h2, h3⟩ := rds_ok (n := 2) (r := engReads (setHam (sMill (mcmd .mloadw .bf16 [0, 0x2000, 0, 0x20000000002]) [] [])
      ⟨0, 0, 0⟩ (millServed (hamAt (sMill (mcmd .mloadw .bf16 [0, 0x2000, 0, 0x20000000002]) [] []) ⟨0, 0, 0⟩) 0))
      (cmdWho { mcmd .mloadw .bf16 [0, 0x2000, 0, 0x20000000002] with st := .begun, suspended := false })
      ((List.range 2).map (fun i => (0x2000#64 + BitVec.ofNat 64 (i / 2 * 2 + elemAt .bf16 (i % 2)), tyBytes .bf16))) [])
      (by decide +kernel)
    exact ⟨sMill (mcmd .mloadw .bf16 [0, 0x2000, 0, 0x20000000002]) [] [], 5, _, s', ws, rfl, by decide +kernel, rfl, rfl, rfl, rfl, h1, h2, h3⟩
  · obtain ⟨s', x, h⟩ := res_ok (r := perfWrite (setHam (sMill (mcmd .accrd .s64 [0, 0x2000, 0, 0]) [(0, ⟨1, 1⟩)] []) ⟨0, 0, 0⟩
      (millServed (hamAt (sMill (mcmd .accrd .s64 [0, 0x2000, 0, 0]) [(0, ⟨1, 1⟩)] []) ⟨0, 0, 0⟩) 0))
      (cmdWho { mcmd .accrd .s64 [0, 0x2000, 0, 0] with st := .begun, suspended := false }) 0x2000 8 1) (by decide +kernel)
    exact ⟨sMill (mcmd .accrd .s64 [0, 0x2000, 0, 0]) [(0, ⟨1, 1⟩)] [], 5, mcmd .accrd .s64 [0, 0x2000, 0, 0], s', rfl,
      by decide +kernel, rfl, rfl, rfl, rfl, by decide +kernel, by decide +kernel, by decide +kernel, h⟩
  · obtain ⟨s', v, h, hv⟩ := res_word (r := perfRead (setHam sAccwr ⟨0, 0, 0⟩ (millServed (hamAt sAccwr ⟨0, 0, 0⟩) 0))
      (cmdWho { mcmd .accwr .s64 [0, 0x2000, 0, 0] with st := .begun, suspended := false }) 0x2000 8) (by decide +kernel)
    exact ⟨sAccwr, 5, mcmd .accwr .s64 [0, 0x2000, 0, 0], s', v, rfl, by decide +kernel, rfl, rfl, rfl, rfl, by decide +kernel,
      by decide +kernel, by decide +kernel, h, hv⟩

/-! ### Copies, collectives, cuts -/

/-- A write that has been made. -/
def ewrIs : EWrs → Bool | .ok _ => true | _ => false

theorem ewr_ok {r : EWrs} (h : ewrIs r = true) : ∃ s, r = .ok s := by
  cases r <;> simp_all [ewrIs]

/-- A launch whose commands act on the page of `gva`. -/
def sCopy (cs : List Cmd) (mem : Memory → Memory) : State :=
  let s := { mapWith sRun (leafBits 16 0) with cmds := cs }
  { s with mem := mem s.mem }

/-- The byte at this offset of the page of `gva`. -/
def gat (o : Nat) : Nat := physFlat 0 (16 * 65536) + o

/-- The copy begun with its bytes read, and done with them. -/
def cpyBegun (prog : Nat) : Cmd := { cpy0 with st := .begun, buf := List.replicate 8 1, prog := prog }

/-- A source that has been read. -/
def srcIs : Option (State × List Byte × Option (Nat × Word)) × State → Bool
  | (some (_, _, none), _) => true
  | _ => false

theorem src_ok {r : Option (State × List Byte × Option (Nat × Word)) × State} (h : srcIs r = true) :
    ∃ s bs z, r = (some (s, bs, none), z) := by
  obtain ⟨_ | ⟨s, bs, _ | e⟩, z⟩ := r <;> simp_all [srcIs]

/-- COLL of one word in the domain of level 1. -/
def coll0 (core : Nat) : Cmd :=
  { cmd0 .coll epaColl .s32 [0, 0x2000, 0x3000, 1, 0] with id := 5 + core, w := ⟨0, 0, core, 0⟩, sub := 2 }

/-- A cut of the launch of one core, and its descriptor of FMT 1 in the local store. -/
def ckpt0 (sub : BitVec 6) (st : CmdSt) : Cmd := { cmd0 .ckpt epaCkpt .s8 [0, 0x2000, 0] with sub := sub.toNat, st := st }

/-- 20 pages of the far tier after the page of `gva`. -/
def farPages (s : State) : State :=
  { s with mem := (List.range 20).foldl (fun m i => memWrite m (tableAt 0 3 (1 + i)) 8 (leafBits (0x10000000 + i) 0)) s.mem }

def sCut (c : Cmd) (l : Launch) (ks : List Cut) : State :=
  let s := farPages (mapWith (sOne xMem l) (leafBits 16 0))
  let s := setMod s 0 { modAt s 0 with cuts := ks }
  { s with cmds := [c],
           mem := memWrite (memWrite (memWrite s.mem (localFlat c0 0x2000) 2 1) (localFlat c0 0x2008) 8 (gva.toNat + 0x10000))
             (localFlat c0 0x2010) 8 0x8000000 }

/-- A cut that is not committed. -/
def cut1 (left : List PageRef) : Cut := { cut0 with committed := false, left := left }

/-- Memory without errors. -/
theorem no_ecc {s : State} (h : s.ecc = []) (a n : Nat) : eccBad s a n = false := by
  have z : eccBadWord Ecc.reset = false := by decide
  simp [eccBad, eccAt, h, tget, z]

/-- A descriptor that can be read, and what the test `f` says of it. -/
def descIs (f : State → Nat → Bool) : ERd → Bool | .ok s v b => f s v && !b | _ => false

theorem desc_ok {f : State → Nat → Bool} {r : ERd} (h : descIs f r = true) : ∃ s v, r = .ok s v false ∧ f s v = true := by
  cases r <;> simp_all [descIs]

/-- The descriptor is well-formed for the launch, with the cuts its PREV may name. -/
def descFit (newest ok : Bool) (s : State) (v : Nat) : Bool :=
  descOk s 0 (if newest then (cutsOf s l0).getLast?.toList else cutsOf s l0) (valWords 64 v) = ok

/-- Words that are all there. -/
def wordsIs : Words → Bool | .ok _ => true | _ => false

theorem words_ok {r : Words} (h : wordsIs r = true) : ∃ ws, r = .ok ws := by
  cases r <;> simp_all [wordsIs]

/-- A place in the frames of a module. -/
def hostAt (t : Tgt) (a : Nat) : Bool := match t with | .hostMem f _ => f == a | _ => false

theorem page_words {s : State} {p : PageRef} {e : Word} {a f : Nat} (h : hostAt (pageSource s p e a false) f = true)
    (hp : (List.range 512).any (fun j => poisonAt s (f + 128 * j)) = false) (he : eccBad s f 65536 = false) :
    ∃ ws, pageWords s p e a = .ok ws := by
  unfold pageWords
  cases hs : pageSource s p e a false <;> simp [hs, hostAt] at h
  subst h
  exact ⟨_, by simp only [hp, he, Bool.or_false]; rfl⟩

theorem one_piece {s : State} {p : PageRef} {e : Word} {a : Nat} {ws : List Nat} (h : pageWords s p e a = .ok ws) :
    piecesWords s [p] e a = .ok (ws ++ []) := by simp only [piecesWords, h]

/-- A leaf and its place. -/
def leafIs (t : Xl) (e : Word) (a : Nat) : Bool := match t with | .leaf e' a' => e' == e && a' == a | _ => false

theorem leaf_at {t : Xl} {e : Word} {a : Nat} (h : leafIs t e a = true) : t = .leaf e a := by
  cases t <;> simp_all [leafIs]

theorem witness_CopyAndCheckpointEvents :
    (∃ (s : State) (id : Nat) (c : Cmd) (s' : State) (bs : List Byte) (z : State), cmdAt s id = some c ∧ mayRun s c = true ∧
      engineThere s c = true ∧ c.op = .cpy ∧ c.st = .queued ∧ (copyJob c).peer = none ∧
      copySource s (cmdWho c) (copyJob c) 0 ((copyJob c).rows * (copyJob c).len) [] = (some (s', bs, none), z)) ∧
    (∃ (s : State) (id : Nat) (c : Cmd) (s' : State), cmdAt s id = some c ∧ mayRun s c = true ∧ engineThere s c = true ∧
      c.op = .cpy ∧ c.st = .begun ∧ c.prog < c.buf.length ∧
      (let e := copyEnd c (copyJob c) 1
       copyOut s { c with buf := copyFresh s c (copyJob c) e } (copyJob c) c.prog (e - c.prog) (e - c.prog) = .ok s')) ∧
    (∃ (s : State) (id : Nat) (c : Cmd) (p : Nat), cmdAt s id = some c ∧ mayRun s c = true ∧ engineThere s c = true ∧
      c.op = .cpyr ∧ c.st = .queued ∧ (copyJob c).peer = some p ∧ modUp s p = false) ∧
    (∃ (s : State) (id : Nat) (c : Cmd), cmdAt s id = some c ∧ mayRun s c = true ∧ engineThere s c = true ∧ c.op = .cpy ∧
      c.st = .begun ∧ c.buf.length ≤ c.prog ∧ c.code = 0 ∧ (copyJob c).cw = 0) ∧
    (∃ (s : State) (id : Nat) (c : Cmd) (s' : State), cmdAt s id = some c ∧ mayRun s c = true ∧ engineThere s c = true ∧
      c.op = .cpy ∧ c.st = .begun ∧ c.buf.length ≤ c.prog ∧ c.code = 0 ∧ (copyJob c).cw ≠ 0 ∧ (copyJob c).peer = none ∧
      perfWrite s (cmdWho c) (copyJob c).cw 8 (copyJob c).cwval.toNat = .ok s' ()) ∧
    (∃ (s : State) (id : Nat) (c : Cmd), cmdAt s id = some c ∧ mayRun s c = true ∧ engineThere s c = true ∧ c.op = .coll ∧
      (collMembers s c).any (fun p => p.2.isNone) = true) ∧
    (∃ (s : State) (id : Nat) (c : Cmd), cmdAt s id = some c ∧ mayRun s c = true ∧ engineThere s c = true ∧ c.op = .coll ∧
      (collMembers s c).any (fun p => p.2.isNone) = false ∧
      ((collMembers s c).filterMap (·.2)).any (fun d => !collMatch c d) = true) ∧
    (∃ (s : State) (id : Nat) (c : Cmd), cmdAt s id = some c ∧ mayRun s c = true ∧ engineThere s c = true ∧ c.op = .coll ∧
      (collMembers s c).any (fun p => p.2.isNone) = false ∧
      ((collMembers s c).filterMap (·.2)).any (fun d => !collMatch c d) = false ∧ c.sub = 2) ∧
    (∀ ok : Bool, ∃ (s : State) (id : Nat) (c : Cmd) (s' : State) (v : Nat) (x : Launch), cmdAt s id = some c ∧
      mayRun s c = true ∧ engineThere s c = true ∧ c.op = .ckpt ∧ c.sub = 0 ∧ c.st = .queued ∧ readDesc s c = .ok s' v false ∧
      cutTarget s c = some x ∧ (modAt s c.w.m).cuts.any (fun k => k.launch = cutLaunch c && !k.committed) = false ∧
      s.cmds.any (fun d => d.id != c.id && d.op = .ckpt && d.sub = 0 && d.st = .begun && cutLaunch d = cutLaunch c) = false ∧
      descOk s' c.w.m (cutsOf s' (cutLaunch c)).getLast?.toList (valWords 64 v) = ok) ∧
    (∃ (s : State) (id : Nat) (c : Cmd) (s' : State) (v : Nat) (x : Launch) (k : Cut) (s2 : State) (n : Nat),
      cmdAt s id = some c ∧ mayRun s c = true ∧ engineThere s c = true ∧ c.op = .ckpt ∧ c.sub = 1 ∧
      readDesc s c = .ok s' v false ∧ cutTarget s c = some x ∧
      descOk s' c.w.m (cutsOf s' (cutLaunch c)) (valWords 64 v) = true ∧
      ((cutsOf s' (cutLaunch c)).filter (fun k => k.desc = c.blk.getD 1 0)).getLast? = some k ∧
      restoreCut s' (cutLaunch c) x k = .done s2 n) ∧
    (∃ (s : State) (id : Nat) (c : Cmd) (k : Cut) (p : PageRef) (e : Word) (a : Nat) (as ws : List Nat), cmdAt s id = some c ∧
      c.op = .ckpt ∧ mayRun s c = true ∧ engineThere s c = true ∧ cutOf s c = some k ∧ k.left = [p] ∧
      k.left.any (writerWaits s) = false ∧ piecesOf s k a = [p] ∧ k.recs + 65536 * (k.copies.length + 1) ≤ k.arealen ∧
      walkPage s p.m p.tag (p.pn * 65536) = .leaf e a ∧
      areaCheck s c.w.m (k.area + BitVec.ofNat 64 (k.recs + 65536 * k.copies.length)) 65536 = .ok as ∧
      piecesWords s [p] e a = .ok ws) ∧
    ∃ (s : State) (id : Nat) (c : Cmd), cmdAt s id = some c ∧ mayRun s c = true ∧ engineThere s c = true ∧ c.op = .migr ∧
      bf c.blk 2 31 0 = 1 := by
  refine ⟨?_, ?_,
    ⟨sCopy [{ cpy0 with op := .cpyr, epa := 0x29020060 }] id, 5, { cpy0 with op := .cpyr, epa := 0x29020060 }, 1, rfl,
      by decide +kernel, by decide +kernel, rfl, rfl,
      by decide +kernel, by decide +kernel⟩,
    ⟨sCopy [cpyBegun 8] id, 5, cpyBegun 8, rfl, by decide +kernel, by decide +kernel, rfl, rfl, by decide, rfl, by decide +kernel⟩,
    ?_,
    ⟨sCopy [coll0 0] id, 5, coll0 0, rfl, by decide +kernel, by decide +kernel, rfl, by decide +kernel⟩,
    ⟨sCopy (coll0 0 :: (List.range 15).map (fun i => { coll0 (i + 1) with sub := 1 })) id, 5, coll0 0, rfl, by decide +kernel,
      by decide +kernel, rfl, by decide +kernel, by decide +kernel⟩,
    ⟨sCopy ((List.range 16).map coll0) id, 5, coll0 0, rfl, by decide +kernel, by decide +kernel, rfl, by decide +kernel,
      by decide +kernel, rfl⟩, ?_, ?_, ?_,
    sCopy [cmd0 .migr epaMigr .s8 [0, gva, 1, 0]] id, 5, _, rfl, by decide +kernel, by decide +kernel, rfl, by decide +kernel⟩
  · obtain ⟨s', bs, z, h⟩ := src_ok (show srcIs (copySource (sCopy [cpy0] id) (cmdWho cpy0) (copyJob cpy0) 0
      ((copyJob cpy0).rows * (copyJob cpy0).len) []) = true by decide +kernel)
    exact ⟨sCopy [cpy0] id, 5, cpy0, s', bs, z, rfl, by decide +kernel, by decide +kernel, rfl, rfl, by decide +kernel, h⟩
  · obtain ⟨s', h⟩ := ewr_ok (show ewrIs ((let s := sCopy [cpyBegun 3] id
      let c := cpyBegun 3
      let e := copyEnd c (copyJob c) 1
      copyOut s { c with buf := copyFresh s c (copyJob c) e } (copyJob c) c.prog (e - c.prog) (e - c.prog))) = true by
      decide +kernel)
    exact ⟨sCopy [cpyBegun 3] id, 5, cpyBegun 3, s', rfl, by decide +kernel, by decide +kernel, rfl, rfl, by decide, h⟩
  · have hc : ∃ c : Cmd, c = { cpyBegun 8 with blk := [0, gva, gva + 0x100, 8, gva + 0x200, 1] } := ⟨_, rfl⟩
    obtain ⟨c, hc⟩ := hc
    obtain ⟨s', x, h⟩ := res_ok (show resIs (perfWrite (sCopy [c] id) (cmdWho c) (copyJob c).cw 8
      (copyJob c).cwval.toNat) = true by rw [hc]; decide +kernel)
    subst hc
    exact ⟨_, 5, _, s', rfl, by decide +kernel, by decide +kernel, rfl, rfl, by decide +kernel, rfl, by decide +kernel,
      by decide +kernel, h⟩
  · rintro (_ | _)
    · obtain ⟨s', v, h, hv⟩ := desc_ok (f := descFit true false)
        (r := readDesc (sCopy [ckpt0 0 .queued] id) (ckpt0 0 .queued)) (by decide +kernel)
      exact ⟨_, 5, _, s', v, launch0, rfl, by decide +kernel, by decide +kernel, rfl, rfl, rfl, h, by decide +kernel,
        by decide +kernel, by decide +kernel, of_decide_eq_true hv⟩
    · obtain ⟨s', v, h, hv⟩ := desc_ok (f := descFit true true)
        (r := readDesc (sCut (ckpt0 0 .queued) launch1 []) (ckpt0 0 .queued)) (by decide +kernel)
      exact ⟨_, 5, _, s', v, launch1, rfl, by decide +kernel, by decide +kernel, rfl, rfl, rfl, h, by decide +kernel,
        by decide +kernel, by decide +kernel, of_decide_eq_true hv⟩
  · obtain ⟨s', v, h, hv⟩ := desc_ok (f := fun s v => descFit false true s v &&
        (((cutsOf s l0).filter (fun k => k.desc = 0x2000)).getLast? = some cut0 &&
        restored (restoreCut s l0 launch1 cut0)))
      (r := readDesc (sCut (ckpt0 1 .queued) launch1 [cut0]) (ckpt0 1 .queued)) (by decide +kernel)
    rw [Bool.and_eq_true, Bool.and_eq_true] at hv
    obtain ⟨s2, n, hr⟩ := restored_done hv.2.2
    exact ⟨_, 5, _, s', v, launch1, cut0, s2, n, rfl, by decide +kernel, by decide +kernel, rfl, rfl, h, by decide +kernel,
      of_decide_eq_true hv.1, of_decide_eq_true hv.2.1, hr⟩
  · obtain ⟨as, ha⟩ := words_ok (show wordsIs (areaCheck (sCut (ckpt0 0 .begun) launch1 [cut1 [gpage]]) (ckpt0 0 .begun).w.m
      ((cut1 [gpage]).area + BitVec.ofNat 64 ((cut1 [gpage]).recs + 65536 * (cut1 [gpage]).copies.length)) 65536) = true by
      decide +kernel)
    obtain ⟨ws, hw⟩ := page_words (show hostAt (pageSource (sCut (ckpt0 0 .begun) launch1 [cut1 [gpage]]) gpage
      (BitVec.ofNat 64 (leafBits 16 0)) (tableAt 0 3 0) false) (gat 0) = true by decide +kernel) (by decide +kernel)
      (no_ecc (by decide +kernel) _ _)
    refine ⟨sCut (ckpt0 0 .begun) launch1 [cut1 [gpage]], 5, ckpt0 0 .begun, cut1 [gpage], gpage, BitVec.ofNat 64 (leafBits 16 0),
      tableAt 0 3 0, as, ws ++ [], rfl, rfl, ?_, ?_, ?_, rfl, ?_, ?_, ?_, ?_, ha, one_piece hw⟩
    all_goals decide +kernel

/-- The reads and the writes of a COLL of sub 2 that are all there. -/
def collFine (s : State) (cs : List Cmd) : Bool :=
  match collRead s [] cs [] [] with
  | (some (s2, data, []), _) => (match collWrite s2 (cs.map (fun d => (d, data.flatten))) false with | (some _, _) => true | _ => false)
  | _ => false

theorem coll_fine {s : State} {cs : List Cmd} (h : collFine s cs = true) : ∃ s2 s3 data z z',
    collRead s [] cs [] [] = (some (s2, data, []), z) ∧ collWrite s2 (cs.map (fun d => (d, data.flatten))) false = (some s3, z') := by
  unfold collFine at h
  split at h
  · rename_i s2 data z hr
    split at h
    · rename_i s3 z' hw
      exact ⟨s2, s3, data, z, z', hr, hw⟩
    · cases h
  · cases h

/-- ECODE of 8 bytes with one data and one parity block. -/
def ecode0 : Cmd := cmd0 .ecode epaCopy .s8 [0, 0x2000, 0x2100, 8, 0, 0x2200, 0]

/-- The coefficients and the bytes of an ECODE that are all there. -/
def ecodeFine (s : State) (c : Cmd) (n k : Nat) : Bool :=
  match engReads s (cmdWho c) ((List.range k).map (fun i => (c.blk.getD 5 0 + BitVec.ofNat 64 i, 1))) [] with
  | .ok s1 xs => (xs.findIdx? (·.2)).isNone && (match ecodeBytes s1 s1 c (xs.map (·.1)) 0 n with | (.ok _, _) => true | _ => false)
  | _ => false

theorem ecode_fine {s : State} {c : Cmd} {n k : Nat} (h : ecodeFine s c n k = true) : ∃ s1 xs s' e,
    engReads s (cmdWho c) ((List.range k).map (fun i => (c.blk.getD 5 0 + BitVec.ofNat 64 i, 1))) [] = .ok s1 xs ∧
    xs.findIdx? (·.2) = none ∧ ecodeBytes s1 s1 c (xs.map (·.1)) 0 n = (.ok s', e) := by
  unfold ecodeFine at h
  split at h
  · rename_i s1 xs hr
    rw [Bool.and_eq_true] at h
    obtain ⟨h1, h2⟩ := h
    split at h2
    · rename_i s' e he
      exact ⟨s1, xs, s', e, hr, Option.isNone_iff_eq_none.mp h1, he⟩
    · cases h2
  · cases h

/-- A cut begun, its copies all made. -/
def ckptEnd : State := sCut (ckpt0 0 .begun) { launch1 with phase := .held } [cut1 []]

/-- A descriptor that has room for the records of a cut. -/
def roomFor (s : State) (v : Nat) : Bool :=
  decide (recordBytes s l0 launch1.record ≤ bytesAt (valWords 64 v) 0x10 8) &&
    (wordsIs (areaCheck s 0 ((valWords 64 v).getD 1 0) (recordBytes s l0 launch1.record)) &&
    (scopePages s l0 launch1.record.asid (bytesAt (valWords 64 v) 4 2)).all (fun p => !pageStuck s p))

/-- A cut with parity and a block, whose parity modules have failed. -/
def cutE : Cut := { cut1 [] with eras := true, copies := [(gpage, gva)] }
def sTray : State :=
  let s := sCut (ckpt0 0 .begun) { launch1 with phase := .held } [cutE]
  (List.range 7).foldl (fun s i => setMod s (4 * (i + 1)) { modAt State.reset 0 with failed := true })
    (setMod s 0 { modAt s 0 with protNum := [(gpage, 0)] })

/-- CPYR to module 1, which is up. -/
def peer0 (st : CmdSt) : Cmd := { cpyBegun 0 with op := .cpyr, epa := 0x29020060, st := st }
def sPeer (c : Cmd) : State := setMod (sCopy [c] id) 1 (modAt State.reset 0)

theorem witness_CopyAndCheckpointEvents2 :
    (∃ (s : State) (c : Cmd) (s2 s3 : State) (data : List (List Nat)) (z z' : State), cmdAt s 5 = some c ∧ c.op = .coll ∧
      c.sub = 2 ∧ (let cs := (collMembers s c).filterMap (·.2)
        collRead (putCmd s { c with st := .begun }) [] cs [] [] = (some (s2, data, []), z) ∧
        collWrite s2 (cs.map (fun d => (d, data.flatten))) false = (some s3, z'))) ∧
    (∃ (s : State) (c : Cmd) (s1 s' : State) (xs : List (Nat × Bool)) (e : Nat), cmdAt s 5 = some c ∧ mayRun s c = true ∧
      engineThere s c = true ∧ c.op = .ecode ∧
      engReads s (cmdWho c) ((List.range ((bf c.blk 3 43 42 + 1) * (bf c.blk 3 41 39 + 1))).map (fun i =>
        (c.blk.getD 5 0 + BitVec.ofNat 64 i, 1))) [] = .ok s1 xs ∧ xs.findIdx? (·.2) = none ∧
      ecodeBytes s1 s1 c (xs.map (·.1)) 0 (bf c.blk 3 31 0) = (.ok s', e)) ∧
    (∃ (s : State) (c : Cmd) (x : Launch) (s' : State) (v : Nat) (a : List Nat), cmdAt s 5 = some c ∧ mayRun s c = true ∧
      engineThere s c = true ∧ c.op = .ckpt ∧ c.sub = 0 ∧ c.st = .begun ∧ c.prog = 0 ∧ readDesc s c = .ok s' v false ∧
      cutTarget s c = some x ∧ x.phase = .held ∧ recordBytes s' (cutLaunch c) x.record ≤ bytesAt (valWords 64 v) 0x10 8 ∧
      areaCheck s' c.w.m ((valWords 64 v).getD 1 0) (recordBytes s' (cutLaunch c) x.record) = .ok a ∧
      ∀ p ∈ scopePages s' (cutLaunch c) x.record.asid (bytesAt (valWords 64 v) 4 2), pageStuck s' p = false) ∧
    (∃ (s : State) (c : Cmd) (k : Cut), cmdAt s 5 = some c ∧ c.op = .ckpt ∧ mayRun s c = true ∧ engineThere s c = true ∧
      cutOf s c = some k ∧ k.left = [] ∧ paritiesAck s k = false) ∧
    (∃ (s : State) (c : Cmd) (p : Nat) (s' : State) (bs : List Byte) (z : State), cmdAt s 5 = some c ∧ mayRun s c = true ∧
      engineThere s c = true ∧ c.op = .cpyr ∧ c.st = .queued ∧ (copyJob c).peer = some p ∧ modUp s p = true ∧
      hasRoute s c.w.m p = true ∧ copySource s (cmdWho c) (copyJob c) 0 ((copyJob c).rows * (copyJob c).len) [] = (some (s', bs, none), z)) ∧
    (∃ (s : State) (c : Cmd) (p : Nat), cmdAt s 5 = some c ∧ mayRun s c = true ∧ engineThere s c = true ∧ c.op = .cpyr ∧
      c.st = .begun ∧ c.prog < c.buf.length ∧ (copyJob c).peer = some p ∧ inPeer s (cmdWho c) (dstOf (copyJob c) c.prog) p = false) ∧
    ∃ (s : State) (c : Cmd) (k : Cut) (s' s2 : State), cmdAt s 5 = some c ∧ c.op = .ckpt ∧ cutOf s c = some k ∧ k.left = [] ∧
      paritiesAck s k = true ∧ commitRows s' k = some s2 ∧
        engWrites s (cmdWho c) ([(k.desc + 0x20, 8, k.gen), (k.desc + 0x28, 8, k.cstep.toNat)] ++
        (if k.commitVa = 0 then [] else [(k.commitVa, 8, Config.freePick s.clk % 2 ^ 64)])) 0 = .ok s' := by
  refine ⟨?_, ?_, ?_, ⟨sTray, ckpt0 0 .begun, cutE, rfl, rfl, by decide +kernel⟩, ?_,
    ⟨sPeer (peer0 .begun), peer0 .begun, 1, rfl, by decide +kernel⟩, ?_⟩
  · obtain ⟨s2, s3, data, z, z', h1, h2⟩ := coll_fine (s := putCmd (sCopy ((List.range 16).map coll0) id)
      { coll0 0 with st := .begun }) (cs := (collMembers (sCopy ((List.range 16).map coll0) id) (coll0 0)).filterMap (·.2))
      (by decide +kernel)
    exact ⟨sCopy ((List.range 16).map coll0) id, coll0 0, s2, s3, data, z, z', rfl, rfl, rfl, h1, h2⟩
  · obtain ⟨s1, xs, s', e, h1, h2, h3⟩ := ecode_fine (s := sCopy [ecode0] id) (c := ecode0) (n := 8) (k := 1) (by decide +kernel)
    exact ⟨sCopy [ecode0] id, ecode0, s1, s', xs, e, rfl, by decide +kernel, by decide +kernel, rfl, h1, h2, h3⟩
  · obtain ⟨s', v, h1, h2⟩ := desc_ok (f := roomFor) (r := readDesc ckptEnd (ckpt0 0 .begun)) (by decide +kernel)
    rw [roomFor, Bool.and_eq_true, Bool.and_eq_true] at h2
    obtain ⟨a, ha⟩ := words_ok h2.2.1
    exact ⟨ckptEnd, ckpt0 0 .begun, { launch1 with phase := .held }, s', v, a, rfl, by decide +kernel, by decide +kernel, rfl, rfl,
      rfl, rfl, h1, by decide +kernel, rfl, of_decide_eq_true h2.1, ha,
      fun p hp => by simpa using List.all_eq_true.mp h2.2.2 p hp⟩
  · obtain ⟨s', bs, z, h⟩ := src_ok (show srcIs (copySource (sPeer (peer0 .queued)) (cmdWho (peer0 .queued)) (copyJob (peer0 .queued)) 0
      ((copyJob (peer0 .queued)).rows * (copyJob (peer0 .queued)).len) []) = true by decide +kernel)
    exact ⟨sPeer (peer0 .queued), peer0 .queued, 1, s', bs, z, rfl, by decide +kernel, by decide +kernel, rfl, rfl, by decide +kernel,
      by decide +kernel, by decide +kernel, h⟩
  · obtain ⟨s', h⟩ := ewr_ok (show ewrIs (engWrites ckptEnd (cmdWho (ckpt0 0 .begun))
      ([((cut1 []).desc + 0x20, 8, (cut1 []).gen), ((cut1 []).desc + 0x28, 8, (cut1 []).cstep.toNat)] ++
        (if (cut1 []).commitVa = 0 then [] else [((cut1 []).commitVa, 8, Config.freePick ckptEnd.clk % 2 ^ 64)])) 0) = true by
      decide +kernel)
    exact ⟨ckptEnd, ckpt0 0 .begun, cut1 [], s', s', rfl, rfl, by decide +kernel, rfl, by decide +kernel, rfl, h⟩

end Sys2Proof.Tests
end

