-- ==== Sys2Proof/Tests/WitnessG.lean ====
section
/-!
SUPPORT. As Witness, for the statements about tokens, dies, leases, hosts and the service complex, and for the general ones.
-/

namespace Sys2Proof.Tests

set_option Elab.async false

open Sys2Proof Sys2Proof.Machine

/-! ### Tokens -/

/-- The line at `gva`, and a state in which it stands as given. -/
def gline : LineRef := lineOf 0 globalTag gva.toNat
def sLine (x : Line) : State := setLine sPage gline x

def h0 : HamRef := ⟨0, 0, 0⟩

/-- Hamlet 1 holds `n` tokens, the owner token and the data among them. -/
def ownedBy1 (home n : Nat) : Line := { Line.reset with home := home, held := [(1, n)], owner := some 1, valid := [1] }

/-- The page of the line waits for the recovery of die 0's tokens. -/
def sLost (x : Line) : State := setPage { sPage with lines := [(lineKey gline, x)] } gpage { Page.reset with recovering := [0], frozen := true }

/-- A line with its tokens at the home, with hamlet 1 and in a message. -/
def sTokens : State := sLine { ownedBy1 1000 23 with flight := [⟨0, some 0, 1, false, true, 0⟩] }

theorem tokens_ok : TokensOk sTokens gline := by
  refine ⟨by decide +kernel, by decide +kernel, by decide +kernel, ?_⟩
  rw [show (lineAt sTokens gline).owner = some 1 by decide +kernel]
  exact ⟨by decide +kernel, by decide +kernel⟩

theorem witness_TokensTravel :
    (∃ (s : State) (l : LineRef) (h : HamRef), mayToken s l h false = true ∧ persistBlocks (lineAt s l) (keyOfHam h) = false ∧
      tget (lineAt s l).held 0 (keyOfHam h) = 0 ∧ (lineAt s l).flight.any (·.owner) = false ∧ (lineAt s l).owner = none ∧
      2 ≤ (lineAt s l).home ∧ mayToken s l h true = true ∧ (lineAt s l).held = []) ∧
    (∃ (s : State) (l : LineRef) (h : HamRef), mayToken s l h false = true ∧ persistBlocks (lineAt s l) (keyOfHam h) = false ∧
      tget (lineAt s l).held 0 (keyOfHam h) = 0 ∧ (lineAt s l).flight.any (·.owner) = false ∧ (lineAt s l).owner = none ∧
      (lineAt s l).home = 1) ∧
    (∀ n : Fin 3, n ≠ 0 → ∃ (s : State) (l : LineRef) (h : HamRef), mayToken s l h false = true ∧
      persistBlocks (lineAt s l) (keyOfHam h) = false ∧ tget (lineAt s l).held 0 (keyOfHam h) = 0 ∧
      (lineAt s l).flight.any (·.owner) = false ∧ (lineAt s l).owner = some 1 ∧ (lineAt s l).valid.contains 1 = true ∧
      1 ≠ keyOfHam h ∧ stoppedHam s 1 = false ∧ tget (lineAt s l).held 0 1 = n) ∧
    (∃ (s : State) (l : LineRef) (h : HamRef), mayToken s l h true = true ∧ persistBlocks (lineAt s l) (keyOfHam h) = false ∧
      (lineAt s l).flight.any (·.owner) = false ∧ (lineAt s l).held = [(1, 1024)] ∧ 1 ≠ keyOfHam h ∧ (lineAt s l).home = 0 ∧
      (lineAt s l).owner = some 1 ∧ stoppedHam s 1 = false) ∧
    (∀ b : Bool, ∃ (s : State) (l : LineRef) (h : HamRef) (t : TokMsg), (lineAt s l).flight = [t] ∧ t.toHam = some (keyOfHam h) ∧
      (pageAt s (pageOfLine l)).frozen = false ∧ decide (t.gen = (pageAt s (pageOfLine l)).gen) = b) ∧
    (∃ (s : State) (l : LineRef), TokensOk s l ∧ (lineAt s l).flight ≠ [] ∧ (lineAt s l).held ≠ []) ∧
    (∃ (s : State) (l : LineRef) (h : HamRef), mayToken s l h false = true ∧
      tget (lineAt s l).held 0 (keyOfHam h) ≠ allTokens ∧ mayToken s l h true = true ∧
      (∀ w : Bool, 3 ≤ tget (lineAt s l).tries 0 (2 * keyOfHam h + if w then 1 else 0)) ∧ ∀ q ∈ (lineAt s l).persist, q.1 ≠ keyOfHam h) ∧
    (∃ (s : State) (l : LineRef), (lineAt s l).persist = [(0, true), (1, false)] ∧ pageHeld s (pageOfLine l) true = false ∧
      (lineAt s l).active = true ∧ (lineAt s l).served = true) ∧
    (∃ (s : State) (l : LineRef), (lineAt s l).persist = [(0, true)] ∧ (lineAt s l).active = true ∧ (lineAt s l).served = false ∧
      wantsLine s l (hamOfKey 0) = true) ∧
    (∃ (s : State) (l : LineRef) (h : HamRef), (tfind s.lines (lineKey l)).isSome = true ∧
      tget (lineAt s l).held 0 (keyOfHam h) ≠ 0 ∧ (pageAt s (pageOfLine l)).frozen = false ∧ stoppedHam s (keyOfHam h) = false ∧ (lineAt s l).flight = [] ∧
      tsorted none (lineAt s l).held = true) ∧
    (∃ (s : State) (p : PageRef), modUp s p.m = true ∧ (pageAt s p).recovering ≠ []) ∧
    ∀ b : Bool, ∃ (s : State) (l : LineRef) (x : Line) (e : Word) (a : Nat), lineOfKey (lineKey l) = l ∧
      s.lines = [(lineKey l, x)] ∧ modUp s l.m = true ∧ (pageAt s (pageOfLine l)).recovering ≠ [] ∧ x.owner = some 1 ∧
      lostKey l.m (pageAt s (pageOfLine l)).recovering 1 = true ∧ walkPage s l.m l.tag (l.ln * 128) = .leaf e a ∧
      x.mvalid = b := by
  refine ⟨⟨sPage, gline, h0, by decide +kernel⟩, ⟨sLine { Line.reset with home := 1 }, gline, h0, by decide +kernel⟩,
    fun n hn => ⟨sLine (ownedBy1 5 n), gline, h0, by revert n; decide +kernel⟩,
    ⟨sLine (ownedBy1 0 1024), gline, h0, by decide +kernel⟩,
    fun b => ⟨sLine { Line.reset with flight := [⟨0, some 0, 1, true, true, if b then 0 else 7⟩] }, gline, h0,
      ⟨0, some 0, 1, true, true, if b then 0 else 7⟩, by revert b; decide +kernel⟩,
    ⟨sTokens, gline, tokens_ok,
      by decide +kernel⟩,
    ⟨sLine { Line.reset with tries := [(0, 3), (1, 4)], persist := [(1, true)] }, gline, h0, by decide +kernel⟩,
    ⟨sLine { Line.reset with persist := [(0, true), (1, false)], active := true, served := true }, gline, by decide +kernel⟩,
    ⟨setLine sFar gline { Line.reset with home := 0, held := [(0, 5)], persist := [(0, true)], active := true }, gline,
      by decide +kernel⟩,
    ⟨sLine (ownedBy1 5 3), gline, ⟨0, 0, 1⟩, by decide +kernel⟩, ⟨sLost (ownedBy1 5 3), gpage, by decide +kernel⟩, fun b => ?_⟩
  have h : ∀ c, isLeaf (walkPage (sLost { ownedBy1 5 3 with mvalid := c }) 0 globalTag gva.toNat) = true := by decide +kernel
  exact ⟨sLost { ownedBy1 5 3 with mvalid := b }, gline, _, _, _, by decide +kernel, rfl, by revert b; decide +kernel,
    by revert b; decide +kernel, rfl,
    by revert b; decide +kernel, leaf_of (h b), rfl⟩

/-! ### Dies -/

/-- The machine with both service processors holding this diagnosis of module 0. -/
def sDiag (n : Nat) (f : Mod → Mod) : State :=
  let x := modAt State.reset 0
  setMod State.reset 0 (f { x with sp := { x.sp with diagA := [n], diagB := [n] } })

/-- Hamlet `h` holds 5 tokens. -/
def ownedBy (h : Nat) : Line := { Line.reset with home := 1019, held := [(h, 5)], owner := some h, valid := [h] }

theorem cut_same {x y : Mod} (hd : x.dmap = y.dmap) (hl : x.deadLinks = y.deadLinks) : cutOff x = cutOff y := by
  unfold cutOff liveLinks siteOf
  simp only [hd, hl]

/-- The machine with dies at sites 1 to 3 alone, in which every link of site 3 is dead, with a diagnosis. -/
def sApart (n : Nat) : State :=
  sDiag n (fun x => { x with dmap := { x.dmap with orig := 14 }, deadLinks := (siteNbrs 3).map (fun n => (3, n)) })

theorem cut_apart : cutOff (modAt (sApart 3) 0) = [3] := by decide +kernel

theorem witness_DiesFail :
    (∃ (s : State) (m site k : Nat), modUp s m = true ∧ site < 18 ∧ (modAt s m).dmap.fail.getLsbD site = false ∧
      agreed (modAt s m) site = true ∧ dieAtSite (modAt s m).dmap site = some k ∧ s.launches = [] ∧ s.cmds = [] ∧
      ∃ q ∈ s.lines, (lineOfKey q.1).m = m ∧ q.2.hint.contains k = true ∧
        (pageAt s (pageOfLine (lineOfKey q.1))).recovering = []) ∧
    (∀ b h : Bool, ∃ (s : State) (m die site : Nat), modUp s m = true ∧ die < 16 ∧ dieMapped (modAt s m).dmap die = false ∧
      spareSite (modAt s m).dmap site = true ∧ agreedDie (modAt s m) die = true ∧ takeoverFree (modAt s m).dmap = true ∧
      (modAt s m).dmap.xv0 = b ∧ (modAt s m).dmap.xv1 = false ∧ atHead (modAt s m) ⟨die, false, 1⟩ = h ∧ s.launches = []) ∧
    (∀ b : Bool, ∃ (s : State) (m die : Nat), (modAt s m).sp.work ≠ [] ∧ (if b then atHead (modAt s m) ⟨die, true, 0⟩ = true else
      ∀ r ∈ (modAt s m).sp.work, r.die ≠ die) ∧ die < 16 ∧ dieMapped (modAt s m).dmap die = true ∧ modUp s m = true ∧
      (dieSt (modAt s m) die).stopped = false ∧ agreed (modAt s m) (128 + siteOf (modAt s m).dmap die) = true) ∧
    (∀ b : Bool, ∃ (s : State) (m die : Nat), (modAt s m).sp.work = [] ∧ agreedDie (modAt s m) die = true ∧ die < 16 ∧
      dieMapped (modAt s m).dmap die = true ∧ modUp s m = true ∧
      (dieSt (modAt s m) die).stopped = false ∧ agreed (modAt s m) (128 + siteOf (modAt s m).dmap die) = true ∧
      (dieSt (modAt s m) die).evacuating = b ∧ (dieSt (modAt s m) die).evacuated = false ∧ s.launches = [] ∧ s.cmds = []) ∧
    (∃ (s : State) (m die : Nat), modUp s m = true ∧ die < 16 ∧ dieMapped (modAt s m).dmap die = true ∧
      (dieSt (modAt s m) die).evacuated = true ∧ atHead (modAt s m) ⟨die, true, 0⟩ = true ∧
      agreed (modAt s m) (128 + siteOf (modAt s m).dmap die) = true ∧ s.launches = [] ∧ s.cmds = [] ∧
        tsorted none (modAt s m).dies = true) ∧
    (∀ b f : Bool, ∃ (s : State) (m die : Nat) (l : LineRef) (y : Line) (h n : Nat), modUp s m = true ∧ die < 16 ∧
      dieMapped (modAt s m).dmap die = true ∧ (dieSt (modAt s m) die).stopped = false ∧
      agreed (modAt s m) (128 + siteOf (modAt s m).dmap die) = true ∧ (modAt s m).sp.work = [] ∧
      (dieSt (modAt s m) die).evacuating = true ∧ lineOfKey (lineKey l) = l ∧ s.lines = [(lineKey l, y)] ∧ y.held = [(h, n)] ∧
      (h / 64 = m * 16 + die ↔ b = true) ∧ y.flight = [] ∧ n ≠ 0 ∧ (pageAt s (pageOfLine l)).frozen = f) ∧
    (∀ b : Bool, ∃ (s : State) (m n : Nat), modUp s m = true ∧ s.cmds = [] ∧ 16 ≤ n ∧ n < 30 ∧ (modAt s m).lostTier.contains n = false ∧
      agreed (modAt s m) (32 + n) = true ∧ lossDue (modAt s m) (32 + n) = false ∧ decide ((modAt s m).sp.work = []) = b) ∧
    (∃ (s : State) (m n : Nat), modUp s m = true ∧ s.cmds = [] ∧ n < 24 ∧ (modAt s m).lostStacks.contains n = false ∧
      lossDue (modAt s m) (64 + n) = false ∧ (modAt s m).sp.work = []) ∧
    (∃ (s : State) (m a b : Nat), modUp s m = true ∧ a < 18 ∧ (siteNbrs a).contains b = true ∧
      (modAt s m).deadLinks.contains (a, b) = false ∧ (modAt s m).deadLinks.contains (b, a) = false ∧ cutOff (modAt s m) = []) ∧
    (∀ b : Bool, ∃ (s : State) (m : Nat), modUp s m = true ∧ cutOff (modAt s m) = [3] ∧ agreed (modAt s m) 3 = b ∧ s.launches = [] ∧
      s.cmds = []) ∧
    (∃ (s : State) (m a b : Nat), modUp s m = true ∧ a < 32 ∧ a ≠ m ∧ b < 48 ∧
      (modAt s m).deadChans.contains (a, a * 48 + b) = false ∧ dieThere (modAt s m) a = true) ∧
    ∃ (s : State) (c : CoreRef) (word m : Nat) (w : SlotRef), corePresent (modAt s c.m) c.d c.c = true ∧ word < 2 ^ 17 ∧
      eccAt s (localWord c word) = Ecc.reset ∧ (modAt s m).present = true ∧ (tierOf (modAt s m) (8 * word)).isSome = true ∧
      eccAt s (physFlat m 0 / 8 + word) = Ecc.reset ∧ isLive (slotAt s w) = true := by
  refine ⟨⟨{ sDiag 3 id with lines := [(lineKey gline, { Line.reset with hint := [3] })] }, 0, 3, 3, by decide +kernel⟩,
    fun b h => ⟨sDiag 3 (fun x =>
      { x with dmap := { x.dmap with fail := 8, xv0 := b, xs0 := 17, xl0 := 5 },
               sp := { x.sp with work := if h then [⟨3, false, 1⟩] else [] } }), 0, 3, 16, ?_⟩,
    fun b => ⟨sDiag 131 (fun x => { x with sp := { x.sp with work := [⟨if b then 3 else 5, true, 0⟩] } }), 0, 3, ?_⟩,
    fun b => ⟨sDiag 131 (fun x => { x with dies := [(3, ⟨false, false, b, false⟩)] }), 0, 3, ?_⟩,
    ⟨sDiag 131 (fun x => { x with dies := [(3, ⟨false, false, true, true⟩)], sp := { x.sp with work := [⟨3, true, 0⟩] } }), 0, 3,
      by decide +kernel⟩,
    fun b f => ⟨setPage { sDiag 131 (fun x => { x with dies := [(3, ⟨false, false, true, false⟩)] }) with
      lines := [(lineKey gline, ownedBy (if b then 3 * 64 else 1))] } gpage { Page.reset with frozen := f }, 0, 3, gline,
      ownedBy (if b then 3 * 64 else 1), if b then 3 * 64 else 1, 5, ?_⟩,
    fun b => ⟨sDiag 61 (fun x => { x with sp := { x.sp with work := if b then [] else [⟨5, true, 0⟩] } }), 0, 29, ?_⟩,
    ⟨sDiag 0 id, 0, 23, by decide +kernel⟩, ⟨State.reset, 0, 17, 16, by decide +kernel⟩,
    fun b => ⟨sApart (if b then 3 else 4), 0, by revert b; decide +kernel, (cut_same rfl rfl).trans cut_apart,
      by revert b; decide +kernel, rfl, rfl⟩,
    ⟨State.reset, 0, 15, 47, by decide +kernel⟩, sMem, c0, 131071, 0, w0, by decide +kernel⟩
  · revert b h; decide +kernel
  · revert b; decide +kernel
  · revert b; decide +kernel
  · revert b f; decide +kernel
  · revert b; decide +kernel

/-! ### Leases and rows -/

/-- A zone with more frames than there are used ones has a free frame within any run of that many. -/
theorem freeRun_some {x : Mod} {used : List Nat} {k : Nat} {z : Zone} (hl : x.lend = []) (hz : used.length < z.2)
    (hf : ∀ f, z.1 ≤ f → f < z.1 + z.2 → (tierOf x (f * 65536)).isSome && !lostSoon x (f * 65536) = true) :
    (freeRun x used 1 k z).isSome = true := by
  obtain ⟨i, hi, hu⟩ : ∃ i ∈ Finset.range (used.length + 1), z.1 + (k + i) % z.2 ∉ used := by
    by_contra h
    simp only [not_exists, not_and, not_not] at h
    have hc := Finset.card_le_card_of_injOn (t := used.toFinset) (fun i => z.1 + (k + i) % z.2) (fun i hi => by simpa using h i hi) (by
      intro a ha b hb hab
      simp only [Finset.coe_range, Set.mem_Iio] at ha hb
      have h1 : (k + a) % z.2 = (k + b) % z.2 := by simpa using hab
      have h2 : a ≡ b [MOD z.2] := Nat.ModEq.add_left_cancel' k h1
      exact Nat.ModEq.eq_of_lt_of_lt h2 (by omega) (by omega))
    have := List.toFinset_card_le used
    simp at hc
    omega
  have hm := Nat.mod_lt (k + i) (show 0 < z.2 by omega)
  have hg := hf (z.1 + (k + i) % z.2) (by omega) (by omega)
  simp only [Bool.and_eq_true] at hg
  rw [freeRun, List.find?_isSome]
  refine ⟨z.1 + (k + i) % z.2, ?_, ?_⟩
  · simp only [List.mem_map, List.mem_range, hl, List.map_nil, List.sum_nil]
    exact ⟨i, by simp at hi ⊢; omega, by simp⟩
  · simpa [frameFree, lentFrame, hl, hu] using hg

/-- Zones of which one has a free frame have one. -/
theorem freeIn_some {x : Mod} {used : List Nat} {k : Nat} {g : List Zone} {z : Zone} (hz : z ∈ g)
    (h : ∀ j, (freeRun x used 1 j z).isSome = true) : (freeIn x used 1 k g).isSome = true := by
  rw [freeIn, List.findSome?_isSome_iff]
  refine ⟨z, ?_, h _⟩
  rw [← List.take_append_drop (k % g.length) g] at hz
  simp only [List.mem_append] at hz ⊢
  exact hz.symm

/-- Words of a local store can be read, whatever stands there. -/
theorem core_read {s : State} {off : Nat} (he : s.ecc = []) (hv : s.veils = []) (hp : corePresent (modAt s 0) 0 0 = true)
    (hd : dieStopped (modAt s 0) 0 = false) (ho : off + 8 ≤ 2 ^ 20) : ∃ t x, perfRead s (luWho 0 0) (0x100000000000000#64 + BitVec.ofNat 64 off) 8 = .ok t x := by
  have ha : (0x100000000000000#64 + BitVec.ofNat 64 off).toNat = 0x100000000000000 + off := by
    simp only [BitVec.toNat_add, BitVec.toNat_ofNat]
    omega
  have hr : resolve s (luWho 0 0) (0x100000000000000#64 + BitVec.ofNat 64 off) false = .lstore c0 (localFlat c0 off) := by
    have h1 : (0x100000000000000 + off) / 2 ^ 29 % 16 = 0 := by omega
    have h2 : (0x100000000000000 + off) / 2 ^ 20 % 512 = 0 := by omega
    have h3 : (0x100000000000000 + off) % 2 ^ 20 = off := by omega
    have hq : placeOf 0#16 (0x100000000000000#64 + BitVec.ofNat 64 off) = .core 0 0 off := by
      simp only [placeOf, ha, h1, h2, h3]
      repeat rw [if_neg (by omega)]
      rw [if_pos (by omega)]
    simp [resolve, luWho, hq, hp, hd, c0]
  have hw : veiled s (luWho 0 0) (.lstore c0 (localFlat c0 off)) (0x100000000000000#64 + BitVec.ofNat 64 off) 8 = false := by
    simp [veiled, veilsAt, hv]
  simp only [perfRead, readAt, hr, hw, no_ecc he, Bool.false_eq_true, if_false]
  exact ⟨_, _, rfl⟩

/-- So a block that has its copy there can be read. -/
theorem core_words {s : State} (he : s.ecc = []) (hv : s.veils = []) (hp : corePresent (modAt s 0) 0 0 = true)
    (hd : dieStopped (modAt s 0) 0 = false) (n : Nat) :
    ∀ va off, va = 0x100000000000000#64 + BitVec.ofNat 64 off → off % 8 = 0 → off + 8 * n ≤ 2 ^ 20 →
      ∃ ws, wordsAt s 0 va n = .ok ws := by
  induction n with
  | zero => exact fun _ _ _ _ _ => ⟨[], rfl⟩
  | succ n ih =>
    rintro va off rfl h8 hn
    obtain ⟨t, x, hx⟩ := core_read (off := off) he hv hp hd (by omega)
    obtain ⟨ws, hw⟩ := ih _ (off + 8) rfl (by omega) (by omega)
    have h0 : (0x100000000000000#64 + BitVec.ofNat 64 off).toNat % 8 = 0 := by
      simp only [BitVec.toNat_add, BitVec.toNat_ofNat]
      omega
    have hs : (0x100000000000000#64 + BitVec.ofNat 64 off) + 8 = 0x100000000000000#64 + BitVec.ofNat 64 (off + 8) := by
      rw [BitVec.ofNat_add, BitVec.add_assoc]
      rfl
    rw [wordsAt]
    simp only [h0, Nat.sub_zero, hx, hs, hw, Nat.lt_irrefl, if_false]
    exact ⟨_, rfl⟩

/-- A row of set 0 whose block of tray 0 is lost; a block of a page with a committed copy in the local store of core 0, if `num`. -/
def sRow (n : Nat) (num : Bool) (stale : List Nat) : State :=
  let s := setPage sPage gpage { Page.reset with rebuild := true }
  setMod s 0 { modAt s 0 with rows := [(n, { RowSt.reset with lost := [0], stale := stale })],
                              protNum := if num then [(gpage, 1)] else [],
                              cuts := [{ cut0 with copies := [(gpage, 0x100000000000000)] }] }

theorem memberBlock_of {s : State} {j n t m : Nat} {p : PageRef} {va : Word} {ws : List Nat} (hm : 4 * t + j = m)
    (h1 : pageInRow s m n = some p) (h2 : committedVa s p false = some va) (h3 : lasersOn s m = true)
    (h0 : (rowAt s j n).gone.contains t = false) (h : wordsAt s m va 8192 = .ok ws) : memberBlock s j n t = some (bytesOfWords ws) := by
  simp only [memberBlock, hm, h1, h2, blockAt, h3, h0, h, Bool.not_true, Bool.false_eq_true, if_false]

theorem committedBlock_of {s : State} {p : PageRef} {va : Word} {k n : Nat} {bs : List Nat}
    (h1 : committedVa s p false = some va) (h2 : blockOf (modAt s p.m) p = some k) (h3 : rowOfBlock (p.m / 4) k = n)
    (h4 : rowCurrent s (p.m % 4) n = true) (h : memberBlock s (p.m % 4) n (p.m / 4) = some bs) : committedBlock s p = some bs := by
  simp only [committedBlock, h1, h2, h3, h4, rowBlock, h, if_true]

theorem row_block : ∃ bs, memberBlock (sRow 2 true []) 0 2 0 = some bs ∧ committedBlock (sRow 2 true []) gpage = some bs := by
  obtain ⟨ws, h⟩ := core_words (s := sRow 2 true []) rfl rfl (by decide +kernel) (by decide +kernel) 8192
    0x100000000000000 0 (by decide) rfl (by omega)
  have hm := memberBlock_of (n := 2) (p := gpage) (j := 0) (t := 0) rfl (by decide +kernel) (by decide +kernel)
    (by decide +kernel) (by decide +kernel) h
  exact ⟨_, hm, committedBlock_of (va := 0x100000000000000) (k := 1) (n := 2) (by decide +kernel) (by decide +kernel) (by decide)
    (by decide +kernel) hm⟩

theorem row_none : ∀ p : Fin 2, ∀ u ∈ dataTrays (if p = 0 then 0 else 7),
    pageInRow (sRow (if p = 0 then 0 else 7) false []) (4 * u) (if p = 0 then 0 else 7) = none := by decide +kernel

theorem row_frame (e : Word) (he : leafPs e = 0) : ∃ f, spareFrame (sRow 2 true []) 0 e = some f := by
  rw [← Option.isSome_iff_exists, spareFrame, leafFrames, if_neg (by simp [he])]
  refine freeIn_some (z := stackZone 0) (List.mem_append_left _ (List.mem_append_left _ (List.mem_append_left _
    (List.mem_map_of_mem (by decide : 0 ∈ List.range 24))))) fun j => freeRun_some rfl (by decide +kernel) fun f _ hf => ?_
  have hf : f < 2 ^ 20 := by simpa [stackZone] using hf
  have h1 : tierOf (modAt (sRow 2 true []) 0) (f * 65536) = some .near := if_pos (by omega)
  have h2 : (modAt (sRow 2 true []) 0).lostTier = [] := by decide +kernel
  have h3 : (modAt (sRow 2 true []) 0).lostStacks = [] := by decide +kernel
  have h4 : ∀ d, (modAt (sRow 2 true []) 0).lostTier.contains d = false := by simp [h2]
  have h5 : (modAt (sRow 2 true []) 0).sp.work = [] := by decide +kernel
  simp only [h1, lostSoon, lossDue, h5, lostPa, h3]
  cases dieOfPa (f * 65536) <;> simp [h2]

theorem witness_LeasesRun :
    (∃ (s : State) (m : Nat) (e : LeaseArg), leaseLegal s m e = false ∧ e.size = 0) ∧
    (∃ (s : State) (m i : Nat), entryUsed (modAt s m) i false = true) ∧
    (∀ b : Bool, ∃ (s : State) (m i : Nat) (e : LeaseArg), modUp s m = true ∧ i = 255 ∧ entryUsed (modAt s m) i e.host = false ∧
      leaseLegal s m e = true ∧ e.host = b ∧ e.window = b) ∧
    (∃ (s : State) (m id : Nat) (l : Lease) (x : Word), leaseAt (modAt s m).lend id = some l ∧ l.lender = m ∧ l.host = false ∧
      modUp s m = true ∧ l.reclaiming = false ∧ l.expiry < x ∧ s.tick < l.expiry ∧ l.window = false ∧
      modUp s l.borrower = true) ∧
    (∀ b : Bool, ∃ (s : State) (m id : Nat) (l : Lease), leaseAt (modAt s m).lend id = some l ∧ l.lender = m ∧ l.host = false ∧
      modUp s m = true ∧ l.window = b ∧ l.reclaiming = false ∧ l.expiry = s.tick) ∧
    (∃ (s : State) (m id : Nat) (l : Lease) (p : PageRef) (e : Word) (a f : Nat) (fs : List Nat),
      leaseAt (modAt s m).lend id = some l ∧ l.lender = m ∧ l.host = false ∧ modUp s m = true ∧ l.window = false ∧
      l.reclaiming = true ∧ modUp s l.borrower = true ∧ MemOk s ∧ s.lines = [] ∧
      leavesOf (leasePages s l.borrower l) = [(p, e, a)] ∧ copyWaits s l p e = false ∧
      chooseFrame s p (BitVec.ofNat 64 (memRead s.mem a 8)) fs false = some f) ∧
    (∃ (s : State) (m id : Nat) (l : Lease), leaseAt (modAt s m).lend id = some l ∧ l.lender = m ∧ l.host = false ∧
      modUp s m = true ∧ l.window = false ∧ l.reclaiming = true ∧ modUp s l.borrower = true ∧ leasePages s l.borrower l = [] ∧
      s.tick.toNat ≤ l.t0 + reclaimTime l) ∧
    (∃ (s : State) (m id : Nat) (l : Lease), leaseAt (modAt s m).lend id = some l ∧ l.lender = m ∧ l.host = false ∧
      modUp s m = true ∧ l.window = false ∧ l.reclaiming = true ∧ l.t0 + reclaimTime l = s.tick.toNat) ∧
    (∀ b : Bool, ∃ (s : State) (set row t : Nat), set = 0 ∧ nubNat ((rowAt s set row).lost ++ (rowAt s set row).gone) = [t] ∧
      (modAt s (4 * t + set)).sp.work = [] ∧ rowCurrent s set row = b ∧
      modUp s (4 * t + set) = true ∧ parTray row 0 ≠ t ∧ parTray row 1 ≠ t ∧ pageInRow s (4 * t + set) row = none) ∧
    (∃ (s : State) (row t : Nat) (p : PageRef) (va : Word) (bs : List Nat) (e : Word) (a f : Nat), nubNat ((rowAt s 0 row).lost ++ (rowAt s 0 row).gone) = [t] ∧
      (modAt s (4 * t)).sp.work = [] ∧ rowCurrent s 0 row = true ∧ modUp s (4 * t) = true ∧ parTray row 0 ≠ t ∧ parTray row 1 ≠ t ∧
      pageInRow s (4 * t) row = some p ∧ committedVa s p false = some va ∧ committedBlock s p = some bs ∧
      (memberBlock s 0 row t).isSome = true ∧ (pageAt s p).rebuild = true ∧ MemOk s ∧ s.lines = [] ∧
      walkPage s (4 * t) p.tag (p.pn * 65536) = .leaf e a ∧ leafPs e = 0 ∧ spareFrame s (4 * t) e = some f) ∧
    (∀ p : Fin 2, ∃ (s : State) (row t : Nat) (ds : List (Nat × List Nat)), nubNat ((rowAt s 0 row).lost ++ (rowAt s 0 row).gone) = [t] ∧
      (modAt s (4 * t)).sp.work = [] ∧ rowCurrent s 0 row = true ∧ modUp s (4 * t) = true ∧ parTray row p = t ∧ (p = 1 → parTray row 0 ≠ t) ∧
      farUp s (4 * t) = true ∧ ds.length = 6 ∧
      (dataTrays row).map (fun u => (u, rowBlock s 0 row u)) = ds.map (fun d => (d.1, some d.2))) ∧
    ∃ i j d : Nat, i < 6 ∧ j < 6 ∧ d = 255 ∧ i ≠ j := by
  obtain ⟨bs, hm, hb⟩ := row_block
  have hl : leafIs (walkPage (sRow 2 true []) 0 globalTag gva.toNat) (BitVec.ofNat 64 (leafBits 16 0)) (tableAt 0 3 0) = true := by
    decide +kernel
  obtain ⟨f, hf⟩ := row_frame (BitVec.ofNat 64 (leafBits 16 0)) (by decide)
  refine ⟨⟨State.reset, 0, ⟨7, 1, false, 0, 0, gva, 9, false⟩, by decide +kernel, rfl⟩, ⟨sLease lease0, 0, 0, by decide +kernel⟩,
    fun b => ?_,
    ⟨sLease lease0, 0, 7, lease0, 101, by decide +kernel⟩,
    fun b => ⟨{ sLease { lease0 with window := b } with tick := 100 }, 0, 7, { lease0 with window := b }, ?_⟩,
    ⟨sBorrow { lease0 with reclaiming := true }, 0, 7, { lease0 with reclaiming := true }, bpage,
      BitVec.ofNat 64 (leafBits 0x4000 0x40), tableAt 1 3 0, 0x10000000, [0x10000000], by decide +kernel, rfl, rfl,
      by decide +kernel, rfl, rfl, by decide +kernel, by unfold MemOk; decide +kernel, rfl, by decide +kernel, by decide +kernel,
      by decide +kernel⟩,
    ⟨sLease { lease0 with reclaiming := true }, 0, 7, { lease0 with reclaiming := true }, by decide +kernel⟩,
    ⟨{ sLease { lease0 with reclaiming := true } with tick := 16827216 }, 0, 7, { lease0 with reclaiming := true },
      by decide +kernel⟩,
    fun b => ⟨sRow 2 false (if b then [] else [4]), 0, 2, 0, rfl, ?_⟩,
    ⟨sRow 2 true [], 2, 0, gpage, 0x100000000000000, bs, _, _, f, by decide +kernel, by decide +kernel, by decide +kernel,
      by decide +kernel, by decide, by decide, by decide +kernel, by decide +kernel, hb, by rw [hm]; rfl, by decide +kernel,
      by unfold MemOk; decide +kernel, rfl, leaf_at hl, by decide, hf⟩,
    fun p => ⟨sRow (if p = 0 then 0 else 7) false [], if p = 0 then 0 else 7, 0, (dataTrays (if p = 0 then 0 else 7)).map (fun u => (u, zeroBlock)),
      ?_, ?_, ?_, ?_, ?_, ?_, ?_, ?_, ?_⟩,
    0, 5, 255, by decide⟩
  · cases b
    · exact ⟨{ sLease lease0 with mods := (sLease { lease0 with pbase := 2 ^ 32 }).mods }, 0, 255,
        ⟨8, 1, false, 4, 0, gva + 2 ^ 34, 9, false⟩, by decide +kernel⟩
    · exact ⟨State.reset, 0, 255, ⟨8, 1, true, 4, 0, gva + 2 ^ 34, 9, true⟩, by decide +kernel⟩
  · revert b; decide +kernel
  · revert b; decide +kernel
  · revert p; decide +kernel
  · revert p; decide +kernel
  · revert p; decide +kernel
  · revert p; decide +kernel
  · revert p; decide
  · revert p; decide
  · revert p; decide +kernel
  · revert p; decide
  · rw [List.map_map]
    refine List.map_congr_left fun u _ => ?_
    have h := row_none p u ‹_›
    simp [rowBlock, memberBlock, h]

/-! ### Hosts and service -/

/-- Module 0 with the page of `gva`, a window of it for every right and port, and these votes against the module. -/
def sHost (votes : List Nat) : State :=
  setMod sPage 0 { modAt sPage 0 with wins := [(0, ⟨gva.toNat, 65536, 5, 7, 15⟩)], sp := { (modAt sPage 0).sp with votes := votes } }

def req0 (va : Word) (n : Nat) : HostReq := ⟨0, 3, 9, 5, va, n⟩

/-- A read of an engine that has answered good bytes. -/
def erdIs : ERd → Bool | .ok _ _ b => !b | _ => false

theorem erd_ok {r : ERd} (h : erdIs r = true) : ∃ s x, r = .ok s x false := by
  cases r <;> simp_all [erdIs]

/-- A write of an engine that has been made. -/
def ewIs : EWr → Bool | .ok _ => true | _ => false

theorem ew_ok {r : EWr} (h : ewIs r = true) : ∃ s, r = .ok s := by
  cases r <;> simp_all [ewIs]

/-- A write of an engine that waits for a page. -/
def ewHeld : EWr → Bool | .hold _ => true | _ => false

theorem ew_held {r : EWr} (h : ewHeld r = true) : ∃ s, r = .hold s := by
  cases r <;> simp_all [ewHeld]

/-- The window's page is not there, and a request is held, if `b`. -/
def sHostAbsent (b : Bool) : State :=
  { setMod sAbsent 0 { modAt sAbsent 0 with wins := [(0, ⟨gva.toNat, 65536, 5, 7, 15⟩)] } with
    hostHeld := if b then [(req0 gva 1, .write [3])] else [] }

theorem hold_write {b : Bool} :
    ∃ t, engWrite (sHostAbsent b) (hostWho (req0 gva 1)) (req0 gva 1).va [(3 : Byte)].length (ofBytes [3]) [(3 : Byte)].length = .hold t := by
  have h : absentAt (walkPage (sHostAbsent b) 0 globalTag gva.toNat) (tableAt 0 3 0) = true := by
    revert b; decide +kernel
  have hr : resolve (sHostAbsent b) (hostWho (req0 gva 1)) gva true = .absent gpage := by
    have hq : placeOf 0#16 gva = .page globalTag gva.toNat := rfl
    have hw : walkPage (sHostAbsent b) (hostWho (req0 gva 1)).c.m globalTag gva.toNat = .absent (tableAt 0 3 0) := absent_of h
    have hq' : placeOf (hostWho (req0 gva 1)).asid gva = .page globalTag gva.toNat := hq
    simp only [resolve, hq', hw]
    exact congrArg Tgt.absent (show pageOf 0 globalTag gva.toNat = gpage by decide)
  have hp : perfWrite (sHostAbsent b) (hostWho (req0 gva 1)) gva (min 1 (8 - gva.toNat % 8)) (ofBytes [3]) = .absent gpage := by
    simp only [perfWrite, hr]
  exact ⟨askPage (sHostAbsent b) gpage, by
    show engWrite (sHostAbsent b) (hostWho (req0 gva 1)) gva 1 (ofBytes [3]) (0 + 1) = _
    simp only [engWrite, hp, Nat.one_ne_zero, if_false]⟩

theorem host_waits {b : Bool} {t : State}
    (h : engWrite (sHostAbsent b) (hostWho (req0 gva 1)) (req0 gva 1).va [(3 : Byte)].length (ofBytes [3]) [(3 : Byte)].length = .hold t) :
    hostRun (sHostAbsent b) (req0 gva 1) (.write [3]) = .wait { sHostAbsent b with pages := t.pages } := by
  have h1 : portUp (sHostAbsent b) (req0 gva 1) = true := by clear h; revert b; decide +kernel
  have h2 : hostAllowed (sHostAbsent b) (req0 gva 1) [(3 : Byte)].length 1 = true := by
    clear h h1; revert b; decide +kernel
  have h3 : hostCheck (sHostAbsent b) (req0 gva 1) (.write [3]) = none := by
    simp only [hostCheck, h1, hostAligned, hostNeed, h2, Bool.not_true, Bool.false_eq_true, if_false]
  simp only [hostRun, h3, hostPerform, h, runHeld]

theorem witness_HostsAndService :
    (∃ (s : State) (r : HostReq), portUp s r = false ∧ r.port = 4 ∧ s.hostHeld.any (fun q => samePair q.1 r) = false) ∧
    (∃ (s : State) (r : HostReq), portUp s r = true ∧ s.hostHeld.any (fun q => samePair q.1 r) = false ∧
      hostAllowed s r 8 1 = false) ∧
    (∃ (s t : State) (r : HostReq) (data : List Byte), portUp s r = true ∧ hostAllowed s r data.length 1 = true ∧
      engWrite s (hostWho r) r.va data.length (ofBytes data) data.length = .ok t) ∧
    (∃ (s t : State) (r : HostReq) (x : Nat), portUp s r = true ∧ hostAllowed s r r.len 0 = true ∧
      engRead s (hostWho r) r.va r.len r.len = .ok t x false) ∧
    (∃ (s t : State) (r : HostReq) (data : List Byte), portUp s r = true ∧ s.hostHeld.any (fun q => samePair q.1 r) = false ∧
      hostAllowed s r data.length 1 = true ∧
      engWrite s (hostWho r) r.va data.length (ofBytes data) data.length = .hold t) ∧
    (∃ (s : State) (r : HostReq) (q : HostReq × HostOp) (p : Tbl Page), s.hostHeld = [q] ∧ samePair q.1 r = true ∧
      hostRun s q.1 q.2 = .wait { s with pages := p }) ∧
    (∃ (s : State) (r : HostReq), portUp s r = true ∧ r.va.toNat % 8 ≠ 0) ∧
    (∃ (s t : State) (r : HostReq) (a b : Word) (x : Nat), portUp s r = true ∧ r.va.toNat % 8 = 0 ∧ hostAllowed s r 8 2 = true ∧
      perfAtomic s (hostWho r) r.va 8 (fun old => if old = a.toNat then some b.toNat else none) true = .ok t x) ∧
    (∃ (s t : State) (r : HostReq) (a : Word) (x : Nat), portUp s r = true ∧ r.va.toNat % 8 = 0 ∧ hostAllowed s r 8 2 = true ∧
      perfAtomic s (hostWho r) r.va 8 (fun old => some ((old + a.toNat) % 2 ^ 64)) true = .ok t x) ∧
    (∃ (s : State) (m i : Nat) (e : HostWinArg), modUp s m = true ∧ i < 64 ∧ e.base.toNat % 65536 = 0 ∧ e.len % 65536 = 0 ∧
      regionOf e.base.toNat = some 2 ∧ e.base.toNat + e.len ≤ 0x100000000000000 ∧ e.rights.toNat < 8 ∧ e.ports.toNat < 16) ∧
    (∃ (s : State) (m n : Nat), modUp s m = true ∧ n ≠ m ∧ n < 32 ∧ modUp s n = true ∧ (modAt s n).fenced = false ∧
      (modAt s m).sp.votes.contains n = false) ∧
    (∃ (s : State) (m : Nat), modUp s m = true ∧
      3 ≤ ((votersOf s m).filter (fun v => (modAt s m).sp.votes.contains v)).length) ∧
    (∃ (s : State) (m : Nat), modUp s m = true ∧
      ((votersOf s m).filter (fun v => (modAt s m).sp.votes.contains v)).length = 2) ∧
    (∃ (s : State) (m : Nat) (c : CoreRef) (g : Msg), modUp s m = true ∧ s.net = [g] ∧ entryKind g.raw = 2 ∧
      coreRefOf (msgSlot g) = c ∧ g.dest = m) ∧
    (∃ (s : State) (m : Nat), modUp s m = true ∧ (modAt s m).sp.retried.contains true = true) ∧
    (∀ (n : Fin 11) (a b : Bool), n ≠ 0 → ∃ (s : State) (m : Nat), m < 32 ∧ (modAt s m).sp.bootAt = n ∧
      bootAlt (modAt s m) n = a ∧ decide ((modAt s m).sp.boot.head? = some (.started n)) = b) ∧
    ∃ (s : State) (m : Nat), (modAt s m).present = true := by
  refine ⟨⟨sHost [], ⟨0, 4, 9, 5, gva, 8⟩, by decide +kernel⟩, ⟨sHost [], req0 (gva + 0xFFF9) 8, by decide +kernel⟩, ?_, ?_, ?_, ?_,
    ⟨sHost [], req0 (gva + 4) 8, by decide +kernel⟩, ?_, ?_,
    ⟨sHost [], 0, 63, ⟨gva, 2 ^ 55, 5, 7, 15⟩, by decide +kernel⟩, ⟨sLease lease0, 0, 1, by decide +kernel⟩,
    ⟨setMod (sLease lease0) 0 { modAt State.reset 0 with sp := { (modAt State.reset 0).sp with votes := [voterA, voterB, 1] } }, 0,
      by decide +kernel⟩, ⟨sHost [voterA, voterB], 0, by decide +kernel⟩,
    ⟨{ sHost [] with net := [{ msg0 .none with raw := 2 <<< 32 }] }, 0, c0, { msg0 .none with raw := 2 <<< 32 }, by decide +kernel,
      rfl, by decide +kernel⟩,
    ⟨setMod State.reset 0 { modAt State.reset 0 with sp := { (modAt State.reset 0).sp with retried := [true] } }, 0,
      by decide +kernel⟩,
    fun n a b hn => ⟨setMod State.reset 0 { modAt State.reset 0 with sp := { (modAt State.reset 0).sp with
        bootAt := n, prev := if a then [.failed n] else [], boot := if b then [.started n] else [] } }, 0, by revert n a b; decide +kernel⟩,
    State.reset, 0, by decide +kernel⟩
  · obtain ⟨t, h⟩ := ew_ok (show ewIs (engWrite (sHost []) (hostWho (req0 (gva + 0xFFFF) 1)) (gva + 0xFFFF) 1 (ofBytes [3]) 1) = true by
      decide +kernel)
    exact ⟨sHost [], t, req0 (gva + 0xFFFF) 1, [3], by decide +kernel, by decide +kernel, h⟩
  · obtain ⟨t, x, h⟩ := erd_ok (show erdIs (engRead (sHost []) (hostWho (req0 (gva + 0xFFF8) 8)) (gva + 0xFFF8) 8 8) = true by
      decide +kernel)
    exact ⟨sHost [], t, req0 (gva + 0xFFF8) 8, x, by decide +kernel, by decide +kernel, h⟩
  · obtain ⟨t, h⟩ := hold_write
    exact ⟨sHostAbsent false, t, req0 gva 1, [3], by decide +kernel, rfl, by decide +kernel, h⟩
  · obtain ⟨t, h⟩ := hold_write
    exact ⟨sHostAbsent true, req0 gva 8, (req0 gva 1, .write [3]), t.pages, rfl, by decide, host_waits h⟩
  · obtain ⟨t, x, h⟩ := res_ok (show resIs (perfAtomic (sHost []) (hostWho (req0 gva 8)) gva 8
      (fun old => if old = (0 : Word).toNat then some (9 : Word).toNat else none) true) = true by decide +kernel)
    exact ⟨sHost [], t, req0 gva 8, 0, 9, x, by decide +kernel, by decide +kernel, by decide +kernel, h⟩
  · obtain ⟨t, x, h⟩ := res_ok (show resIs (perfAtomic (sHost []) (hostWho (req0 gva 8)) gva 8
      (fun old => some ((old + (1 : Word).toNat) % 2 ^ 64)) true) = true by decide +kernel)
    exact ⟨sHost [], t, req0 gva 8, 1, x, by decide +kernel, by decide +kernel, by decide +kernel, h⟩

/-! ### The general statements -/

/-- The line of code at 0, with the issue of its core on the agenda. -/
def sStep : State := { sJump with agenda := [.issue c0] }

/-- A failure that a slot holds. -/
def sHeld : State :=
  { setSlot sMem w0 { xMem with held := [⟨.access, gva, 4, 16, .none⟩] } with agenda := [.issue c0] }

theorem witness_StepRunsDecodedInstruction :
    (∃ (s : State) (i : Instr), s.agenda = [.ev i]) ∧
    (∃ (s : State) (c : CoreRef), s.agenda = [.issue c] ∧ pickSlot { passTime s with agenda := [] } c = none) ∧
    (∃ (s : State) (c : CoreRef) (w : SlotRef),
      let s1 := { passTime s with agenda := [] }
      s.agenda = [.issue c] ∧ pickSlot s1 c = some w ∧ (slotAt (atFetch s1 w) w).held ≠ [] ∧
      (slotAt (atFetch s1 w) w).trap.inh = false) ∧
    (∃ (s : State) (c : CoreRef) (w : SlotRef) (i : Instr),
      let s1 := { passTime s with agenda := [] }
      let s2 := atFetch s1 w
      s.agenda = [.issue c] ∧ pickSlot s1 c = some w ∧ (slotAt s2 w).held = [] ∧ fetchAt s2 w (slotAt s2 w).pc = .ok i) ∧
    ∃ (s : State) (c : CoreRef) (w : SlotRef) (e : Cause) (v : Word),
      let s1 := { passTime s with agenda := [] }
      let s2 := atFetch s1 w
      s.agenda = [.issue c] ∧ pickSlot s1 c = some w ∧ (slotAt s2 w).held = [] ∧ fetchAt s2 w (slotAt s2 w).pc = .error (e, v) := by
  have ok : ∀ r : Except (Cause × Word) Instr, (match r with | .ok _ => true | _ => false) = true → ∃ i, r = .ok i := by
    rintro (e | i) <;> simp
  have er : ∀ r : Except (Cause × Word) Instr, (match r with | .ok _ => true | _ => false) = false → ∃ e v, r = .error (e, v) := by
    rintro (⟨e, v⟩ | i) <;> simp
  refine ⟨⟨{ sMem with agenda := [.ev (.throttleRelease 0 0)] }, _, rfl⟩,
    ⟨{ State.reset with agenda := [.issue c0] }, c0, rfl, by decide +kernel⟩,
    ⟨sHeld, c0, w0, rfl, by decide +kernel, by decide +kernel, by decide +kernel⟩, ?_, ?_⟩
  · obtain ⟨i, h⟩ := ok (let s2 := atFetch { passTime sStep with agenda := [] } w0
      fetchAt s2 w0 (slotAt s2 w0).pc) (by decide +kernel)
    exact ⟨sStep, c0, w0, i, rfl, by decide +kernel, by decide +kernel, h⟩
  · obtain ⟨e, v, h⟩ := er (let s2 := atFetch { passTime { sMem with agenda := [.issue c0] } with agenda := [] } w0
      fetchAt s2 w0 (slotAt s2 w0).pc) (by decide +kernel)
    exact ⟨{ sMem with agenda := [.issue c0] }, c0, w0, e, v, rfl, by decide +kernel, by decide +kernel, h⟩

theorem witness_GuardAndPendingChecks :
    (∃ (s : State) (i : Instr) (w : CellWord), encode i = some w ∧ canIssue (curSlot s) = true ∧
      guardHolds (curSlot s) (guardOf w) = false) ∧
    (∃ (s : State) (g : Guard) (f : RForm), canIssue (curSlot s) = true ∧ guardHolds (curSlot s) g = true ∧
      ∃ u ∈ usesR f, usePend (curSlot s) u = true) ∧
    (∃ (s : State) (g : Guard) (f : VForm), canIssue (curSlot s) = true ∧ guardHolds (curSlot s) g = true ∧
      ∃ u ∈ usesV1 f, usePend (curSlot s) u = true) ∧
    (∃ (s : State) (g : Guard) (f : MForm), canIssue (curSlot s) = true ∧ guardHolds (curSlot s) g = true ∧
      (∀ u ∈ usesM f, usePend (curSlot s) u = false) ∧ deferredAt f s = true ∧ vDeferred f .contiguous s = true ∧
      (curSlot s).outs.length = 32) ∧
    ∃ (s : State) (g : Guard) (f : RForm), canIssue (curSlot s) = true ∧ guardHolds (curSlot s) g = true ∧
      (∀ u ∈ usesR f, usePend (curSlot s) u = false) ∧ (curSlot s).outs.length = 32 :=
  ⟨⟨sMem, .nop ⟨false, 1, false⟩ rz, _, rfl, by decide +kernel, by decide +kernel⟩,
    ⟨with0 { xReg with pendS := 1#64 <<< 6 }, g0, fReg .s32, by decide +kernel, by decide +kernel, .s 6, by decide +kernel,
      by decide +kernel⟩,
    ⟨with0 { xReg with pendV := 1 <<< 4 }, g0, fVec .s8, by decide +kernel, by decide +kernel, .v 4, by decide +kernel⟩,
    ⟨with0 { xMem with outs := List.replicate 32 (out0 none) }, g0, { mz with ty := .s64, a := 7, d := 2 }, by decide +kernel⟩,
    with0 { xReg with outs := List.replicate 32 (out0 none) }, g0, fReg .s32, by decide +kernel, by decide +kernel,
      by decide +kernel, by decide +kernel⟩

/-- A slot in a launch with a save area that is there, with one comparator. -/
def sHit (x : Slot) (c : Watch) : State := mapWith (inLaunch x { coreIn with watch := [(3, c)] } launch0) (leafBits 16 0)

/-- The slot has an armed result injection and checks residues. -/
def xArm : Slot := { xReg with csr := { SlotCsr.reset with rchk := true }, trap := { TrapRegs.reset with einj := ⟨1, true, 0, 0, 0, 0⟩ } }

/-- Comparators on `s5`, on the 8 bytes at LOCAL 0x2000 and on the first entry of the mill's first tile. -/
def wOn (ty : BitVec 2) (act : Bool) (sel : BitVec 3) : Watch :=
  ⟨ty, act, false, sel, 5, 7, if ty = 1 then 0x2000 else 0⟩

/-- 511 hit records wait in the save area, if `b`. -/
def sHits (b : Bool) : State :=
  let s := sHit xReg (wOn 3 false 0)
  { s with mem := memWrite s.mem (gat 0) 8 (if b then 511 else 0) }

/-- What the clauses about comparators ask of the machine. -/
def Watches (s : State) (n : Nat) (c : Watch) : Prop :=
  (coreOf s s.cur).watch = [(n, c)] ∧ (coreOf s s.cur).launch = some l0 ∧ launchAt s l0 = some launch0 ∧
    regionOf launch0.save.toNat = some 2 ∧ hitPage s s.cur = none

theorem watches_of (x : Slot) (c : Watch) (h : hitPage (sHit x c) (sHit x c).cur = none := by decide +kernel) :
    Watches (sHit x c) 3 c := by
  refine ⟨?_, ?_, ?_, by decide, h⟩ <;>
    simp [coreOf, coreRefOf, coreAt, coreIn, launchAt, sHit, mapWith, inLaunch, setLaunch, setMod, setCore, c0, with0, setSlot, State.reset]

theorem witness_InjectionsAndWatchpoints :
    (∃ (s : State) (g : Guard) (f : RForm) (v : VForm), (curSlot s).csr.rchk = true ∧ (curSlot s).trap.einj.arm = true ∧
      (curSlot s).trap.einj.kind = 1 ∧ (curSlot s).flip = none ∧ IsReady s g (usesR f) false ∧ f.ty = .f32 ∧
      IsReady s g [.s f.a, .s f.b, .ds f.d, .dp f.c] false ∧ IsReady s g (usesV2 v) false ∧ IsReady s g (usesV3 v) false ∧
      (∃ j, j < 512 / tyBits v.ty ∧ (vMask (curSlot s) v).getLsbD j = true) ∧
      (∃ j, j < 512 / 32 ∧ (vMask (curSlot s) v).getLsbD j = true) ∧ tyIsInt v.ty = true ∧
      ∀ i, i < 64 → (vMask (curSlot s) v).getLsbD (i / 4) = true → elemOf 8 (vGet (curSlot s) v.b) i ∈ [0, 1, 0xFF]) ∧
    (∀ b : Bool, ∃ (s : State) (w : SlotRef) (l : LaunchRef) (y : Launch) (c : Watch), launchOf s w = some l ∧ launchAt s l = some y ∧
      c.act = false ∧ debugGroup s l = [l] ∧ y.phase ≠ .ended ∧
      let s0 := setCoreOf s w { coreOf s w with watch := tput (coreOf s w).watch 3 { c with hit := true } }
      let s1 := if c.act then s0 else requestHalt s0 l
      let hd := devRead s1 (deviceOf s w) y.save
      (511 ≤ hd - min (devRead s1 (deviceOf s w) (y.save + 16)) hd ↔ b = true)) ∧
    (∀ act eq : Bool, ∃ (s : State) (g : Guard) (f : RForm) (n : Nat) (c : Watch), Watches s n c ∧ MayRun s g (usesR f) false ∧
      NoFlip (curSlot s) ∧ c.ty = 3 ∧ c.sel.extractLsb' 0 2 = 0 ∧ c.sel.getLsbD 2 = eq ∧ c.act = act ∧ c.idx = f.d ∧ f.d ≠ 0) ∧
    (∀ act : Bool, ∃ (s : State) (g : Guard) (f : MForm) (n : Nat) (c : Watch), Watches s n c ∧ c.ty = 1 ∧ ldaOut (curSlot s) = false ∧
      (let ea := eaOf (curSlot s) f
       let b := tyBytes f.ty
       ea.toNat ≤ c.val.toNat + c.len.toNat ∧ c.val.toNat < ea.toNat + b ∧ c.act = act ∧ c.sel.getLsbD 0 = true ∧
       c.sel.getLsbD 1 = true ∧ ea.toNat < 2 ^ 20 ∧ ea.toNat % b = 0 ∧ localFree s s.cur [⟨ea, b, 0, none⟩] = true ∧
       localGood s ea b ∧ checkEaPlain (coreOf s s.cur).ident.asid ea b = none ∧ BufferRoom s ∧
       confine s.cur (curSlot s) [(ea, b)] = none) ∧
      MayRun s g (.ds f.d :: usesM f) false ∧ MayRun s g (.s f.c :: usesM f) false) ∧
    ∃ (s : State) (g : Guard) (f : EForm) (n : Nat) (c : Watch), Watches s n c ∧ c.ty = 2 ∧ c.act = true ∧ c.sel.getLsbD 0 = true ∧
      MayRun s g (usesE f 4) true ∧
      let b := eBlock (curSlot s) f 4
      let at_ := fun hi lo => c.val.toNat / 2 ^ lo % 2 ^ (hi + 1 - lo)
      epaBadEngine s.cur (curSlot s).supv 1 false (eEpa (curSlot s) f) = false ∧ hdrNotify b = 0 ∧ chkAcc f.ty b = none ∧
      confine s.cur (curSlot s) (cmdWrites .accrd f.ty f.sub.toNat 0 b) = none ∧
      bf b 2 42 32 ≤ 128 * at_ 3 0 + at_ 17 11 ∧ 128 * at_ 3 0 + at_ 10 4 ≤ bf b 2 42 32 + bf b 2 53 43 ∧
      bf b 3 6 0 ≤ at_ 31 25 ∧ at_ 24 18 ≤ bf b 3 6 0 + bf b 3 14 8 := by
  refine ⟨⟨with0 { xArm with vreg := [] }, g0, fReg .f32, fVec .s32, by decide +kernel, by decide +kernel, by decide +kernel, by decide +kernel,
      ready_of _ _, rfl, ready_of _ _, ready_of _ _, ready_of _ _, ⟨0, by decide +kernel⟩, ⟨0, by decide +kernel⟩, rfl, by decide +kernel⟩,
    fun b => ?_,
    fun act eq => ⟨sHit xReg (wOn 3 act (if eq then 4 else 0)), g0, fReg .s32, 3, wOn 3 act (if eq then 4 else 0), ?_⟩,
    fun act => ⟨sHit xMem (wOn 1 act 3), g0, { mz with ty := .s64, a := 6, d := 2, c := 3 }, 3, wOn 1 act 3, ?_⟩,
    sHit (xCmd epaMill [0, 0x2000, 0, 0] true) (wOn 2 true 1), g0, eCmd .s64, 3, wOn 2 true 1, ?_⟩
  · exact ⟨sHits b, w0, l0, launch0, wOn 3 false 0, by revert b; decide +kernel⟩
  · refine ⟨watches_of _ _ (by revert act eq; decide +kernel), ?_, noFlip_of (by revert act eq; decide +kernel) (by revert act eq; decide +kernel), ?_⟩
    · unfold MayRun; revert act eq; decide +kernel
    · revert act eq; decide +kernel
  · refine ⟨watches_of _ _ (by revert act; decide +kernel), rfl, ?_⟩
    unfold MayRun localGood BufferRoom; revert act; decide +kernel
  · refine ⟨watches_of _ _, ?_⟩
    unfold MayRun; decide +kernel

theorem witness_DecodeAndEncodeAgree :
    (∃ (i : Instr) (w : CellWord), encode i = some w ∧ i.wf = true) ∧ ∃ (i : Instr) (w : CellWord), decode w = some i :=
  ⟨⟨.nop g0 rz, _, rfl, by decide⟩, .nop g0 rz, 0x380100000000000000000000#96, by decide +kernel⟩

theorem witness_ResetValues : ∃ w : SlotRef, w.k = 3 := ⟨⟨31, 15, 383, 3⟩, rfl⟩

theorem witness_MemoryLaws :
    (∃ (m : Memory) (a n b j : Nat), m.wf = true ∧ m ≠ [] ∧ b + j = a ∧ n = 8) ∧
    ∃ m1 m2 : Memory, m1.wf = true ∧ m2.wf = true ∧ ∀ a, memGet m1 a = memGet m2 a :=
  ⟨⟨memWrite [] 8 8 1, 8, 8, 0, 8, by decide +kernel, by decide +kernel, rfl, rfl⟩, [], [], by decide, by decide, fun _ => rfl⟩

theorem witness_StepKeepsMemory : ∃ s t : State, MemOk s ∧ step s = .next t :=
  ⟨{ sMem with agenda := [.ev (.mflgposClear c0)] }, _, by unfold MemOk; decide +kernel, rfl⟩

end Sys2Proof.Tests
end

section
/-!
PROOFS. Memory as bytes (R1): what a number of bytes reads after a write, and that canonical memories which read alike are equal.
-/

namespace Sys2Proof.Machine

/-- The canonical form of a memory that lists a byte first. -/
theorem memWfFrom_cons {lo i : Nat} {b : Byte} {r : Memory} :
    memWfFrom lo ((i, b) :: r) = true ↔ lo ≤ i ∧ b ≠ unlisted ∧ memWfFrom (i + 1) r = true := by
  simp [memWfFrom, and_assoc]

/-! ### Several bytes -/

/-- The bytes that a write of `n` bytes from `a` up writes. -/
theorem memGet_write_at {m : Memory} (a n x i : Nat) (h : m.wf = true) (hi : i < n) :
    memGet (memWrite m a n x) (a + i) = BitVec.ofNat 8 (x / 256 ^ i) := by
  induction n generalizing m a x i with
  | zero => omega
  | succ n ih =>
    have hp := memPut_wf a (BitVec.ofNat 8 x) h
    cases i with
    | zero => rw [memWrite, memGet_write_other _ _ _ _ hp (by omega), memGet_put _ _ _ h]; simp
    | succ i =>
      have he : x / 256 / 256 ^ i = x / 256 ^ (i + 1) := by rw [Nat.div_div_eq_div_mul, Nat.pow_succ']
      rw [memWrite, ← he, ← ih (a + 1) (x / 256) i hp (by omega), show a + (i + 1) = a + 1 + i by omega]

/-- A read sees nothing but its bytes. -/
theorem memRead_congr {m m' : Memory} (a n : Nat) (h : ∀ i, i < n → memGet m (a + i) = memGet m' (a + i)) :
    memRead m a n = memRead m' a n := by
  induction n generalizing a with
  | zero => rfl
  | succ n ih =>
    have h0 : memGet m a = memGet m' a := h 0 (by omega)
    have hr : memRead m (a + 1) n = memRead m' (a + 1) n := ih (a + 1) fun i hi => by
      rw [show a + 1 + i = a + (i + 1) by omega]
      exact h (i + 1) (by omega)
    rw [memRead, memRead, h0, hr]

/-- A number whose `n` low bytes a memory holds from `a` up is what it reads there. -/
theorem memRead_of_bytes {m : Memory} (a n x : Nat)
    (h : ∀ i, i < n → memGet m (a + i) = BitVec.ofNat 8 (x / 256 ^ i)) : memRead m a n = x % 256 ^ n := by
  induction n generalizing a x with
  | zero => rw [memRead, Nat.pow_zero, Nat.mod_one]
  | succ n ih =>
    have h0 : memGet m a = BitVec.ofNat 8 x := by simpa using h 0 (by omega)
    have hr : memRead m (a + 1) n = x / 256 % 256 ^ n := ih (a + 1) (x / 256) fun i hi => by
      rw [show a + 1 + i = a + (i + 1) by omega, h (i + 1) (by omega), Nat.div_div_eq_div_mul, ← Nat.pow_succ']
    rw [memRead, h0, hr, Nat.pow_succ']
    exact Nat.mod_mul.symm

/-- A write is read back: its low `n` bytes. -/
theorem memRead_write_same {m : Memory} (a n x : Nat) (h : m.wf = true) :
    memRead (memWrite m a n x) a n = x % 256 ^ n :=
  memRead_of_bytes a n x fun i hi => memGet_write_at a n x i h hi

/-- The lowest address holds the least significant byte (R1). -/
theorem memRead_write_byte {m : Memory} (a n x i : Nat) (h : m.wf = true) (hi : i < n) :
    memRead (memWrite m a n x) (a + i) 1 = x / 256 ^ i % 256 :=
  memRead_of_bytes (a + i) 1 (x / 256 ^ i) fun j hj => by
    obtain rfl : j = 0 := by omega
    simpa using memGet_write_at a n x i h hi

/-- A write leaves every other byte. -/
theorem memRead_write_other {m : Memory} (a n x b j : Nat) (h : m.wf = true) (hb : b + j ≤ a ∨ a + n ≤ b) :
    memRead (memWrite m a n x) b j = memRead m b j :=
  memRead_congr b j fun i hi => memGet_write_other a n x (b + i) h (by omega)

/-! ### Canonical memories that read alike -/

/-- The byte that a memory lists first, in another canonical memory that reads alike: no address below it is listed there. -/
theorem first_le_of_read_alike {i j : Nat} {b c : Byte} {r r' : Memory} (hb : b ≠ unlisted) (hr' : memWfFrom (j + 1) r' = true)
    (h : ∀ a, memGet ((i, b) :: r) a = memGet ((j, c) :: r') a) : j ≤ i := by
  by_contra hlt
  have hi := h i
  rw [memGet, if_pos rfl, memGet, if_neg (by omega), memGet_below hr' (by omega)] at hi
  exact hb hi

theorem memory_ext_from {lo lo' : Nat} {m m' : Memory} (hm : memWfFrom lo m = true) (hm' : memWfFrom lo' m' = true)
    (h : ∀ a, memGet m a = memGet m' a) : m = m' := by
  induction m generalizing lo lo' m' with
  | nil =>
    cases m' with
    | nil => rfl
    | cons q r' =>
      obtain ⟨-, hb, -⟩ := memWfFrom_cons.1 hm'
      have hq := h q.1
      rw [memGet, memGet, if_pos rfl] at hq
      exact absurd hq.symm hb
  | cons p r ih =>
    obtain ⟨i, b⟩ := p
    obtain ⟨-, hb, hr⟩ := memWfFrom_cons.1 hm
    cases m' with
    | nil =>
      have hi := h i
      rw [memGet, memGet, if_pos rfl] at hi
      exact absurd hi hb
    | cons q r' =>
      obtain ⟨j, c⟩ := q
      obtain ⟨-, hc, hr'⟩ := memWfFrom_cons.1 hm'
      obtain rfl : i = j :=
        Nat.le_antisymm (first_le_of_read_alike hc hr fun a => (h a).symm) (first_le_of_read_alike hb hr' h)
      obtain rfl : b = c := by
        have hi := h i
        rwa [memGet, if_pos rfl, memGet, if_pos rfl] at hi
      have hrr : r = r' := ih hr hr' fun a => by
        by_cases ha : i = a
        · rw [memGet_below hr (by omega), memGet_below hr' (by omega)]
        · have k := h a
          rwa [memGet, if_neg ha, memGet, if_neg ha] at k
      rw [hrr]

theorem memory_ext {m m' : Memory} (hm : m.wf = true) (hm' : m'.wf = true) (h : ∀ a, memGet m a = memGet m' a) : m = m' :=
  memory_ext_from hm hm' h

end Sys2Proof.Machine

namespace Sys2Proof

open Sys2Proof.Machine

/-- Settles O59: the bytes read after a write give the first clauses; canonical memories that read alike agree from their first
listed byte on. -/
theorem memoryLaws : Obligations.MemoryLaws :=
  ⟨fun _ a n v hm => ⟨memWrite_wf a n v hm, memRead_write_same a n v hm, fun i hi => memRead_write_byte a n v i hm hi,
    fun b j h => memRead_write_other a n v b j hm h⟩, fun _ _ => memory_ext⟩

end Sys2Proof
end

section
/-!
PROOFS. The canonical form of memory as an invariant (R1): what it means for each kind of answer that the model's operations give, and
the ways states are put together.
-/

namespace Sys2Proof.Machine

/-! ### Answers

Operations of the machine answer with a state, or with one of several outcomes that carry one. For each kind of answer, `MemOk` says
that every state it carries has canonical memory; the lemma of an outcome reads that state off again. -/

/-- Every state that an access answers with has canonical memory. -/
def Res.MemOk {α : Type} : Res α → Prop
  | .ok s _ => Sys2Proof.MemOk s
  | _ => True

theorem Res.MemOk.ok {α : Type} {r : Res α} {s : State} {x : α} (hr : r.MemOk) (e : r = .ok s x) :
    Sys2Proof.MemOk s := by subst e; exact hr

/-- Every state that a rollback's copy answers with has canonical memory. -/
def Back.MemOk : Back → Prop
  | .done s => Sys2Proof.MemOk s
  | .bad s _ => Sys2Proof.MemOk s
  | _ => True

theorem Back.MemOk.done {r : Back} {s : State} (hr : r.MemOk) (e : r = .done s) :
    Sys2Proof.MemOk s := by subst e; exact hr

theorem Back.MemOk.bad {r : Back} {s : State} {a} (hr : r.MemOk) (e : r = .bad s a) :
    Sys2Proof.MemOk s := by subst e; exact hr

/-- Every state that a read of words answers with has canonical memory. -/
def Got.MemOk : Got → Prop
  | .ok s _ => Sys2Proof.MemOk s
  | _ => True

theorem Got.MemOk.ok {r : Got} {s : State} {ws} (hr : r.MemOk) (e : r = .ok s ws) :
    Sys2Proof.MemOk s := by subst e; exact hr

/-- Every state that a copy answers with has canonical memory. -/
def CopyRes.MemOk : CopyRes → Prop
  | .ok s => Sys2Proof.MemOk s
  | .fail s _ _ _ => Sys2Proof.MemOk s
  | .absent s _ _ => Sys2Proof.MemOk s
  | .wait s _ => Sys2Proof.MemOk s

theorem CopyRes.MemOk.ok {r : CopyRes} {s : State} (hr : r.MemOk) (e : r = .ok s) :
    Sys2Proof.MemOk s := by subst e; exact hr

theorem CopyRes.MemOk.fail {r : CopyRes} {s : State} {left c a} (hr : r.MemOk) (e : r = .fail s left c a) :
    Sys2Proof.MemOk s := by subst e; exact hr

theorem CopyRes.MemOk.absent {r : CopyRes} {s : State} {left p} (hr : r.MemOk) (e : r = .absent s left p) :
    Sys2Proof.MemOk s := by subst e; exact hr

theorem CopyRes.MemOk.wait {r : CopyRes} {s : State} {left} (hr : r.MemOk) (e : r = .wait s left) :
    Sys2Proof.MemOk s := by subst e; exact hr

/-- Every state that an access made again answers with has canonical memory. -/
def Redo.MemOk : Redo → Prop
  | .ok s => Sys2Proof.MemOk s
  | .fail s _ _ => Sys2Proof.MemOk s
  | .wait s => Sys2Proof.MemOk s

theorem Redo.MemOk.ok {r : Redo} {s : State} (hr : r.MemOk) (e : r = .ok s) :
    Sys2Proof.MemOk s := by subst e; exact hr

theorem Redo.MemOk.fail {r : Redo} {s : State} {c a} (hr : r.MemOk) (e : r = .fail s c a) :
    Sys2Proof.MemOk s := by subst e; exact hr

theorem Redo.MemOk.wait {r : Redo} {s : State} (hr : r.MemOk) (e : r = .wait s) :
    Sys2Proof.MemOk s := by subst e; exact hr

/-- Every state that an exchange entry answers with has canonical memory. -/
def ExchRes.MemOk : ExchRes → Prop
  | .ok s => Sys2Proof.MemOk s
  | _ => True

theorem ExchRes.MemOk.ok {r : ExchRes} {s : State} (hr : r.MemOk) (e : r = .ok s) :
    Sys2Proof.MemOk s := by subst e; exact hr

/-- Every state that a restore answers with has canonical memory. -/
def Restored.MemOk : Restored → Prop
  | .done s _ => Sys2Proof.MemOk s
  | .fail s _ _ _ => Sys2Proof.MemOk s
  | _ => True

theorem Restored.MemOk.done {r : Restored} {s : State} {n} (hr : r.MemOk) (e : r = .done s n) :
    Sys2Proof.MemOk s := by subst e; exact hr

theorem Restored.MemOk.fail {r : Restored} {s : State} {n c va} (hr : r.MemOk) (e : r = .fail s n c va) :
    Sys2Proof.MemOk s := by subst e; exact hr

/-- Every state that an engine's read answers with has canonical memory. -/
def ERd.MemOk : ERd → Prop
  | .ok s _ _ => Sys2Proof.MemOk s
  | .fail s _ _ => Sys2Proof.MemOk s
  | .hold s => Sys2Proof.MemOk s

theorem ERd.MemOk.ok {r : ERd} {s : State} {x bad} (hr : r.MemOk) (e : r = .ok s x bad) :
    Sys2Proof.MemOk s := by subst e; exact hr

theorem ERd.MemOk.fail {r : ERd} {s : State} {c va} (hr : r.MemOk) (e : r = .fail s c va) :
    Sys2Proof.MemOk s := by subst e; exact hr

theorem ERd.MemOk.hold {r : ERd} {s : State} (hr : r.MemOk) (e : r = .hold s) :
    Sys2Proof.MemOk s := by subst e; exact hr

/-- Every state that an engine's reads answer with has canonical memory. -/
def ERds.MemOk : ERds → Prop
  | .ok s _ => Sys2Proof.MemOk s
  | .fail s _ _ _ => Sys2Proof.MemOk s
  | .hold s => Sys2Proof.MemOk s

theorem ERds.MemOk.ok {r : ERds} {s : State} {xs} (hr : r.MemOk) (e : r = .ok s xs) :
    Sys2Proof.MemOk s := by subst e; exact hr

theorem ERds.MemOk.fail {r : ERds} {s : State} {i c va} (hr : r.MemOk) (e : r = .fail s i c va) :
    Sys2Proof.MemOk s := by subst e; exact hr

theorem ERds.MemOk.hold {r : ERds} {s : State} (hr : r.MemOk) (e : r = .hold s) :
    Sys2Proof.MemOk s := by subst e; exact hr

/-- Every state that an engine's write answers with has canonical memory. -/
def EWr.MemOk : EWr → Prop
  | .ok s => Sys2Proof.MemOk s
  | .fail s _ _ => Sys2Proof.MemOk s
  | .hold s => Sys2Proof.MemOk s

theorem EWr.MemOk.ok {r : EWr} {s : State} (hr : r.MemOk) (e : r = .ok s) :
    Sys2Proof.MemOk s := by subst e; exact hr

theorem EWr.MemOk.fail {r : EWr} {s : State} {c va} (hr : r.MemOk) (e : r = .fail s c va) :
    Sys2Proof.MemOk s := by subst e; exact hr

theorem EWr.MemOk.hold {r : EWr} {s : State} (hr : r.MemOk) (e : r = .hold s) :
    Sys2Proof.MemOk s := by subst e; exact hr

/-- Every state that an engine's writes answer with has canonical memory. -/
def EWrs.MemOk : EWrs → Prop
  | .ok s => Sys2Proof.MemOk s
  | .fail s _ _ _ => Sys2Proof.MemOk s
  | .hold s => Sys2Proof.MemOk s

theorem EWrs.MemOk.ok {r : EWrs} {s : State} (hr : r.MemOk) (e : r = .ok s) :
    Sys2Proof.MemOk s := by subst e; exact hr

theorem EWrs.MemOk.fail {r : EWrs} {s : State} {i c va} (hr : r.MemOk) (e : r = .fail s i c va) :
    Sys2Proof.MemOk s := by subst e; exact hr

theorem EWrs.MemOk.hold {r : EWrs} {s : State} (hr : r.MemOk) (e : r = .hold s) :
    Sys2Proof.MemOk s := by subst e; exact hr

/-- Every state that reading group records answers with has canonical memory. -/
def RecRd.MemOk : RecRd → Prop
  | .ok s _ => Sys2Proof.MemOk s
  | .bad s _ => Sys2Proof.MemOk s
  | .fail s _ _ => Sys2Proof.MemOk s
  | .hold s => Sys2Proof.MemOk s

theorem RecRd.MemOk.ok {r : RecRd} {s : State} {rs} (hr : r.MemOk) (e : r = .ok s rs) :
    Sys2Proof.MemOk s := by subst e; exact hr

theorem RecRd.MemOk.bad {r : RecRd} {s : State} {va} (hr : r.MemOk) (e : r = .bad s va) :
    Sys2Proof.MemOk s := by subst e; exact hr

theorem RecRd.MemOk.fail {r : RecRd} {s : State} {c va} (hr : r.MemOk) (e : r = .fail s c va) :
    Sys2Proof.MemOk s := by subst e; exact hr

theorem RecRd.MemOk.hold {r : RecRd} {s : State} (hr : r.MemOk) (e : r = .hold s) :
    Sys2Proof.MemOk s := by subst e; exact hr

/-- Every state that reading a stream row answers with has canonical memory. -/
def RowRd.MemOk : RowRd → Prop
  | .ok s _ _ => Sys2Proof.MemOk s
  | .stop s _ _ _ => Sys2Proof.MemOk s
  | .hold s => Sys2Proof.MemOk s

theorem RowRd.MemOk.ok {r : RowRd} {s : State} {acts bad} (hr : r.MemOk) (e : r = .ok s acts bad) :
    Sys2Proof.MemOk s := by subst e; exact hr

theorem RowRd.MemOk.stop {r : RowRd} {s : State} {code va again} (hr : r.MemOk) (e : r = .stop s code va again) :
    Sys2Proof.MemOk s := by subst e; exact hr

theorem RowRd.MemOk.hold {r : RowRd} {s : State} (hr : r.MemOk) (e : r = .hold s) :
    Sys2Proof.MemOk s := by subst e; exact hr

/-- Every state that moving a page answers with has canonical memory. -/
def Moving.MemOk : Moving → Prop
  | .moved s => Sys2Proof.MemOk s
  | _ => True

theorem Moving.MemOk.moved {r : Moving} {s : State} (hr : r.MemOk) (e : r = .moved s) :
    Sys2Proof.MemOk s := by subst e; exact hr

/-- Every state that a byte position of ECODE answers with has canonical memory. -/
def EcRes.MemOk : EcRes → Prop
  | .ok s => Sys2Proof.MemOk s
  | .fail s _ _ => Sys2Proof.MemOk s
  | .hold s => Sys2Proof.MemOk s

theorem EcRes.MemOk.ok {r : EcRes} {s : State} (hr : r.MemOk) (e : r = .ok s) :
    Sys2Proof.MemOk s := by subst e; exact hr

theorem EcRes.MemOk.fail {r : EcRes} {s : State} {code va} (hr : r.MemOk) (e : r = .fail s code va) :
    Sys2Proof.MemOk s := by subst e; exact hr

theorem EcRes.MemOk.hold {r : EcRes} {s : State} (hr : r.MemOk) (e : r = .hold s) :
    Sys2Proof.MemOk s := by subst e; exact hr

/-- Every state that MIGR answers with has canonical memory. -/
def MigrRes.MemOk : MigrRes → Prop
  | .going s _ => Sys2Proof.MemOk s
  | .fail s _ _ _ => Sys2Proof.MemOk s
  | _ => True

theorem MigrRes.MemOk.going {r : MigrRes} {s : State} {n} (hr : r.MemOk) (e : r = .going s n) :
    Sys2Proof.MemOk s := by subst e; exact hr

theorem MigrRes.MemOk.fail {r : MigrRes} {s : State} {n c p} (hr : r.MemOk) (e : r = .fail s n c p) :
    Sys2Proof.MemOk s := by subst e; exact hr

/-- Every state that a host request answers with has canonical memory. -/
def HostRes.MemOk : HostRes → Prop
  | .over s => Sys2Proof.MemOk s
  | .wait s => Sys2Proof.MemOk s

theorem HostRes.MemOk.over {r : HostRes} {s : State} (hr : r.MemOk) (e : r = .over s) :
    Sys2Proof.MemOk s := by subst e; exact hr

theorem HostRes.MemOk.wait {r : HostRes} {s : State} (hr : r.MemOk) (e : r = .wait s) :
    Sys2Proof.MemOk s := by subst e; exact hr

/-- Every state that an instruction's meaning answers with has canonical memory. -/
def Eff.MemOk : Eff → Prop
  | .done s => Sys2Proof.MemOk s
  | .goto s _ => Sys2Proof.MemOk s
  | .stay s => Sys2Proof.MemOk s
  | .park s _ => Sys2Proof.MemOk s
  | .hold s _ => Sys2Proof.MemOk s
  | .faultIn s _ _ _ => Sys2Proof.MemOk s
  | .stall s => Sys2Proof.MemOk s
  | _ => True

/-- A next state has canonical memory. -/
def NextOk : Out_ → Prop
  | .next s => MemOk s
  | _ => True

/-- What a plan runs, or has done, or rests in, has canonical memory. -/
def Plan.MemOk : Plan → Prop
  | .run _ s => Sys2Proof.MemOk s
  | .did o => NextOk o
  | .rest s => Sys2Proof.MemOk s

/-! ### Putting states together -/

theorem some_memOk {s : State} (h : MemOk s) : ∀ t ∈ some s, MemOk t := by
  rintro _ ⟨⟩
  exact h

theorem bind_memOk {o : Option State} {f : State → Option State} (ho : ∀ t ∈ o, MemOk t)
    (hf : ∀ t, MemOk t → ∀ u ∈ f t, MemOk u) : ∀ u ∈ o.bind f, MemOk u := by
  intro u hu
  obtain ⟨t, ht, hu⟩ := Option.bind_eq_some_iff.1 hu
  exact hf t (ho t ht) u hu

theorem map_memOk {α : Type} {o : Option α} {f : α → State} (hf : ∀ a, MemOk (f a)) : ∀ u ∈ o.map f, MemOk u := by
  intro u hu
  obtain ⟨a, -, rfl⟩ := Option.map_eq_some_iff.1 hu
  exact hf a

theorem getD_memOk {o : Option State} {s : State} (ho : ∀ t ∈ o, MemOk t) (h : MemOk s) : MemOk (o.getD s) := by
  cases o with
  | none => exact h
  | some t => exact ho t rfl

theorem fst_memOk {α : Type} {r : State × α} {t : State} {x : α} (e : r = (t, x)) (h : MemOk r.1) : MemOk t := by
  subst e
  exact h

/-- What holds at the start of a fold and is kept by each of its steps holds at its end. -/
theorem foldl_inv {α β : Type} {P : β → Prop} {f : β → α → β} {b : β} {l : List α} (hf : ∀ b a, P b → P (f b a)) (h : P b) :
    P (l.foldl f b) := by
  induction l generalizing b with
  | nil => exact h
  | cons a l ih => exact ih (hf b a h)

/-- A fold keeps the canonical form when each of its steps does. -/
theorem foldl_memOk {α : Type} {f : State → α → State} {s : State} {l : List α}
    (hf : ∀ t a, MemOk t → MemOk (f t a)) (h : MemOk s) : MemOk (l.foldl f s) :=
  foldl_inv hf h

/-- A fold that carries a state and something more. -/
theorem foldl_fst_memOk {α β : Type} {f : State × β → α → State × β} {r : State × β} {l : List α}
    (hf : ∀ t a, MemOk t.1 → MemOk (f t a).1) (h : MemOk r.1) : MemOk (l.foldl f r).1 :=
  foldl_inv (P := fun q : State × β => MemOk q.1) hf h

theorem foldl_snd_memOk {α β : Type} {f : β × State → α → β × State} {r : β × State} {l : List α}
    (hf : ∀ t a, MemOk t.2 → MemOk (f t a).2) (h : MemOk r.2) : MemOk (l.foldl f r).2 :=
  foldl_inv (P := fun q : β × State => MemOk q.2) hf h

end Sys2Proof.Machine
end

section
/-!
PROOFS. Every operation of the model keeps the canonical form of memory (R1, R26): one lemma per function, in the order of the model.
-/

namespace Sys2Proof.Machine

/-! ### Parts of the state -/

theorem setSlot_memOk {s : State} {w : SlotRef} {x : Slot} (h : MemOk s) : MemOk (setSlot s w x) := h

theorem setCoreOf_memOk {s : State} {w : SlotRef} {x : Core} (h : MemOk s) : MemOk (setCoreOf s w x) := h

theorem setCore_memOk {s : State} {c : CoreRef} {x : Core} (h : MemOk s) : MemOk (setCore s c x) := h

theorem setHam_memOk {s : State} {hm : HamRef} {x : Ham} (h : MemOk s) : MemOk (setHam s hm x) := h

theorem setMod_memOk {s : State} {m : Nat} {x : Mod} (h : MemOk s) : MemOk (setMod s m x) := h

theorem setLaunch_memOk {s : State} {l : LaunchRef} {x : Launch} (h : MemOk s) : MemOk (setLaunch s l x) := h

theorem setLine_memOk {s : State} {l : LineRef} {x : Line} (h : MemOk s) : MemOk (setLine s l x) := h

theorem setPage_memOk {s : State} {p : PageRef} {x : Page} (h : MemOk s) : MemOk (setPage s p x) := h

theorem freshId_memOk {s : State} (h : MemOk s) : MemOk (freshId s).2 := h

/-! ### Byte memory -/

theorem readFlat_memOk {s : State} {a n : Nat} (h : MemOk s) : MemOk (readFlat s a n).2 := by
  unfold readFlat
  dsimp only
  split <;> exact h

theorem writeFlat_memOk {s : State} {a n x : Nat} (h : MemOk s) : MemOk (writeFlat s a n x) := memWrite_wf _ _ _ h

theorem setPoison_memOk {s : State} {a : Nat} (h : MemOk s) : MemOk (setPoison s a) := h

theorem clearPoison_memOk {s : State} {a : Nat} (h : MemOk s) : MemOk (clearPoison s a) := h

/-! ### One access -/

theorem setLeafBits_memOk {s : State} {a bits : Nat} (h : MemOk s) : MemOk (setLeafBits s a bits) := memWrite_wf _ _ _ h

theorem touchPage_memOk {s : State} {p : PageRef} {at_ : Nat} (h : MemOk s) : MemOk (touchPage s p at_) := by
  unfold touchPage
  dsimp only
  split
  · exact setPage_memOk h
  · exact setPage_memOk (setLeafBits_memOk h)

theorem missTouch_memOk {s : State} {p : PageRef} {at_ : Nat} (h : MemOk s) : MemOk (missTouch s p at_) := by
  unfold missTouch
  split
  · exact touchPage_memOk h
  · exact h

theorem translate_memOk {s : State} {w : Who} {va : Word} {l : LineRef} {at_ own : Nat} (h : MemOk s) :
    MemOk (translate s w va l at_ own) := by
  unfold translate
  dsimp only
  split
  · split
    · exact missTouch_memOk (missTouch_memOk h)
    · exact missTouch_memOk h
  · exact missTouch_memOk h

theorem failSeen_memOk {s : State} {w : Who} {va : Word} (h : MemOk s) : MemOk (failSeen s w va) := by
  unfold failSeen
  dsimp only
  split
  · split
    · split
      · exact missTouch_memOk h
      split
      · split
        · exact missTouch_memOk (missTouch_memOk h)
        · exact missTouch_memOk h
      · exact missTouch_memOk h
    · exact h
  · exact h

theorem settleD_memOk {s : State} {ln : Line} {at_ : Nat} (h : MemOk s) : MemOk (settleD s ln at_) := by
  unfold settleD
  dsimp only
  split
  · refine setLeafBits_memOk ?_
    split
    · exact setLeafBits_memOk h
    · exact h
  split
  · exact setLeafBits_memOk h
  · exact h

theorem withdraw_memOk {s : State} {w : SlotRef} (h : MemOk s) : MemOk (withdraw s w) := by
  unfold withdraw
  dsimp only
  split
  · exact setSlot_memOk h
  · exact setCoreOf_memOk (setSlot_memOk h)

theorem stopWait_memOk {s : State} {w : SlotRef} {a : Word} (h : MemOk s) : MemOk (stopWait s w a) := by
  unfold stopWait
  dsimp only
  refine setSlot_memOk ?_
  split
  · exact h
  · exact withdraw_memOk h

theorem recheckWait_memOk {s : State} {w : SlotRef} {woken : Bool} (h : MemOk s) : MemOk (recheckWait s w woken) := by
  unfold recheckWait
  dsimp only
  split
  · split
    · exact setSlot_memOk h
    split
    · exact stopWait_memOk h
    split
    · exact setSlot_memOk (readFlat_memOk h)
    · exact readFlat_memOk h
  · exact h

theorem writeLocal_memOk {s : State} {c : CoreRef} {flat n x : Nat} (h : MemOk s) : MemOk (writeLocal s c flat n x) := by
  unfold writeLocal
  refine foldl_memOk (fun _ _ ht => ?_) (writeFlat_memOk h)
  split
  · exact recheckWait_memOk ht
  · exact ht

theorem logStore_memOk {s : State} {w : Who} {tag va : Nat} (h : MemOk s) : ∀ t ∈ logStore s w tag va, MemOk t := by
  unfold logStore
  dsimp only
  split
  · exact some_memOk h
  split
  · exact nofun
  · exact some_memOk (setCore_memOk (writeLocal_memOk h))

theorem askHome_memOk {s : State} {w : Who} {va : Word} {l : LineRef} {at_ own : Nat} {uncached write : Bool} (h : MemOk s) :
    MemOk (askHome s w va l at_ own uncached write) := by
  unfold askHome
  split
  · exact h
  · exact translate_memOk h

theorem noteTail_memOk {s : State} {l : LineRef} {va : Word} {n : Nat} (h : MemOk s) : MemOk (noteTail s l va n) := by
  unfold noteTail
  dsimp only
  split
  · exact setMod_memOk h
  · exact h

theorem noteWrite_memOk {s : State} {w : Who} {va : Word} {l : LineRef} {at_ own : Nat} {uncached : Bool} (h : MemOk s) :
    ∀ t ∈ noteWrite s w va l at_ own uncached, MemOk t := by
  unfold noteWrite
  dsimp only
  split
  · exact some_memOk (setLeafBits_memOk (setLeafBits_memOk (setLine_memOk (settleD_memOk (askHome_memOk h)))))
  split
  · refine logStore_memOk ?_
    split
    · split
      · exact setLeafBits_memOk (setLeafBits_memOk (setLine_memOk (settleD_memOk (askHome_memOk h))))
      · exact setLeafBits_memOk (setLine_memOk (settleD_memOk (askHome_memOk h)))
    · exact setLine_memOk (askHome_memOk h)
  refine some_memOk ?_
  split
  · split
    · exact setLeafBits_memOk (setLeafBits_memOk (setLine_memOk (settleD_memOk (askHome_memOk h))))
    · exact setLeafBits_memOk (setLine_memOk (settleD_memOk (askHome_memOk h)))
  · exact setLine_memOk (askHome_memOk h)

theorem noteHost_memOk {s : State} {w : Who} {va : Word} {own : Nat} (h : MemOk s) : ∀ t ∈ noteHost s w va own, MemOk t := by
  unfold noteHost
  dsimp only
  split
  · split
    · exact some_memOk (setLeafBits_memOk (touchPage_memOk h))
    refine logStore_memOk ?_
    split
    · exact setLeafBits_memOk (touchPage_memOk h)
    · exact touchPage_memOk h
  · exact some_memOk h

theorem readAt_memOk {s : State} {w : Who} {va : Word} {n : Nat} (h : MemOk s) : (readAt s w va n).MemOk := by
  unfold readAt
  dsimp only
  split
  · split
    · trivial
    · exact readFlat_memOk h
  · split
    · trivial
    split
    · trivial
    show MemOk _
    refine readFlat_memOk ?_
    split
    · exact askHome_memOk h
    · exact setLine_memOk (askHome_memOk h)
  · split
    · exact readFlat_memOk (touchPage_memOk h)
    · exact readFlat_memOk h
  · trivial
  · trivial
  · trivial

theorem perfRead_memOk {s : State} {w : Who} {va : Word} {n : Nat} (h : MemOk s) : (perfRead s w va n).MemOk := by
  unfold perfRead
  split
  · trivial
  · exact readAt_memOk h

theorem perfWrite_memOk {s : State} {w : Who} {va : Word} {n x : Nat} (h : MemOk s) : (perfWrite s w va n x).MemOk := by
  unfold perfWrite
  split
  · exact writeLocal_memOk h
  · split
    · trivial
    split
    · trivial
    · exact writeFlat_memOk (noteTail_memOk (noteWrite_memOk h _ ‹_›))
  · split
    · trivial
    · exact writeFlat_memOk (noteHost_memOk h _ ‹_›)
  · trivial
  · trivial
  · trivial

theorem perfAtomic_memOk {s : State} {w : Who} {va : Word} {n : Nat} {f : Nat → Option Nat} {hostOk : Bool} (h : MemOk s) :
    (perfAtomic s w va n f hostOk).MemOk := by
  unfold perfAtomic
  dsimp only
  split
  · trivial
  split
  · split
    · trivial
    split
    · exact readFlat_memOk h
    · exact writeLocal_memOk h
  · split
    · trivial
    split
    · trivial
    split
    · show MemOk _
      refine setLine_memOk ?_
      split
      · exact settleD_memOk (askHome_memOk h)
      · exact askHome_memOk h
    split
    · trivial
    · exact writeFlat_memOk (noteTail_memOk (noteWrite_memOk h _ ‹_›))
  · split
    · trivial
    split
    · show MemOk _
      split
      · exact touchPage_memOk h
      · exact h
    split
    · trivial
    · exact writeFlat_memOk (noteHost_memOk h _ ‹_›)
  · trivial
  · trivial
  · trivial

/-! ### Faults, rollbacks and the issue of an instruction -/

theorem fixLine_memOk {s : State} {c : CoreRef} {a : Nat} (h : MemOk s) : MemOk (fixLine s c a) := by
  unfold fixLine
  exact readFlat_memOk h

theorem fixFetch_memOk {s : State} {w : SlotRef} {pc : Word} (h : MemOk s) : MemOk (fixFetch s w pc) := by
  unfold fixFetch
  split
  · exact h
  · exact fixLine_memOk h

theorem bufferTake_memOk {s : State} {w : SlotRef} {a : Nat} (h : MemOk s) : MemOk (bufferTake s w a) := by
  unfold bufferTake
  dsimp only
  split
  · exact h
  split
  · exact h
  · exact setSlot_memOk (fixLine_memOk h)

theorem killLaunch_memOk {s : State} {l : LaunchRef} {status : Nat} (h : MemOk s) : MemOk (killLaunch s l status) := by
  unfold killLaunch
  split
  · exact h
  split
  · exact h
  · exact setLaunch_memOk h

theorem killOf_memOk {s : State} {w : SlotRef} {status : Nat} (h : MemOk s) : MemOk (killOf s w status) := by
  unfold killOf
  split
  · exact h
  · exact killLaunch_memOk h

theorem deviceSend_memOk {s : State} {w : SlotRef} {epa : BitVec 32} {raw : VWord} {why : MsgFor} (h : MemOk s) :
    MemOk (deviceSend s w epa raw why) := h

theorem deliverFault_memOk {s : State} {w : SlotRef} {st : Stop} (h : MemOk s) : MemOk (deliverFault s w st) := by
  unfold deliverFault
  dsimp only
  exact deviceSend_memOk (setSlot_memOk h)

theorem localTrap_memOk {s : State} {w : SlotRef} {st : Stop} (h : MemOk s) : MemOk (localTrap s w st) := by
  unfold localTrap
  dsimp only
  split
  · exact killOf_memOk (setSlot_memOk h)
  split
  · exact setSlot_memOk (fixFetch_memOk h)
  · exact killOf_memOk (setSlot_memOk (setSlot_memOk (fixFetch_memOk h)))

theorem takeFault_memOk {s : State} {w : SlotRef} {st : Stop} (h : MemOk s) : MemOk (takeFault s w st) := by
  unfold takeFault
  split
  · exact localTrap_memOk h
  · exact deliverFault_memOk h

theorem askPage_memOk {s : State} {p : PageRef} (h : MemOk s) : MemOk (askPage s p) := by
  unfold askPage
  dsimp only
  exact setPage_memOk h

theorem askFor_memOk {s : State} {w : SlotRef} {p : PageRef} (h : MemOk s) : MemOk (askFor s w p) := by
  unfold askFor
  dsimp only
  split
  · split
    · exact h
    · exact setSlot_memOk (askPage_memOk (freshId_memOk h))
  split
  · exact h
  · exact setSlot_memOk (askPage_memOk (freshId_memOk h))

theorem savedWords_memOk {s : State} {w : SlotRef} {a n : Nat} (h : MemOk s) : MemOk (savedWords s w a n).2 := by
  unfold savedWords
  dsimp only
  exact foldl_snd_memOk (fun _ _ ht => readFlat_memOk ht) h

theorem failRestore_memOk {s : State} {w : SlotRef} {c : Cause} {a v : Word} (h : MemOk s) : MemOk (failRestore s w c a v) := by
  unfold failRestore
  dsimp only
  split
  · exact h
  · exact setSlot_memOk (freshId_memOk h)

theorem restoreWords_memOk {s : State} {w : SlotRef} {start : Word} {backup n i : Nat} (h : MemOk s) :
    (restoreWords s w start backup n i).MemOk := by
  induction n generalizing s i with
  | zero => exact h
  | succ k ih =>
    unfold restoreWords
    dsimp only
    split
    · exact h
    split
    · trivial
    split
    · exact ih ((perfWrite_memOk (readFlat_memOk h)).ok ‹_›)
    · exact ih (failSeen_memOk (failRestore_memOk (readFlat_memOk h)))
    · split
      · exact ih (failRestore_memOk (readFlat_memOk h))
      · trivial
    · trivial

theorem restoreRanges_memOk {s : State} {w : SlotRef} {ps : List Preserved} (h : MemOk s) : (restoreRanges s w ps).MemOk := by
  induction ps generalizing s with
  | nil => exact h
  | cons a l ih =>
    unfold restoreRanges
    split
    · exact ih h
    split
    · exact ih ((restoreWords_memOk h).done ‹_›)
    · exact restoreWords_memOk h

theorem restoreFrames_memOk {s : State} {w : SlotRef} {fs : List Frame} {i n : Nat} {r : Back} {g : Nat} (h : MemOk s)
    (e : restoreFrames s w fs i n = (r, g)) : r.MemOk := by
  induction n generalizing s i with
  | zero =>
    cases e
    exact h
  | succ k ih =>
    unfold restoreFrames at e
    have hr : (restoreRanges s w (fs.getD i ⟨0, false, 0, 0, 0, [], [], [], 0, none⟩).preserved).MemOk := restoreRanges_memOk h
    split at e
    · exact ih (hr.done ‹_›) e
    · cases e
      exact hr.bad ‹_›
    · cases e
      exact hr

theorem rollFrom_memOk {s : State} {w : SlotRef} {st : Stop} {i d n : Nat} (h : MemOk s) : ∀ t ∈ rollFrom s w st i d n, MemOk t := by
  induction n generalizing s st i d with
  | zero =>
    unfold rollFrom
    exact some_memOk h
  | succ k ih =>
    unfold rollFrom
    dsimp only
    split
    · exact some_memOk (takeFault_memOk h)
    split
    · exact nofun
    · exact some_memOk (askFor_memOk h)
    · next e =>
      have hb : MemOk _ := (restoreFrames_memOk h e).bad rfl
      split
      · exact ih hb
      · exact some_memOk (takeFault_memOk hb)
    next e =>
      have hd : MemOk _ := (restoreFrames_memOk h e).done rfl
      split
      · exact some_memOk hd
      split
      · split
        · exact ih (setSlot_memOk (savedWords_memOk hd))
        · exact some_memOk (takeFault_memOk (setSlot_memOk (savedWords_memOk hd)))
      · exact some_memOk (setSlot_memOk (fixFetch_memOk (savedWords_memOk hd)))

theorem settleStop_memOk {s : State} {w : SlotRef} (h : MemOk s) : MemOk (settleStop s w) := by
  unfold settleStop
  dsimp only
  split
  · exact h
  split
  · split
    · exact getD_memOk (rollFrom_memOk h) h
    · exact h
  split
  · exact takeFault_memOk h
  · exact h

theorem raiseStop_memOk {s : State} {w : SlotRef} {st : Stop} (h : MemOk s) : MemOk (raiseStop s w st) := by
  unfold raiseStop
  dsimp only
  refine settleStop_memOk ?_
  refine setSlot_memOk ?_
  split
  · exact withdraw_memOk h
  · exact h

theorem raisePrecise_memOk {s : State} {w : SlotRef} {c : Cause} {v : Word} (h : MemOk s) : MemOk (raisePrecise s w c v) := by
  unfold raisePrecise
  dsimp only
  exact raiseStop_memOk h

theorem raiseDeferred_memOk {s : State} {w : SlotRef} {c : Cause} {v pc : Word} {acc : FailAcc} (h : MemOk s) :
    MemOk (raiseDeferred s w c v pc acc) := by
  unfold raiseDeferred
  dsimp only
  split
  · split
    · exact setSlot_memOk h
    · exact raiseStop_memOk h
  split
  · exact h
  · exact setSlot_memOk h

theorem reportHeld_memOk {s : State} {w : SlotRef} (h : MemOk s) : MemOk (reportHeld s w) := by
  unfold reportHeld
  dsimp only
  split
  · exact h
  · exact raiseStop_memOk (setSlot_memOk h)

theorem freeSlot_memOk {s : State} {w : SlotRef} (h : MemOk s) : MemOk (freeSlot s w) := by
  unfold freeSlot
  dsimp only
  exact setSlot_memOk (setCoreOf_memOk h)

theorem devPut_memOk {s : State} {d : Who} {a : Word} {n x : Nat} (h : MemOk s) : MemOk (devPut s d a n x) := by
  unfold devPut
  dsimp only
  split
  · exact h
  split
  · exact (perfWrite_memOk h).ok ‹_›
  · exact h
  · exact askPage_memOk h
  · exact h

theorem devWrite_memOk {s : State} {d : Who} {a : Word} {n x : Nat} (h : MemOk s) : MemOk (devWrite s d a n x) := by
  unfold devWrite
  dsimp only
  split
  · exact devPut_memOk (devPut_memOk h)
  · exact devPut_memOk h

theorem devRetry_memOk {s : State} {i : Nat} (h : MemOk s) : MemOk (devRetry s i) := by
  unfold devRetry
  split
  · exact h
  split
  · exact h
  split
  · next e =>
    have hs : MemOk _ := (perfWrite_memOk h).ok e
    exact hs
  · exact h
  · exact askPage_memOk h
  · exact h

theorem requestHalt_memOk {s : State} {l : LaunchRef} (h : MemOk s) : MemOk (requestHalt s l) := by
  unfold requestHalt
  refine foldl_memOk (fun _ _ ht => ?_) h
  split
  · split
    · exact ht
    · exact setLaunch_memOk ht
  · exact ht

theorem recordHit_memOk {s : State} {w : SlotRef} {n : Nat} {c : Watch} {val data : Word} (h : MemOk s) :
    MemOk (recordHit s w n c val data) := by
  unfold recordHit
  dsimp only
  split
  · exact setCoreOf_memOk h
  split
  · exact setCoreOf_memOk h
  split
  · split
    · exact deviceSend_memOk (devWrite_memOk (foldl_memOk (fun _ _ ht => devWrite_memOk ht) (setCoreOf_memOk h)))
    · exact devWrite_memOk (setCoreOf_memOk h)
  split
  · exact deviceSend_memOk (devWrite_memOk (foldl_memOk (fun _ _ ht => devWrite_memOk ht) (requestHalt_memOk (setCoreOf_memOk h))))
  · exact devWrite_memOk (requestHalt_memOk (setCoreOf_memOk h))

theorem watchAll_memOk {s : State} {w : SlotRef} {uses : List Use} {accs : List Acc} {after : Option Slot} (h : MemOk s) :
    MemOk (watchAll s w uses accs after).1 := by
  unfold watchAll
  dsimp only
  refine foldl_fst_memOk (fun _ _ ht => ?_) h
  split
  · exact ht
  · exact recordHit_memOk ht

theorem askHit_memOk {s : State} {w : SlotRef} (h : MemOk s) : MemOk (askHit s w) := by
  unfold askHit
  split
  · exact askPage_memOk h
  · exact h

theorem afterIssue_memOk {s : State} {w : SlotRef} {g : Guard} {pc : Word} (h : MemOk s) : MemOk (afterIssue s w g pc) := by
  unfold afterIssue
  dsimp only
  exact setSlot_memOk h

theorem applyEff_memOk {s : State} {w : SlotRef} {g : Guard} {pc : Word} {r : Eff} (h : MemOk s) (hr : r.MemOk) :
    MemOk (applyEff s w g pc r) := by
  unfold applyEff
  dsimp only
  split
  · exact afterIssue_memOk hr
  · exact afterIssue_memOk (setSlot_memOk (fixFetch_memOk hr))
  · exact hr
  · exact setSlot_memOk hr
  · exact setSlot_memOk hr
  · exact raisePrecise_memOk h
  · exact raisePrecise_memOk hr
  · exact setSlot_memOk hr

theorem issue_memOk {g : Guard} {uses : List Use} {deferred : Bool} {body : State → Eff} {s : State} {accs : State → List Acc}
    (hf : ∀ (a : State), MemOk a → (body a).MemOk) (h : MemOk s) :
    NextOk (issue g uses deferred body s accs) := by
  unfold issue
  dsimp only
  split
  · exact h
  split
  · exact afterIssue_memOk h
  split
  · exact raisePrecise_memOk h
  split
  · exact setSlot_memOk h
  split
  · exact applyEff_memOk h (hf _ h)
  split
  · exact setSlot_memOk (askHit_memOk h)
  split
  · exact raisePrecise_memOk (watchAll_memOk h)
  · exact applyEff_memOk (watchAll_memOk h) (hf _ (watchAll_memOk h))

theorem withCur_memOk {s : State} {f : Slot → Slot} (h : MemOk s) : MemOk (withCur s f) := by
  unfold withCur
  exact setSlot_memOk h

theorem addOut_memOk {s : State} {o : Out} (h : MemOk s) : MemOk (addOut s o) := by
  unfold addOut
  dsimp only
  exact withCur_memOk h

/-! ### Flag computations -/

theorem finishFl_memOk {s : State} {fl : Flags} {wr : Slot → Slot} (h : MemOk s) : (finishFl s fl wr).MemOk := by
  unfold finishFl
  split <;> exact withCur_memOk h

theorem finishChecked_memOk {s : State} {cls : Word} {d : RegIx} {n r : Nat} {fin : State → Nat → Eff} (h : MemOk s)
    (hf : ∀ (a : State) (a_1 : Nat), MemOk a → (fin a a_1).MemOk) :
    (finishChecked s cls d n r fin).MemOk := by
  unfold finishChecked
  dsimp only
  split
  · exact withCur_memOk h
  split
  · exact hf _ _ (withCur_memOk h)
  · exact hf _ _ h

/-! ### The order in which accesses are performed -/

theorem sendAccess_memOk {s : State} {kind : OutKind} {us : List AccUnit} {d : Dst} (h : MemOk s) :
    MemOk (sendAccess s kind us d) := by
  unfold sendAccess
  dsimp only
  exact addOut_memOk (freshId_memOk h)

theorem bufferStore_memOk {s : State} {near : Bool} {grp : Nat} {us : List AccUnit} {rel : Option Nat} {flush : Option Bool}
    (h : MemOk s) :
    ∀ t ∈ bufferStore s near grp us rel flush, MemOk t := by
  unfold bufferStore
  dsimp only
  split
  · exact some_memOk h
  split
  · split
    · exact nofun
    · exact some_memOk (setCoreOf_memOk (freshId_memOk h))
  split
  · exact nofun
  · exact some_memOk (setCoreOf_memOk (freshId_memOk h))

theorem bufferBoth_memOk {s : State} {us : List AccUnit} {rel : Option Nat} {flush : Option Bool} (h : MemOk s) :
    ∀ t ∈ bufferBoth s us rel flush, MemOk t := by
  unfold bufferBoth
  dsimp only
  exact bind_memOk (bufferStore_memOk h) (fun _ ht => bufferStore_memOk ht)

theorem observe_memOk {s : State} {w : SlotRef} {ids : List Nat} (h : MemOk s) : MemOk (observe s w ids) := by
  unfold observe
  dsimp only
  split
  · exact h
  · exact setSlot_memOk h

theorem localRead_memOk {s : State} {w : SlotRef} {va : Word} {n : Nat} {acq : Bool} {r : Nat × State} (h : MemOk s)
    (e : localRead s w va n acq = some r) : MemOk r.2 := by
  unfold localRead at e
  dsimp only at e
  split at e
  · cases e
  · cases e
    exact observe_memOk (readFlat_memOk h)

theorem putVeil_memOk {s : State} {w : SlotRef} {scope : Nat} {covers : List Nat} {t : Tgt} {va : Word} {n : Nat} (h : MemOk s) :
    MemOk (putVeil s w scope covers t va n) := by
  unfold putVeil
  dsimp only
  split
  · split <;> exact h
  · exact h

theorem recheckSlots_memOk {s : State} {f n : Nat} (h : MemOk s) : MemOk (recheckSlots s f n) := by
  unfold recheckSlots
  dsimp only
  refine foldl_memOk (fun _ _ ht => ?_) h
  split
  · exact recheckWait_memOk ht
  · exact ht

theorem liftVeils_memOk {s : State} (h : MemOk s) : MemOk (liftVeils s) := by
  unfold liftVeils
  dsimp only
  split
  · exact h
  · exact foldl_memOk (fun _ _ ht => recheckSlots_memOk ht) h

theorem orNoRoom_memOk {α : Type} {s : State} {id : Nat} {r : Res α} (hr : r.MemOk) :
    (orNoRoom s id r).MemOk := by
  unfold orNoRoom
  split
  · split
    · split
      · trivial
      · exact hr
    · exact hr
  · exact hr

theorem attemptUnit_memOk {s : State} {w : SlotRef} {o : Out} {u : AccUnit} (h : MemOk s) : (attemptUnit s w o u).MemOk := by
  unfold attemptUnit
  dsimp only
  split
  · split
    · trivial
    split
    · exact observe_memOk ((perfAtomic_memOk h).ok ‹_›)
    · exact perfAtomic_memOk h
  have hr : (if isLdc o then readAt s (whoAs s w o.pkey o.supv) u.va u.n
      else perfRead s (whoAs s w o.pkey o.supv) u.va u.n).MemOk := by
    split
    · exact readAt_memOk h
    · exact perfRead_memOk h
  split
  · exact hr.ok ‹_›
  · trivial
  · exact h
  · exact hr
  · split
    · split
      · trivial
      · exact observe_memOk (readFlat_memOk h)
    split
    · exact observe_memOk h
    · trivial
  · exact observe_memOk (hr.ok ‹_›)
  · exact hr

theorem tryUnit_memOk {s : State} {w : SlotRef} {o : Out} {u : AccUnit} (h : MemOk s) : (tryUnit s w o u).MemOk := by
  unfold tryUnit
  exact orNoRoom_memOk (attemptUnit_memOk h)

theorem putOut_memOk {s : State} {w : SlotRef} {o : Out} (h : MemOk s) : MemOk (putOut s w o) := by
  unfold putOut
  dsimp only
  exact setSlot_memOk h

theorem unstall_memOk {s : State} {c : CoreRef} (h : MemOk s) : MemOk (unstall s c) := by
  unfold unstall
  dsimp only
  refine foldl_memOk (fun _ _ ht => ?_) h
  split
  · exact setSlot_memOk ht
  · exact ht

theorem performUnit_memOk {s : State} {w : SlotRef} {o : Out} {j : Nat} (h : MemOk s) : MemOk (performUnit s w o j) := by
  unfold performUnit
  dsimp only
  split
  · exact h
  split
  · exact h
  split
  · exact unstall_memOk (putOut_memOk ((tryUnit_memOk h).ok ‹_›))
  · exact setSlot_memOk (askPage_memOk h)
  · exact h

theorem tryStore_memOk {s : State} {w : SlotRef} {e : StEnt} {u : AccUnit} (h : MemOk s) : (tryStore s w e u).MemOk := by
  have hveil : ∀ (v : SlotRef) (t : Tgt), MemOk (match e.rel with | some sc => putVeil s v sc e.covers t u.va u.n | none => s) := by
    intro v t
    split
    · exact putVeil_memOk h
    · exact h
  unfold tryStore
  split
  · exact h
  extract_lets v who t q last
  have hw := perfWrite_memOk (w := who) (va := u.va) (n := u.n) (x := BitVec.toNat ‹BitVec 128›) (hveil v t)
  split
  · next e' =>
    have hs : MemOk _ := hw.ok e'
    clear_value last t
    show MemOk _
    split <;> exact hs
  · exact orNoRoom_memOk hw

theorem askGroup_memOk {s : State} {w : SlotRef} {e : StEnt} (h : MemOk s) : MemOk (askGroup s w e) := by
  unfold askGroup
  refine foldl_memOk (fun _ _ ht => ?_) h
  refine foldl_memOk (fun _ _ hu => ?_) ht
  split
  · exact askPage_memOk hu
  · exact hu

theorem lineHome_memOk {s : State} {w : Who} {va : Word} {all : Bool} (h : MemOk s) : ∀ t ∈ lineHome s w va all, MemOk t := by
  unfold lineHome
  dsimp only
  split
  · split
    · exact nofun
    refine some_memOk ?_
    refine setLine_memOk ?_
    split
    · exact settleD_memOk h
    · exact h
  · exact nofun
  · exact some_memOk h

/-! ### Scalar memory instructions -/

theorem loadBody_memOk {check : BitVec 16 → Word → Nat → Option Cause} {f : MForm} {n : Nat} {kind : OutKind} {d : Dst}
    {fin : Nat → VWord} {s : State} (h : MemOk s) :
    (loadBody check f n kind d fin s).MemOk := by
  unfold loadBody
  dsimp only
  split
  · exact h
  split
  · trivial
  split
  · split
    · exact h
    split
    · trivial
    · exact withCur_memOk (localRead_memOk h ‹_›)
  · exact sendAccess_memOk h

theorem storeBody_memOk {check : BitVec 16 → Word → Nat → Option Cause} {f : MForm} {n : Nat} {data : Slot → Nat}
    {rel : Option Nat} {s : State} (h : MemOk s) :
    (storeBody check f n data rel s).MemOk := by
  unfold storeBody
  dsimp only
  split
  · exact h
  split
  · trivial
  split
  · trivial
  split
  · exact h
  · exact bufferBoth_memOk h _ ‹_›

theorem ldcSnap_memOk {s : State} {w : SlotRef} {ea : Word} {n : Nat} (h : MemOk s) : MemOk (ldcSnap s w ea n).2.2 := by
  unfold ldcSnap
  dsimp only
  split
  · split
    · split
      · exact h
      · split <;> exact h
    · split
      · exact h
      · exact setHam_memOk h
  · exact h
  · exact h

theorem ldcBody_memOk {f : MForm} {s : State} (h : MemOk s) : (ldcBody f s).MemOk := by
  unfold ldcBody
  dsimp only
  split
  · exact h
  split
  · trivial
  · exact sendAccess_memOk (ldcSnap_memOk h)
  · trivial

theorem prefBody_memOk {f : MForm} {s : State} (h : MemOk s) : (prefBody f s).MemOk := by
  unfold prefBody
  dsimp only
  split
  · split
    · split
      · exact h
      split
      · exact askHome_memOk h
      · exact setLine_memOk (askHome_memOk h)
    · exact h
  · exact h

theorem flushBody_memOk {f : MForm} {s : State} (h : MemOk s) : (flushBody f s).MemOk := by
  unfold flushBody
  dsimp only
  split
  · exact h
  split
  · trivial
  · split
    · exact h
    split
    · exact h
    · exact bufferBoth_memOk h _ ‹_›
  · exact h

theorem pinBody_memOk {f : MForm} {s : State} (h : MemOk s) : (pinBody f s).MemOk := by
  unfold pinBody
  dsimp only
  split
  · exact h
  split
  · trivial
  · split
    · trivial
    · split
      · exact withCur_memOk h
      · exact withCur_memOk (askFor_memOk h)
    split
    · exact h
    split
    · exact missTouch_memOk h
    split
    · exact withCur_memOk (missTouch_memOk h)
    split
    · exact withCur_memOk (missTouch_memOk h)
    split
    · exact withCur_memOk (missTouch_memOk h)
    · exact withCur_memOk (setCoreOf_memOk (missTouch_memOk h))
  · exact withCur_memOk h

theorem unpinBody_memOk {f : MForm} {s : State} (h : MemOk s) : (unpinBody f s).MemOk := by
  unfold unpinBody
  dsimp only
  split
  · exact h
  split
  · trivial
  · split
    · exact withCur_memOk (setCoreOf_memOk h)
    · exact withCur_memOk h
  · exact withCur_memOk h

/-! ### Atomics -/

theorem atomicBody_memOk {f : MForm} {n : Nat} {kind : Slot → OutKind} {d : Dst} {s : State} (h : MemOk s) :
    (atomicBody f n kind d s).MemOk := by
  unfold atomicBody
  dsimp only
  split
  · exact h
  split
  · trivial
  split
  · trivial
  · exact sendAccess_memOk h

/-! ### Engine and mill instructions -/

theorem sendCmd_memOk {s : State} {op : CmdOp} {t : Ty} {sub : Nat} {g : Option Nat} {d : RegIx} {e : BitVec 32} {b : List Word}
    {num : Nat} (h : MemOk s) :
    MemOk (sendCmd s op t sub g d e b num) := by
  unfold sendCmd
  dsimp only
  exact addOut_memOk (setCoreOf_memOk (freshId_memOk (freshId_memOk h)))

theorem command_memOk {f : EForm} {op : CmdOp} {ty n : Nat} {peer : Bool} {chk : List Word → Option Nat}
    {last : State → List Word → Option (Cause × Word)} {upd : Core → Core} {num m : Nat} {s : State} (h : MemOk s) :
    (command f op ty n peer chk last upd num m s).MemOk := by
  unfold command
  dsimp only
  split
  · trivial
  split
  · trivial
  split
  · trivial
  split
  · trivial
  split
  · trivial
  · exact setCoreOf_memOk (sendCmd_memOk h)

theorem plainCmd_memOk {g : Guard} {f : EForm} {op : CmdOp} {ty n : Nat} {peer : Bool} {chk : List Word → Option Nat} {s : State}
    (h : MemOk s) :
    NextOk (plainCmd g f op ty n peer chk s) := by
  unfold plainCmd
  exact issue_memOk (fun _ ht => command_memOk ht) h

theorem mstatBody_memOk {f : RForm} {s : State} (h : MemOk s) : (mstatBody f s).MemOk := by
  unfold mstatBody
  dsimp only
  exact addOut_memOk (freshId_memOk (freshId_memOk h))

theorem gsetBody_memOk {f : RForm} {s : State} (h : MemOk s) : (gsetBody f s).MemOk := h

theorem cbatchBody_memOk {s : State} (h : MemOk s) : (cbatchBody s).MemOk := by
  unfold cbatchBody
  split
  · exact h
  · exact setCoreOf_memOk h

theorem waitbBody_memOk {f : RForm} {s : State} (h : MemOk s) : (waitbBody f s).MemOk := by
  unfold waitbBody
  dsimp only
  split
  · exact h
  · split <;> exact setCoreOf_memOk h

/-! ### Starting slots, loads while an instruction stalls, barrier arrivals -/

theorem startSlot_memOk {s : State} {w : SlotRef} {x : Slot} (h : MemOk s) : MemOk (startSlot s w x) := by
  unfold startSlot
  dsimp only
  split
  · exact fixFetch_memOk (setSlot_memOk h)
  · exact raiseStop_memOk (fixFetch_memOk (setSlot_memOk h))

theorem loadNow_memOk {s : State} {w : SlotRef} {va : Word} (h : MemOk s) : (loadNow s w va).MemOk := by
  unfold loadNow
  dsimp only
  split
  · trivial
  split
  · trivial
  split
  · split
    · trivial
    split
    · trivial
    · exact localRead_memOk h ‹_›
  split
  · exact observe_memOk ((perfRead_memOk h).ok ‹_›)
  · trivial
  · trivial
  · trivial

theorem loadWords_memOk {s : State} {w : SlotRef} {va : Word} {n : Nat} (h : MemOk s) : (loadWords s w va n).MemOk := by
  induction n generalizing s va with
  | zero => exact h
  | succ k ih =>
    unfold loadWords
    split
    · split
      · exact (ih ((loadNow_memOk h).ok ‹_›)).ok ‹_›
      · exact ih ((loadNow_memOk h).ok ‹_›)
    · exact loadNow_memOk h

theorem countArrival_memOk {s : State} {w : SlotRef} {a : Arrival} (h : MemOk s) : MemOk (countArrival s w a) := by
  unfold countArrival
  dsimp only
  split
  · exact h
  · exact setLaunch_memOk h

theorem settleArrivals_memOk {s : State} {c : CoreRef} (h : MemOk s) : MemOk (settleArrivals s c) := by
  unfold settleArrivals
  dsimp only
  split
  · exact h
  · exact foldl_memOk (fun _ _ ht => countArrival_memOk ht) (setCore_memOk h)

theorem claimEntry_memOk {s : State} {w : SlotRef} (h : MemOk s) : MemOk (claimEntry s w) := by
  unfold claimEntry
  dsimp only
  split
  · split
    · exact h
    · exact putOut_memOk (setCoreOf_memOk h)
  · exact h

/-! ### Parallel and message instructions -/

theorem syncBody_memOk {s : State} (h : MemOk s) : (syncBody s).MemOk := by
  unfold syncBody
  dsimp only
  split
  · trivial
  split
  · trivial
  split
  · exact h
  · exact setCoreOf_memOk h

theorem voteBody_memOk {f : RForm} {s : State} (h : MemOk s) : (voteBody f s).MemOk := by
  unfold voteBody
  dsimp only
  exact setCoreOf_memOk h

theorem setLevel_memOk {s : State} {w : SlotRef} {l : Nat} (h : MemOk s) : MemOk (setLevel s w l) := by
  unfold setLevel
  dsimp only
  split
  · exact setCoreOf_memOk h
  · exact h

theorem domsetBody_memOk {f : RForm} {s : State} (h : MemOk s) : (domsetBody f s).MemOk := by
  unfold domsetBody
  dsimp only
  exact withCur_memOk (setLevel_memOk h)

theorem baraBody_memOk {f : RForm} {s : State} (h : MemOk s) : (baraBody f s).MemOk := by
  unfold baraBody
  dsimp only
  split
  · trivial
  split
  · trivial
  split
  · trivial
  · exact withCur_memOk (settleArrivals_memOk (setCoreOf_memOk h))

theorem barwBody_memOk {f : RForm} {s : State} (h : MemOk s) : (barwBody f s).MemOk := by
  unfold barwBody
  dsimp only
  split
  · trivial
  · split <;> exact h

theorem sendBody_memOk {f : EForm} {s : State} (h : MemOk s) : (sendBody f s).MemOk := by
  unfold sendBody
  dsimp only
  split
  · trivial
  · exact addOut_memOk (freshId_memOk h)

theorem recvBody_memOk {f : RForm} {s : State} (h : MemOk s) : (recvBody f s).MemOk := by
  unfold recvBody
  dsimp only
  exact claimEntry_memOk (addOut_memOk (freshId_memOk h))

theorem waitaBody_memOk {f : RForm} {s : State} (h : MemOk s) : (waitaBody f s).MemOk := by
  unfold waitaBody
  extract_lets w x a v
  split
  · trivial
  split
  · trivial
  split
  · exact h
  split
  · trivial
  next e =>
    have hr : MemOk _ := localRead_memOk h e
    dsimp only
    split
    · exact withCur_memOk hr
    · exact hr

theorem wakeBody_memOk {f : RForm} {s : State} (h : MemOk s) : (wakeBody f s).MemOk := by
  unfold wakeBody
  dsimp only
  split
  · trivial
  · exact h

theorem walkBody_memOk {f : RForm} {s : State} (h : MemOk s) : (walkBody f s).MemOk := by
  unfold walkBody
  dsimp only
  split
  · trivial
  split
  · trivial
  split
  · exact withCur_memOk h
  split
  · exact failSeen_memOk h
  · split
    · exact withCur_memOk h
    · exact withCur_memOk (askFor_memOk h)
  · exact h
  split
  · trivial
  · exact withCur_memOk (setCoreOf_memOk ((loadWords_memOk h).ok ‹_›))

theorem taskaddBody_memOk {f : RForm} {s : State} (h : MemOk s) : (taskaddBody f s).MemOk := by
  unfold taskaddBody
  dsimp only
  split
  · trivial
  split
  · exact withCur_memOk h
  · exact withCur_memOk (setCoreOf_memOk h)

theorem spawnBody_memOk {f : RForm} {s : State} (h : MemOk s) : (spawnBody f s).MemOk := by
  unfold spawnBody
  dsimp only
  split
  · trivial
  split
  · exact withCur_memOk h
  · exact startSlot_memOk (withCur_memOk h)

theorem slotEnd_memOk {s : State} {w : SlotRef} (h : MemOk s) : MemOk (slotEnd s w) := by
  unfold slotEnd
  dsimp only
  split
  · split
    · exact h
    split
    · exact reportHeld_memOk h
    split
    · split
      · exact h
      · exact freeSlot_memOk h
    · exact freeSlot_memOk h
  · exact h

theorem endBody_memOk {tend : Bool} {s : State} (h : MemOk s) : (endBody tend s).MemOk := by
  unfold endBody
  dsimp only
  split
  · trivial
  · exact slotEnd_memOk (withCur_memOk (withdraw_memOk h))

/-! ### CSRs -/

theorem mergeEntry_memOk {s : State} {m e : Nat} (h : MemOk s) : MemOk (mergeEntry s m e) := by
  unfold mergeEntry
  dsimp only
  split
  · exact setLeafBits_memOk h
  · exact setLeafBits_memOk h
  · exact h

theorem mergeLog_memOk {s : State} {c : CoreRef} {n : Nat} (h : MemOk s) : MemOk (mergeLog s c n) := by
  unfold mergeLog
  dsimp only
  exact setCore_memOk (foldl_memOk (fun _ _ ht => mergeEntry_memOk (readFlat_memOk ht)) h)

theorem writeLog_memOk {s : State} {c : CoreRef} {lim : Bool} {v : Word} (h : MemOk s) : MemOk (writeLog s c lim v) := by
  unfold writeLog
  dsimp only
  split
  · split
    · exact h
    · exact setCore_memOk (mergeLog_memOk h)
  split
  · exact h
  · exact setCore_memOk (mergeLog_memOk h)

theorem writeSpill_memOk {s : State} {c : CoreRef} {base : BitVec 41} {size : BitVec 3} {lost : Bool} (h : MemOk s) :
    MemOk (writeSpill s c base size lost) := by
  unfold writeSpill
  dsimp only
  exact setCore_memOk h

theorem flipWord_memOk {s : State} {i : Nat} {bits : BitVec 64} (h : MemOk s) : MemOk (flipWord s i bits) := h

theorem enqueueFlip_memOk {s : State} {w : SlotRef} {e : Einj} (h : MemOk s) : MemOk (enqueueFlip s w e) := by
  unfold enqueueFlip
  dsimp only
  exact freshId_memOk h

theorem writeEinj_memOk {s : State} {w : SlotRef} {v : Word} (h : MemOk s) : MemOk (writeEinj s w v) := by
  unfold writeEinj
  dsimp only
  split
  · exact setSlot_memOk h
  split
  · exact setSlot_memOk (flipWord_memOk h)
  · exact setSlot_memOk (flipWord_memOk h)
  · exact setSlot_memOk (enqueueFlip_memOk h)
  · exact setSlot_memOk h

theorem csrWrite_memOk {s : State} {w : SlotRef} {n : Nat} {v k : Word} (h : MemOk s) : MemOk (csrWrite s w n v k) := by
  unfold csrWrite
  dsimp only
  split
  · exact setSlot_memOk h
  · exact setSlot_memOk h
  · exact setSlot_memOk h
  · exact setSlot_memOk h
  · exact setSlot_memOk h
  · exact setLevel_memOk h
  · exact setSlot_memOk h
  · exact writeLog_memOk h
  · exact writeLog_memOk h
  · exact writeSpill_memOk h
  · exact setHam_memOk h
  · exact setHam_memOk h
  · exact setCoreOf_memOk h
  · split
    · exact setCoreOf_memOk h
    · exact h
  · exact setSlot_memOk h
  · exact setSlot_memOk h
  · exact setSlot_memOk h
  · exact setSlot_memOk h
  · exact setCoreOf_memOk h
  · exact setSlot_memOk h
  · exact writeEinj_memOk h
  split
  · exact setCoreOf_memOk h
  split
  · exact setCoreOf_memOk h
  · exact h

/-! ### System instructions -/

theorem eretBody_memOk {g : Guard} {f : RForm} {s : State} (h : MemOk s) : (eretBody g f s).MemOk := by
  unfold eretBody
  dsimp only
  split
  · trivial
  split
  · trivial
  · exact withCur_memOk h

theorem csrrdBody_memOk {f : RForm} {s : State} (h : MemOk s) : (csrrdBody f s).MemOk := by
  unfold csrrdBody
  dsimp only
  split
  · trivial
  · exact withCur_memOk h

theorem csrBody_memOk {op : CsrOp} {f : RForm} {s : State} (h : MemOk s) : (csrBody op f s).MemOk := by
  unfold csrBody
  dsimp only
  split
  · trivial
  · exact csrWrite_memOk (withCur_memOk h)

theorem clearConst_memOk {s : State} {c : CoreRef} (h : MemOk s) : MemOk (clearConst s c) := by
  unfold clearConst
  dsimp only
  exact setHam_memOk h

theorem ifenceBody_memOk {s : State} (h : MemOk s) : (ifenceBody s).MemOk := by
  unfold ifenceBody
  split
  · exact h
  · exact withCur_memOk (clearConst_memOk h)

theorem dlogBody_memOk {f : RForm} {s : State} (h : MemOk s) : (dlogBody f s).MemOk := by
  unfold dlogBody
  dsimp only
  exact withCur_memOk (mergeLog_memOk h)

theorem resumeBody_memOk {g : Guard} {f : RForm} {s : State} (h : MemOk s) : (resumeBody g f s).MemOk := by
  unfold resumeBody
  dsimp only
  split
  · trivial
  split
  · trivial
  · exact h

/-! ### Containment instructions -/

theorem putLocalWords_memOk {s : State} {c : CoreRef} {a : Nat} {ws : List Word} (h : MemOk s) :
    MemOk (putLocalWords s c a ws) := by
  induction ws generalizing s a with
  | nil => exact h
  | cons a l ih =>
    unfold putLocalWords
    exact ih (writeLocal_memOk h)

theorem openBody_memOk {remote : Bool} {retry : Word → Word} {f : RForm} {s : State} (h : MemOk s) :
    (openBody remote retry f s).MemOk := by
  unfold openBody
  dsimp only
  split
  · trivial
  split
  · exact h
  · exact withCur_memOk (putLocalWords_memOk (freshId_memOk h))

theorem cdpresBody_memOk {f : RForm} {s : State} (h : MemOk s) : (cdpresBody f s).MemOk := by
  unfold cdpresBody
  dsimp only
  split
  · trivial
  split
  · trivial
  split
  · split
    · exact h
    split
    · trivial
    split
    · exact withCur_memOk h
    split
    · exact h
    split
    · exact withCur_memOk (putLocalWords_memOk ((loadWords_memOk h).ok ‹_›))
    · split
      · trivial
      · exact raiseDeferred_memOk (failSeen_memOk h)
    · split
      · exact raiseDeferred_memOk (withCur_memOk h)
      · exact withCur_memOk (askFor_memOk h)
    · exact h
  split
  · exact h
  split
  · trivial
  split
  · exact withCur_memOk h
  split
  · exact h
  split
  · exact withCur_memOk (putLocalWords_memOk ((loadWords_memOk h).ok ‹_›))
  · split
    · trivial
    · exact raiseDeferred_memOk (failSeen_memOk h)
  · split
    · exact raiseDeferred_memOk (withCur_memOk h)
    · exact withCur_memOk (askFor_memOk h)
  · exact h

theorem cdoutBody_memOk {f : RForm} {s : State} (h : MemOk s) : (cdoutBody f s).MemOk := by
  unfold cdoutBody
  dsimp only
  split
  · trivial
  split
  · trivial
  split
  · exact h
  split
  · trivial
  · exact withCur_memOk h

theorem cdcloseBody_memOk {s : State} (h : MemOk s) : (cdcloseBody s).MemOk := by
  unfold cdcloseBody
  dsimp only
  split
  · trivial
  split
  · exact h
  split
  · exact raiseStop_memOk h
  · exact withCur_memOk h

theorem cdfailBody_memOk {s : State} (h : MemOk s) : (cdfailBody s).MemOk := by
  unfold cdfailBody
  dsimp only
  split
  · trivial
  · exact raiseStop_memOk h

theorem rcommitBody_memOk {s : State} (h : MemOk s) : (rcommitBody s).MemOk := by
  unfold rcommitBody
  dsimp only
  split
  · trivial
  split
  · exact h
  · exact withCur_memOk h

/-! ### Copies that the device makes -/

theorem copyBytes_memOk {s : State} {rd wr : Who} {src dst : Word} {n k : Nat} (h : MemOk s) :
    (copyBytes s rd wr src dst n k).MemOk := by
  induction k generalizing s src dst n with
  | zero => exact h
  | succ k ih =>
    unfold copyBytes
    dsimp only
    split
    · exact h
    split
    · exact failSeen_memOk h
    · exact h
    · exact h
    split
    · exact failSeen_memOk ((perfRead_memOk h).ok ‹_›)
    · exact h
    · exact h
    · exact ih ((perfWrite_memOk ((perfRead_memOk h).ok ‹_›)).ok ‹_›)

theorem freeFill_memOk {s : State} {c : CoreRef} {a n : Nat} (h : MemOk s) : MemOk (freeFill s c a n) := by
  unfold freeFill
  exact foldl_memOk (fun _ _ ht => writeLocal_memOk ht) h

theorem clearCovered_memOk {s : State} {w : Who} {all new : List (Nat × Nat)} (h : MemOk s) :
    MemOk (clearCovered s w all new) := by
  unfold clearCovered
  refine foldl_memOk (fun _ _ ht => ?_) h
  split
  · exact clearPoison_memOk ht
  · exact ht

theorem clearWhole_memOk {s : State} {w : Who} {va : Word} {n : Nat} (h : MemOk s) : MemOk (clearWhole s w va n) := by
  unfold clearWhole
  exact clearCovered_memOk h

theorem readRows_memOk {s : State} {w : Who} {rows : List (Word × Nat × Nat)} (h : MemOk s) : (readRows s w rows).MemOk := by
  induction rows generalizing s with
  | nil => exact h
  | cons a l ih =>
    unfold readRows
    split
    · exact ih ((copyBytes_memOk h).ok ‹_›)
    · exact foldl_memOk (fun _ _ ht => freeFill_memOk ht) (freeFill_memOk ((copyBytes_memOk h).fail ‹_›))
    · exact copyBytes_memOk h

theorem writeRows_memOk {s : State} {w : Who} {rows : List (Word × Nat × Nat)} (h : MemOk s) :
    MemOk (writeRows s w rows).s := by
  refine foldl_inv (P := fun r : WroteRows => MemOk r.s) (fun r q hr => ?_) h
  have hc : (copyBytes r.s w w (BitVec.ofNat 64 q.2.1) q.1 q.2.2 q.2.2).MemOk := copyBytes_memOk hr
  split
  · exact hc.ok ‹_›
  · exact hc.fail ‹_›
  · exact hc.absent ‹_›
  · exact hc.wait ‹_›

theorem endWalked_memOk {s : State} {w : SlotRef} (h : MemOk s) : MemOk (endWalked s w) := by
  unfold endWalked
  dsimp only
  refine freeSlot_memOk ?_
  split
  · exact setCoreOf_memOk h
  · exact h

theorem resendStore_memOk {s : State} {w : SlotRef} {e : StEnt} (h : MemOk s) : MemOk (resendStore s w e) := by
  unfold resendStore
  dsimp only
  exact setCoreOf_memOk (freshId_memOk (freshId_memOk h))

theorem resendOut_memOk {s : State} {w : SlotRef} {o : Out} (h : MemOk s) : MemOk (resendOut s w o) := by
  unfold resendOut
  dsimp only
  refine setSlot_memOk ?_
  refine foldl_memOk ?_ ?_
  · intro _ _ ht
    split
    · split
      · exact setPage_memOk ht
      · exact ht
    · exact ht
  · split
    · exact ldcSnap_memOk h
    · exact h

theorem redoOf_memOk {r : CopyRes} (hr : r.MemOk) : (redoOf r).MemOk := by
  unfold redoOf
  split
  · exact hr
  · exact hr
  · exact askPage_memOk hr
  · exact hr

theorem redoAcc_memOk {s : State} {w : SlotRef} {acc : FailAcc} (h : MemOk s) : (redoAcc s w acc).MemOk := by
  unfold redoAcc
  dsimp only
  split
  · exact h
  · exact h
  · exact resendOut_memOk h
  · exact resendStore_memOk h
  · split
    · exact clearWhole_memOk ((redoOf_memOk (copyBytes_memOk h)).ok ‹_›)
    · exact redoOf_memOk (copyBytes_memOk h)
  · split
    · split
      · exact redoOf_memOk (readRows_memOk h)
      · exact h
    · exact h
  split
  · exact setSlot_memOk h
  · exact h

/-! ### Scalar integer instructions -/

theorem writeInt_memOk {f : RForm} {fl : Flags} {s : State} {r : Nat} (h : MemOk s) : (writeInt f fl s r).MemOk := by
  unfold writeInt
  exact withCur_memOk h

theorem arith_memOk {f : RForm} {checked : Bool} {op : ℤ → ℤ → ℤ → ℤ} {s : State} (h : MemOk s) :
    (arith f checked op s).MemOk := by
  unfold arith
  dsimp only
  split
  · exact finishChecked_memOk h (fun _ _ ht => writeInt_memOk ht)
  · exact writeInt_memOk h

theorem deferValue_memOk {s : State} {d : Dst} {v : VWord} (h : MemOk s) : MemOk (deferValue s d v) := by
  unfold deferValue
  dsimp only
  exact addOut_memOk (freshId_memOk h)

theorem arithDeferred_memOk {f : RForm} {op : ℤ → ℤ → ℤ} {s : State} (h : MemOk s) : (arithDeferred f op s).MemOk := by
  unfold arithDeferred
  dsimp only
  exact deferValue_memOk (withCur_memOk h)

theorem bitop_memOk {f : RForm} {op : Slot → Nat → Nat} {s : State} (h : MemOk s) : (bitop f op s).MemOk := by
  unfold bitop
  dsimp only
  exact writeInt_memOk h

theorem writeS_memOk {f : RForm} {op : Slot → Word} {s : State} (h : MemOk s) : (writeS f op s).MemOk := by
  unfold writeS
  exact withCur_memOk h

theorem writeP_memOk {d : RegIx} {op : Slot → Bool} {s : State} (h : MemOk s) : (writeP d op s).MemOk := by
  unfold writeP
  exact withCur_memOk h

theorem addcBody_memOk {f : RForm} {s : State} (h : MemOk s) : (addcBody f s).MemOk := by
  unfold addcBody
  dsimp only
  exact finishChecked_memOk h (fun _ _ ht => withCur_memOk ht)

/-! ### Floating-point instructions -/

theorem writeFp_memOk {f : RForm} {fl : Flags} {s : State} {r : Nat} (h : MemOk s) : (writeFp f fl s r).MemOk := by
  unfold writeFp
  exact finishFl_memOk h

theorem fpArith_memOk {f : RForm} {op : FFmt → RMode → Nat → Nat → Nat → Nat × Flags} {s : State} (h : MemOk s) :
    (fpArith f op s).MemOk := by
  unfold fpArith
  dsimp only
  exact writeFp_memOk h

theorem fpArithChecked_memOk {f : RForm} {op : FFmt → RMode → Nat → Nat → Nat → Nat × Flags} {s : State} (h : MemOk s) :
    (fpArithChecked f op s).MemOk := by
  unfold fpArithChecked
  dsimp only
  split
  · exact finishChecked_memOk h (fun _ _ ht => writeFp_memOk ht)
  · exact writeFp_memOk h

theorem deferFl_memOk {s : State} {fl : Flags} {d : Dst} {v : VWord} (h : MemOk s) : (deferFl s fl d v).MemOk := by
  unfold deferFl
  dsimp only
  split
  · exact withCur_memOk h
  · split <;> exact deferValue_memOk (withCur_memOk h)

theorem fpDeferred_memOk {f : RForm} {op : FFmt → RMode → Nat → Nat → Nat × Flags} {s : State} (h : MemOk s) :
    (fpDeferred f op s).MemOk := by
  unfold fpDeferred
  dsimp only
  exact deferFl_memOk h

theorem fcmpBody_memOk {f : RForm} {s : State} (h : MemOk s) : (fcmpBody f s).MemOk := by
  unfold fcmpBody
  dsimp only
  exact finishFl_memOk h

theorem fcvtBody_memOk {f : RForm} {s : State} (h : MemOk s) : (fcvtBody f s).MemOk := by
  unfold fcvtBody
  dsimp only
  exact writeFp_memOk h

theorem fcvtiBody_memOk {f : RForm} {s : State} (h : MemOk s) : (fcvtiBody f s).MemOk := by
  unfold fcvtiBody
  dsimp only
  exact finishFl_memOk h

theorem icvtfBody_memOk {f : RForm} {s : State} (h : MemOk s) : (icvtfBody f s).MemOk := by
  unfold icvtfBody
  dsimp only
  exact writeFp_memOk h

/-! ### Vector instructions on registers -/

theorem writeV_memOk {f : VForm} {fl : Flags} {s : State} {v : VWord} (h : MemOk s) : (writeV f fl s v).MemOk := by
  unfold writeV
  exact finishFl_memOk h

theorem writeVChecked_memOk {f : VForm} {n : Nat} {mask : BitVec 64} {fl : Flags} {s : State} {v : VWord} (h : MemOk s) :
    (writeVChecked f n mask fl s v).MemOk := by
  unfold writeVChecked
  dsimp only
  split
  · exact writeV_memOk h
  split
  · exact withCur_memOk h
  split
  · split
    · exact writeV_memOk h
    · exact writeV_memOk (withCur_memOk h)
  · exact writeV_memOk h

theorem vecArith_memOk {f : VForm} {checked : Bool} {iop : ℤ → ℤ → ℤ → ℤ} {sat : Bool}
    {fop : FFmt → RMode → Nat → Nat → Nat → Nat × Flags} {s : State} (h : MemOk s) :
    (vecArith f checked iop sat fop s).MemOk := by
  unfold vecArith
  dsimp only
  split
  · exact writeVChecked_memOk h
  · exact writeV_memOk h

theorem vecDeferred_memOk {f : VForm} {iop : ℤ → ℤ → ℤ → ℤ} {fop : FFmt → RMode → Nat → Nat → Nat → Nat × Flags} {s : State}
    (h : MemOk s) :
    (vecDeferred f iop fop s).MemOk := by
  unfold vecDeferred
  dsimp only
  split
  · exact deferValue_memOk h
  · exact deferFl_memOk h

theorem vecBits_memOk {f : VForm} {op : Slot → Nat → Nat} {s : State} (h : MemOk s) : (vecBits f op s).MemOk := by
  unfold vecBits
  exact withCur_memOk h

theorem vcmpBody_memOk {f : VForm} {s : State} (h : MemOk s) : (vcmpBody f s).MemOk := by
  unfold vcmpBody
  dsimp only
  exact finishFl_memOk h

theorem vecAll_memOk {f : VForm} {op : Slot → Nat → Nat} {s : State} (h : MemOk s) : (vecAll f op s).MemOk := by
  unfold vecAll
  exact withCur_memOk h

theorem reduceBody_memOk {f : VForm} {op : Nat → Nat → Nat × Flags} {ident : Nat} {s : State} (h : MemOk s) :
    (reduceBody f op ident s).MemOk := by
  unfold reduceBody
  dsimp only
  exact finishFl_memOk h

theorem vscanBody_memOk {f : VForm} {s : State} (h : MemOk s) : (vscanBody f s).MemOk := by
  unfold vscanBody
  dsimp only
  split
  · exact h
  · exact writeV_memOk h

theorem writeM_memOk {d : RegIx} {op : Slot → BitVec 64} {s : State} (h : MemOk s) : (writeM d op s).MemOk := by
  unfold writeM
  exact withCur_memOk h

theorem mmovBody_memOk {f : VForm} {s : State} (h : MemOk s) : (mmovBody f s).MemOk := by
  unfold mmovBody
  split
  · exact writeM_memOk h
  · exact withCur_memOk h
  · exact writeM_memOk h

/-! ### Vector memory instructions -/

/-- `vLocalUnits` with the read of one unit, and what becomes of the unit read, as parameters. -/
def readUnits (read : State → AccUnit → Option (Nat × State)) (put : AccUnit → Nat → AccUnit) (s : State) (us : List AccUnit) :
    Except Word (List AccUnit × State) :=
  match us with
  | [] => .ok ([], s)
  | u :: r =>
    match read s u with
    | none => .error u.va
    | some (v, t) =>
      match readUnits read put t r with
      | .error a => .error a
      | .ok (us, t') => .ok (put u v :: us, t')

/-- The read is made a variable first: the kernel would otherwise evaluate the read of a symbolic address. -/
theorem vLocalUnits_eq (s : State) (w : SlotRef) (us : List AccUnit) :
    vLocalUnits s w us = readUnits (fun s u => localRead s w u.va u.n false)
      (fun u v => { u with val := some (BitVec.ofNat 128 v) }) s us := by
  delta vLocalUnits vLocalUnits._f readUnits readUnits._f
  obtain ⟨read, hread⟩ : ∃ read, read = localRead := ⟨_, rfl⟩
  rw [← hread] <;> rfl

theorem readUnits_memOk {read : State → AccUnit → Option (Nat × State)} {put : AccUnit → Nat → AccUnit} {s t : State}
    {us vs : List AccUnit}
    (hread : ∀ s u v t, MemOk s → read s u = some (v, t) → MemOk t) (h : MemOk s) (e : readUnits read put s us = .ok (vs, t)) :
    MemOk t := by
  induction us generalizing s vs t with
  | nil =>
    cases e
    exact h
  | cons u us ih =>
    unfold readUnits at e
    split at e
    · cases e
    · next hl =>
      split at e
      · cases e
      · next hr =>
        cases e
        exact ih (hread _ _ _ _ h hl) hr

theorem vLocalUnits_memOk {s : State} {w : SlotRef} {us : List AccUnit} {r : List AccUnit × State} (h : MemOk s)
    (e : vLocalUnits s w us = .ok r) : MemOk r.2 := by
  rw [vLocalUnits_eq] at e
  exact readUnits_memOk (fun _ _ _ _ hs hl => localRead_memOk hs hl) h e

theorem vLoadBody_memOk {f : MForm} {k : VAddr} {s : State} (h : MemOk s) : (vLoadBody f k s).MemOk := by
  unfold vLoadBody
  dsimp only
  split
  · exact h
  split
  · trivial
  split
  · split
    · exact h
    split
    · trivial
    · exact withCur_memOk (vLocalUnits_memOk h ‹_›)
  · exact sendAccess_memOk h

theorem vStoreBody_memOk {f : MForm} {k : VAddr} {s : State} (h : MemOk s) : (vStoreBody f k s).MemOk := by
  unfold vStoreBody
  dsimp only
  split
  · exact h
  split
  · trivial
  split
  · trivial
  split
  · exact h
  · exact bufferBoth_memOk h _ ‹_›

/-! ### Events of a slot -/

theorem returnOut_memOk {s : State} {w : SlotRef} {o : Out} {v : VWord} (h : MemOk s) : MemOk (returnOut s w o v) := by
  unfold returnOut
  dsimp only
  exact slotEnd_memOk (unstall_memOk (setSlot_memOk h))

theorem performHere_memOk {s : State} {w : SlotRef} {i j : Nat} (h : MemOk s) : MemOk (performHere s w i j) := by
  unfold performHere
  split
  · exact h
  split
  · split
    · exact h
    · exact performUnit_memOk h
  · exact h

theorem execDeferredResultReturn_memOk {w : SlotRef} {i : Nat} {unit : Option Nat} {s : State} (h : MemOk s) :
    NextOk (execDeferredResultReturn w i unit s) := by
  unfold execDeferredResultReturn
  dsimp only
  split
  · exact settleArrivals_memOk (performHere_memOk h)
  split
  · exact foldl_memOk (fun _ _ ht => performHere_memOk ht) h
  split
  · exact settleArrivals_memOk (returnOut_memOk (foldl_memOk (fun _ _ ht => performHere_memOk ht) h))
  · exact foldl_memOk (fun _ _ ht => performHere_memOk ht) h

theorem failStore_memOk {s : State} {c : CoreRef} {e : StEnt} {k : Cause} {va : Word} (h : MemOk s) :
    MemOk (failStore s c e k va) := by
  unfold failStore
  dsimp only
  split
  · exact raiseDeferred_memOk h
  · exact setCore_memOk h

theorem dropStore_memOk {s : State} {c : CoreRef} {e : StEnt} (h : MemOk s) : MemOk (dropStore s c e) := by
  unfold dropStore
  dsimp only
  exact liftVeils_memOk (setCore_memOk h)

theorem reportStore_memOk {s : State} {c : CoreRef} {e : StEnt} {k : Cause} {va : Word} (h : MemOk s) :
    MemOk (reportStore s c e k va) := by
  unfold reportStore
  dsimp only
  exact unstall_memOk (settleArrivals_memOk (failStore_memOk (dropStore_memOk (failSeen_memOk h))))

theorem failOrStay_memOk {s : State} {c : CoreRef} {e : StEnt} {us : List AccUnit} (h : MemOk s) :
    MemOk (failOrStay s c e us) := by
  unfold failOrStay
  split
  · exact reportStore_memOk h
  · exact h

theorem execDeferredFailure_memOk {a : AccRef} {s : State} (h : MemOk s) : NextOk (execDeferredFailure a s) := by
  unfold execDeferredFailure
  dsimp only
  split
  · split
    · exact h
    split
    · exact h
    · exact unstall_memOk (settleArrivals_memOk (raiseDeferred_memOk (setSlot_memOk (failSeen_memOk h))))
  · split
    · exact failOrStay_memOk h
    · exact h
  split
  · exact h
  · exact failOrStay_memOk h

theorem execFaultDelivery_memOk {w : SlotRef} {s : State} (h : MemOk s) : NextOk (execFaultDelivery w s) := by
  unfold execFaultDelivery
  split
  · show MemOk _
    split
    · exact settleStop_memOk h
    · exact h
  · exact h

theorem execLocalTrapEntry_memOk {w : SlotRef} {s : State} (h : MemOk s) : NextOk (execLocalTrapEntry w s) := by
  unfold execLocalTrapEntry
  split
  · show MemOk _
    split
    · exact settleStop_memOk h
    · exact h
  · exact h

theorem execCdRollback_memOk {w : SlotRef} {s : State} (h : MemOk s) : NextOk (execCdRollback w s) := by
  unfold execCdRollback
  split
  · show MemOk _
    split
    · exact settleStop_memOk h
    · exact h
  · exact h

theorem goOn_memOk {s : State} {w : SlotRef} (h : MemOk s) : MemOk (goOn s w) := by
  unfold goOn
  dsimp only
  split
  · split
    · exact slotEnd_memOk (setSlot_memOk h)
    · exact reportHeld_memOk (setSlot_memOk h)
  · exact setSlot_memOk h

theorem goAt_memOk {s : State} {w : SlotRef} {pc : Word} (h : MemOk s) : MemOk (goAt s w pc) := by
  unfold goAt
  dsimp only
  split
  · exact fixFetch_memOk (setSlot_memOk h)
  · exact raisePrecise_memOk (fixFetch_memOk (setSlot_memOk h))

theorem skipCell_memOk {s : State} {w : SlotRef} (h : MemOk s) : MemOk (skipCell s w) := by
  unfold skipCell
  dsimp only
  exact goOn_memOk (setSlot_memOk h)

theorem resumeAct_memOk {s : State} {w : SlotRef} {act : Nat} {pc : Word} (h : MemOk s) : MemOk (resumeAct s w act pc).1 := by
  unfold resumeAct
  dsimp only
  split
  · split
    · exact raiseStop_memOk (setSlot_memOk h)
    · exact skipCell_memOk (setSlot_memOk h)
    · split
      · exact skipCell_memOk (setSlot_memOk h)
      · exact skipCell_memOk h
    · exact goAt_memOk (setSlot_memOk h)
  split
  · split
    · split
      · exact goOn_memOk ((redoAcc_memOk h).ok ‹_›)
      · exact raiseDeferred_memOk (goOn_memOk ((redoAcc_memOk h).fail ‹_›))
      · exact (redoAcc_memOk h).wait ‹_›
    · exact goOn_memOk (setSlot_memOk h)
    split
    · exact goOn_memOk h
    · exact goOn_memOk (setSlot_memOk h)
    · exact goAt_memOk (setSlot_memOk h)
  split
  · exact goOn_memOk h
  · exact skipCell_memOk h
  · exact goAt_memOk h

theorem killTask_memOk {s : State} {w : SlotRef} (h : MemOk s) : MemOk (killTask s w) := by
  unfold killTask
  dsimp only
  split
  · exact endWalked_memOk (withdraw_memOk h)
  · exact freeSlot_memOk (withdraw_memOk h)

theorem holdResume_memOk {s : State} {w : SlotRef} {p : Poke} (h : MemOk s) : MemOk (holdResume s w p) := h

theorem execResumeDelivery_memOk {i : Nat} {s : State} (h : MemOk s) : NextOk (execResumeDelivery i s) := by
  unfold execResumeDelivery
  dsimp only
  split
  · exact h
  split
  · exact h
  split
  · exact holdResume_memOk h
  split
  · exact h
  split
  · exact killTask_memOk h
  split
  · exact killOf_memOk h
  show MemOk _
  split <;> exact resumeAct_memOk h

theorem bindEntries_memOk {s : State} {w : SlotRef} {id : Nat} (h : MemOk s) : MemOk (bindEntries s w id) := by
  unfold bindEntries
  dsimp only
  exact setCoreOf_memOk h

theorem execContextSwapOut_memOk {w : SlotRef} {s : State} (h : MemOk s) : NextOk (execContextSwapOut w s) := by
  have hb : MemOk (bindEntries (freshId s).2 w (freshId s).1) := bindEntries_memOk (freshId_memOk h)
  unfold execContextSwapOut
  extract_lets x live
  split
  · exact h
  · exact setSlot_memOk hb

theorem numberPage_memOk {s : State} {p : PageRef} {e : Word} (h : MemOk s) : MemOk (numberPage s p e) := by
  unfold numberPage
  dsimp only
  split
  · exact h
  · exact setMod_memOk h

theorem numberPages_memOk {s : State} {p : PageRef} {e : Word} (h : MemOk s) : MemOk (numberPages s p e) := by
  unfold numberPages
  split
  · split
    · exact foldl_memOk (fun _ _ ht => numberPage_memOk ht) h
    · exact h
  · exact numberPage_memOk h

theorem fillSnaps_memOk {s : State} (h : MemOk s) : MemOk (fillSnaps s) := h

theorem claimAll_memOk {s : State} {w : SlotRef} (h : MemOk s) : MemOk (claimAll s w) := by
  unfold claimAll
  exact foldl_memOk (fun _ _ ht => claimEntry_memOk ht) h

theorem readdressRing_memOk {s : State} {w : SlotRef} {id : Nat} (h : MemOk s) : MemOk (readdressRing s w id) := by
  unfold readdressRing
  dsimp only
  refine setCoreOf_memOk ?_
  refine foldl_memOk (fun _ _ ht => ?_) h
  split
  · exact devWrite_memOk ht
  · exact ht

theorem claimBound_memOk {s : State} {w : SlotRef} {id n : Nat} (h : MemOk s) : MemOk (claimBound s w id n) := by
  induction n generalizing s with
  | zero => exact h
  | succ k ih =>
    unfold claimBound
    dsimp only
    split
    · split
      · exact ih (putOut_memOk (setCoreOf_memOk h))
      · exact h
    · exact h

theorem recheckPark_memOk {s : State} {w : SlotRef} (h : MemOk s) : MemOk (recheckPark s w) := by
  unfold recheckPark
  dsimp only
  split
  · split
    · exact setSlot_memOk h
    · exact h
  · split
    · split
      · exact setSlot_memOk h
      · exact h
    · exact h
  · exact recheckWait_memOk (setSlot_memOk h)
  · exact h

theorem restoreCtx_memOk {s : State} {w : SlotRef} {t : Ctx} (h : MemOk s) : MemOk (restoreCtx s w t) := by
  have hr : MemOk (readdressRing s w t.id) := readdressRing_memOk h
  unfold restoreCtx
  dsimp only
  split
  · exact reportHeld_memOk (recheckPark_memOk (claimAll_memOk (setCoreOf_memOk (claimBound_memOk (setSlot_memOk hr)))))
  · exact recheckPark_memOk (claimAll_memOk (setCoreOf_memOk (claimBound_memOk (setSlot_memOk hr))))

theorem execContextRestore_memOk {c : CoreRef} {i : Nat} {s : State} (h : MemOk s) : NextOk (execContextRestore c i s) := by
  unfold execContextRestore
  split
  · show MemOk _
    split
    · exact restoreCtx_memOk h
    · exact h
  · exact h

/-! ### Events of a core -/

theorem storeGone_memOk {s : State} {c : CoreRef} {e : StEnt} (h : MemOk s) : MemOk (storeGone s c e) := by
  unfold storeGone
  dsimp only
  exact unstall_memOk (settleArrivals_memOk (liftVeils_memOk (setCore_memOk h)))

theorem beginGroup_memOk {s : State} {c : CoreRef} {e : StEnt} (h : MemOk s) : MemOk (beginGroup s c e) := by
  unfold beginGroup
  dsimp only
  exact setCore_memOk h

theorem performStore_memOk {s : State} {c : CoreRef} {e : StEnt} {j : Nat} (h : MemOk s) : MemOk (performStore s c e j) := by
  unfold performStore
  dsimp only
  split
  · exact h
  split
  · exact h
  split
  · split
    · exact storeGone_memOk (lineHome_memOk h _ ‹_›)
    · exact h
  split
  · split
    · exact storeGone_memOk (beginGroup_memOk ((tryStore_memOk h).ok ‹_›))
    · exact askGroup_memOk h
  · exact askPage_memOk h
  · exact h

theorem execStoreBufferDrain_memOk {c : CoreRef} {s : State} (h : MemOk s) : NextOk (execStoreBufferDrain c s) := by
  unfold execStoreBufferDrain
  split
  · exact performStore_memOk h
  · exact h

theorem execFarStoreDrain_memOk {c : CoreRef} {i unit : Nat} {s : State} (h : MemOk s) :
    NextOk (execFarStoreDrain c i unit s) := by
  unfold execFarStoreDrain
  split
  · exact h
  split
  · exact h
  split
  · exact h
  · exact performStore_memOk h

theorem execRemoteAccessArrival_memOk {a : AccRef} {unit : Nat} {s : State} (h : MemOk s) :
    NextOk (execRemoteAccessArrival a unit s) := by
  unfold execRemoteAccessArrival
  dsimp only
  split
  · split
    · exact h
    split
    · exact h
    split
    · exact settleArrivals_memOk (performUnit_memOk h)
    · exact h
  · exact h
  split
  · exact h
  split
  · exact h
  split
  · exact performStore_memOk h
  · exact h

theorem execLogMerge_memOk {c : CoreRef} {n : Nat} {s : State} (h : MemOk s) : NextOk (execLogMerge c n s) := by
  unfold execLogMerge
  dsimp only
  split
  · exact mergeLog_memOk h
  · exact h

theorem placeMsg_memOk {s : State} {w : SlotRef} {raw : VWord} {ctx : Option Nat} (h : MemOk s) :
    MemOk (placeMsg s w raw ctx).1 := by
  unfold placeMsg
  dsimp only
  split
  · exact claimAll_memOk (setCoreOf_memOk h)
  split
  · exact h
  split
  · exact setCoreOf_memOk ((perfWrite_memOk h).ok ‹_›)
  · exact h
  · exact askPage_memOk h
  · exact h

theorem answerOut_memOk {s : State} {w : SlotRef} {id : Nat} {f : OutKind → OutKind} (h : MemOk s) :
    MemOk (answerOut s w id f) := by
  unfold answerOut
  dsimp only
  split
  · split
    · exact setSlot_memOk h
    · exact setCoreOf_memOk (setSlot_memOk h)
  split
  · exact h
  · exact setCoreOf_memOk h

theorem answerMsg_memOk {s : State} {m : Msg} {st : Nat} (h : MemOk s) : MemOk (answerMsg s m st) := by
  unfold answerMsg
  dsimp only
  split
  · exact answerOut_memOk h
  · split
    · exact h
    split
    · exact killOf_memOk h
    · exact deviceSend_memOk h
  · split <;> exact h
  · exact h

theorem execMessageArrival_memOk {i : Nat} {s : State} (h : MemOk s) : NextOk (execMessageArrival i s) := by
  unfold execMessageArrival
  split
  · exact h
  extract_lets w
  split
  · exact h
  next s1 _ =>
    have h1 : MemOk s1 := h
    split
    · exact answerMsg_memOk h1
    split
    · next e => exact answerMsg_memOk (fst_memOk e (placeMsg_memOk h1))
    · next s2 e =>
      have h2 : MemOk s2 := fst_memOk e (placeMsg_memOk h1)
      exact h2

theorem fromRing_memOk {s : State} {c : CoreRef} {raw : VWord} {b : Option Nat} (h : MemOk s) : MemOk (fromRing s c raw b) := by
  unfold fromRing
  dsimp only
  split
  · split
    · exact putOut_memOk h
    · exact setCore_memOk h
  · exact claimAll_memOk (setCore_memOk h)

theorem execSpillRingMove_memOk {c : CoreRef} {s : State} (h : MemOk s) : NextOk (execSpillRingMove c s) := by
  unfold execSpillRingMove
  dsimp only
  split
  · exact h
  split
  · exact h
  split
  · exact fromRing_memOk (setCore_memOk ((perfRead_memOk h).ok ‹_›))
  · exact setCore_memOk (failSeen_memOk h)
  · exact askPage_memOk h
  · exact h

theorem execWakeDelivery_memOk {i : Nat} {s : State} (h : MemOk s) : NextOk (execWakeDelivery i s) := by
  unfold execWakeDelivery
  split
  · exact h
  extract_lets w
  split
  · exact h
  next s1 c x _ =>
    have h1 : MemOk s1 := h
    have hwake : MemOk (setSlot s1 w { x with pendingWake := true }) := setSlot_memOk h1
    split
    · exact h1
    generalize x.st = st
    cases st with
    | free =>
      dsimp only
      split
      · exact h1
      · exact setCoreOf_memOk h1
    | parked p _ =>
      cases p with
      | waita => exact recheckWait_memOk h1
      | _ => exact hwake
    | _ => exact hwake

theorem armEinj_memOk {k : Nat} {w : SlotRef} {x : Word} {s : State} (h : MemOk s) : MemOk (armEinj k w x s) := by
  unfold armEinj
  dsimp only
  split
  · exact writeEinj_memOk h
  · exact h

theorem execEinjResultArm_memOk {w : SlotRef} {x : Word} {s : State} (h : MemOk s) : NextOk (execEinjResultArm w x s) := by
  unfold execEinjResultArm
  exact armEinj_memOk h

theorem execEinjStoreSingleFlip_memOk {w : SlotRef} {x : Word} {s : State} (h : MemOk s) :
    NextOk (execEinjStoreSingleFlip w x s) := by
  unfold execEinjStoreSingleFlip
  exact armEinj_memOk h

theorem execEinjStoreDoubleFlip_memOk {w : SlotRef} {x : Word} {s : State} (h : MemOk s) :
    NextOk (execEinjStoreDoubleFlip w x s) := by
  unfold execEinjStoreDoubleFlip
  exact armEinj_memOk h

theorem execEinjAccumulatorArm_memOk {w : SlotRef} {x : Word} {s : State} (h : MemOk s) :
    NextOk (execEinjAccumulatorArm w x s) := by
  unfold execEinjAccumulatorArm
  exact armEinj_memOk h

theorem execLogRegisterWrite_memOk {c : CoreRef} {lim : Bool} {x : Word} {s : State} (h : MemOk s) :
    NextOk (execLogRegisterWrite c lim x s) := by
  unfold execLogRegisterWrite
  exact writeLog_memOk h

theorem execSpillbaseWrite_memOk {c : CoreRef} {x : Word} {s : State} (h : MemOk s) : NextOk (execSpillbaseWrite c x s) := by
  unfold execSpillbaseWrite
  exact writeSpill_memOk h

theorem execMflgposClear_memOk {c : CoreRef} {s : State} (h : MemOk s) : NextOk (execMflgposClear c s) := by
  unfold execMflgposClear
  dsimp only
  exact setCore_memOk h

/-! ### Fetching and choosing a slot -/

theorem fetched_memOk {s : State} {w : SlotRef} {pc : Word} (h : MemOk s) : MemOk (fetched s w pc) := by
  unfold fetched
  dsimp only
  split
  · exact h
  split
  · split
    · exact fixLine_memOk h
    · exact fixFetch_memOk h
  refine setSlot_memOk ?_
  split
  · exact fixLine_memOk h
  · exact fixFetch_memOk h

theorem bufferTrim_memOk {s : State} {w : SlotRef} (h : MemOk s) : MemOk (bufferTrim s w) := by
  unfold bufferTrim
  dsimp only
  split
  · exact h
  · exact setSlot_memOk h

theorem noteIssue_memOk {s : State} {w : SlotRef} (h : MemOk s) : MemOk (noteIssue s w) := by
  unfold noteIssue
  dsimp only
  refine foldl_memOk (fun _ _ ht => ?_) h
  split
  · exact ht
  · exact setSlot_memOk ht

theorem tryAgain_memOk {s : State} (h : MemOk s) : MemOk (tryAgain s) := by
  unfold tryAgain
  dsimp only
  split <;> exact h

theorem atFetch_memOk {s : State} {w : SlotRef} (h : MemOk s) : MemOk (atFetch s w) := by
  unfold atFetch
  dsimp only
  exact bufferTrim_memOk (noteIssue_memOk (setCoreOf_memOk h))

theorem planIssue_memOk {s : State} {w : SlotRef} (h : MemOk s) : (planIssue s w).MemOk := by
  unfold planIssue
  dsimp only
  split
  · exact reportHeld_memOk (atFetch_memOk h)
  split
  · exact raisePrecise_memOk (fetched_memOk (atFetch_memOk h))
  · exact fetched_memOk (atFetch_memOk h)

theorem planMove_memOk {s : State} {m : Move} (h : MemOk s) : (planMove s m).MemOk := by
  unfold planMove
  dsimp only
  split
  · exact tryAgain_memOk h
  · split
    · exact planIssue_memOk h
    · exact h
  · show MemOk _
    split
    · exact bufferTake_memOk (bufferTrim_memOk h)
    · exact bufferTrim_memOk h
  · exact setSlot_memOk h
  · exact devRetry_memOk h

theorem passTime_memOk {s : State} (h : MemOk s) : MemOk (passTime s) := h

/-! ### Tasks, supersteps and barriers -/

theorem readFootprints_memOk {s : State} {w : Who} {fps : List (Nat × Footprint)} {tile : List Nat} {b : Nat}
    {bad : List (Nat × Cause × Word)} (h : MemOk s) :
    MemOk (readFootprints s w fps tile b bad).1 := by
  induction fps generalizing s bad with
  | nil => exact h
  | cons a l ih =>
    unfold readFootprints
    split
    · exact ih ((readRows_memOk h).ok ‹_›)
    · exact ih ((readRows_memOk h).fail ‹_›)
    · exact askPage_memOk h
    · exact h

theorem execWalkTaskDispatch_memOk {c : CoreRef} {tile : List Nat} {s : State} (h : MemOk s) :
    NextOk (execWalkTaskDispatch c tile s) := by
  unfold execWalkTaskDispatch
  dsimp only
  split
  · split
    · exact h
    split
    · exact h
    split
    · exact h
    split
    · next e => exact fst_memOk e (readFootprints_memOk h)
    · next e =>
      exact foldl_memOk (fun _ _ ht => raiseDeferred_memOk ht)
        (startSlot_memOk (setCore_memOk (fst_memOk e (readFootprints_memOk h))))
  · exact h

theorem execQueuedTaskDispatch_memOk {c : CoreRef} {s : State} (h : MemOk s) : NextOk (execQueuedTaskDispatch c s) := by
  unfold execQueuedTaskDispatch
  dsimp only
  split
  · split
    · exact h
    · exact startSlot_memOk (setCore_memOk h)
  · exact h

theorem execFootprintWriteOut_memOk {w : SlotRef} {s : State} (h : MemOk s) : NextOk (execFootprintWriteOut w s) := by
  unfold execFootprintWriteOut
  dsimp only
  split
  · split
    · exact h
    split
    · show MemOk _
      refine raiseDeferred_memOk ?_
      refine setSlot_memOk ?_
      split
      · exact askPage_memOk (writeRows_memOk h)
      · exact writeRows_memOk h
    show MemOk _
    split
    · refine endWalked_memOk ?_
      refine setSlot_memOk ?_
      split
      · exact askPage_memOk (writeRows_memOk h)
      · exact writeRows_memOk h
    refine setSlot_memOk ?_
    split
    · exact askPage_memOk (writeRows_memOk h)
    · exact writeRows_memOk h
  · exact h

theorem execSyncDomainComplete_memOk {l : LaunchRef} {level x y : Nat} {s : State} (h : MemOk s) :
    NextOk (execSyncDomainComplete l level x y s) := by
  unfold execSyncDomainComplete
  dsimp only
  split
  · exact h
  split
  · exact h
  split
  · exact setLaunch_memOk h
  · exact h

theorem exchWord_memOk {s s0 sE : State} {w : Who} {e : PlanEntry} {i : Nat} {early : Bool} (h : MemOk s) :
    (exchWord s s0 sE w e i early).MemOk := by
  unfold exchWord
  dsimp only
  split
  · exact perfWrite_memOk ((perfRead_memOk h).ok ‹_›)
  · trivial
  · trivial
  · trivial

theorem exchWords_memOk {s s0 sE : State} {w : Who} {e : PlanEntry} {i n : Nat} (h : MemOk s) :
    (exchWords s s0 sE w e i n).MemOk := by
  induction n generalizing s i with
  | zero => exact h
  | succ k ih =>
    unfold exchWords
    dsimp only
    split
    · exact ih ((exchWord_memOk h).ok ‹_›)
    · trivial
    · trivial
    · trivial

theorem exchTorn_memOk {s s0 sE : State} {w : Who} {e : PlanEntry} (h : MemOk s) : MemOk (exchTorn s s0 sE w e) := by
  unfold exchTorn
  refine foldl_memOk (fun _ _ ht => ?_) h
  split
  · exact ht
  split
  · exact (exchWord_memOk ht).ok ‹_›
  · exact ht

theorem runPlan_memOk {s s0 : State} {m : Nat} {r : Rec} {es : List PlanEntry} {bad : List (CoreRef × PlanEntry × Cause × Word)}
    (h : MemOk s) (h0 : MemOk s0) :
    MemOk (runPlan s s0 m r es bad).1 := by
  induction es generalizing s bad with
  | nil => exact h
  | cons a l ih =>
    unfold runPlan
    dsimp only
    split
    · exact ih (clearWhole_memOk ((exchWords_memOk h).ok ‹_›))
    · exact ih (exchTorn_memOk h)
    · exact askPage_memOk h0
    · exact h0

theorem syncCore_memOk {s : State} {e : Exchange} {c : CoreRef} (h : MemOk s) : MemOk (syncCore s e c) := by
  unfold syncCore
  dsimp only
  refine foldl_memOk (fun _ _ ht => ?_) (clearConst_memOk (setCore_memOk h))
  split
  · exact ht
  split
  · split <;> exact setSlot_memOk ht
  · exact setSlot_memOk ht

theorem reportExchange_memOk {s0 s : State} {l : LaunchRef} {level : Nat} {b : CoreRef × PlanEntry × Cause × Word} (h : MemOk s) :
    MemOk (reportExchange s0 s l level b) := by
  unfold reportExchange
  split
  · exact raiseDeferred_memOk h
  · exact killLaunch_memOk h

theorem execExchangeComplete_memOk {l : LaunchRef} {level x y : Nat} {order : List Nat} {s : State} (h : MemOk s) :
    NextOk (execExchangeComplete l level x y order s) := by
  unfold execExchangeComplete
  dsimp only
  split
  · exact h
  split
  · exact h
  split
  · exact h
  split
  · next e => exact fst_memOk e (runPlan_memOk h h)
  next e =>
    have hs : MemOk _ := fst_memOk e (runPlan_memOk h h)
    split
    · exact foldl_memOk (fun _ _ ht => reportExchange_memOk ht) (foldl_memOk (fun _ _ ht => syncCore_memOk ht) hs)
    · exact setLaunch_memOk (foldl_memOk (fun _ _ ht => reportExchange_memOk ht) (foldl_memOk (fun _ _ ht => syncCore_memOk ht) hs))

theorem execSyncTimeout_memOk {w : SlotRef} {s : State} (h : MemOk s) : NextOk (execSyncTimeout w s) := by
  unfold execSyncTimeout
  dsimp only
  split
  · show MemOk _
    split
    · split
      · exact raisePrecise_memOk h
      · exact h
    split
    · exact raisePrecise_memOk h
    · exact h
  · show MemOk _
    split
    · split
      · exact raisePrecise_memOk h
      · exact h
    split
    · exact raisePrecise_memOk h
    · exact h
  · exact h

theorem releaseWaiters_memOk {s : State} {c : CoreRef} {b r : Nat} (h : MemOk s) : MemOk (releaseWaiters s c b r) := by
  unfold releaseWaiters
  dsimp only
  refine foldl_memOk (fun _ _ ht => ?_) h
  split
  · split
    · exact setSlot_memOk ht
    · exact ht
  · exact ht

theorem execBarrierRelease_memOk {l : LaunchRef} {b : Nat} {s : State} (h : MemOk s) : NextOk (execBarrierRelease l b s) := by
  unfold execBarrierRelease
  dsimp only
  split
  · exact h
  split
  · exact h
  split
  · exact foldl_memOk (fun _ _ ht => releaseWaiters_memOk ht) (setLaunch_memOk h)
  · exact h

/-! ### Completion of an engine command -/

theorem withIssuer_memOk {s : State} {c : Cmd} {f : Slot → Slot} (h : MemOk s) : MemOk (withIssuer s c f) := by
  unfold withIssuer
  dsimp only
  split
  · exact setSlot_memOk h
  · exact setCoreOf_memOk h

theorem answerCmd_memOk {s : State} {c : Cmd} {v : Word} (h : MemOk s) : MemOk (answerCmd s c v) := by
  unfold answerCmd
  dsimp only
  exact withIssuer_memOk h

theorem failIssuer_memOk {s : State} {c : Cmd} {k : Cause} {v : Word} (h : MemOk s) : MemOk (failIssuer s c k v) := by
  unfold failIssuer
  split
  · split
    · exact raiseDeferred_memOk h
    · exact h
  · exact withIssuer_memOk h
  · exact h

theorem containCmd_memOk {s : State} {c : Cmd} (h : MemOk s) : MemOk (containCmd s c) := by
  unfold containCmd
  dsimp only
  split
  · split
    · exact withIssuer_memOk h
    · exact h
  split
  · split
    · refine withIssuer_memOk ?_
      split
      · exact withIssuer_memOk h
      · exact h
    refine failIssuer_memOk ?_
    split
    · exact withIssuer_memOk h
    · exact h
  split
  · refine failIssuer_memOk ?_
    split
    · exact withIssuer_memOk h
    · exact h
  split
  · exact withIssuer_memOk h
  · exact h

theorem retireBatch_memOk {s : State} {c : Cmd} (h : MemOk s) : MemOk (retireBatch s c) := by
  unfold retireBatch
  dsimp only
  refine unstall_memOk ?_
  refine foldl_memOk (fun _ _ ht => ?_) (setCore_memOk h)
  split
  · split
    · exact setSlot_memOk ht
    · exact ht
  · exact ht

theorem notifyCmd_memOk {s : State} {c : Cmd} (h : MemOk s) : MemOk (notifyCmd s c) := by
  unfold notifyCmd
  dsimp only
  split
  · exact h
  · exact deviceSend_memOk h

theorem completeCmd_memOk {s : State} {c : Cmd} (h : MemOk s) : MemOk (completeCmd s c) := by
  unfold completeCmd
  dsimp only
  split
  · exact h
  · exact unstall_memOk (answerCmd_memOk h)
  · exact containCmd_memOk (retireBatch_memOk (notifyCmd_memOk (answerCmd_memOk h)))

theorem execCommandCompletion_memOk {id : Nat} {s : State} (h : MemOk s) : NextOk (execCommandCompletion id s) := by
  unfold execCommandCompletion
  split
  · show MemOk _
    split
    · exact completeCmd_memOk h
    · exact h
  · exact h

/-! ### Control transfers -/

theorem transfer_memOk {t : Word} {wr : Slot → Slot} {s : State} (h : MemOk s) : (transfer t wr s).MemOk := by
  unfold transfer
  split
  · exact fixFetch_memOk h
  · exact withCur_memOk h

theorem loopBody_memOk {f : BForm} {s : State} (h : MemOk s) : (loopBody f s).MemOk := by
  unfold loopBody
  dsimp only
  split
  · exact withCur_memOk h
  · exact transfer_memOk h

/-! ### Launch records -/

theorem askAny_memOk {s : State} {p : Option PageRef} (h : MemOk s) : MemOk (askAny s p) := by
  unfold askAny
  split
  · exact askPage_memOk h
  · exact h

theorem luTouch_memOk {s : State} {w : Who} {va : Word} {n k : Nat} (h : MemOk s) : MemOk (luTouch s w va n k) := by
  induction k generalizing s va n with
  | zero => exact h
  | succ k ih =>
    unfold luTouch
    dsimp only
    split
    · exact h
    split
    · exact ih (readFlat_memOk (translate_memOk h))
    · exact ih (readFlat_memOk (touchPage_memOk h))
    · exact ih (readFlat_memOk h)
    · exact failSeen_memOk h
    · exact h

theorem recSeen_memOk {s : State} {m : Nat} {ws : List Word} {code : Nat} (h : MemOk s) : MemOk (recSeen s m ws code) := by
  unfold recSeen
  dsimp only
  exact foldl_memOk (fun _ _ ht => luTouch_memOk ht) h

/-! ### The save frame -/

theorem devPuts_memOk {s : State} {d : Who} {a : Word} {ws : List Word} (h : MemOk s) : MemOk (devPuts s d a ws) := by
  induction ws generalizing s a with
  | nil => exact h
  | cons a l ih =>
    unfold devPuts
    exact ih (devWrite_memOk h)

theorem devWords_memOk {s : State} {d : Who} {a : Word} {ws : List Word} (h : MemOk s) : MemOk (devWords s d a ws) := by
  unfold devWords
  exact clearWhole_memOk (devPuts_memOk h)

theorem devFill_memOk {s : State} {d : Who} {a : Word} {n : Nat} (h : MemOk s) : MemOk (devFill s d a n) := by
  unfold devFill
  exact foldl_memOk (fun _ _ ht => devWrite_memOk ht) h

theorem devLocal_memOk {s : State} {d : Who} {c : CoreRef} {a : Word} {i n : Nat} (h : MemOk s) :
    MemOk (devLocal s d c a i n) := by
  induction n generalizing s i with
  | zero => exact h
  | succ k ih =>
    unfold devLocal
    exact ih (devWrite_memOk h)

theorem writeCoreRec_memOk {s : State} {d : Who} {c : CoreRef} {a : Word} (h : MemOk s) : MemOk (writeCoreRec s d c a) := by
  unfold writeCoreRec
  dsimp only
  exact devFill_memOk (devWords_memOk (devLocal_memOk (foldl_memOk (fun _ _ ht => devFill_memOk (devWords_memOk ht)) h)))

theorem writeHamRec_memOk {s : State} {d : Who} {hm : HamRef} {a : Word} (h : MemOk s) : MemOk (writeHamRec s d hm a) := by
  unfold writeHamRec
  dsimp only
  exact devWords_memOk (devFill_memOk (devWords_memOk (devWords_memOk (devWords_memOk (devWords_memOk h)))))

theorem writeRecords_memOk {s : State} {d : Who} {a : Word} {cs : List CoreRef} {hs : List HamRef} (h : MemOk s) :
    MemOk (writeRecords s d a cs hs) := by
  unfold writeRecords
  dsimp only
  exact foldl_memOk (fun _ _ ht => writeHamRec_memOk ht) (foldl_memOk (fun _ _ ht => writeCoreRec_memOk ht) h)

theorem writeFrame_memOk {s : State} {l : LaunchRef} {x : Launch} (h : MemOk s) : MemOk (writeFrame s l x) := by
  unfold writeFrame
  dsimp only
  exact writeRecords_memOk (devWords_memOk h)

theorem restoreLocal_memOk {s : State} {d : Who} {c : CoreRef} {img : Memory} {a : Word} {i n : Nat} (h : MemOk s) :
    MemOk (restoreLocal s d c img a i n) := by
  induction n generalizing s i with
  | zero => exact h
  | succ k ih =>
    unfold restoreLocal
    dsimp only
    exact ih (writeFlat_memOk h)

theorem restoreCore_memOk {s : State} {l : LaunchRef} {x : Launch} {d : Who} {c : CoreRef} {a : Word} (h : MemOk s) :
    MemOk (restoreCore s l x d c a) := by
  unfold restoreCore
  dsimp only
  exact foldl_memOk (fun _ _ ht => setSlot_memOk (setSlot_memOk ht)) (restoreLocal_memOk (setCore_memOk h))

theorem restoreHam_memOk {s : State} {x : Launch} {d : Who} {hm : HamRef} {a : Word} (h : MemOk s) :
    MemOk (restoreHam s x d hm a) := by
  unfold restoreHam
  dsimp only
  exact setHam_memOk h

theorem restoreFrame_memOk {s : State} {l : LaunchRef} {x : Launch} (h : MemOk s) : MemOk (restoreFrame s l x) := by
  unfold restoreFrame
  dsimp only
  exact foldl_memOk (fun _ _ ht => restoreHam_memOk ht) (foldl_memOk (fun _ _ ht => restoreCore_memOk ht) (luTouch_memOk h))

/-! ### Events of the launch unit -/

theorem recallLine_memOk {s : State} {l : LineRef} (h : MemOk s) : MemOk (recallLine s l) := by
  unfold recallLine
  dsimp only
  split
  · exact h
  refine setLine_memOk ?_
  split
  · exact settleD_memOk h
  · exact h

theorem recallLines_memOk {s : State} {f : LineRef → Bool} (h : MemOk s) : MemOk (recallLines s f) := by
  unfold recallLines
  refine foldl_memOk (fun _ _ ht => ?_) h
  split
  · exact recallLine_memOk ht
  · exact ht

theorem returnHam_memOk {s : State} {l : LineRef} {hm : Nat} (h : MemOk s) : MemOk (returnHam s l hm) := by
  unfold returnHam
  dsimp only
  split
  · exact h
  refine setLine_memOk ?_
  split
  · split
    · exact settleD_memOk h
    · exact h
  · exact h

theorem returnLines_memOk {s : State} {m : Nat} {f : LineRef → Bool} (h : MemOk s) : MemOk (returnLines s m f) := by
  unfold returnLines
  refine foldl_memOk (fun _ _ ht => ?_) h
  split
  · refine foldl_memOk (fun _ _ hu => ?_) ht
    split
    · exact returnHam_memOk hu
    · exact hu
  · exact ht

theorem recallPage_memOk {s : State} {p : PageRef} (h : MemOk s) : MemOk (recallPage s p) := by
  unfold recallPage
  exact returnLines_memOk (recallLines_memOk h)

theorem wordsSeen_memOk {s : State} {m : Nat} {va : Word} {n : Nat} (h : MemOk s) : MemOk (wordsSeen s m va n) := by
  unfold wordsSeen
  exact luTouch_memOk h

theorem fillFrame_memOk {s : State} {a : Nat} {bytes : Memory} (h : MemOk s) : MemOk (fillFrame s a bytes) := by
  unfold fillFrame
  dsimp only
  exact foldl_memOk (fun _ _ ht => writeFlat_memOk ht) (foldl_memOk (fun _ _ ht => clearPoison_memOk ht) h)

theorem fillWords_memOk {s : State} {a : Nat} {ws : List Nat} (h : MemOk s) : MemOk (fillWords s a ws) := by
  unfold fillWords
  exact foldl_memOk (fun _ _ ht => writeFlat_memOk (clearPoison_memOk ht)) h

theorem putQueueWord_memOk {s : State} {m : Nat} {q : Queue} {off v : Nat} (h : MemOk s) :
    MemOk (putQueueWord s m q off v) := by
  unfold putQueueWord
  exact devWrite_memOk h

theorem askPass_memOk {s : State} {m : Nat} (h : MemOk s) : MemOk (askPass s m) := by
  unfold askPass
  dsimp only
  exact setMod_memOk h

theorem advanceDone_memOk {s : State} {m q : Nat} (h : MemOk s) : MemOk (advanceDone s m q) := by
  unfold advanceDone
  dsimp only
  split
  · exact h
  split
  · exact askPass_memOk (askAny_memOk h)
  split
  · exact h
  · exact putQueueWord_memOk (putQueueWord_memOk h)

theorem ended_memOk {s : State} {l : LaunchRef} {x : Launch} {status ferr : Nat} (h : MemOk s) :
    MemOk (ended s l x status ferr) := by
  unfold ended
  exact askPass_memOk (advanceDone_memOk (setLaunch_memOk h))

theorem failHead_memOk {s : State} {m q : Nat} {u : Queue} {hm status ferr : Nat} (h : MemOk s) :
    MemOk (failHead s m q u hm status ferr) := by
  unfold failHead
  dsimp only
  exact ended_memOk (setMod_memOk (putQueueWord_memOk h))

theorem headSeen_memOk {s : State} {m : Nat} {u : Queue} {hm code : Nat} (h : MemOk s) : MemOk (headSeen s m u hm code) := by
  unfold headSeen
  dsimp only
  split
  · exact recSeen_memOk (luTouch_memOk (luTouch_memOk h))
  · exact luTouch_memOk (luTouch_memOk h)

theorem dropLayouts_memOk {s : State} {l : LaunchRef} {x : Launch} (h : MemOk s) : MemOk (dropLayouts s l x) := by
  unfold dropLayouts
  dsimp only
  exact setMod_memOk (recallLines_memOk h)

theorem startCore_memOk {s : State} {l : LaunchRef} {r : Rec} {ident : Option Layout} {q : Nat × Nat × CoreRef} (h : MemOk s) :
    MemOk (startCore s l r ident q) := by
  unfold startCore
  dsimp only
  exact foldl_memOk (fun _ _ ht => setSlot_memOk ht) (setCore_memOk h)

theorem startMill_memOk {s : State} {hm : HamRef} (h : MemOk s) : MemOk (startMill s hm) := by
  unfold startMill
  dsimp only
  exact foldl_memOk (fun _ _ ht => setCore_memOk ht) (setHam_memOk h)

theorem placeImages_memOk {s : State} {c : CoreRef} {imgs : List (Nat × Nat × Nat)} (h : MemOk s) :
    MemOk (placeImages s c imgs) := by
  unfold placeImages
  exact foldl_memOk (fun _ _ ht => writeFlat_memOk ht) h

theorem claimCores_memOk {s : State} {l : LaunchRef} {r : Rec} (h : MemOk s) : MemOk (claimCores s l r) := by
  unfold claimCores
  dsimp only
  exact foldl_memOk (fun _ _ ht => setCore_memOk ht) h

theorem startLaunch_memOk {s : State} {m q : Nat} {u : Queue} {hm : Nat} {v : Valid} (h : MemOk s) :
    MemOk (startLaunch s m q u hm v) := by
  unfold startLaunch
  dsimp only
  split
  · exact failHead_memOk h
  refine devWords_memOk ?_
  refine foldl_memOk (fun _ _ ht => startMill_memOk ht) ?_
  refine foldl_memOk (fun _ _ ht => ?_) (claimCores_memOk (setLaunch_memOk
    (freshId_memOk (putQueueWord_memOk (setMod_memOk (recallLines_memOk h))))))
  split
  · exact placeImages_memOk (startCore_memOk ht)
  · exact ht

theorem preemptLaunch_memOk {s : State} {l : LaunchRef} (h : MemOk s) : MemOk (preemptLaunch s l) := by
  unfold preemptLaunch
  dsimp only
  split
  · exact h
  split
  · exact setLaunch_memOk h
  · split
    · exact h
    · exact setLaunch_memOk h
  · split
    · exact h
    · exact setLaunch_memOk h
  · split
    · exact h
    · exact setLaunch_memOk h
  · exact h

theorem releaseCore_memOk {s : State} {c : CoreRef} (h : MemOk s) : MemOk (releaseCore s c) := by
  unfold releaseCore
  dsimp only
  exact foldl_memOk (fun _ _ ht => setSlot_memOk ht) (setCore_memOk h)

theorem releaseCores_memOk {s : State} {l : LaunchRef} {r : Rec} (h : MemOk s) : MemOk (releaseCores s l r) := by
  unfold releaseCores
  refine foldl_memOk (fun _ _ ht => ?_) h
  split
  · exact releaseCore_memOk ht
  · exact ht

theorem endCmds_memOk {s : State} {l : LaunchRef} {code : Nat} {f : Cmd → Bool} (h : MemOk s) : MemOk (endCmds s l code f) := by
  unfold endCmds
  exact foldl_memOk (fun _ _ ht => completeCmd_memOk ht) h

theorem unhold_memOk {s : State} {l : LaunchRef} (h : MemOk s) : MemOk (unhold s l) := by
  unfold unhold
  split
  · exact h
  split
  · exact setLaunch_memOk h
  · exact h

theorem freePages_memOk {s : State} {m : Nat} {ps : List PageRef} (h : MemOk s) : MemOk (freePages s m ps) := by
  unfold freePages
  dsimp only
  exact foldl_memOk (fun _ _ ht => setPage_memOk ht) h

theorem sweepCuts_memOk {s : State} {m : Nat} (h : MemOk s) : MemOk (sweepCuts s m) := by
  unfold sweepCuts
  dsimp only
  exact foldl_memOk (fun _ _ ht => unhold_memOk ht) (freePages_memOk (setMod_memOk h))

theorem resetCmds_memOk {s : State} {l : LaunchRef} (h : MemOk s) : MemOk (resetCmds s l) := by
  unfold resetCmds
  exact endCmds_memOk (endCmds_memOk h)

theorem mergeLogs_memOk {s : State} {l : LaunchRef} {x : Launch} (h : MemOk s) : MemOk (mergeLogs s l x) := by
  unfold mergeLogs
  dsimp only
  refine foldl_memOk (fun _ _ ht => ?_) h
  split
  · exact foldl_memOk (fun _ _ hu => mergeEntry_memOk hu) ht
  split
  · exact mergeLog_memOk ht
  · exact ht

theorem resetLaunch_memOk {s : State} {l : LaunchRef} (h : MemOk s) : MemOk (resetLaunch s l) := by
  unfold resetLaunch
  dsimp only
  split
  · exact h
  · exact askPass_memOk (setLaunch_memOk (sweepCuts_memOk (releaseCores_memOk (mergeLogs_memOk (resetCmds_memOk h)))))

theorem passHeads_memOk {s : State} {m : Nat} {qs : List (Nat × Queue)} {cs : List (Nat × Cand)} {failed : Bool} (h : MemOk s) :
    MemOk (passHeads s m qs cs failed).1 := by
  induction qs generalizing s cs failed with
  | nil => exact h
  | cons a l ih =>
    unfold passHeads
    dsimp only
    split
    · exact ih h
    split
    · exact ih (askPass_memOk (askAny_memOk h))
    split
    · exact ih (luTouch_memOk h)
    split
    · exact ih (failHead_memOk (headSeen_memOk h))
    · exact ih (askPass_memOk (askAny_memOk (headSeen_memOk h)))
    split
    · exact ih (failHead_memOk (headSeen_memOk h))
    · exact ih (headSeen_memOk h)

theorem passCand_memOk {s : State} {m : Nat} {c : Nat × Cand} (h : MemOk s) : MemOk (passCand s m c).1 := by
  have hturn : ∀ {t : State}, MemOk t → MemOk (setMod t m { modAt t m with lastQ := tput (modAt t m).lastQ c.2.record.prio c.1 }) :=
    fun ht => setMod_memOk ht
  unfold passCand
  dsimp only
  split
  · dsimp only
    split
    · exact hturn (claimCores_memOk h)
    · exact h
  split
  · exact h
  split
  · split
    · exact startLaunch_memOk h
    split
    · exact askPass_memOk h
    · exact hturn (startLaunch_memOk h)
  cases tfind (modAt s m).queues c.1 with
  | none => exact h
  | some w =>
    dsimp only
    split
    · exact foldl_memOk (fun _ _ ht => preemptLaunch_memOk ht) h
    · exact h

theorem passLoop_memOk {s : State} {m n : Nat} (h : MemOk s) : MemOk (passLoop s m n) := by
  induction n generalizing s with
  | zero =>
    unfold passLoop
    exact askPass_memOk h
  | succ k ih =>
    unfold passLoop
    dsimp only
    split
    · exact ih (foldl_fst_memOk (fun _ _ ht => foldl_fst_memOk (fun _ _ hu => passCand_memOk hu) ht)
        (passHeads_memOk (foldl_memOk (fun _ _ ht => advanceDone_memOk ht) (setMod_memOk h))))
    · exact foldl_fst_memOk (fun _ _ ht => foldl_fst_memOk (fun _ _ hu => passCand_memOk hu) ht)
        (passHeads_memOk (foldl_memOk (fun _ _ ht => advanceDone_memOk ht) (setMod_memOk h)))

theorem seeTails_memOk {s : State} {m : Nat} (h : MemOk s) : MemOk (seeTails s m) := by
  unfold seeTails
  dsimp only
  exact setMod_memOk h

theorem execLaunchUnitPass_memOk {m : Nat} {s : State} (h : MemOk s) : NextOk (execLaunchUnitPass m s) := by
  unfold execLaunchUnitPass
  split
  · exact h
  · exact passLoop_memOk (seeTails_memOk h)

theorem execLaunchEntry_memOk {l : LaunchRef} {s : State} (h : MemOk s) : NextOk (execLaunchEntry l s) := by
  unfold execLaunchEntry
  dsimp only
  split
  · exact h
  split
  · exact h
  · exact foldl_memOk (fun _ _ ht => startSlot_memOk (clearConst_memOk ht)) (setLaunch_memOk h)

theorem endLaunch_memOk {s : State} {l : LaunchRef} {x : Launch} {status : Nat} (h : MemOk s) :
    MemOk (endLaunch s l x status) := by
  unfold endLaunch
  dsimp only
  exact ended_memOk (dropLayouts_memOk (releaseCores_memOk (mergeLogs_memOk (endCmds_memOk h))))

theorem execLaunchEnd_memOk {l : LaunchRef} {s : State} (h : MemOk s) : NextOk (execLaunchEnd l s) := by
  unfold execLaunchEnd
  dsimp only
  split
  · exact h
  split
  · split
    · exact h
    split
    · exact endLaunch_memOk h
    split
    · exact endLaunch_memOk h
    · exact h
  · split
    · exact h
    split
    · exact endLaunch_memOk h
    split
    · exact endLaunch_memOk h
    · exact h
  · split
    · exact h
    split
    · exact endLaunch_memOk h
    split
    · exact endLaunch_memOk h
    · exact h
  · split
    · exact h
    split
    · exact endLaunch_memOk h
    split
    · exact endLaunch_memOk h
    · exact h
  · split
    · exact h
    split
    · exact endLaunch_memOk h
    split
    · exact endLaunch_memOk h
    · exact h
  · split
    · exact h
    split
    · exact endLaunch_memOk h
    split
    · exact endLaunch_memOk h
    · exact h
  split
  · exact h
  split
  · exact endLaunch_memOk h
  split
  · exact endLaunch_memOk h
  · exact h

theorem execPatienceExpiry_memOk {m q : Nat} {s : State} (h : MemOk s) : NextOk (execPatienceExpiry m q s) := by
  unfold execPatienceExpiry
  dsimp only
  split
  · exact h
  split
  · exact askAny_memOk h
  split
  · exact h
  split
  · exact askAny_memOk (headSeen_memOk h)
  · split
    · exact askPass_memOk (setMod_memOk (headSeen_memOk h))
    · exact headSeen_memOk h
  · exact h

theorem execDrainBoundaryHold_memOk {l : LaunchRef} {us : Nat} {s : State} (h : MemOk s) :
    NextOk (execDrainBoundaryHold l us s) := by
  unfold execDrainBoundaryHold
  split
  · exact h
  split
  · exact setLaunch_memOk h
  · exact h

theorem execDrainLimitExpiry_memOk {l : LaunchRef} {s : State} (h : MemOk s) : NextOk (execDrainLimitExpiry l s) := by
  unfold execDrainLimitExpiry
  split
  · exact h
  split
  · exact setLaunch_memOk h
  · exact h

theorem execSaveComplete_memOk {l : LaunchRef} {us : Nat} {s : State} (h : MemOk s) : NextOk (execSaveComplete l us s) := by
  unfold execSaveComplete
  dsimp only
  split
  · exact h
  split
  · exact h
  split
  · exact askAny_memOk h
  · exact askPass_memOk (releaseCores_memOk (writeFrame_memOk (setLaunch_memOk h)))

theorem execSaveLimitExpiry_memOk {l : LaunchRef} {s : State} (h : MemOk s) : NextOk (execSaveLimitExpiry l s) := by
  unfold execSaveLimitExpiry
  split
  · exact h
  split
  · exact resetLaunch_memOk (setLaunch_memOk h)
  · exact h

theorem releaseResumes_memOk {s : State} {l : LaunchRef} (h : MemOk s) : MemOk (releaseResumes s l) := by
  unfold releaseResumes
  split <;> exact h

theorem execLaunchRestore_memOk {l : LaunchRef} {s : State} (h : MemOk s) : NextOk (execLaunchRestore l s) := by
  unfold execLaunchRestore
  dsimp only
  split
  · exact h
  split
  · split
    · exact askAny_memOk h
    · exact releaseResumes_memOk (setLaunch_memOk (restoreFrame_memOk h))
  · exact h

theorem restorePage_memOk {k : Cut} {r : Restored} {p : PageRef} (hr : r.MemOk) : (restorePage k r p).MemOk := by
  unfold restorePage
  split
  · split
    · exact hr
    · exact hr
    · trivial
    split
    · exact setLeafBits_memOk (fillWords_memOk (recallPage_memOk (wordsSeen_memOk hr)))
    · exact setLeafBits_memOk (fillWords_memOk (recallPage_memOk (wordsSeen_memOk hr)))
    · exact setLeafBits_memOk (fillWords_memOk (recallPage_memOk (wordsSeen_memOk hr)))
    · exact wordsSeen_memOk hr
    · trivial
    · exact wordsSeen_memOk hr
    · trivial
  · exact hr

theorem placeCut_memOk {s : State} {n : Nat} {l : LaunchRef} {x : Launch} {k : Cut} (h : MemOk s) :
    (placeCut s n l x k).MemOk := by
  unfold placeCut
  dsimp only
  split
  · exact setLaunch_memOk (devWords_memOk (wordsSeen_memOk h))
  · exact wordsSeen_memOk h
  · trivial
  · trivial

theorem restoreCut_memOk {s : State} {l : LaunchRef} {x : Launch} {k : Cut} (h : MemOk s) : (restoreCut s l x k).MemOk := by
  have hr : (k.scope.foldl (restorePage k) (.done s 0)).MemOk :=
    foldl_inv (P := Restored.MemOk) (fun _ _ hb => restorePage_memOk hb) h
  unfold restoreCut
  split
  · exact placeCut_memOk (hr.done ‹_›)
  · exact hr

theorem execDebugHalt_memOk {l : LaunchRef} {s : State} (h : MemOk s) : NextOk (execDebugHalt l s) := by
  unfold execDebugHalt
  split
  · exact h
  split
  · exact h
  split
  · split
    · exact setLaunch_memOk h
    · exact unhold_memOk (setLaunch_memOk h)
  split
  · exact setLaunch_memOk h
  · exact h

theorem execDebugContinue_memOk {l : LaunchRef} {s : State} (h : MemOk s) : NextOk (execDebugContinue l s) := by
  unfold execDebugContinue
  split
  · exact h
  split
  · exact setLaunch_memOk h
  · exact h

theorem formGroup_memOk {s : State} {ls : List LaunchRef} (h : MemOk s) : MemOk (formGroup s ls) := h

theorem execDebugGroupHalt_memOk {ls : List LaunchRef} {s : State} (h : MemOk s) : NextOk (execDebugGroupHalt ls s) := by
  unfold execDebugGroupHalt
  dsimp only
  split
  · show MemOk _
    refine foldl_memOk (fun _ _ ht => ?_) (formGroup_memOk h)
    split
    · exact ht
    · exact setLaunch_memOk ht
  show MemOk _
  refine foldl_memOk (fun _ _ ht => ?_) (formGroup_memOk h)
  split <;> exact setLaunch_memOk ht

theorem execBoundaryDump_memOk {l : LaunchRef} {s : State} (h : MemOk s) : NextOk (execBoundaryDump l s) := by
  unfold execBoundaryDump
  split
  · exact h
  split
  · exact h
  split
  · exact askAny_memOk h
  · exact writeFrame_memOk h

theorem execForcedDump_memOk {l : LaunchRef} {kill : Bool} {s : State} (h : MemOk s) : NextOk (execForcedDump l kill s) := by
  unfold execForcedDump
  dsimp only
  split
  · exact h
  split
  · split
    · exact h
    split
    · exact askAny_memOk h
    show MemOk _
    split
    · exact killLaunch_memOk (setLaunch_memOk (writeFrame_memOk h))
    · exact setLaunch_memOk (writeFrame_memOk h)
  · split
    · exact h
    split
    · exact askAny_memOk h
    show MemOk _
    split
    · exact killLaunch_memOk (setLaunch_memOk (writeFrame_memOk h))
    · exact setLaunch_memOk (writeFrame_memOk h)
  · split
    · exact h
    split
    · exact askAny_memOk h
    show MemOk _
    split
    · exact killLaunch_memOk (setLaunch_memOk (writeFrame_memOk h))
    · exact setLaunch_memOk (writeFrame_memOk h)
  · split
    · exact h
    split
    · exact askAny_memOk h
    show MemOk _
    split
    · exact killLaunch_memOk (setLaunch_memOk (writeFrame_memOk h))
    · exact setLaunch_memOk (writeFrame_memOk h)
  · split
    · exact h
    split
    · exact askAny_memOk h
    show MemOk _
    split
    · exact killLaunch_memOk (setLaunch_memOk (writeFrame_memOk h))
    · exact setLaunch_memOk (writeFrame_memOk h)
  split
  · exact h
  split
  · exact askAny_memOk h
  show MemOk _
  split
  · exact killLaunch_memOk (setLaunch_memOk (writeFrame_memOk h))
  · exact setLaunch_memOk (writeFrame_memOk h)

theorem emitTrace_memOk {s : State} {m : Nat} (h : MemOk s) : MemOk (emitTrace s m) := by
  unfold emitTrace
  dsimp only
  split <;> exact h

theorem execCounterSnapshot_memOk {g : SnapArg} {s : State} (h : MemOk s) : NextOk (execCounterSnapshot g s) := by
  unfold execCounterSnapshot
  dsimp only
  split
  · exact h
  · exact emitTrace_memOk (setMod_memOk h)

theorem execQueueRegistration_memOk {m q : Nat} {desc ring : Word} {log2n : Nat} {supv : Bool} {save : Word} {s : State} (h : MemOk s) :
    NextOk (execQueueRegistration m q desc ring log2n supv save s) := by
  unfold execQueueRegistration
  dsimp only
  split
  · exact h
  · exact setMod_memOk (devWords_memOk h)

theorem execPreemptionRequest_memOk {l : LaunchRef} {s : State} (h : MemOk s) : NextOk (execPreemptionRequest l s) := by
  unfold execPreemptionRequest
  exact preemptLaunch_memOk h

/-! ### How an engine command runs -/

theorem putCmd_memOk {s : State} {c : Cmd} (h : MemOk s) : MemOk (putCmd s c) := h

theorem finishCmd_memOk {s : State} {c : Cmd} {code : Nat} (h : MemOk s) : MemOk (finishCmd s c code) := by
  unfold finishCmd
  dsimp only
  split <;> exact foldl_memOk (fun _ _ ht => putCmd_memOk ht) (putCmd_memOk h)

theorem engineArrive_memOk {s : State} {c : Cmd} (h : MemOk s) : MemOk (engineArrive s c) := by
  unfold engineArrive
  dsimp only
  split
  · exact finishCmd_memOk h
  split
  · exact finishCmd_memOk h
  split
  · split <;> exact putCmd_memOk h
  · exact putCmd_memOk h

theorem askArrive_memOk {s : State} {c : Cmd} (h : MemOk s) : MemOk (askArrive s c) := by
  unfold askArrive
  split
  · exact foldl_memOk (fun _ _ ht => askAny_memOk ht) h
  · exact h

theorem execEngineCommandArrival_memOk {id : Nat} {s : State} (h : MemOk s) : NextOk (execEngineCommandArrival id s) := by
  unfold execEngineCommandArrival
  dsimp only
  split
  · exact h
  split
  · exact h
  split
  · show MemOk _
    split
    · exact engineArrive_memOk h
    · exact askArrive_memOk h
  · exact putCmd_memOk h

theorem execCrierWindowExpiry_memOk {id : Nat} {s : State} (h : MemOk s) : NextOk (execCrierWindowExpiry id s) := by
  unfold execCrierWindowExpiry
  dsimp only
  split
  · exact h
  split
  · show MemOk _
    split
    · split
      · exact engineArrive_memOk h
      · exact h
    · exact h
  split
  · exact h
  split
  · exact foldl_memOk (fun _ _ ht => askArrive_memOk ht) h
  split
  · exact h
  split
  · exact foldl_memOk (fun _ _ ht => engineArrive_memOk ht) h
  · exact engineArrive_memOk (foldl_memOk (fun _ _ ht => putCmd_memOk ht) h)

theorem spread_memOk {s : State} {c : Cmd} {va : Word} {n x : Nat} (h : MemOk s) : MemOk (spread s c va n x) := by
  unfold spread
  split
  · exact foldl_memOk (fun _ _ ht => writeLocal_memOk ht) h
  · exact h

theorem engRead_memOk {s : State} {w : Who} {va : Word} {n k : Nat} (h : MemOk s) : (engRead s w va n k).MemOk := by
  induction k generalizing s va n with
  | zero => exact h
  | succ k ih =>
    unfold engRead
    dsimp only
    split
    · exact h
    split
    · split
      · exact (ih ((perfRead_memOk h).ok ‹_›)).ok ‹_›
      · exact ih ((perfRead_memOk h).ok ‹_›)
    · split
      · exact (ih (failSeen_memOk h)).ok ‹_›
      · exact ih (failSeen_memOk h)
    · exact failSeen_memOk h
    · exact askPage_memOk h
    · exact h

theorem engReads_memOk {s : State} {w : Who} {l : List (Word × Nat)} {acc : List (Nat × Bool)} (h : MemOk s) :
    (engReads s w l acc).MemOk := by
  induction l generalizing s acc with
  | nil => exact h
  | cons a l ih =>
    unfold engReads
    split
    · exact ih ((engRead_memOk h).ok ‹_›)
    · exact (engRead_memOk h).fail ‹_›
    · exact (engRead_memOk h).hold ‹_›

theorem engWrite_memOk {s : State} {w : Who} {va : Word} {n x k : Nat} (h : MemOk s) : (engWrite s w va n x k).MemOk := by
  induction k generalizing s va n x with
  | zero => exact h
  | succ k ih =>
    unfold engWrite
    dsimp only
    split
    · exact h
    split
    · exact ih ((perfWrite_memOk h).ok ‹_›)
    · exact failSeen_memOk h
    · exact askPage_memOk h
    · exact h

theorem engWrites_memOk {s : State} {w : Who} {l : List (Word × Nat × Nat)} {i : Nat} (h : MemOk s) :
    (engWrites s w l i).MemOk := by
  induction l generalizing s i with
  | nil => exact h
  | cons a l ih =>
    unfold engWrites
    split
    · exact ih ((engWrite_memOk h).ok ‹_›)
    · exact (engWrite_memOk h).fail ‹_›
    · exact (engWrite_memOk h).hold ‹_›

theorem execEngqQueryRun_memOk {id : Nat} {s : State} (h : MemOk s) : NextOk (execEngqQueryRun id s) := by
  unfold execEngqQueryRun
  split
  · exact h
  split
  · exact h
  · exact finishCmd_memOk h

theorem execEngqDrainComplete_memOk {id : Nat} {s : State} (h : MemOk s) : NextOk (execEngqDrainComplete id s) := by
  unfold execEngqDrainComplete
  dsimp only
  split
  · exact h
  split
  · exact h
  show MemOk _
  split
  · split
    · exact finishCmd_memOk h
    · exact h
  split
  · exact finishCmd_memOk h
  · exact h

/-! ### Vector conversions -/

theorem vcvtBody_memOk {f : VForm} {s : State} (h : MemOk s) : (vcvtBody f s).MemOk := by
  unfold vcvtBody
  dsimp only
  exact writeV_memOk h

theorem vpackBody_memOk {f : VForm} {s : State} (h : MemOk s) : (vpackBody f s).MemOk := by
  unfold vpackBody
  dsimp only
  exact writeV_memOk h

theorem vunpack3Body_memOk {f : VForm} {s : State} (h : MemOk s) : (vunpack3Body f s).MemOk := by
  unfold vunpack3Body
  dsimp only
  split
  · exact withCur_memOk h
  split
  · trivial
  · exact withCur_memOk h

theorem vdot4Body_memOk {f : VForm} {s : State} (h : MemOk s) : (vdot4Body f s).MemOk := by
  unfold vdot4Body
  dsimp only
  exact writeVChecked_memOk h

theorem vtaccBody_memOk {f : VForm} {s : State} (h : MemOk s) : (vtaccBody f s).MemOk := by
  unfold vtaccBody
  dsimp only
  split
  · trivial
  · exact writeVChecked_memOk h

theorem vsparseBody_memOk {f : VForm} {s : State} (h : MemOk s) : (vsparseBody f s).MemOk := by
  unfold vsparseBody
  dsimp only
  exact withCur_memOk h

theorem vquantBody_memOk {f : VForm} {s : State} (h : MemOk s) : (vquantBody f s).MemOk := by
  unfold vquantBody
  dsimp only
  split
  · trivial
  · exact writeV_memOk h

theorem vdeqBody_memOk {f : VForm} {s : State} (h : MemOk s) : (vdeqBody f s).MemOk := by
  unfold vdeqBody
  dsimp only
  split
  · trivial
  · exact writeV_memOk h

/-! ### The mill -/

theorem mergedStep_memOk {leader : Nat} {f : Cmd → State → State} {s : State} {d : Cmd}
    (hf : ∀ (a : Cmd) (a_1 : State), MemOk a_1 → MemOk (f a a_1)) (h : MemOk s) :
    MemOk (mergedStep leader f s d) := by
  unfold mergedStep
  dsimp only
  split
  · split
    · exact putCmd_memOk (hf _ _ (setHam_memOk h))
    · exact hf _ _ (setHam_memOk h)
  · exact hf _ _ (setHam_memOk h)

theorem tileStep_memOk {op : CmdOp} {id : Nat} {f : Cmd → State → State} {s : State}
    (hf : ∀ (a : Cmd) (a_1 : State), MemOk a_1 → MemOk (f a a_1)) (h : MemOk s) :
    NextOk (tileStep op id f s) := by
  unfold tileStep
  dsimp only
  split
  · exact h
  split
  · exact h
  show MemOk _
  split
  · exact hf _ _ (setHam_memOk h)
  · exact foldl_memOk (fun _ _ ht => mergedStep_memOk (fun _ _ hu => hf _ _ hu) ht) (hf _ _ (setHam_memOk h))

theorem stepHeld_memOk {s s' : State} {c : Cmd} (h : MemOk s) : MemOk (stepHeld s s' c) := by
  unfold stepHeld
  exact putCmd_memOk h

theorem setMflg_memOk {s : State} {c : CoreRef} {zrep ovf res : Bool} (h : MemOk s) : MemOk (setMflg s c zrep ovf res) := by
  unfold setMflg
  dsimp only
  exact setCore_memOk h

theorem setZrep_memOk {s : State} {c : CoreRef} {row col src : Nat} (h : MemOk s) : MemOk (setZrep s c row col src) := by
  unfold setZrep
  dsimp only
  exact setCore_memOk h

theorem putPlane_memOk {s : State} {hm : HamRef} {i : Nat} {p : Plane} (h : MemOk s) : MemOk (putPlane s hm i p) := by
  unfold putPlane
  dsimp only
  exact setHam_memOk h

theorem loadFails_memOk {s : State} {c : Cmd} {code count : Nat} {va : Word} {rec' : Bool} (h : MemOk s) :
    MemOk (loadFails s c code count va rec') := by
  unfold loadFails
  exact finishCmd_memOk (putPlane_memOk h)

theorem recReadAll_memOk {s : State} {w : Who} {g4 : Bool} {gs : Nat} {l : List Word} {acc : List (Nat × Bool)} (h : MemOk s) :
    (recReadAll s w g4 gs l acc).MemOk := by
  induction l generalizing s acc with
  | nil => exact h
  | cons a l ih =>
    unfold recReadAll
    split
    · exact (engRead_memOk h).hold ‹_›
    · exact (engRead_memOk h).fail ‹_›
    split
    · exact (engRead_memOk h).ok ‹_›
    · exact ih ((engRead_memOk h).ok ‹_›)

theorem mloadwStep_memOk {c : Cmd} {s : State} (h : MemOk s) : MemOk (mloadwStep c s) := by
  unfold mloadwStep
  dsimp only
  split
  · exact stepHeld_memOk h
  · exact loadFails_memOk ((recReadAll_memOk h).fail ‹_›)
  · exact loadFails_memOk ((recReadAll_memOk h).bad ‹_›)
  split
  · exact stepHeld_memOk h
  · exact loadFails_memOk ((engReads_memOk ((recReadAll_memOk h).ok ‹_›)).fail ‹_›)
  · exact finishCmd_memOk (putPlane_memOk (foldl_memOk (fun _ _ ht => setZrep_memOk ht)
      (foldl_memOk (fun _ _ ht => setZrep_memOk ht) ((engReads_memOk ((recReadAll_memOk h).ok ‹_›)).ok ‹_›))))

theorem execMloadwRun_memOk {id : Nat} {s : State} (h : MemOk s) : NextOk (execMloadwRun id s) := by
  unfold execMloadwRun
  exact tileStep_memOk (fun _ _ ht => mloadwStep_memOk ht) h

theorem execMswapRun_memOk {id : Nat} {s : State} (h : MemOk s) : NextOk (execMswapRun id s) := by
  unfold execMswapRun
  dsimp only
  exact tileStep_memOk (fun _ _ ht => finishCmd_memOk (putPlane_memOk (putPlane_memOk ht))) h

theorem voidLoad_memOk {s : State} {c : Cmd} (h : MemOk s) : MemOk (voidLoad s c) := by
  unfold voidLoad
  dsimp only
  split
  · exact putCmd_memOk h
  · exact putPlane_memOk h

theorem streamRow_memOk {s : State} {c : Cmd} {i : Nat} (h : MemOk s) : (streamRow s c i).MemOk := by
  unfold streamRow
  dsimp only
  split
  · exact (recReadAll_memOk h).hold ‹_›
  · exact (recReadAll_memOk h).fail ‹_›
  · exact (recReadAll_memOk h).bad ‹_›
  split
  · exact (engReads_memOk ((recReadAll_memOk h).ok ‹_›)).hold ‹_›
  · exact (engReads_memOk ((recReadAll_memOk h).ok ‹_›)).fail ‹_›
  · exact (engReads_memOk ((recReadAll_memOk h).ok ‹_›)).ok ‹_›

theorem streamRows_memOk {s : State} {c : Cmd} {i n : Nat} (h : MemOk s) : MemOk (streamRows s c i n).s := by
  induction n generalizing s i with
  | zero => exact h
  | succ k ih =>
    unfold streamRows
    dsimp only
    split
    · exact (streamRow_memOk h).hold ‹_›
    · exact (streamRow_memOk h).stop ‹_›
    · exact ih ((streamRow_memOk h).ok ‹_›)

theorem mstreamStep_memOk {order : List Nat} {c : Cmd} {s : State} (h : MemOk s) : MemOk (mstreamStep order c s) := by
  have hbad : ∀ (n : Nat) (bad : List (Nat × Nat × Nat)),
      MemOk (bad.foldl (fun s e => setZrep s (coreRefOf c.w) e.1 e.2.1 e.2.2) (streamRows s c c.count n).s) :=
    fun _ _ => foldl_memOk (fun _ _ ht => setZrep_memOk ht) (streamRows_memOk h)
  have hread : ∀ (b : Bool) (n : Nat) (bad : List (Nat × Nat × Nat)) (x : Plane),
      MemOk (if b = true then bad.foldl (fun s e => setZrep s (coreRefOf c.w) e.1 e.2.1 e.2.2) (streamRows s c c.count n).s
        else putPlane (bad.foldl (fun s e => setZrep s (coreRefOf c.w) e.1 e.2.1 e.2.2) (streamRows s c c.count n).s)
          (cmdHam c) (2 * cmdQueue c) x) := by
    intro b n bad x
    split
    · exact hbad n bad
    · exact putPlane_memOk (hbad n bad)
  unfold mstreamStep
  extract_lets
  split
  · exact finishCmd_memOk h
  split
  · exact stepHeld_memOk h
  split
  · exact finishCmd_memOk (setMflg_memOk (setHam_memOk (hread _ _ _ _)))
  split
  · exact finishCmd_memOk (setMflg_memOk (setHam_memOk (hread _ _ _ _)))
  · exact putCmd_memOk (setMflg_memOk (setHam_memOk (hread _ _ _ _)))

theorem execMstreamTileStep_memOk {id : Nat} {order : List Nat} {s : State} (h : MemOk s) :
    NextOk (execMstreamTileStep id order s) := by
  unfold execMstreamTileStep
  exact tileStep_memOk (fun _ _ ht => mstreamStep_memOk ht) h

theorem mzeroStep_memOk {c : Cmd} {s : State} (h : MemOk s) : MemOk (mzeroStep c s) := by
  unfold mzeroStep
  dsimp only
  split
  · exact finishCmd_memOk h
  split
  · exact finishCmd_memOk (setHam_memOk h)
  · exact putCmd_memOk (setHam_memOk h)

theorem execMzeroTileStep_memOk {id : Nat} {s : State} (h : MemOk s) : NextOk (execMzeroTileStep id s) := by
  unfold execMzeroTileStep
  exact tileStep_memOk (fun _ _ ht => mzeroStep_memOk ht) h

theorem accrdStep_memOk {c : Cmd} {s : State} (h : MemOk s) : MemOk (accrdStep c s) := by
  unfold accrdStep
  dsimp only
  split
  · exact stepHeld_memOk h
  · exact finishCmd_memOk (setMflg_memOk (clearCovered_memOk ((engWrites_memOk h).fail ‹_›)))
  split
  · exact finishCmd_memOk (setMflg_memOk (clearCovered_memOk ((engWrites_memOk h).ok ‹_›)))
  · exact putCmd_memOk (setMflg_memOk (clearCovered_memOk ((engWrites_memOk h).ok ‹_›)))

theorem execAccrdTileStep_memOk {id : Nat} {s : State} (h : MemOk s) : NextOk (execAccrdTileStep id s) := by
  unfold execAccrdTileStep
  exact tileStep_memOk (fun _ _ ht => accrdStep_memOk ht) h

theorem accwrStep_memOk {c : Cmd} {s : State} (h : MemOk s) : MemOk (accwrStep c s) := by
  unfold accwrStep
  dsimp only
  split
  · exact stepHeld_memOk h
  · split
    · exact finishCmd_memOk (setMflg_memOk (foldl_memOk (fun _ _ ht => setZrep_memOk ht)
        (setHam_memOk ((engReads_memOk ((engReads_memOk h).fail ‹_›)).ok ‹_›))))
    · exact finishCmd_memOk ((engReads_memOk h).fail ‹_›)
  split
  · exact finishCmd_memOk (setMflg_memOk (foldl_memOk (fun _ _ ht => setZrep_memOk ht) (setHam_memOk ((engReads_memOk h).ok ‹_›))))
  · exact putCmd_memOk (setMflg_memOk (foldl_memOk (fun _ _ ht => setZrep_memOk ht) (setHam_memOk ((engReads_memOk h).ok ‹_›))))

theorem execAccwrTileStep_memOk {id : Nat} {s : State} (h : MemOk s) : NextOk (execAccwrTileStep id s) := by
  unfold execAccwrTileStep
  exact tileStep_memOk (fun _ _ ht => accwrStep_memOk ht) h

theorem execMstatQueryRun_memOk {id : Nat} {s : State} (h : MemOk s) : NextOk (execMstatQueryRun id s) := by
  unfold execMstatQueryRun
  dsimp only
  split
  · exact h
  split
  · exact h
  · exact finishCmd_memOk h

theorem scrubFound_memOk {s : State} {hm : HamRef} {t : Nat} (h : MemOk s) : MemOk (scrubFound s hm t) := by
  unfold scrubFound
  dsimp only
  refine foldl_memOk (fun _ _ ht => ?_) h
  split
  · exact ht
  · exact foldl_memOk (fun _ _ hu => setSlot_memOk hu) (setMflg_memOk ht)

theorem execScrubberRead_memOk {hm : HamRef} {tile : Nat} {s : State} (h : MemOk s) : NextOk (execScrubberRead hm tile s) := by
  unfold execScrubberRead
  dsimp only
  split
  · exact h
  split
  · exact scrubFound_memOk h
  · exact h

theorem execMillSubarrayGating_memOk {hm : HamRef} {sub : Nat} {s : State} (h : MemOk s) :
    NextOk (execMillSubarrayGating hm sub s) := by
  unfold execMillSubarrayGating
  dsimp only
  split
  · exact h
  · exact setHam_memOk h

theorem execAccumulatorFlip_memOk {id : Nat} {s : State} (h : MemOk s) : NextOk (execAccumulatorFlip id s) := by
  unfold execAccumulatorFlip
  dsimp only
  exact tileStep_memOk (fun _ _ ht => finishCmd_memOk (setHam_memOk ht)) h

/-! ### Pages -/

theorem copyFrame_memOk {s : State} {a b : Nat} (h : MemOk s) : MemOk (copyFrame s a b) := by
  have hput : ∀ (t : State) (ecc : Tbl Ecc) (poison : Tbl Bool), MemOk t → MemOk { t with ecc := ecc, poison := poison } :=
    fun _ _ _ ht => ht
  exact hput _ _ _ (foldl_memOk (fun _ _ ht => writeFlat_memOk ht) h)

theorem installLeaf_memOk {s : State} {p : PageRef} {at_ : Nat} {e : Word} (h : MemOk s) : MemOk (installLeaf s p at_ e) := by
  unfold installLeaf
  dsimp only
  exact setPage_memOk (memWrite_wf _ _ _ (recallPage_memOk h))

theorem movePage_memOk {s : State} {p : PageRef} {at_ src f : Nat} (h : MemOk s) : MemOk (movePage s p at_ src f) := by
  unfold movePage
  dsimp only
  exact installLeaf_memOk (copyFrame_memOk (recallPage_memOk h))

theorem migratePage_memOk {s : State} {p : PageRef} {t : Tier} (h : MemOk s) : (migratePage s p t).MemOk := by
  unfold migratePage
  dsimp only
  split
  · split
    · trivial
    split
    · trivial
    split
    · trivial
    · trivial
    · trivial
    · exact movePage_memOk h
    · exact movePage_memOk h
    · exact movePage_memOk h
    · trivial
  · trivial

theorem poisonFrame_memOk {s : State} {m f : Nat} (h : MemOk s) : MemOk (poisonFrame s m f) := by
  unfold poisonFrame
  exact foldl_memOk (fun _ _ ht => setPoison_memOk ht) h

theorem poisonPage_memOk {s : State} {p : PageRef} {e : Word} (h : MemOk s) : MemOk (poisonPage s p e) := by
  unfold poisonPage
  exact poisonFrame_memOk h

theorem keepPage_memOk {s : State} {p : PageRef} {old new : Word} (h : MemOk s) : MemOk (keepPage s p old new) := by
  unfold keepPage
  dsimp only
  split
  · exact setPage_memOk h
  split
  · exact h
  split
  · exact setPage_memOk (foldl_memOk (fun _ _ ht => setPoison_memOk ht) (fillFrame_memOk h))
  split
  · exact setPage_memOk h
  · exact h

theorem evictPage_memOk {s : State} {q : PageRef × Word × Nat} (h : MemOk s) : MemOk (evictPage s q) := by
  unfold evictPage
  dsimp only
  exact installLeaf_memOk (keepPage_memOk (recallPage_memOk h))

theorem execPageMadeResident_memOk {p : PageRef} {leaf : Word} {s : State} (h : MemOk s) :
    NextOk (execPageMadeResident p leaf s) := by
  unfold execPageMadeResident
  dsimp only
  split
  · split
    · exact h
    split
    · split
      · split
        · exact h
        · exact fillSnaps_memOk (setPage_memOk (memWrite_wf _ _ _
            (keepPage_memOk (numberPages_memOk (foldl_memOk (fun _ _ ht => evictPage_memOk ht) h)))))
      split
      · exact h
      · exact fillSnaps_memOk (setPage_memOk (memWrite_wf _ _ _
          (keepPage_memOk (numberPages_memOk (foldl_memOk (fun _ _ ht => evictPage_memOk ht) h)))))
    split
    · exact setPage_memOk h
    · exact h
  · exact h

/-! ### Protected blocks and stripe rows -/

theorem putRow_memOk {s : State} {j n : Nat} {f : RowSt → RowSt} (h : MemOk s) : MemOk (putRow s j n f) := by
  unfold putRow
  dsimp only
  exact setMod_memOk h

theorem commitBlock_memOk {s : State} {p : PageRef} {va : Word} {eras : Bool} (h : MemOk s) :
    ∀ t ∈ commitBlock s p va eras, MemOk t := by
  unfold commitBlock
  split
  · exact some_memOk h
  dsimp only
  split
  · exact some_memOk (putRow_memOk h)
  generalize blockAt s p.m va = new
  split
  · exact some_memOk (putRow_memOk h)
  · exact nofun

theorem commitRows_memOk {s : State} {k : Cut} (h : MemOk s) : ∀ t ∈ commitRows s k, MemOk t :=
  foldl_inv (P := fun o : Option State => ∀ t ∈ o, MemOk t) (fun _ _ ho => bind_memOk ho fun _ ht => commitBlock_memOk ht)
    (some_memOk h)

theorem loseMember_memOk {s : State} {j n t : Nat} (h : MemOk s) : MemOk (loseMember s j n t) := by
  unfold loseMember
  exact putRow_memOk h

theorem loseBlock_memOk {s : State} {m k : Nat} (h : MemOk s) : MemOk (loseBlock s m k) := by
  unfold loseBlock
  exact loseMember_memOk h

theorem dropHopeless_memOk {s : State} (h : MemOk s) : MemOk (dropHopeless s) := by
  unfold dropHopeless
  dsimp only
  refine foldl_memOk (fun _ _ ht => ?_) h
  split
  · refine setPage_memOk ?_
    split
    · exact poisonPage_memOk ht
    · exact ht
  · exact ht

/-! ### Copies, collectives, checkpoints and migrations -/

theorem engineRun_memOk {op : CmdOp} {id : Nat} {f : Cmd → State → State} {s : State}
    (hf : ∀ (a : Cmd) (a_1 : State), MemOk a_1 → MemOk (f a a_1)) (h : MemOk s) :
    NextOk (engineRun op id f s) := by
  unfold engineRun
  split
  · exact h
  split
  · exact hf _ _ h
  · exact h

theorem runHeld_memOk {s s' : State} (h : MemOk s) : MemOk (runHeld s s') := h

theorem copySource_memOk {s : State} {w : Who} {j : CopyJob} {i k : Nat} {acc : List (List Byte)} (h : MemOk s) :
    (∀ r ∈ (copySource s w j i k acc).1, MemOk r.1) ∧ MemOk (copySource s w j i k acc).2 := by
  have hsome : ∀ {t : State} {x : List Byte × Option (Nat × Word)}, MemOk t → ∀ r ∈ some (t, x), MemOk r.1 := by
    rintro t x ht _ ⟨⟩
    exact ht
  induction k generalizing s i acc with
  | zero => exact ⟨hsome h, h⟩
  | succ k ih =>
    unfold copySource
    dsimp only
    split
    · exact ⟨hsome h, h⟩
    split
    · exact ih ((perfRead_memOk h).ok ‹_›)
    · exact ⟨hsome (failSeen_memOk h), h⟩
    · exact ⟨nofun, askPage_memOk h⟩
    · exact ⟨nofun, h⟩

theorem copyOut_memOk {s : State} {c : Cmd} {j : CopyJob} {i n k : Nat} (h : MemOk s) : (copyOut s c j i n k).MemOk := by
  induction k generalizing s i n with
  | zero => exact h
  | succ k ih =>
    unfold copyOut
    dsimp only
    split
    · exact h
    split
    · split
      · exact h
      split
      · exact ih (spread_memOk ((perfWrite_memOk h).ok ‹_›))
      · exact failSeen_memOk h
      · exact askPage_memOk h
      · exact h
    split
    · exact h
    split
    · exact ih (spread_memOk ((perfWrite_memOk h).ok ‹_›))
    · exact failSeen_memOk h
    · exact askPage_memOk h
    · exact h

theorem copyClears_memOk {s : State} {c : Cmd} {j : CopyJob} {a b : Nat} (h : MemOk s) : MemOk (copyClears s c j a b) := by
  unfold copyClears
  exact clearCovered_memOk h

theorem copyBegin_memOk {c : Cmd} {j : CopyJob} {s : State} (h : MemOk s) : MemOk (copyBegin c j s) := by
  have hsrc := (copySource_memOk (w := cmdWho c) (j := j) (i := 0) (k := j.rows * j.len) (acc := []) h).1
  unfold copyBegin
  split
  · split
    · exact finishCmd_memOk h
    split
    · exact finishCmd_memOk h
    split
    · exact runHeld_memOk h
    · next e =>
      rw [e] at hsrc
      exact putCmd_memOk (hsrc _ rfl)
  · split
    · exact runHeld_memOk h
    · next e =>
      rw [e] at hsrc
      exact putCmd_memOk (hsrc _ rfl)

theorem copyStep_memOk {n : Nat} {c : Cmd} {s : State} (h : MemOk s) : MemOk (copyStep n c s) := by
  unfold copyStep
  dsimp only
  split
  · exact copyBegin_memOk h
  split
  · split
    · exact runHeld_memOk h
    · exact finishCmd_memOk (copyClears_memOk ((copyOut_memOk h).fail ‹_›))
    · exact putCmd_memOk (copyClears_memOk ((copyOut_memOk h).ok ‹_›))
  split
  · exact finishCmd_memOk h
  split
  · exact finishCmd_memOk h
  split
  · split
    · exact finishCmd_memOk h
    split
    · exact finishCmd_memOk (spread_memOk ((perfWrite_memOk h).ok ‹_›))
    · exact finishCmd_memOk (failSeen_memOk h)
    · exact askPage_memOk h
    · exact h
  split
  · exact finishCmd_memOk h
  split
  · exact finishCmd_memOk (spread_memOk ((perfWrite_memOk h).ok ‹_›))
  · exact finishCmd_memOk (failSeen_memOk h)
  · exact askPage_memOk h
  · exact h

theorem execCpyRun_memOk {id n : Nat} {s : State} (h : MemOk s) : NextOk (execCpyRun id n s) := by
  unfold execCpyRun
  exact engineRun_memOk (fun _ _ ht => copyStep_memOk ht) h

theorem execCpy2Run_memOk {id n : Nat} {s : State} (h : MemOk s) : NextOk (execCpy2Run id n s) := by
  unfold execCpy2Run
  exact engineRun_memOk (fun _ _ ht => copyStep_memOk ht) h

theorem execCpyrRun_memOk {id n : Nat} {s : State} (h : MemOk s) : NextOk (execCpyrRun id n s) := by
  unfold execCpyrRun
  exact engineRun_memOk (fun _ _ ht => copyStep_memOk ht) h

theorem collEnd_memOk {s : State} {cs : List Cmd} {code : Nat} (h : MemOk s) : MemOk (collEnd s cs code) := by
  unfold collEnd
  exact foldl_memOk (fun _ _ ht => finishCmd_memOk ht) h

theorem collRead_memOk {s : State} {done cs : List Cmd} {data : List (List Nat)} {bad : List (Nat × Nat × Word)} (h : MemOk s) :
    (∀ r ∈ (collRead s done cs data bad).1, MemOk r.1) ∧ MemOk (collRead s done cs data bad).2 := by
  induction cs generalizing s done data bad with
  | nil =>
    refine ⟨?_, h⟩
    rintro _ ⟨⟩
    exact h
  | cons c cs ih =>
    unfold collRead
    dsimp only
    split
    · exact ih h
    split
    · exact ⟨nofun, (engReads_memOk h).hold ‹_›⟩
    · exact ih ((engReads_memOk h).fail ‹_›)
    · split
      · exact ih ((engReads_memOk h).ok ‹_›)
      · exact ih ((engReads_memOk h).ok ‹_›)

theorem collWrite_memOk {s : State} {cs : List (Cmd × List Nat)} {ovf : Bool} (h : MemOk s) :
    (∀ t ∈ (collWrite s cs ovf).1, MemOk t) ∧ MemOk (collWrite s cs ovf).2 := by
  induction cs generalizing s with
  | nil => exact ⟨some_memOk h, h⟩
  | cons c cs ih =>
    unfold collWrite
    dsimp only
    split
    · exact ih h
    split
    · exact ⟨nofun, (engWrites_memOk h).hold ‹_›⟩
    · exact ih (finishCmd_memOk ((engWrites_memOk h).fail ‹_›))
    · exact ih (finishCmd_memOk (clearWhole_memOk ((engWrites_memOk h).ok ‹_›)))

theorem collStep_memOk {order : List Nat} {c : Cmd} {s : State} (h : MemOk s) : MemOk (collStep order c s) := by
  unfold collStep
  dsimp only
  split
  · exact putCmd_memOk h
  split
  · exact collEnd_memOk (putCmd_memOk h)
  split
  · exact runHeld_memOk (putCmd_memOk h)
  next s1 _ bad _ e =>
    have hs1 : MemOk s1 := (collRead_memOk (putCmd_memOk h)).1 _ (by rw [e]; rfl)
    split
    · split
      · next e' => exact (collWrite_memOk hs1).1 _ (by rw [e']; rfl)
      · exact runHeld_memOk (putCmd_memOk h)
    · exact foldl_memOk (fun _ _ ht => finishCmd_memOk ht) hs1

theorem execCollRun_memOk {id : Nat} {order : List Nat} {s : State} (h : MemOk s) : NextOk (execCollRun id order s) := by
  unfold execCollRun
  exact engineRun_memOk (fun _ _ ht => collStep_memOk ht) h

theorem ecodePar_memOk {s : State} {c : Cmd} {ps : List (Nat × Word)} {out : Nat → Nat → Nat} (h : MemOk s) :
    (ecodePar s c ps out).MemOk := by
  induction ps generalizing s with
  | nil => exact h
  | cons p ps ih =>
    unfold ecodePar
    have hr : (if c.sub = 1 then engRead s (cmdWho c) p.2 1 1 else .ok s 0 false).MemOk := by
      split
      · exact engRead_memOk h
      · exact h
    split
    · exact hr.hold ‹_›
    · exact hr.fail ‹_›
    · exact hr.ok ‹_›
    split
    · exact (engWrite_memOk (hr.ok ‹_›)).hold ‹_›
    · exact (engWrite_memOk (hr.ok ‹_›)).fail ‹_›
    · exact ih (spread_memOk ((engWrite_memOk (hr.ok ‹_›)).ok ‹_›))

theorem ecodeByte_memOk {s s0 : State} {c : Cmd} {cs : List Nat} {i : Nat} (h : MemOk s) : (ecodeByte s s0 c cs i).MemOk := by
  unfold ecodeByte
  dsimp only
  split
  · exact (engReads_memOk h).hold ‹_›
  · exact (engReads_memOk h).fail ‹_›
  split
  · exact (engReads_memOk h).ok ‹_›
  · exact ecodePar_memOk ((engReads_memOk h).ok ‹_›)

theorem ecodeBytes_memOk {s s0 : State} {c : Cmd} {cs : List Nat} {i n : Nat} {r : EcRes} {j : Nat} (h : MemOk s)
    (e : ecodeBytes s s0 c cs i n = (r, j)) : r.MemOk := by
  induction n generalizing s i with
  | zero =>
    cases e
    exact h
  | succ n ih =>
    unfold ecodeBytes at e
    split at e
    · exact ih ((ecodeByte_memOk h).ok ‹_›) e
    · cases e
      exact ecodeByte_memOk h

theorem ecodeStep_memOk {c : Cmd} {s : State} (h : MemOk s) : MemOk (ecodeStep c s) := by
  unfold ecodeStep
  dsimp only
  split
  · exact runHeld_memOk h
  · exact finishCmd_memOk ((engReads_memOk h).fail ‹_›)
  next er =>
    have hr : MemOk _ := (engReads_memOk h).ok er
    split
    · exact finishCmd_memOk hr
    split
    · exact runHeld_memOk h
    · next e => exact finishCmd_memOk ((ecodeBytes_memOk hr e).fail rfl)
    · next e =>
      exact finishCmd_memOk (foldl_memOk (fun _ _ ht => clearWhole_memOk ht) ((ecodeBytes_memOk hr e).ok rfl))

theorem execEcodeRun_memOk {id : Nat} {s : State} (h : MemOk s) : NextOk (execEcodeRun id s) := by
  unfold execEcodeRun
  exact engineRun_memOk (fun _ _ ht => ecodeStep_memOk ht) h

theorem readDesc_memOk {s : State} {c : Cmd} (h : MemOk s) : (readDesc s c).MemOk := by
  unfold readDesc
  exact engRead_memOk h

theorem dropCut_memOk {s : State} {c : Cmd} (h : MemOk s) : MemOk (dropCut s c) := by
  unfold dropCut
  dsimp only
  exact unhold_memOk (freePages_memOk (setMod_memOk h))

theorem failCut_memOk {s : State} {c : Cmd} {code : Nat} {va : Word} (h : MemOk s) : MemOk (failCut s c code va) := by
  unfold failCut
  exact dropCut_memOk (finishCmd_memOk h)

theorem cutBegin_memOk {c : Cmd} {s : State} (h : MemOk s) : MemOk (cutBegin c s) := by
  unfold cutBegin
  split
  · exact finishCmd_memOk h
  split
  · exact h
  split
  · exact runHeld_memOk h
  · exact finishCmd_memOk ((readDesc_memOk h).fail ‹_›)
  split
  · exact finishCmd_memOk ((readDesc_memOk h).ok ‹_›)
  split
  · exact finishCmd_memOk ((readDesc_memOk h).ok ‹_›)
  · exact putCmd_memOk ((readDesc_memOk h).ok ‹_›)

theorem cutBoundary_memOk {c : Cmd} {x : Launch} {s : State} (h : MemOk s) : MemOk (cutBoundary c x s) := by
  unfold cutBoundary
  dsimp only
  split
  · exact runHeld_memOk h
  · exact failCut_memOk ((readDesc_memOk h).fail ‹_›)
  split
  · exact failCut_memOk ((readDesc_memOk h).ok ‹_›)
  split
  · exact failCut_memOk ((readDesc_memOk h).ok ‹_›)
  · exact askPage_memOk ((readDesc_memOk h).ok ‹_›)
  · exact (readDesc_memOk h).ok ‹_›
  split
  · exact (readDesc_memOk h).ok ‹_›
  · exact unhold_memOk (putCmd_memOk (setMod_memOk (foldl_memOk (fun _ _ ht => setPage_memOk ht)
      (writeRecords_memOk (foldl_memOk (fun _ _ ht => recallPage_memOk ht) (mergeLogs_memOk ((readDesc_memOk h).ok ‹_›)))))))

theorem execCkptCutBoundary_memOk {id : Nat} {s : State} (h : MemOk s) : NextOk (execCkptCutBoundary id s) := by
  unfold execCkptCutBoundary
  refine engineRun_memOk (fun _ _ ht => ?_) h
  split
  · exact ht
  split
  · exact cutBegin_memOk ht
  split
  · exact ht
  split
  · exact failCut_memOk ht
  split
  · exact cutBoundary_memOk ht
  · exact ht

theorem putCut_memOk {s : State} {c : Cmd} {k : Cut} (h : MemOk s) : MemOk (putCut s c k) := by
  unfold putCut
  dsimp only
  exact setMod_memOk h

theorem execCkptPageCopy_memOk {id i : Nat} {s : State} (h : MemOk s) : NextOk (execCkptPageCopy id i s) := by
  unfold execCkptPageCopy
  dsimp only
  refine engineRun_memOk (fun _ _ ht => ?_) h
  split
  · exact ht
  split
  · exact ht
  split
  · exact ht
  split
  · split
    · exact failCut_memOk ht
    split
    · exact failCut_memOk ht
    · exact failCut_memOk ht
    · exact askPage_memOk ht
    · exact askPage_memOk ht
    · exact ht
    · exact ht
    · exact putCmd_memOk (freePages_memOk (putCut_memOk (setLeafBits_memOk (memWrite_wf _ _ _ (devWords_memOk ht)))))
  · exact askPage_memOk ht
  · exact freePages_memOk (putCut_memOk ht)

theorem execCkptCommit_memOk {id : Nat} {s : State} (h : MemOk s) : NextOk (execCkptCommit id s) := by
  unfold execCkptCommit
  dsimp only
  refine engineRun_memOk (fun _ _ ht => ?_) h
  split
  · exact ht
  split
  · exact ht
  split
  · exact runHeld_memOk ht
  · exact failCut_memOk ((engWrites_memOk ht).fail ‹_›)
  split
  · exact failCut_memOk ((engWrites_memOk ht).ok ‹_›)
  · exact dropHopeless_memOk (finishCmd_memOk (putCut_memOk (commitRows_memOk ((engWrites_memOk ht).ok ‹_›) _ ‹_›)))

theorem execCkptRestoreRun_memOk {id : Nat} {s : State} (h : MemOk s) : NextOk (execCkptRestoreRun id s) := by
  unfold execCkptRestoreRun
  dsimp only
  refine engineRun_memOk (fun _ _ ht => ?_) h
  split
  · exact ht
  split
  · exact finishCmd_memOk ht
  split
  · exact runHeld_memOk ht
  · exact finishCmd_memOk ((readDesc_memOk ht).fail ‹_›)
  split
  · exact finishCmd_memOk ((readDesc_memOk ht).ok ‹_›)
  split
  · exact finishCmd_memOk ((readDesc_memOk ht).ok ‹_›)
  split
  · exact finishCmd_memOk ((readDesc_memOk ht).ok ‹_›)
  split
  · exact finishCmd_memOk ((restoreCut_memOk ((readDesc_memOk ht).ok ‹_›)).done ‹_›)
  · exact finishCmd_memOk ((restoreCut_memOk ((readDesc_memOk ht).ok ‹_›)).fail ‹_›)
  · exact askPage_memOk ht
  · exact ht

theorem migrNext_memOk {t : Tier} {r : MigrRes} {p : PageRef} (hr : r.MemOk) : (migrNext t r p).MemOk := by
  unfold migrNext
  split
  · split
    · exact (migratePage_memOk hr).moved ‹_›
    · exact hr
    · exact hr
    · trivial
  · exact hr

theorem execMigrRun_memOk {id : Nat} {s : State} (h : MemOk s) : NextOk (execMigrRun id s) := by
  unfold execMigrRun
  dsimp only
  refine engineRun_memOk (fun c t ht => ?_) h
  have hr : ∀ ps : List PageRef, (ps.foldl (migrNext (tierNum (bf c.blk 3 1 0))) (.going t 0)).MemOk := fun _ =>
    foldl_inv (P := MigrRes.MemOk) (fun _ _ hr => migrNext_memOk hr) ht
  split
  · exact finishCmd_memOk ((hr _).going ‹_›)
  · exact finishCmd_memOk ((hr _).fail ‹_›)
  · exact ht

theorem execEngineWatchdogExpiry_memOk {id : Nat} {s : State} (h : MemOk s) : NextOk (execEngineWatchdogExpiry id s) := by
  unfold execEngineWatchdogExpiry
  dsimp only
  split
  · exact h
  split
  · exact h
  show MemOk _
  split
  · exact dropCut_memOk (finishCmd_memOk h)
  · exact voidLoad_memOk (finishCmd_memOk h)
  · split
    · exact finishCmd_memOk h
    · exact voidLoad_memOk (finishCmd_memOk h)
  · exact finishCmd_memOk h

/-! ### Recoveries -/

theorem putService_memOk {s : State} {m : Nat} {f : Service → Service} (h : MemOk s) : MemOk (putService s m f) := by
  unfold putService
  dsimp only
  exact setMod_memOk h

theorem setWork_memOk {s : State} {m : Nat} {w : List Recov} (h : MemOk s) : MemOk (setWork s m w) := by
  unfold setWork
  exact putService_memOk h

theorem stopLaunches_memOk {s : State} {m k : Nat} {fail : Bool} (h : MemOk s) : MemOk (stopLaunches s m k fail) := by
  unfold stopLaunches
  dsimp only
  refine foldl_memOk (fun _ _ ht => ?_) h
  split
  · split
    · refine setLaunch_memOk ?_
      split
      · split
        · exact resetLaunch_memOk ht
        · exact ht
      · exact ht
    split
    · split
      · exact resetLaunch_memOk ht
      · exact ht
    · exact ht
  split
  · split
    · exact resetLaunch_memOk ht
    · exact ht
  · exact ht

theorem stepDone_memOk {s : State} {m : Nat} (h : MemOk s) : MemOk (stepDone s m) := by
  unfold stepDone
  exact putService_memOk h

theorem dropEngines_memOk {s : State} {m die code : Nat} (h : MemOk s) : MemOk (dropEngines s m die code) := by
  unfold dropEngines
  dsimp only
  refine foldl_memOk (fun _ _ ht => ?_) h
  split
  · exact dropCut_memOk (finishCmd_memOk ht)
  · exact finishCmd_memOk ht

theorem loseFrames_memOk {s : State} {m : Nat} {y : Mod} (h : MemOk s) : MemOk (loseFrames s m y) := by
  unfold loseFrames
  dsimp only
  refine dropHopeless_memOk ?_
  refine foldl_memOk ?_ ?_
  · intro _ _ ht
    split
    · split
      · exact loseBlock_memOk ht
      · exact ht
    · exact ht
  · refine foldl_memOk (fun _ _ ht => ?_) h
    split
    · split
      · exact loseBlock_memOk (setPage_memOk (recallPage_memOk ht))
      · exact poisonPage_memOk (recallPage_memOk ht)
    · exact ht

theorem loseSlice_memOk {s : State} {m slice : Nat} {y : Mod} (h : MemOk s) : MemOk (loseSlice s m slice y) := by
  unfold loseSlice
  dsimp only
  refine foldl_memOk (fun _ _ ht => ?_) h
  split
  · exact ht
  split
  · exact setPoison_memOk (setLine_memOk ht)
  · exact setLine_memOk ht

theorem loseParity_memOk {s : State} {m die : Nat} {both : Bool} (h : MemOk s) : MemOk (loseParity s m die both) := by
  unfold loseParity
  refine foldl_memOk (fun _ _ ht => ?_) h
  split
  · exact loseMember_memOk ht
  · exact ht

theorem loseTier_memOk {s : State} {m code : Nat} (h : MemOk s) : MemOk (loseTier s m code) := by
  unfold loseTier
  dsimp only
  split
  · exact loseFrames_memOk (setMod_memOk h)
  refine loseFrames_memOk ?_
  split
  · exact loseSlice_memOk (dropEngines_memOk (setMod_memOk h))
  · exact loseParity_memOk (dropEngines_memOk (setMod_memOk h))

theorem advance_memOk {s : State} {m n : Nat} (h : MemOk s) : MemOk (advance s m n) := by
  induction n generalizing s with
  | zero => exact h
  | succ k ih =>
    unfold advance
    dsimp only
    split
    · exact h
    split
    · exact h
    split
    · exact ih (loseTier_memOk (setWork_memOk h))
    split
    · split
      · exact h
      · exact ih (setWork_memOk (stopLaunches_memOk h))
    · split
      · exact h
      · exact ih (setWork_memOk h)
    split
    · exact h
    · exact ih (setWork_memOk h)

theorem recover_memOk {s : State} {m : Nat} (h : MemOk s) : MemOk (recover s m) := by
  unfold recover
  split
  · exact h
  · exact advance_memOk h

theorem execCheckpointRestart_memOk {l : LaunchRef} {s : State} (h : MemOk s) : NextOk (execCheckpointRestart l s) := by
  have hstop : ∀ x status, MemOk (recover (ended (dropLayouts (stepDone s l.m) l x) l x status 0) l.m) := fun _ _ =>
    recover_memOk (ended_memOk (dropLayouts_memOk (stepDone_memOk h)))
  have hseen : ∀ x : Launch, MemOk (if x.dieLost then recSeen s l.m x.raw 12 else s) := by
    intro x
    split
    · exact recSeen_memOk h
    · exact h
  unfold execCheckpointRestart
  dsimp only
  split
  · exact h
  split
  · exact h
  split
  · exact hstop _ _
  split
  · exact h
  split
  · exact askAny_memOk h
  · exact hstop _ _
  · exact hstop _ _
  split
  · exact askAny_memOk h
  · exact hstop _ _
  next e =>
    have hr : MemOk _ := (restoreCut_memOk (hseen _)).done e
    refine recover_memOk (askPass_memOk ?_)
    split
    · exact setLaunch_memOk (stepDone_memOk hr)
    · exact hr

/-! ### Events of dies and tokens -/

theorem recallRange_memOk {s : State} {p : PageRef} {n : Nat} (h : MemOk s) : MemOk (recallRange s p n) := by
  unfold recallRange
  dsimp only
  exact recallLines_memOk (foldl_memOk (fun _ _ ht => returnLines_memOk ht) h)

theorem execPageTableChange_memOk {p : PageRef} {level : Nat} {entry : Word} {s : State} (h : MemOk s) :
    NextOk (execPageTableChange p level entry s) := by
  unfold execPageTableChange
  dsimp only
  split
  · exact h
  split
  · split
    · exact h
    split
    · exact setMod_memOk (recallRange_memOk h)
    split
    · exact setMod_memOk (recallRange_memOk h)
    · exact recallRange_memOk h
  split
  · exact h
  split
  · exact h
  split
  · exact memWrite_wf _ _ _ (recallRange_memOk h)
  · exact fillSnaps_memOk (numberPages_memOk (memWrite_wf _ _ _ (keepPage_memOk (recallRange_memOk h))))

theorem execThresholdMigration_memOk {p : PageRef} {s : State} (h : MemOk s) : NextOk (execThresholdMigration p s) := by
  unfold execThresholdMigration
  dsimp only
  split
  · split
    · exact h
    split
    · exact h
    split
    · exact (migratePage_memOk h).moved ‹_›
    · exact h
    · exact setPage_memOk h
  · exact h

theorem execTransientRequest_memOk {l : LineRef} {hm : HamRef} {write arrive : Bool} {s : State} (h : MemOk s) :
    NextOk (execTransientRequest l hm write arrive s) := by
  unfold execTransientRequest
  dsimp only
  split
  · show MemOk _
    split
    · exact setLine_memOk h
    · exact h
  split
  · exact h
  split
  · exact setLine_memOk h
  split
  · exact h
  · exact setLine_memOk h

theorem execTokenAttemptTimeout_memOk {l : LineRef} {hm : HamRef} {s : State} (h : MemOk s) :
    NextOk (execTokenAttemptTimeout l hm s) := by
  unfold execTokenAttemptTimeout
  dsimp only
  show MemOk _
  split
  · exact setLine_memOk h
  · exact h

theorem execPersistentRequest_memOk {l : LineRef} {hm : HamRef} {write : Bool} {s : State} (h : MemOk s) :
    NextOk (execPersistentRequest l hm write s) := by
  unfold execPersistentRequest
  dsimp only
  show MemOk _
  split
  · split
    · exact setLine_memOk h
    · exact h
  split
  · exact setLine_memOk h
  · exact h

theorem execPersistentActivation_memOk {l : LineRef} {s : State} (h : MemOk s) : NextOk (execPersistentActivation l s) := by
  unfold execPersistentActivation
  dsimp only
  split
  · exact h
  split
  · exact h
  · exact setLine_memOk h

theorem execPersistentDeactivation_memOk {l : LineRef} {s : State} (h : MemOk s) : NextOk (execPersistentDeactivation l s) := by
  unfold execPersistentDeactivation
  dsimp only
  split
  · exact h
  show MemOk _
  split
  · exact setLine_memOk h
  · exact h

theorem execLineEviction_memOk {l : LineRef} {hm : HamRef} {s : State} (h : MemOk s) : NextOk (execLineEviction l hm s) := by
  unfold execLineEviction
  show MemOk _
  split
  · exact returnHam_memOk h
  · exact h

theorem freezePages_memOk {s : State} {member : Nat} {f : LineRef → Line → Bool} (h : MemOk s) :
    MemOk (freezePages s member f) := by
  unfold freezePages
  dsimp only
  refine foldl_memOk (fun _ _ ht => ?_) h
  split
  · exact ht
  · exact setPage_memOk ht

theorem recoverLine_memOk {s : State} {l : LineRef} {lost : List Nat} (h : MemOk s) : MemOk (recoverLine s l lost) := by
  unfold recoverLine
  dsimp only
  split
  · split
    · split
      · split
        · exact settleD_memOk (setLine_memOk h)
        · exact setLine_memOk h
      refine setPoison_memOk ?_
      split
      · exact settleD_memOk (setLine_memOk h)
      · exact setLine_memOk h
    split
    · split
      · split
        · exact settleD_memOk (setLine_memOk h)
        · exact setLine_memOk h
      refine setPoison_memOk ?_
      split
      · exact settleD_memOk (setLine_memOk h)
      · exact setLine_memOk h
    split
    · split
      · exact settleD_memOk (setLine_memOk h)
      · exact setLine_memOk h
    refine setPoison_memOk ?_
    split
    · exact settleD_memOk (setLine_memOk h)
    · exact setLine_memOk h
  · exact setLine_memOk h

theorem execTokenRecoveryComplete_memOk {p : PageRef} {s : State} (h : MemOk s) : NextOk (execTokenRecoveryComplete p s) := by
  unfold execTokenRecoveryComplete
  dsimp only
  split
  · exact h
  show MemOk _
  refine foldl_memOk (fun _ _ ht => recover_memOk ht) ?_
  refine stepDone_memOk ?_
  refine setPage_memOk ?_
  refine foldl_memOk (fun _ _ ht => ?_) h
  split
  · exact recoverLine_memOk ht
  · exact ht

theorem failCuts_memOk {s : State} {m k : Nat} (h : MemOk s) : MemOk (failCuts s m k) := by
  unfold failCuts
  exact foldl_memOk (fun _ _ ht => failCut_memOk ht) h

theorem declareDie_memOk {s : State} {m site : Nat} (h : MemOk s) : MemOk (declareDie s m site) := by
  unfold declareDie
  dsimp only
  split
  · exact stepDone_memOk (setMod_memOk h)
  · exact recover_memOk (setWork_memOk (dropEngines_memOk (failCuts_memOk
      (freezePages_memOk (freezePages_memOk (stepDone_memOk (setMod_memOk h)))))))

theorem execDieFailureDeclared_memOk {m site : Nat} {s : State} (h : MemOk s) : NextOk (execDieFailureDeclared m site s) := by
  unfold execDieFailureDeclared
  dsimp only
  split
  · exact h
  · exact declareDie_memOk h

/-- Writing bytes one by one keeps the canonical form. -/
theorem foldl_memPut_wf {mem : Memory} {l : List Nat} {a : Nat} {f : Nat → Byte} (h : mem.wf = true) :
    (l.foldl (fun t i => memPut t (a + i) (f i)) mem).wf = true :=
  foldl_inv (P := fun m : Memory => m.wf = true) (fun _ _ hm => memPut_wf _ _ hm) h

theorem freshDie_memOk {s : State} {m k : Nat} (h : MemOk s) : MemOk (freshDie s m k) := by
  have hmem : ∀ n, ((List.range n).foldl (fun t i => memPut t (localFlat ⟨m, k, 0⟩ 0 + i) (Config.freeByte s.clk i)) s.mem).wf = true :=
    fun _ => foldl_memPut_wf h
  unfold freshDie
  generalize 384 * 2 ^ 20 = n
  exact setMod_memOk (hmem n)

theorem execSpareTakeover_memOk {m die site : Nat} {testOk : Bool} {s : State} (h : MemOk s) :
    NextOk (execSpareTakeover m die site testOk s) := by
  unfold execSpareTakeover
  dsimp only
  split
  · exact h
  split
  · exact recover_memOk (stepDone_memOk (setMod_memOk h))
  · exact recover_memOk (stepDone_memOk (freshDie_memOk (setMod_memOk h)))

theorem putDie_memOk {s : State} {m k : Nat} {f : DieSt → DieSt} (h : MemOk s) : MemOk (putDie s m k f) := by
  unfold putDie
  dsimp only
  exact setMod_memOk h

theorem execDieEvacuation_memOk {m die : Nat} {s : State} (h : MemOk s) : NextOk (execDieEvacuation m die s) := by
  unfold execDieEvacuation
  dsimp only
  split
  · exact h
  split
  · split
    · exact h
    split
    · exact putDie_memOk (stopLaunches_memOk (stepDone_memOk h))
    show MemOk _
    split
    · refine foldl_memOk (fun _ _ ht => ?_) h
      refine foldl_memOk (fun _ _ hu => ?_) ht
      split
      · exact returnHam_memOk hu
      · exact hu
    refine putDie_memOk ?_
    refine foldl_memOk (fun _ _ ht => ?_) h
    refine foldl_memOk (fun _ _ hu => ?_) ht
    split
    · exact returnHam_memOk hu
    · exact hu
  split
  · exact setWork_memOk h
  split
  · exact putDie_memOk (stopLaunches_memOk (stepDone_memOk (setWork_memOk h)))
  show MemOk _
  split
  · refine foldl_memOk (fun _ _ ht => ?_) (setWork_memOk h)
    refine foldl_memOk (fun _ _ hu => ?_) ht
    split
    · exact returnHam_memOk hu
    · exact hu
  refine putDie_memOk ?_
  refine foldl_memOk (fun _ _ ht => ?_) (setWork_memOk h)
  refine foldl_memOk (fun _ _ hu => ?_) ht
  split
  · exact returnHam_memOk hu
  · exact hu

theorem execEvacuationTimeout_memOk {m die : Nat} {s : State} (h : MemOk s) : NextOk (execEvacuationTimeout m die s) := by
  unfold execEvacuationTimeout
  dsimp only
  split
  · exact declareDie_memOk (putDie_memOk h)
  · exact h

theorem execControlledReset_memOk {m die : Nat} {s : State} (h : MemOk s) : NextOk (execControlledReset m die s) := by
  unfold execControlledReset
  dsimp only
  split
  · exact recover_memOk (setWork_memOk (dropEngines_memOk (freshDie_memOk (stepDone_memOk h))))
  · exact h

theorem declareLoss_memOk {s : State} {m code : Nat} (h : MemOk s) : MemOk (declareLoss s m code) := by
  unfold declareLoss
  dsimp only
  exact recover_memOk (setWork_memOk (stepDone_memOk h))

theorem execTierDieLoss_memOk {m die : Nat} {s : State} (h : MemOk s) : NextOk (execTierDieLoss m die s) := by
  unfold execTierDieLoss
  dsimp only
  split
  · exact h
  · exact declareLoss_memOk h

theorem execHbm4eStackLoss_memOk {m stack : Nat} {s : State} (h : MemOk s) : NextOk (execHbm4eStackLoss m stack s) := by
  unfold execHbm4eStackLoss
  dsimp only
  split
  · exact h
  · exact declareLoss_memOk h

theorem execLinkDeadDeclared_memOk {m a b : Nat} {s : State} (h : MemOk s) : NextOk (execLinkDeadDeclared m a b s) := by
  unfold execLinkDeadDeclared
  dsimp only
  split
  · exact h
  · exact setMod_memOk h

theorem execRouteTableRewrite_memOk {m : Nat} {s : State} (h : MemOk s) : NextOk (execRouteTableRewrite m s) := by
  unfold execRouteTableRewrite
  dsimp only
  show MemOk _
  split
  · exact foldl_memOk (fun _ _ ht => declareDie_memOk ht) (stepDone_memOk (setMod_memOk h))
  · exact h

/-! ### Events of the fabric -/

theorem execFabricChannelDead_memOk {m peer channel : Nat} {s : State} (h : MemOk s) :
    NextOk (execFabricChannelDead m peer channel s) := by
  unfold execFabricChannelDead
  dsimp only
  split
  · exact h
  · exact setMod_memOk h

theorem putLend_memOk {s : State} {m id : Nat} {f : Lease → Lease} (h : MemOk s) : MemOk (putLend s m id f) := by
  unfold putLend
  dsimp only
  exact setMod_memOk h

theorem putBorrow_memOk {s : State} {b lender id : Nat} {host : Bool} {f : Lease → Lease} (h : MemOk s) :
    MemOk (putBorrow s b lender id host f) := by
  unfold putBorrow
  dsimp only
  exact setMod_memOk h

theorem zeroRegion_memOk {s : State} {m pbase size : Nat} (h : MemOk s) : MemOk (zeroRegion s m pbase size) := by
  unfold zeroRegion
  dsimp only
  exact memFilter_wf _ h

theorem execLeaseGrant_memOk {m i : Nat} {e : LeaseArg} {s : State} (h : MemOk s) : NextOk (execLeaseGrant m i e s) := by
  unfold execLeaseGrant
  dsimp only
  split
  · exact h
  show MemOk _
  refine setMod_memOk ?_
  split
  · exact h
  · exact setMod_memOk (zeroRegion_memOk h)

theorem execLeaseRenewal_memOk {m id : Nat} {expiry : Word} {s : State} (h : MemOk s) :
    NextOk (execLeaseRenewal m id expiry s) := by
  unfold execLeaseRenewal
  dsimp only
  split
  · show MemOk _
    split
    · exact putBorrow_memOk (putLend_memOk h)
    · exact h
  · show MemOk _
    split
    · exact putBorrow_memOk h
    · exact h
  · exact h

theorem sendEvent_memOk {s : State} {b : Nat} {x : Launch} {c : Option CoreRef} {ws : List Word} (h : MemOk s) :
    MemOk (sendEvent s b x c ws) := h

theorem leaseEvents_memOk {s : State} {b kind : Nat} {l : Lease} {tags : Tbl Moved} (h : MemOk s) :
    MemOk (leaseEvents s b kind l tags) := by
  unfold leaseEvents
  dsimp only
  refine foldl_memOk (fun _ _ ht => ?_) h
  refine foldl_memOk (fun _ _ hu => ?_) ht
  split
  · exact sendEvent_memOk hu
  · exact hu

theorem dropPins_memOk {s : State} {ps : List PageRef} (h : MemOk s) : MemOk (dropPins s ps) := by
  unfold dropPins
  dsimp only
  split <;> exact h

theorem revokeWindow_memOk {s : State} {l : Lease} {kind : Nat} (h : MemOk s) : MemOk (revokeWindow s l kind) := by
  unfold revokeWindow
  dsimp only
  refine leaseEvents_memOk ?_
  refine putBorrow_memOk ?_
  split
  · exact dropPins_memOk h
  · exact putLend_memOk (dropPins_memOk h)

theorem execWindowRevocation_memOk {m id : Nat} {s : State} (h : MemOk s) : NextOk (execWindowRevocation m id s) := by
  unfold execWindowRevocation
  split
  · show MemOk _
    split
    · exact revokeWindow_memOk h
    · exact h
  · exact h

theorem sendReclaim_memOk {s : State} {m : Nat} {l : Lease} (h : MemOk s) : MemOk (sendReclaim s m l) := by
  unfold sendReclaim
  dsimp only
  exact putBorrow_memOk (putLend_memOk h)

theorem execLeaseExpiry_memOk {m id : Nat} {s : State} (h : MemOk s) : NextOk (execLeaseExpiry m id s) := by
  unfold execLeaseExpiry
  split
  · exact h
  split
  · show MemOk _
    split
    · exact h
    · exact sendReclaim_memOk h
  split
  · show MemOk _
    split
    · exact h
    · exact revokeWindow_memOk h
  · exact h

theorem fillSwitched_memOk {s : State} {l : Lease} {p : PageRef} {e : Word} {f : Nat} {how : NewBytes} (h : MemOk s) :
    MemOk (fillSwitched s l p e f how).1 := by
  unfold fillSwitched
  extract_lets n pa
  split
  · exact foldl_memOk (fun _ _ ht => copyFrame_memOk ht) h
  · exact foldl_memOk (fun _ _ ht => poisonFrame_memOk ht) h
  · refine foldl_fst_memOk (fun r i ht => ?_) h
    dsimp only
    split
    · dsimp only
      exact fillFrame_memOk ht
    · dsimp only
      exact poisonFrame_memOk ht

theorem switchPage_memOk {s : State} {l : Lease} {p : PageRef} {at_ : Nat} {fs : List Nat} {force : Bool} {how : NewBytes}
    {r : State × Bool} (h : MemOk s) (e : switchPage s l p at_ fs force how = some r) : MemOk r.1 := by
  unfold switchPage at e
  dsimp only at e
  split at e
  · cases e
  · cases e
    exact recallRange_memOk (memWrite_wf _ _ _ (fillSwitched_memOk (recallPage_memOk h)))

theorem unmapPage_memOk {s : State} {p : PageRef} {e : Word} {at_ : Nat} (h : MemOk s) : MemOk (unmapPage s p e at_) := by
  unfold unmapPage
  dsimp only
  exact foldl_memOk (fun _ _ ht => setPage_memOk ht) (memWrite_wf _ _ _ (recallPage_memOk h))

theorem execReclaim_memOk {m id : Nat} {frames : List Nat} {s : State} (h : MemOk s) : NextOk (execReclaim m id frames s) := by
  unfold execReclaim
  dsimp only
  split
  · exact h
  split
  · exact h
  split
  · exact sendReclaim_memOk h
  show MemOk _
  refine foldl_memOk (fun _ _ ht => ?_) (returnLines_memOk h)
  split
  · exact putBorrow_memOk (switchPage_memOk ht ‹_›)
  · exact ht

theorem execRelease_memOk {m id : Nat} {s : State} (h : MemOk s) : NextOk (execRelease m id s) := by
  unfold execRelease
  dsimp only
  split
  · exact h
  split
  · exact h
  · exact leaseEvents_memOk (setMod_memOk (setMod_memOk h))

theorem recoverRegion_memOk {s : State} {l : Lease} (h : MemOk s) : MemOk (recoverRegion s l) := by
  unfold recoverRegion
  dsimp only
  refine foldl_memOk (fun _ _ ht => ?_) h
  split
  · exact setPage_memOk ht
  · exact foldl_memOk (fun _ _ hu => recoverLine_memOk hu) (setPage_memOk ht)

theorem endPages_memOk {s : State} {b : Nat} {l : Lease} {frames : List Nat} {how : NewBytes} (h : MemOk s) :
    MemOk (endPages s b l frames how).1 := by
  unfold endPages
  refine foldl_fst_memOk (fun _ _ ht => ?_) h
  split
  · exact switchPage_memOk ht ‹_›
  · exact switchPage_memOk ht ‹_›
  · exact unmapPage_memOk ht

theorem execReclaimDeadline_memOk {m id : Nat} {frames : List Nat} {s : State} (h : MemOk s) :
    NextOk (execReclaimDeadline m id frames s) := by
  unfold execReclaimDeadline
  dsimp only
  split
  · exact h
  split
  · exact h
  · exact leaseEvents_memOk (putBorrow_memOk (endPages_memOk (dropPins_memOk (recoverRegion_memOk (putLend_memOk h)))))

theorem lenderFailed_memOk {s : State} {m : Nat} (h : MemOk s) : MemOk (lenderFailed s m) := by
  unfold lenderFailed
  dsimp only
  refine foldl_memOk (fun _ _ ht => ?_) h
  refine leaseEvents_memOk ?_
  refine putBorrow_memOk ?_
  refine putLend_memOk ?_
  split
  · exact dropPins_memOk ht
  · exact endPages_memOk (dropPins_memOk ht)

theorem rebuildInto_memOk {s : State} {p : PageRef} {old new : Nat} (h : MemOk s) : MemOk (rebuildInto s p old new) := by
  unfold rebuildInto
  split
  · exact fillFrame_memOk h
  · exact copyFrame_memOk h

theorem rebuildLeaf_memOk {s : State} {p : PageRef} {e : Word} {at_ : Nat} {f : Option Nat} (h : MemOk s) :
    ∀ t ∈ rebuildLeaf s p e at_ f, MemOk t := by
  unfold rebuildLeaf
  dsimp only
  exact map_memOk (fun _ => recallRange_memOk (memWrite_wf _ _ _
    (foldl_memOk (fun _ _ ht => setPage_memOk (rebuildInto_memOk ht)) (recallPage_memOk h))))

theorem freshArea_memOk {s : State} {m va : Nat} (h : MemOk s) : ∀ t ∈ freshArea s m va, MemOk t := by
  unfold freshArea
  dsimp only
  split
  · split
    · exact some_memOk h
    · exact rebuildLeaf_memOk h
  · exact some_memOk h

theorem rewriteCopy_memOk {s : State} {m : Nat} {va : Word} {bs : List Nat} (h : MemOk s) :
    ∀ t ∈ rewriteCopy s m va bs, MemOk t := by
  unfold rewriteCopy
  refine bind_memOk (bind_memOk (freshArea_memOk h) (fun _ ht => freshArea_memOk ht)) (fun _ ht => ?_)
  split
  · exact some_memOk (devWords_memOk ht)
  · exact nofun

theorem rebuildData_memOk {s : State} {m n : Nat} (h : MemOk s) : ∀ t ∈ rebuildData s m n, MemOk t := by
  unfold rebuildData
  split
  · exact some_memOk h
  split
  · exact some_memOk h
  · exact nofun
  refine bind_memOk ?_ ?_
  · split
    · exact some_memOk h
    · exact rewriteCopy_memOk h
  · intro _ ht
    split
    · exact rebuildLeaf_memOk ht
    · exact some_memOk ht

theorem rebuildParity_memOk {s : State} {set n t : Nat} (h : MemOk s) : ∀ u ∈ rebuildParity s set n t, MemOk u := by
  unfold rebuildParity
  dsimp only
  split
  · exact nofun
  · exact some_memOk (putRow_memOk h)

theorem rebuildMember_memOk {set n : Nat} {s : State} {t : Nat} (h : MemOk s) : MemOk (rebuildMember set n s t) := by
  unfold rebuildMember
  split
  · exact h
  have hr : ∀ u ∈ (if parTray n 0 = t || parTray n 1 = t then rebuildParity s set n t else rebuildData s (4 * t + set) n),
      MemOk u := by
    split
    · exact rebuildParity_memOk h
    · exact rebuildData_memOk h
  split
  · exact stepDone_memOk (putRow_memOk (hr _ ‹_›))
  · exact h

theorem execRowRebuild_memOk {set row : Nat} {s : State} (h : MemOk s) : NextOk (execRowRebuild set row s) := by
  unfold execRowRebuild
  split
  · exact h
  · exact foldl_memOk (fun _ _ ht => rebuildMember_memOk ht) h

theorem answerHost_memOk {s : State} {r : HostReq} {a : HostAns} (h : MemOk s) : MemOk (answerHost s r a) := h

theorem hostAtomic_memOk {s : State} {r : HostReq} {f : Nat → Option Nat} (h : MemOk s) : (hostAtomic s r f).MemOk := by
  unfold hostAtomic
  split
  · exact answerHost_memOk ((perfAtomic_memOk h).ok ‹_›)
  · exact answerHost_memOk h
  · exact answerHost_memOk h
  · exact askPage_memOk h
  · exact h

theorem hostPerform_memOk {s : State} {r : HostReq} {op : HostOp} (h : MemOk s) : (hostPerform s r op).MemOk := by
  unfold hostPerform
  split
  · split
    · exact answerHost_memOk ((engWrite_memOk h).ok ‹_›)
    · exact answerHost_memOk h
    · exact runHeld_memOk h
  · split
    · exact answerHost_memOk ((engRead_memOk h).ok ‹_›)
    · exact answerHost_memOk ((engRead_memOk h).ok ‹_›)
    · exact answerHost_memOk h
    · exact runHeld_memOk h
  · exact hostAtomic_memOk h
  · exact hostAtomic_memOk h

theorem hostRun_memOk {s : State} {r : HostReq} {op : HostOp} (h : MemOk s) : (hostRun s r op).MemOk := by
  unfold hostRun
  split
  · exact answerHost_memOk h
  · exact hostPerform_memOk h

theorem hostDrain_memOk {s : State} {r : HostReq} {n : Nat} (h : MemOk s) : MemOk (hostDrain s r n) := by
  induction n generalizing s with
  | zero => exact h
  | succ k ih =>
    unfold hostDrain
    split
    · exact h
    split
    · exact (hostRun_memOk h).wait ‹_›
    · next e =>
      have hs : MemOk _ := (hostRun_memOk h).over e
      exact ih hs

theorem hostArrive_memOk {s : State} {r : HostReq} {op : HostOp} (h : MemOk s) : NextOk (hostArrive s r op) := by
  have hd : MemOk (hostDrain s r s.hostHeld.length) := hostDrain_memOk h
  unfold hostArrive
  dsimp only
  split
  · exact hd
  split
  · exact (hostRun_memOk hd).over ‹_›
  · next e =>
    have hs : MemOk _ := (hostRun_memOk hd).wait e
    exact hs

theorem execRdmaWrite_memOk {r : HostReq} {data : List Byte} {s : State} (h : MemOk s) : NextOk (execRdmaWrite r data s) := by
  unfold execRdmaWrite
  exact hostArrive_memOk h

theorem execRdmaRead_memOk {r : HostReq} {s : State} (h : MemOk s) : NextOk (execRdmaRead r s) := by
  unfold execRdmaRead
  exact hostArrive_memOk h

theorem execCompareSwap_memOk {r : HostReq} {cmp swap : Word} {s : State} (h : MemOk s) :
    NextOk (execCompareSwap r cmp swap s) := by
  unfold execCompareSwap
  exact hostArrive_memOk h

theorem execFetchAdd_memOk {r : HostReq} {add : Word} {s : State} (h : MemOk s) : NextOk (execFetchAdd r add s) := by
  unfold execFetchAdd
  exact hostArrive_memOk h

theorem execUnsupportedHostRequest_memOk {r : HostReq} {_kind : UnsupportedKind} {s : State} (h : MemOk s) :
    NextOk (execUnsupportedHostRequest r _kind s) := by
  unfold execUnsupportedHostRequest
  exact answerHost_memOk h

theorem execHostWindowWrite_memOk {m i : Nat} {e : HostWinArg} {s : State} (h : MemOk s) :
    NextOk (execHostWindowWrite m i e s) := by
  unfold execHostWindowWrite
  dsimp only
  show MemOk _
  split
  · exact setMod_memOk h
  · exact h

theorem execHostConnectionFailure_memOk {m id : Nat} {s : State} (h : MemOk s) : NextOk (execHostConnectionFailure m id s) := by
  unfold execHostConnectionFailure
  exact putBorrow_memOk h

/-! ### Events of the service complex -/

theorem execDiagnosisRepeat_memOk {m target : Nat} {failedA failedB : Bool} {s : State} (h : MemOk s) :
    NextOk (execDiagnosisRepeat m target failedA failedB s) := by
  unfold execDiagnosisRepeat
  dsimp only
  split
  · exact h
  · exact putService_memOk h

theorem execServiceProcessorFailure_memOk {m : Nat} {isB : Bool} {s : State} (h : MemOk s) :
    NextOk (execServiceProcessorFailure m isB s) := by
  unfold execServiceProcessorFailure
  split
  · exact h
  · exact putService_memOk h

theorem execCapabilityFault_memOk {m : Nat} {req : FwRequest} {s : State} (h : MemOk s) :
    NextOk (execCapabilityFault m req s) := by
  unfold execCapabilityFault
  split
  · exact h
  · exact h
  · split <;> exact h
  · exact putService_memOk h

theorem execAckSilenceTimeout_memOk {voter m : Nat} {s : State} (h : MemOk s) : NextOk (execAckSilenceTimeout voter m s) := by
  unfold execAckSilenceTimeout
  split
  · exact h
  · exact putService_memOk h

theorem execVoterTimeout_memOk {voter m : Nat} {s : State} (h : MemOk s) : NextOk (execVoterTimeout voter m s) := by
  unfold execVoterTimeout
  split
  · exact h
  · exact putService_memOk h

theorem endAll_memOk {s : State} {m status : Nat} (h : MemOk s) : MemOk (endAll s m status) := by
  unfold endAll
  dsimp only
  refine foldl_memOk (fun _ _ ht => ?_) h
  split
  · exact ht
  refine ended_memOk ?_
  refine dropLayouts_memOk ?_
  split
  · split
    · exact releaseCores_memOk (mergeLogs_memOk (resetCmds_memOk ht))
    · exact mergeLogs_memOk (resetCmds_memOk ht)
  · exact mergeLogs_memOk (resetCmds_memOk ht)

theorem fence_memOk {s : State} {m : Nat} (h : MemOk s) : MemOk (fence s m) := by
  unfold fence
  dsimp only
  exact setMod_memOk (endAll_memOk h)

theorem eraseMemory_memOk {s : State} {m : Nat} (h : MemOk s) : MemOk (eraseMemory s m) := by
  unfold eraseMemory
  dsimp only
  exact foldl_memOk (fun _ _ ht => putRow_memOk ht) (memFilter_wf _ h)

theorem execTamperAlarm_memOk {m : Nat} {s : State} (h : MemOk s) : NextOk (execTamperAlarm m s) := by
  unfold execTamperAlarm
  split
  · exact h
  · exact eraseMemory_memOk (putService_memOk (fence_memOk h))

theorem moduleLost_memOk {s : State} {m : Nat} (h : MemOk s) : MemOk (moduleLost s m) := by
  unfold moduleLost
  dsimp only
  exact lenderFailed_memOk (dropHopeless_memOk (foldl_memOk (fun _ _ ht => loseMember_memOk ht) (freezePages_memOk (setMod_memOk h))))

theorem execModuleFailureDeclared_memOk {m : Nat} {s : State} (h : MemOk s) : NextOk (execModuleFailureDeclared m s) := by
  unfold execModuleFailureDeclared
  dsimp only
  split
  · exact h
  · exact moduleLost_memOk (fence_memOk h)

theorem execBootStep_memOk {m step : Nat} {ok : Bool} {s : State} (h : MemOk s) : NextOk (execBootStep m step ok s) := by
  unfold execBootStep
  dsimp only
  split
  · exact h
  split
  · show MemOk _
    split <;> exact setMod_memOk h
  split
  · show MemOk _
    split
    · exact eraseMemory_memOk (setMod_memOk h)
    · exact setMod_memOk h
  split
  · exact setMod_memOk h
  show MemOk _
  split
  · split
    · exact moduleLost_memOk (setMod_memOk h)
    · exact setMod_memOk h
  split
  · exact moduleLost_memOk (setMod_memOk h)
  · exact setMod_memOk h

theorem execThermalThrottle_memOk {m die : Nat} {s : State} (h : MemOk s) : NextOk (execThermalThrottle m die s) := by
  unfold execThermalThrottle
  show MemOk _
  split
  · exact putDie_memOk h
  · exact h

theorem execThrottleRelease_memOk {m die : Nat} {s : State} (h : MemOk s) : NextOk (execThrottleRelease m die s) := by
  unfold execThrottleRelease
  show MemOk _
  split
  · exact putDie_memOk h
  · exact h

theorem execThermalStop_memOk {m die : Nat} {s : State} (h : MemOk s) : NextOk (execThermalStop m die s) := by
  unfold execThermalStop
  show MemOk _
  split
  · exact putDie_memOk h
  · exact h

theorem execModuleReset_memOk {m : Nat} {s : State} (h : MemOk s) : NextOk (execModuleReset m s) := by
  unfold execModuleReset
  split
  · exact h
  · exact setMod_memOk h

theorem execBitFlip_memOk {f : FlipAt} {s : State} (h : MemOk s) : NextOk (execBitFlip f s) := by
  unfold execBitFlip
  dsimp only
  split
  · show MemOk _
    split
    · exact flipWord_memOk h
    · exact h
  · show MemOk _
    split
    · exact flipWord_memOk h
    · exact h
  · show MemOk _
    split
    · exact setSlot_memOk h
    · exact h
  · show MemOk _
    split
    · exact setHam_memOk h
    · exact h
  · show MemOk _
    split
    · exact putPlane_memOk h
    · exact h
  show MemOk _
  split
  · exact setHam_memOk h
  · exact h

/-! ### Every row of the opcode table -/

theorem exec_memOk {i : Instr} {s : State} (h : MemOk s) : NextOk (exec i s) := by
  unfold exec
  cases i with
  | nop => exact issue_memOk (fun _ ht => ht) h
  | add | sub | mul | mulh | madd | abs | min | max => exact issue_memOk (fun _ ht => arith_memOk ht) h
  | div | rem => exact issue_memOk (fun _ ht => arithDeferred_memOk ht) h
  | and | or | xor | andn | orn | shl | shr | sar | rot | clz | ctz | popc | brev | bswap =>
    exact issue_memOk (fun _ ht => bitop_memOk ht) h
  | mov | movi | movhi | sel | ext | bfx | bfi | lea | pget | fclass | fsgn => exact issue_memOk (fun _ ht => writeS_memOk ht) h
  | cmp | test | pand | por | pxor | pset => exact issue_memOk (fun _ ht => writeP_memOk ht) h
  | addc => exact issue_memOk (fun _ ht => addcBody_memOk ht) h
  | br | bri | call | calli | ret => exact issue_memOk (fun _ ht => transfer_memOk ht) h
  | loop => exact issue_memOk (fun _ ht => loopBody_memOk ht) h
  | fadd | fsub | fmin | fmax => exact issue_memOk (fun _ ht => fpArith_memOk ht) h
  | fmul | ffma => exact issue_memOk (fun _ ht => fpArithChecked_memOk ht) h
  | fdiv | fsqrt | frcp | frsq | fexp2 | flog2 => exact issue_memOk (fun _ ht => fpDeferred_memOk ht) h
  | fcmp => exact issue_memOk (fun _ ht => fcmpBody_memOk ht) h
  | fcvt => exact issue_memOk (fun _ ht => fcvtBody_memOk ht) h
  | fcvti => exact issue_memOk (fun _ ht => fcvtiBody_memOk ht) h
  | icvtf => exact issue_memOk (fun _ ht => icvtfBody_memOk ht) h
  | vadd | vsub | vmul | vmulh | vfma | vmin | vmax | vabs | vsgn | vadds | vsubs =>
    exact issue_memOk (fun _ ht => vecArith_memOk ht) h
  | vdiv | vsqrt | vrcp | vrsq | vexp2 | vlog2 => exact issue_memOk (fun _ ht => vecDeferred_memOk ht) h
  | vand | vor | vxor | vandn | vshl | vshr | vsar | vpopc | vbcast | vperm | vrot | vmovi | vwiden =>
    exact issue_memOk (fun _ ht => vecBits_memOk ht) h
  | vcmp => exact issue_memOk (fun _ ht => vcmpBody_memOk ht) h
  | vsel | vins | vexpand24 => exact issue_memOk (fun _ ht => vecAll_memOk ht) h
  | vext | mpop | mfirst | peek | yield => exact issue_memOk (fun _ ht => withCur_memOk ht) h
  | vredsum | vredmin | vredmax => exact issue_memOk (fun _ ht => reduceBody_memOk ht) h
  | vscan => exact issue_memOk (fun _ ht => vscanBody_memOk ht) h
  | vcvt => exact issue_memOk (fun _ ht => vcvtBody_memOk ht) h
  | vpack => exact issue_memOk (fun _ ht => vpackBody_memOk ht) h
  | vunpack3 => exact issue_memOk (fun _ ht => vunpack3Body_memOk ht) h
  | vsparse24 => exact issue_memOk (fun _ ht => vsparseBody_memOk ht) h
  | vdot4 => exact issue_memOk (fun _ ht => vdot4Body_memOk ht) h
  | vtacc => exact issue_memOk (fun _ ht => vtaccBody_memOk ht) h
  | vquant => exact issue_memOk (fun _ ht => vquantBody_memOk ht) h
  | vdeq => exact issue_memOk (fun _ ht => vdeqBody_memOk ht) h
  | mand | mor | mxor | mnot => exact issue_memOk (fun _ ht => writeM_memOk ht) h
  | mmov => exact issue_memOk (fun _ ht => mmovBody_memOk ht) h
  | ld | lda | ldp => exact issue_memOk (fun _ ht => loadBody_memOk ht) h
  | st | strel | stp => exact issue_memOk (fun _ ht => storeBody_memOk ht) h
  | ldc => exact issue_memOk (fun _ ht => ldcBody_memOk ht) h
  | pref => exact issue_memOk (fun _ ht => prefBody_memOk ht) h
  | fence =>
    refine issue_memOk (fun _ ht => ?_) h
    split <;> exact ht
  | flush => exact issue_memOk (fun _ ht => flushBody_memOk ht) h
  | pin => exact issue_memOk (fun _ ht => pinBody_memOk ht) h
  | unpin => exact issue_memOk (fun _ ht => unpinBody_memOk ht) h
  | amo | cas | cas2 => exact issue_memOk (fun _ ht => atomicBody_memOk ht) h
  | vld | vlds | vgather | vldb => exact issue_memOk (fun _ ht => vLoadBody_memOk ht) h
  | vst | vsts | vscatter => exact issue_memOk (fun _ ht => vStoreBody_memOk ht) h
  | sync => exact issue_memOk (fun _ ht => syncBody_memOk ht) h
  | vote => exact issue_memOk (fun _ ht => voteBody_memOk ht) h
  | bara => exact issue_memOk (fun _ ht => baraBody_memOk ht) h
  | barw => exact issue_memOk (fun _ ht => barwBody_memOk ht) h
  | domset => exact issue_memOk (fun _ ht => domsetBody_memOk ht) h
  | send => exact issue_memOk (fun _ ht => sendBody_memOk ht) h
  | recv => exact issue_memOk (fun _ ht => recvBody_memOk ht) h
  | waita => exact issue_memOk (fun _ ht => waitaBody_memOk ht) h
  | wake => exact issue_memOk (fun _ ht => wakeBody_memOk ht) h
  | walk => exact issue_memOk (fun _ ht => walkBody_memOk ht) h
  | tend | exit => exact issue_memOk (fun _ ht => endBody_memOk ht) h
  | taskadd => exact issue_memOk (fun _ ht => taskaddBody_memOk ht) h
  | spawn => exact issue_memOk (fun _ ht => spawnBody_memOk ht) h
  | mloadw | mswap | mstream | accrd | accwr | coll | engq => exact issue_memOk (fun _ ht => command_memOk ht) h
  | mzero | cpy | cpy2 | cpyr | ecode | ckpt | migr => exact plainCmd_memOk h
  | mstat => exact issue_memOk (fun _ ht => mstatBody_memOk ht) h
  | gset => exact issue_memOk (fun _ ht => gsetBody_memOk ht) h
  | cbatch => exact issue_memOk (fun _ ht => cbatchBody_memOk ht) h
  | waitb => exact issue_memOk (fun _ ht => waitbBody_memOk ht) h
  | trap | brk => exact issue_memOk (fun _ ht => trivial) h
  | eret => exact issue_memOk (fun _ ht => eretBody_memOk ht) h
  | csrrd => exact issue_memOk (fun _ ht => csrrdBody_memOk ht) h
  | csrwr | csrset | csrclr => exact issue_memOk (fun _ ht => csrBody_memOk ht) h
  | ifence => exact issue_memOk (fun _ ht => ifenceBody_memOk ht) h
  | dlog => exact issue_memOk (fun _ ht => dlogBody_memOk ht) h
  | resume => exact issue_memOk (fun _ ht => resumeBody_memOk ht) h
  | cdopen | rbegin => exact issue_memOk (fun _ ht => openBody_memOk ht) h
  | cdpres => exact issue_memOk (fun _ ht => cdpresBody_memOk ht) h
  | cdout => exact issue_memOk (fun _ ht => cdoutBody_memOk ht) h
  | cdclose => exact issue_memOk (fun _ ht => cdcloseBody_memOk ht) h
  | cdfail => exact issue_memOk (fun _ ht => cdfailBody_memOk ht) h
  | rcommit => exact issue_memOk (fun _ ht => rcommitBody_memOk ht) h
  | deferredResultReturn => exact execDeferredResultReturn_memOk h
  | deferredFailure => exact execDeferredFailure_memOk h
  | faultDelivery => exact execFaultDelivery_memOk h
  | localTrapEntry => exact execLocalTrapEntry_memOk h
  | resumeDelivery => exact execResumeDelivery_memOk h
  | cdRollback => exact execCdRollback_memOk h
  | contextSwapOut => exact execContextSwapOut_memOk h
  | pageMadeResident => exact execPageMadeResident_memOk h
  | contextRestore => exact execContextRestore_memOk h
  | storeBufferDrain => exact execStoreBufferDrain_memOk h
  | farStoreDrain => exact execFarStoreDrain_memOk h
  | logMerge => exact execLogMerge_memOk h
  | messageArrival => exact execMessageArrival_memOk h
  | spillRingMove => exact execSpillRingMove_memOk h
  | wakeDelivery => exact execWakeDelivery_memOk h
  | walkTaskDispatch => exact execWalkTaskDispatch_memOk h
  | queuedTaskDispatch => exact execQueuedTaskDispatch_memOk h
  | footprintWriteOut => exact execFootprintWriteOut_memOk h
  | syncDomainComplete => exact execSyncDomainComplete_memOk h
  | exchangeComplete => exact execExchangeComplete_memOk h
  | syncTimeout => exact execSyncTimeout_memOk h
  | barrierRelease => exact execBarrierRelease_memOk h
  | launchUnitPass => exact execLaunchUnitPass_memOk h
  | launchEntry => exact execLaunchEntry_memOk h
  | launchEnd => exact execLaunchEnd_memOk h
  | patienceExpiry => exact execPatienceExpiry_memOk h
  | drainBoundaryHold => exact execDrainBoundaryHold_memOk h
  | drainLimitExpiry => exact execDrainLimitExpiry_memOk h
  | saveComplete => exact execSaveComplete_memOk h
  | saveLimitExpiry => exact execSaveLimitExpiry_memOk h
  | launchRestore => exact execLaunchRestore_memOk h
  | checkpointRestart => exact execCheckpointRestart_memOk h
  | engineCommandArrival => exact execEngineCommandArrival_memOk h
  | crierWindowExpiry => exact execCrierWindowExpiry_memOk h
  | commandCompletion => exact execCommandCompletion_memOk h
  | engineWatchdogExpiry => exact execEngineWatchdogExpiry_memOk h
  | mloadwRun => exact execMloadwRun_memOk h
  | mswapRun => exact execMswapRun_memOk h
  | mstreamTileStep => exact execMstreamTileStep_memOk h
  | mzeroTileStep => exact execMzeroTileStep_memOk h
  | accrdTileStep => exact execAccrdTileStep_memOk h
  | accwrTileStep => exact execAccwrTileStep_memOk h
  | mstatQueryRun => exact execMstatQueryRun_memOk h
  | scrubberRead => exact execScrubberRead_memOk h
  | millSubarrayGating => exact execMillSubarrayGating_memOk h
  | cpyRun => exact execCpyRun_memOk h
  | cpy2Run => exact execCpy2Run_memOk h
  | cpyrRun => exact execCpyrRun_memOk h
  | collRun => exact execCollRun_memOk h
  | ecodeRun => exact execEcodeRun_memOk h
  | ckptCutBoundary => exact execCkptCutBoundary_memOk h
  | ckptPageCopy => exact execCkptPageCopy_memOk h
  | ckptCommit => exact execCkptCommit_memOk h
  | ckptRestoreRun => exact execCkptRestoreRun_memOk h
  | migrRun => exact execMigrRun_memOk h
  | engqQueryRun => exact execEngqQueryRun_memOk h
  | engqDrainComplete => exact execEngqDrainComplete_memOk h
  | einjResultArm => exact execEinjResultArm_memOk h
  | einjStoreSingleFlip => exact execEinjStoreSingleFlip_memOk h
  | einjStoreDoubleFlip => exact execEinjStoreDoubleFlip_memOk h
  | einjAccumulatorArm => exact execEinjAccumulatorArm_memOk h
  | accumulatorFlip => exact execAccumulatorFlip_memOk h
  | logRegisterWrite => exact execLogRegisterWrite_memOk h
  | spillbaseWrite => exact execSpillbaseWrite_memOk h
  | mflgposClear => exact execMflgposClear_memOk h
  | pageTableChange => exact execPageTableChange_memOk h
  | thresholdMigration => exact execThresholdMigration_memOk h
  | transientRequest => exact execTransientRequest_memOk h
  | tokenAttemptTimeout => exact execTokenAttemptTimeout_memOk h
  | persistentRequest => exact execPersistentRequest_memOk h
  | persistentActivation => exact execPersistentActivation_memOk h
  | persistentDeactivation => exact execPersistentDeactivation_memOk h
  | lineEviction => exact execLineEviction_memOk h
  | dieFailureDeclared => exact execDieFailureDeclared_memOk h
  | tokenRecoveryComplete => exact execTokenRecoveryComplete_memOk h
  | spareTakeover => exact execSpareTakeover_memOk h
  | dieEvacuation => exact execDieEvacuation_memOk h
  | evacuationTimeout => exact execEvacuationTimeout_memOk h
  | tierDieLoss => exact execTierDieLoss_memOk h
  | linkDeadDeclared => exact execLinkDeadDeclared_memOk h
  | routeTableRewrite => exact execRouteTableRewrite_memOk h
  | fabricChannelDead => exact execFabricChannelDead_memOk h
  | remoteAccessArrival => exact execRemoteAccessArrival_memOk h
  | leaseGrant => exact execLeaseGrant_memOk h
  | leaseRenewal => exact execLeaseRenewal_memOk h
  | leaseExpiry => exact execLeaseExpiry_memOk h
  | reclaim => exact execReclaim_memOk h
  | release => exact execRelease_memOk h
  | reclaimDeadline => exact execReclaimDeadline_memOk h
  | windowRevocation => exact execWindowRevocation_memOk h
  | rowRebuild => exact execRowRebuild_memOk h
  | rdmaWrite => exact execRdmaWrite_memOk h
  | rdmaRead => exact execRdmaRead_memOk h
  | compareSwap => exact execCompareSwap_memOk h
  | fetchAdd => exact execFetchAdd_memOk h
  | diagnosisRepeat => exact execDiagnosisRepeat_memOk h
  | ackSilenceTimeout => exact execAckSilenceTimeout_memOk h
  | voterTimeout => exact execVoterTimeout_memOk h
  | moduleFailureDeclared => exact execModuleFailureDeclared_memOk h
  | capabilityFault => exact execCapabilityFault_memOk h
  | bootStep => exact execBootStep_memOk h
  | tamperAlarm => exact execTamperAlarm_memOk h
  | thermalThrottle => exact execThermalThrottle_memOk h
  | throttleRelease => exact execThrottleRelease_memOk h
  | thermalStop => exact execThermalStop_memOk h
  | moduleReset => exact execModuleReset_memOk h
  | debugHalt => exact execDebugHalt_memOk h
  | debugContinue => exact execDebugContinue_memOk h
  | debugGroupHalt => exact execDebugGroupHalt_memOk h
  | boundaryDump => exact execBoundaryDump_memOk h
  | forcedDump => exact execForcedDump_memOk h
  | counterSnapshot => exact execCounterSnapshot_memOk h
  | hostWindowWrite => exact execHostWindowWrite_memOk h
  | queueRegistration => exact execQueueRegistration_memOk h
  | preemptionRequest => exact execPreemptionRequest_memOk h
  | controlledReset => exact execControlledReset_memOk h
  | hbm4eStackLoss => exact execHbm4eStackLoss_memOk h
  | bitFlip => exact execBitFlip_memOk h
  | serviceProcessorFailure => exact execServiceProcessorFailure_memOk h
  | hostConnectionFailure => exact execHostConnectionFailure_memOk h
  | unsupportedHostRequest => exact execUnsupportedHostRequest_memOk h

/-! ### Agents that take turns, and a step -/

/-- A move keeps the canonical form, whatever state it is made in. -/
def MoveOk (f : State → Out_) : Prop := ∀ t, MemOk t → NextOk (f t)

theorem outMoves_memOk {w : SlotRef} {id j : Nat} {u : Option Nat} : ∀ f ∈
    [execDeferredFailure (.out w id), execRemoteAccessArrival (.out w id) j, execDeferredResultReturn w id u], MoveOk f := by
  simp only [List.forall_mem_cons]
  exact ⟨fun _ h => execDeferredFailure_memOk h, fun _ h => execRemoteAccessArrival_memOk h, fun _ h => execDeferredResultReturn_memOk h,
    List.forall_mem_nil _⟩

theorem slotMoves_memOk {s : State} {w : SlotRef} {x : Slot} : ∀ f ∈ slotMoves s w x, MoveOk f := by
  unfold slotMoves
  simp only [List.forall_mem_append]
  refine ⟨⟨⟨List.forall_mem_flatten.2 (List.forall_mem_map.2 fun o _ => outMoves_memOk), ?_⟩, ?_⟩, ?_⟩
  · split
    · simp only [List.forall_mem_cons]
      exact ⟨fun _ h => execFaultDelivery_memOk h, fun _ h => execLocalTrapEntry_memOk h, fun _ h => execCdRollback_memOk h,
        List.forall_mem_nil _⟩
    · exact List.forall_mem_nil _
  · split
    · exact List.forall_mem_nil _
    · exact List.forall_mem_singleton.2 fun _ h => execContextSwapOut_memOk h
  · split
    · exact List.forall_mem_singleton.2 fun _ h => execFootprintWriteOut_memOk h
    · split
      · exact List.forall_mem_singleton.2 fun _ h => execSyncDomainComplete_memOk h
      · exact List.forall_mem_nil _
    · exact List.forall_mem_nil _

theorem coreMoves_memOk {c : CoreRef} {x : Core} : ∀ f ∈ coreMoves c x, MoveOk f := by
  unfold coreMoves
  simp only [List.forall_mem_append]
  refine ⟨⟨⟨⟨⟨?_, List.forall_mem_flatten.2
    (List.forall_mem_map.2 fun e _ => ?_)⟩, List.forall_mem_map.2 fun t _ _ h => execContextRestore_memOk h⟩,
    ?_⟩, ?_⟩, ?_⟩
  · split
    · exact List.forall_mem_nil _
    · exact List.forall_mem_cons.2 ⟨fun _ h => execDeferredFailure_memOk h,
        List.forall_mem_singleton.2 fun _ h => execStoreBufferDrain_memOk h⟩
  · exact List.forall_mem_cons.2 ⟨fun _ h => execDeferredFailure_memOk h, List.forall_mem_cons.2
      ⟨fun _ h => execRemoteAccessArrival_memOk h, List.forall_mem_singleton.2 fun _ h => execFarStoreDrain_memOk h⟩⟩
  · split
    · exact List.forall_mem_nil _
    · exact List.forall_mem_singleton.2 fun _ h => execSpillRingMove_memOk h
  · split
    · exact List.forall_mem_singleton.2 fun _ h => execWalkTaskDispatch_memOk h
    · exact List.forall_mem_nil _
  · split
    · exact List.forall_mem_nil _
    · exact List.forall_mem_singleton.2 fun _ h => execQueuedTaskDispatch_memOk h

theorem cmdMoves_memOk {c : Cmd} : ∀ f ∈ cmdMoves c, MoveOk f := by
  unfold cmdMoves
  split
  · exact List.forall_mem_singleton.2 fun _ h => execEngineCommandArrival_memOk h
  · exact List.forall_mem_singleton.2 fun _ h => execCrierWindowExpiry_memOk h
  · exact List.forall_mem_singleton.2 fun _ h => execCrierWindowExpiry_memOk h
  · exact List.forall_mem_singleton.2 fun _ h => execCommandCompletion_memOk h
  all_goals
  · cases c.op
    case mloadw => exact List.forall_mem_singleton.2 fun _ h => execMloadwRun_memOk h
    case mswap => exact List.forall_mem_singleton.2 fun _ h => execMswapRun_memOk h
    case mstream => exact List.forall_mem_singleton.2 fun _ h => execMstreamTileStep_memOk h
    case mzero => exact List.forall_mem_singleton.2 fun _ h => execMzeroTileStep_memOk h
    case accrd => exact List.forall_mem_singleton.2 fun _ h => execAccrdTileStep_memOk h
    case accwr => exact List.forall_mem_singleton.2 fun _ h => execAccwrTileStep_memOk h
    case cpy => exact List.forall_mem_singleton.2 fun _ h => execCpyRun_memOk h
    case cpy2 => exact List.forall_mem_singleton.2 fun _ h => execCpy2Run_memOk h
    case cpyr => exact List.forall_mem_singleton.2 fun _ h => execCpyrRun_memOk h
    case coll => exact List.forall_mem_singleton.2 fun _ h => execCollRun_memOk h
    case ecode => exact List.forall_mem_singleton.2 fun _ h => execEcodeRun_memOk h
    case ckpt =>
      simp only [List.forall_mem_cons]
      exact ⟨fun _ h => execCkptCutBoundary_memOk h, fun _ h => execCkptPageCopy_memOk h, fun _ h => execCkptCommit_memOk h,
        fun _ h => execCkptRestoreRun_memOk h, List.forall_mem_nil _⟩
    case migr => exact List.forall_mem_singleton.2 fun _ h => execMigrRun_memOk h
    case engq =>
      exact List.forall_mem_cons.2
        ⟨fun _ h => execEngqQueryRun_memOk h, List.forall_mem_singleton.2 fun _ h => execEngqDrainComplete_memOk h⟩
    case mstat => exact List.forall_mem_singleton.2 fun _ h => execMstatQueryRun_memOk h
    case accflip => exact List.forall_mem_singleton.2 fun _ h => execAccumulatorFlip_memOk h

theorem launchMoves_memOk {l : LaunchRef} {x : Launch} : ∀ f ∈ launchMoves l x, MoveOk f := by
  have hend : MoveOk (execLaunchEnd l) := fun _ h => execLaunchEnd_memOk h
  have hruns : ∀ f ∈ x.exch.map (fun e => execExchangeComplete l e.level e.x e.y []) ++
      (List.range x.record.nbar).map (fun b => execBarrierRelease l b) ++ [execLaunchEnd l], MoveOk f := by
    simp only [List.forall_mem_append]
    exact ⟨⟨List.forall_mem_map.2 fun _ _ _ h => execExchangeComplete_memOk h,
      List.forall_mem_map.2 fun _ _ _ h => execBarrierRelease_memOk h⟩, List.forall_mem_singleton.2 hend⟩
  unfold launchMoves
  split
  · exact List.forall_mem_singleton.2 fun _ h => execLaunchEntry_memOk h
  · exact hruns
  · exact hruns
  · simp only [List.forall_mem_cons]
    exact ⟨fun _ h => execDrainBoundaryHold_memOk h, fun _ h => execDebugHalt_memOk h, hend, List.forall_mem_nil _⟩
  · exact List.forall_mem_singleton.2 hend
  · exact List.forall_mem_cons.2 ⟨fun _ h => execSaveComplete_memOk h, List.forall_mem_singleton.2 hend⟩
  · exact List.forall_mem_singleton.2 fun _ h => execLaunchRestore_memOk h
  · exact List.forall_mem_singleton.2 fun _ h => execCheckpointRestart_memOk h
  · exact List.forall_mem_nil _

theorem idleEvents_memOk {s : State} : ∀ f ∈ idleEvents s, MoveOk f := by
  unfold idleEvents
  simp only [List.forall_mem_append]
  refine ⟨⟨⟨⟨⟨⟨⟨⟨⟨?_, ?_⟩, ?_⟩, ?_⟩, ?_⟩, ?_⟩, ?_⟩, ?_⟩, ?_⟩, ?_⟩
  · exact List.forall_mem_flatten.2 (List.forall_mem_map.2 fun _ _ => slotMoves_memOk)
  · exact List.forall_mem_flatten.2 (List.forall_mem_map.2 fun _ _ => coreMoves_memOk)
  · exact List.forall_mem_flatten.2 (List.forall_mem_map.2 fun _ _ => cmdMoves_memOk)
  · exact List.forall_mem_flatten.2 (List.forall_mem_map.2 fun _ _ => launchMoves_memOk)
  · exact List.forall_mem_map.2 fun _ _ _ h => hostDrain_memOk h
  · exact List.forall_mem_map.2 fun _ _ _ h => devRetry_memOk h
  · exact List.forall_mem_map.2 fun _ _ _ h => execMessageArrival_memOk h
  · exact List.forall_mem_map.2 fun _ _ _ h => execWakeDelivery_memOk h
  · exact List.forall_mem_map.2 fun _ _ _ h => execResumeDelivery_memOk h
  · exact List.forall_mem_map.2 fun _ _ _ h => execLaunchUnitPass_memOk h

theorem planIdle_memOk {s : State} (h : MemOk s) : (planIdle s).MemOk := by
  unfold planIdle
  dsimp only
  split
  · exact planMove_memOk h
  split
  · next e => exact idleEvents_memOk _ (List.mem_of_getElem? e) _ (tryAgain_memOk h)
  · exact h

theorem plan_memOk {s : State} (h : MemOk s) : (plan s).MemOk := by
  unfold plan
  dsimp only
  split
  · exact planMove_memOk (passTime_memOk h)
  · exact planIdle_memOk (passTime_memOk h)

theorem step_memOk {s : State} (h : MemOk s) : NextOk (step s) := by
  have hp : (plan s).MemOk := plan_memOk h
  unfold step
  generalize plan s = p at hp
  cases p with
  | run i t => exact exec_memOk hp
  | did o => exact hp
  | rest t => exact hp

end Sys2Proof.Machine

namespace Sys2Proof

open Sys2Proof.Machine

/-- Settles O60: a step is a plan and at most one instruction or event, each of which keeps the canonical form. -/
theorem stepKeepsMemory : Obligations.StepKeepsMemory := by
  intro s t h e
  have hn : NextOk (step s) := step_memOk h
  rwa [e] at hn

end Sys2Proof
end

section
/-!
PROOFS. The CSR instructions, IFENCE and DLOG (O33; R203, R205, R304-R306): what a write of a CSR leaves as it was, what reads back of it,
and what a merge of the dirty log changes.
-/

namespace Sys2Proof.Machine

/-! ### Issuing -/

theorem issue_done {g : Guard} {uses : List Use} {deferred : Bool} {body : State → Eff} {s t : State} {accs : State → List Acc}
    (h : Ready s g uses deferred (accs s)) (hb : body s = .done t) :
    issue g uses deferred body s accs = .next (setSlot t s.cur (retired g (curSlot s).pc (slotAt t s.cur))) := by
  rw [issue_ready _ _ _ _ _ _ h, hb]
  rfl

theorem issue_fault {g : Guard} {uses : List Use} {deferred : Bool} {body : State → Eff} {s : State} {accs : State → List Acc}
    {c : Cause} {v : Word} (h : Ready s g uses deferred (accs s)) (hb : body s = .fault c v) :
    Faults s (issue g uses deferred body s accs) c v := by
  rw [issue_ready _ _ _ _ _ _ h, hb]
  rfl

theorem issue_stall {g : Guard} {uses : List Use} {deferred : Bool} {body : State → Eff} {s : State} {accs : State → List Acc}
    (h : Ready s g uses deferred (accs s)) (hb : body s = .stall s) : Stalls s (issue g uses deferred body s accs) := by
  rw [issue_ready _ _ _ _ _ _ h, hb]
  rfl

@[simp] theorem hamAt_setSlot (s : State) (w : SlotRef) (x : Slot) (h : HamRef) : hamAt (setSlot s w x) h = hamAt s h := rfl

/-! ### The dirty log -/

@[simp] theorem coreAt_setCore (s : State) (c : CoreRef) (x : Core) : coreAt (setCore s c x) c = x := by simp [coreAt, setCore]

@[simp] theorem slotAt_setCore (s : State) (c : CoreRef) (x : Core) (w : SlotRef) : slotAt (setCore s c x) w = slotAt s w := rfl

@[simp] theorem slotAt_setHam (s : State) (h : HamRef) (x : Ham) (w : SlotRef) : slotAt (setHam s h x) w = slotAt s w := rfl

/-- A state with the slots and cores of another, in which the same slot is next. -/
def SameCores (s t : State) : Prop := t.slots = s.slots ∧ t.cores = s.cores ∧ t.cur = s.cur

theorem readFlat_sameCores {s t : State} {a n : Nat} (h : SameCores s t) : SameCores s (readFlat t a n).2 := by
  unfold readFlat
  dsimp only
  split <;> exact h

theorem mergeEntry_sameCores {s t : State} {m e : Nat} (h : SameCores s t) : SameCores s (mergeEntry t m e) := by
  unfold mergeEntry
  dsimp only
  split <;> exact h

/-- A merge of all entries changes no slot, and of the core only the log, which it empties. -/
theorem mergeLog_all (s : State) (c : CoreRef) :
    (mergeLog s c (coreAt s c).log.cnt).cur = s.cur ∧
    (∀ w, slotAt (mergeLog s c (coreAt s c).log.cnt) w = slotAt s w) ∧
    coreAt (mergeLog s c (coreAt s c).log.cnt) c = { coreAt s c with log := { (coreAt s c).log with cnt := 0, last := [] } } := by
  unfold mergeLog
  dsimp only
  generalize e : List.foldl _ s _ = t
  have ht : SameCores s t :=
    e ▸ foldl_inv (P := SameCores s) (fun _ _ hu => mergeEntry_sameCores (readFlat_sameCores hu)) ⟨rfl, rfl, rfl⟩
  obtain ⟨hslots, hcores, hcur⟩ := ht
  have hc : coreAt t c = coreAt s c := by rw [coreAt, hcores, coreAt]
  refine ⟨hcur, fun w => ?_, ?_⟩
  · rw [slotAt_setCore, slotAt, hslots, slotAt]
  · rw [coreAt_setCore, hc]
    simp

/-! ### Writes of CSRs -/

/-- A slot that differs from another in its CSRs and its trap registers alone. -/
def CsrsOf (x y : Slot) : Prop := ∃ csr trap, y = { x with csr := csr, trap := trap }

theorem CsrsOf.refl (x : Slot) : CsrsOf x x := ⟨x.csr, x.trap, rfl⟩

theorem writeLog_slot (s : State) (c : CoreRef) (lim : Bool) (v : Word) (w : SlotRef) :
    slotAt (writeLog s c lim v) w = slotAt s w := by
  unfold writeLog
  extract_lets d h l b
  split
  · rfl
  · rw [slotAt_setCore, (mergeLog_all s c).2.1]

theorem setLevel_slot (s : State) (w v : SlotRef) (l : Nat) : slotAt (setLevel s w l) v = slotAt s v := by
  unfold setLevel
  split <;> rfl

theorem writeEinj_slot (s : State) (w : SlotRef) (v : Word) : CsrsOf (slotAt s w) (slotAt (writeEinj s w v) w) := by
  have hput : ∀ (t : State) (e : Einj), slotAt t w = slotAt s w →
      CsrsOf (slotAt s w) (slotAt (setSlot t w { slotAt t w with trap := { (slotAt t w).trap with einj := e } }) w) := by
    intro t e ht
    rw [slotAt_setSlot, ht]
    exact ⟨_, _, rfl⟩
  unfold writeEinj
  extract_lets e put bit
  split
  · exact hput s _ rfl
  split
  · exact hput _ _ rfl
  · exact hput _ _ rfl
  · exact hput _ _ rfl
  · exact hput s _ rfl

theorem csrWrite_slot (s : State) (w : SlotRef) (n : Nat) (v k : Word) : CsrsOf (slotAt s w) (slotAt (csrWrite s w n v k) w) := by
  have hput : ∀ (csr : SlotCsr) (trap : TrapRegs),
      CsrsOf (slotAt s w) (slotAt (setSlot s w { slotAt s w with csr := csr, trap := trap }) w) := by
    intro csr trap
    rw [slotAt_setSlot]
    exact ⟨_, _, rfl⟩
  have hsame : ∀ t, slotAt t w = slotAt s w → CsrsOf (slotAt s w) (slotAt t w) := by
    intro t ht
    rw [ht]
    exact CsrsOf.refl _
  unfold csrWrite
  extract_lets x c hr h csr trap
  split
  -- LEVEL, DLOGHEAD, DLOGLIM, the registers of the core and of the hamlet's mill
  case h_6 => exact hsame _ (setLevel_slot ..)
  case h_8 | h_9 => exact hsame _ (writeLog_slot ..)
  case h_10 | h_11 | h_12 | h_13 | h_19 => exact hsame _ rfl
  case h_14 => split <;> exact hsame _ rfl
  -- EINJ, and the comparators
  case h_21 => exact writeEinj_slot s w v
  case h_22 =>
    extract_lets q
    split
    · exact hsame _ rfl
    · split <;> exact hsame _ rfl
  all_goals exact hput _ _

/-! ### What reads back -/

/-- A mask of the low `k` bits takes the remainder. -/
theorem and_lowMask (v : Word) {k : Nat} (hk : k ≤ 64) : v &&& BitVec.ofNat 64 (2 ^ k - 1) = BitVec.ofNat 64 (v.toNat % 2 ^ k) := by
  apply BitVec.eq_of_toNat_eq
  have hp : 2 ^ k ≤ 2 ^ 64 := Nat.pow_le_pow_right (by omega) hk
  have hpos := Nat.two_pow_pos k
  have hm : v.toNat % 2 ^ k < 2 ^ k := Nat.mod_lt _ hpos
  rw [BitVec.toNat_and, BitVec.toNat_ofNat, BitVec.toNat_ofNat, Nat.mod_eq_of_lt (a := 2 ^ k - 1) (by omega),
    Nat.and_two_pow_sub_one_eq_mod, Nat.mod_eq_of_lt (a := v.toNat % 2 ^ k) (by omega)]

/-- Patterns agree on their low `k` bits. -/
theorem and_lowMask_congr {v u : Word} (k : Nat) (hk : k ≤ 64) (h : v.toNat % 2 ^ k = u.toNat % 2 ^ k) :
    v &&& BitVec.ofNat 64 (2 ^ k - 1) = u &&& BitVec.ofNat 64 (2 ^ k - 1) := by
  rw [and_lowMask v hk, and_lowMask u hk, h]

theorem zeroExtend_low (v : Word) (k : Nat) (hk : k ≤ 64) : ((v.extractLsb' 0 k).zeroExtend 64).toNat % 2 ^ k = v.toNat % 2 ^ k := by
  have hp : 2 ^ k ≤ 2 ^ 64 := Nat.pow_le_pow_right (by omega) hk
  have hm : v.toNat % 2 ^ k < 2 ^ k := Nat.mod_lt _ (Nat.two_pow_pos k)
  simp only [BitVec.toNat_setWidth, BitVec.extractLsb'_toNat, Nat.shiftRight_zero]
  rw [Nat.mod_eq_of_lt (a := v.toNat % 2 ^ k) (by omega), Nat.mod_mod]

theorem b2n_getLsbD (v : Word) (i : Nat) : b2n (v.getLsbD i) = v.toNat / 2 ^ i % 2 := by
  rw [BitVec.getLsbD, Nat.testBit_eq_decide_div_mod_eq]
  rcases Nat.mod_two_eq_zero_or_one (v.toNat / 2 ^ i) with h | h <;> simp [b2n, h]

/-- The low bits of a TCAUSE that was written: cause, DEFER and ESC, below a bit that a write leaves. -/
theorem trapCause_low (v : Word) (inh : Bool) :
    (BitVec.ofNat 64 ((v.extractLsb' 0 8).toNat + b2n (v.getLsbD 8) * 2 ^ 8 + b2n (v.getLsbD 9) * 2 ^ 9 + b2n inh * 2 ^ 10)).toNat
      % 2 ^ 10 = v.toNat % 2 ^ 10 := by
  rw [b2n_getLsbD, b2n_getLsbD, BitVec.extractLsb'_toNat, BitVec.toNat_ofNat]
  simp only [Nat.shiftRight_zero]
  omega

theorem bit_low_bit (v : Word) : (BitVec.ofNat 64 (b2n (v.getLsbD 0))).toNat % 2 ^ 1 = v.toNat % 2 ^ 1 := by
  rw [b2n_getLsbD, BitVec.toNat_ofNat]
  omega

theorem append_halves (v : Word) : v.extractLsb' 32 32 ++ v.extractLsb' 0 32 = v := by
  rw [BitVec.extractLsb'_append_extractLsb'_eq_extractLsb' (by rfl), BitVec.extractLsb'_eq_self]

/-- The fields of R304 that a read gives as they were written, as masks, with the numbers of their CSRs. -/
def readBack : List (Nat × Word) :=
  [(0x001, 0x7F#64), (0x002, 0x1F), (0x003, 3), (0x004, 1), (0x011, 0x3F), (0x201, 0xFFFFFFFF),
    (0x301, 0xFFFFFFFF), (0x302, 0xFFFF), (0x400, 0xFFFFFFFFFFFFFFFF), (0x401, 0xFFFFFFFFFFFFFFFF), (0x402, 0x3FF),
    (0x403, 0xFFFFFFFFFFFFFFFF), (0x404, 0xFFFFFFFFFFFFFFFF), (0x407, 0xF), (0x414, 0xFFFFFFFFFFFFFFFF)]

theorem csrRead_csrWrite {s : State} {w : SlotRef} {g : Guard} {pc : Word} {n : Nat} {v k mask : Word}
    (h : (n, mask) ∈ readBack) :
    csrRead (setSlot (csrWrite s w n v k) w (retired g pc (slotAt (csrWrite s w n v k) w))) w n 0 &&& mask = v &&& mask := by
  simp only [readBack, List.mem_cons, Prod.mk.injEq, List.not_mem_nil, or_false] at h
  rcases h with ⟨rfl, rfl⟩ | ⟨rfl, rfl⟩ | ⟨rfl, rfl⟩ | ⟨rfl, rfl⟩ | ⟨rfl, rfl⟩ | ⟨rfl, rfl⟩ | ⟨rfl, rfl⟩ | ⟨rfl, rfl⟩ |
    ⟨rfl, rfl⟩ | ⟨rfl, rfl⟩ | ⟨rfl, rfl⟩ | ⟨rfl, rfl⟩ | ⟨rfl, rfl⟩ | ⟨rfl, rfl⟩ | ⟨rfl, rfl⟩
  · simp only [csrWrite, csrRead, slotAt_setSlot, retired]
    exact and_lowMask_congr 7 (by decide) (zeroExtend_low v 7 (by decide))
  · simp only [csrWrite, csrRead, slotAt_setSlot, retired]
    exact and_lowMask_congr 5 (by decide) (zeroExtend_low v 5 (by decide))
  · simp only [csrWrite, csrRead, slotAt_setSlot, retired]
    exact and_lowMask_congr 2 (by decide) (zeroExtend_low v 2 (by decide))
  · simp only [csrWrite, csrRead, slotAt_setSlot, retired]
    exact and_lowMask_congr 1 (by decide) (bit_low_bit v)
  · simp only [csrWrite, csrRead, slotAt_setSlot, retired]
    exact and_lowMask_congr 6 (by decide) (zeroExtend_low v 6 (by decide))
  · simp only [csrWrite, csrRead, slotAt_setSlot, retired]
    exact and_lowMask_congr 32 (by decide) (zeroExtend_low v 32 (by decide))
  · simp only [csrWrite, csrRead, hamAt_setSlot, hamAt_setHam]
    exact and_lowMask_congr 32 (by decide) (zeroExtend_low v 32 (by decide))
  · simp only [csrWrite, csrRead, hamAt_setSlot, hamAt_setHam]
    exact and_lowMask_congr 16 (by decide) (zeroExtend_low v 16 (by decide))
  · simp only [csrWrite, csrRead, slotAt_setSlot, retired]
  · simp only [csrWrite, csrRead, slotAt_setSlot, retired]
  · simp only [csrWrite, csrRead, slotAt_setSlot, retired]
    exact and_lowMask_congr 10 (by decide) (trapCause_low v _)
  · simp only [csrWrite, csrRead, slotAt_setSlot, retired]
  · simp only [csrWrite, csrRead, coreOf_setSlot, coreOf_setCoreOf, append_halves]
  · simp only [csrWrite, csrRead, slotAt_setSlot, retired]
    exact and_lowMask_congr 4 (by decide) (zeroExtend_low v 4 (by decide))
  · simp [csrWrite, csrRead]

/-! ### The instructions -/

theorem csrrd_faults {s : State} {g : Guard} {f : RForm} (h : Ready s g [.ds f.d, .s f.b] false)
    (hs : (curSlot s).supv = false) (hp : readPriv (csrNum f) = true) :
    Faults s (exec (.csrrd g f) s) .privilege (BitVec.ofNat 64 (csrNum f)) :=
  issue_fault (accs := fun _ => []) (body := csrrdBody f) h (by
    unfold csrrdBody
    exact if_pos (by rw [hs, hp]; rfl))

theorem csrrd_runs {s : State} {g : Guard} {f : RForm} (h : Ready s g [.ds f.d, .s f.b] false)
    (hp : (curSlot s).supv = true ∨ readPriv (csrNum f) = false) : Runs s g (exec (.csrrd g f) s) fun y =>
      WritesS (curSlot s) y f.d (csrRead s s.cur (csrNum f) (sGet (curSlot s) f.b)) 0 := by
  have hb : csrrdBody f s =
      .done (withCur s fun y => sPut y f.d (csrRead s s.cur (csrNum f) (sGet (curSlot s) f.b))) := by
    unfold csrrdBody
    rcases hp with hp | hp <;> simp [hp]
  have hw := writesS_sPut (curSlot s) f.d (csrRead s s.cur (csrNum f) (sGet (curSlot s) f.b)) 0
  rw [raiseFl_zero] at hw
  exact runs_of_withCur s g _ false _ (fun _ => []) _ _ h hb hw

/-- A write that R304 refuses in task mode. -/
def WriteRefused (s : State) (n : Nat) (v : Word) : Prop :=
  (curSlot s).supv = false ∧ (writePriv n = true ∨ fieldPriv s s.cur n v = true)

theorem csrBody_refused {s : State} {op : CsrOp} {f : RForm}
    (h : WriteRefused s (csrNum f) (csrRw op (csrRead s s.cur (csrNum f) 0) (sGet (curSlot s) f.a))) :
    csrBody op f s = .fault .privilege (BitVec.ofNat 64 (csrNum f)) := by
  obtain ⟨hs, hp⟩ := h
  unfold csrBody
  dsimp only
  refine if_pos ?_
  rw [hs]
  rcases hp with hp | hp <;> rw [hp] <;> simp

theorem csrBody_done {s : State} {op : CsrOp} {f : RForm}
    (h : ¬ WriteRefused s (csrNum f) (csrRw op (csrRead s s.cur (csrNum f) 0) (sGet (curSlot s) f.a))) :
    csrBody op f s = .done (csrWrite (withCur s fun y => sPut y f.d (csrRead s s.cur (csrNum f) 0)) s.cur (csrNum f)
      (csrRw op (csrRead s s.cur (csrNum f) 0) (sGet (curSlot s) f.a)) (csrW1c op (sGet (curSlot s) f.a))) := by
  unfold csrBody
  dsimp only
  refine if_neg fun hp => h ?_
  simpa [WriteRefused] using hp

/-- What a CSR write that is allowed leaves: D has the old value, the other registers are as they were, and the fields written are read
back. -/
theorem csrWrite_effect {s t : State} {g : Guard} {d : RegIx} {n : Nat} {old v k : Word}
    (e : t = csrWrite (withCur s fun y => sPut y d old) s.cur n v k) :
    let u := setSlot t s.cur (retired g (curSlot s).pc (slotAt t s.cur))
    (slotAt u s.cur).pc = nextCell (curSlot s).pc ∧
    (∀ r, sGet (slotAt u s.cur) r = if r = d ∧ r ≠ 0 then old else sGet (curSlot s) r) ∧
    (slotAt u s.cur).vreg = (curSlot s).vreg ∧ (slotAt u s.cur).preg = (curSlot s).preg := by
  obtain ⟨csr, trap, ht⟩ := csrWrite_slot (withCur s fun y => sPut y d old) s.cur n v k
  have hx : slotAt (withCur s fun y => sPut y d old) s.cur = sPut (curSlot s) d old := slotAt_setSlot ..
  rw [hx, ← e] at ht
  have hv : (sPut (curSlot s) d old).vreg = (curSlot s).vreg ∧ (sPut (curSlot s) d old).preg = (curSlot s).preg := by
    unfold sPut
    split <;> exact ⟨rfl, rfl⟩
  intro u
  have hu : slotAt u s.cur = retired g (curSlot s).pc { sPut (curSlot s) d old with csr := csr, trap := trap } := by
    rw [← ht]
    exact slotAt_setSlot ..
  rw [hu]
  refine ⟨rfl, fun r => ?_, hv.1, hv.2⟩
  have hg : sGet (retired g (curSlot s).pc { sPut (curSlot s) d old with csr := csr, trap := trap }) r =
      sGet (sPut (curSlot s) d old) r := rfl
  rw [hg]
  by_cases hr : r = d
  · subst hr
    rw [sGet_sPut_same]
    by_cases h0 : r = 0
    · rw [if_pos h0, if_neg fun h => h.2 h0, h0, sGet_zero]
    · rw [if_neg h0, if_pos ⟨rfl, h0⟩]
  · rw [sGet_sPut_other _ _ _ _ hr, if_neg fun h => hr h.1]

/-- CSRWR, CSRSET and CSRCLR as O33 states them. -/
theorem csrWrites {s : State} {g : Guard} {f : RForm} {op : CsrOp} {i : Instr} {v : Word}
    (h : Ready s g [.ds f.d, .s f.a] false) (hi : exec i s = issue g [.ds f.d, .s f.a] false (csrBody op f) s)
    (hv : csrRw op (csrRead s s.cur (csrNum f) 0) (sGet (curSlot s) f.a) = v) :
    (WriteRefused s (csrNum f) v → Faults s (exec i s) .privilege (BitVec.ofNat 64 (csrNum f))) ∧
    (¬ WriteRefused s (csrNum f) v → ∃ t, exec i s = .next t ∧ (slotAt t s.cur).pc = nextCell (curSlot s).pc ∧
      (∀ r, sGet (slotAt t s.cur) r = if r = f.d ∧ r ≠ 0 then csrRead s s.cur (csrNum f) 0 else sGet (curSlot s) r) ∧
      (slotAt t s.cur).vreg = (curSlot s).vreg ∧ (slotAt t s.cur).preg = (curSlot s).preg ∧
      ∀ mask, (csrNum f, mask) ∈ readBack → csrRead t s.cur (csrNum f) 0 &&& mask = v &&& mask) := by
  subst hv
  rw [hi]
  refine ⟨fun hr => issue_fault (accs := fun _ => []) h (csrBody_refused hr),
    fun hr => ⟨_, issue_done (accs := fun _ => []) h (csrBody_done hr), ?_⟩⟩
  obtain ⟨hpc, hs, hv, hp⟩ := csrWrite_effect (g := g) (rfl : _ = csrWrite (withCur s fun y => sPut y f.d _) s.cur (csrNum f) _ _)
  exact ⟨hpc, hs, hv, hp, fun mask hm => csrRead_csrWrite hm⟩

theorem ifence_stalls {s : State} {g : Guard} {f : RForm} (h : Ready s g [] false) (hd : localDrained s s.cur = false) :
    Stalls s (exec (.ifence g f) s) :=
  issue_stall (accs := fun _ => []) (body := ifenceBody) h (by
    unfold ifenceBody
    exact if_pos (by rw [hd]; rfl))

theorem ifence_empties {s : State} {g : Guard} {f : RForm} (h : Ready s g [] false) (hd : localDrained s s.cur = true) :
    exec (.ifence g f) s = .next (setSlot (clearConst s (coreRefOf s.cur)) s.cur
      (retired g (curSlot s).pc { curSlot s with ibuf := [] })) := by
  have hb : ifenceBody s = .done (withCur (clearConst s (coreRefOf s.cur)) fun x => { x with ibuf := [] }) := by
    unfold ifenceBody
    exact if_neg (by rw [hd]; decide)
  refine (issue_done (accs := fun _ => []) h hb).trans ?_
  have hc : (clearConst s (coreRefOf s.cur)).cur = s.cur := rfl
  have hx : slotAt (clearConst s (coreRefOf s.cur)) s.cur = curSlot s := rfl
  rw [withCur, hc, slotAt_setSlot, setSlot_setSlot, hx]

theorem dlog_next {s : State} {g : Guard} {f : RForm} (h : Ready s g [.ds f.d] false) :
    exec (.dlog g f) s = .next (setSlot (mergeLog s (coreRefOf s.cur) (coreOf s s.cur).log.cnt) s.cur
      (retired g (curSlot s).pc (sPut (curSlot s) f.d (BitVec.ofNat 64 (coreOf s s.cur).log.cnt)))) := by
  obtain ⟨hcur, hslot, -⟩ := mergeLog_all s (coreRefOf s.cur)
  refine (issue_done (accs := fun _ => []) (body := dlogBody f) h rfl).trans ?_
  rw [withCur, hcur, slotAt_setSlot, setSlot_setSlot, hslot]
  rfl

end Sys2Proof.Machine

namespace Sys2Proof

open Sys2Proof.Machine

/-- Settles O33: the CSR instructions by the effect of a write and the fields it reads back; IFENCE and DLOG by the states they leave. -/
theorem csrAndLogInstructionResults : Obligations.CsrAndLogInstructionResults := by
  unfold Obligations.CsrAndLogInstructionResults
  refine ⟨fun s g f => ⟨fun h => ⟨csrrd_faults h, csrrd_runs h⟩, fun h => ?_⟩,
    fun s g f => ⟨fun h => ⟨ifence_stalls h, fun hd => ⟨_, tget_tput_same _ _ _ _, ifence_empties h hd⟩⟩, fun h => ?_⟩⟩
  · exact ⟨csrWrites (op := .wr) h rfl rfl, csrWrites (op := .set) h rfl rfl, csrWrites (op := .clr) h rfl rfl⟩
  obtain ⟨-, -, hcore⟩ := mergeLog_all s (coreRefOf s.cur)
  refine ⟨_, _, dlog_next h, slotAt_setSlot .., ?_, ?_⟩
  · have hw := writesS_sPut (curSlot s) f.d (BitVec.ofNat 64 (coreOf s s.cur).log.cnt) 0
    rwa [raiseFl_zero] at hw
  · exact hcore

end Sys2Proof
end

section
/-!
PROOFS. Hosts and the service complex (O51; R4, R219, R379-R382, R384, R386, R387, R389, R390): how a request is answered, what of a
module every step of a recovery keeps, what a boot step leaves, and memory that has been erased.
-/

namespace Sys2Proof.Machine

/-! ### Host requests -/

/-- Without an earlier request of its queue pair nothing is tried before a request. -/
theorem hostDrain_alone {s : State} {r : HostReq} (h : s.hostHeld.any (fun q => samePair q.1 r) = false) (n : Nat) :
    hostDrain s r n = s := by
  have hf : s.hostHeld.find? (fun q => samePair q.1 r) = none := by
    rw [List.find?_eq_none]
    exact List.any_eq_false.1 h
  cases n with
  | zero => rfl
  | succ n => rw [hostDrain, hf]

theorem hostArrive_alone {s : State} {r : HostReq} (h : s.hostHeld.any (fun q => samePair q.1 r) = false) (op : HostOp) :
    hostArrive s r op = match hostRun s r op with
      | .over t => .next t
      | .wait t => .next { t with hostHeld := t.hostHeld ++ [(r, op)] } := by
  unfold hostArrive
  rw [hostDrain_alone h]
  dsimp only
  rw [h]
  rfl

theorem hostArrive_over {s t : State} {r : HostReq} {op : HostOp} (h : s.hostHeld.any (fun q => samePair q.1 r) = false)
    (e : hostRun s r op = .over t) : hostArrive s r op = .next t := by
  rw [hostArrive_alone h, e]

theorem hostArrive_wait {s t : State} {r : HostReq} {op : HostOp} (h : s.hostHeld.any (fun q => samePair q.1 r) = false)
    (e : hostRun s r op = .wait t) : hostArrive s r op = .next { t with hostHeld := t.hostHeld ++ [(r, op)] } := by
  rw [hostArrive_alone h, e]

/-- A request behind one of its queue pair that still waits. -/
theorem hostArrive_behind {s : State} {r : HostReq} {q : HostReq × HostOp} {p : Tbl Page} (hq : s.hostHeld = [q])
    (hp : samePair q.1 r = true) (e : hostRun s q.1 q.2 = .wait { s with pages := p }) (op : HostOp) :
    hostArrive s r op = .next { s with pages := p, hostHeld := [q, (r, op)] } := by
  have hd : hostDrain s r s.hostHeld.length = { s with pages := p } := by
    rw [hq, List.length_singleton, hostDrain, hq]
    simp [hp, e, hq]
  unfold hostArrive
  rw [hd]
  simp [hq, hp]

theorem hostRun_check {s : State} {r : HostReq} {op : HostOp} {a : HostAns} (h : hostCheck s r op = some a) :
    hostRun s r op = .over (answerHost s r a) := by
  rw [hostRun, h]

theorem hostRun_perform {s : State} {r : HostReq} {op : HostOp} (h : hostCheck s r op = none) :
    hostRun s r op = hostPerform s r op := by
  rw [hostRun, h]

theorem hostCheck_down {s : State} {r : HostReq} (h : portUp s r = false) (op : HostOp) : hostCheck s r op = some .timeout := by
  unfold hostCheck
  rw [h]
  rfl

theorem hostCheck_unaligned {s : State} {r : HostReq} {op : HostOp} (hu : portUp s r = true) (ha : hostAligned r op = false) :
    hostCheck s r op = some .nakInvalid := by
  unfold hostCheck
  rw [hu, ha]
  rfl

theorem hostCheck_refused {s : State} {r : HostReq} {op : HostOp} (hu : portUp s r = true) (ha : hostAligned r op = true)
    (hw : hostAllowed s r (hostNeed r op).1 (hostNeed r op).2 = false) : hostCheck s r op = some .nakAccess := by
  unfold hostCheck
  rw [hu, ha, hw]
  rfl

theorem hostCheck_allowed {s : State} {r : HostReq} {op : HostOp} (hu : portUp s r = true) (ha : hostAligned r op = true)
    (hw : hostAllowed s r (hostNeed r op).1 (hostNeed r op).2 = true) : hostCheck s r op = none := by
  unfold hostCheck
  rw [hu, ha, hw]
  rfl

theorem hostAtomic_ok {s t : State} {r : HostReq} {f : Nat → Option Nat} {x : Nat}
    (h : perfAtomic s (hostWho r) r.va 8 f true = .ok t x) :
    hostAtomic s r f = .over (answerHost t r (.value (BitVec.ofNat 64 x))) := by
  unfold hostAtomic
  rw [h]

/-- A request that no earlier one of its queue pair precedes, where the port is off. -/
theorem hostArrive_down {s : State} {r : HostReq} (ha : s.hostHeld.any (fun q => samePair q.1 r) = false) (hu : portUp s r = false)
    (op : HostOp) : hostArrive s r op = .next (answerHost s r .timeout) :=
  hostArrive_over ha (hostRun_check (hostCheck_down hu op))

theorem hostArrive_unaligned {s : State} {r : HostReq} {op : HostOp} (ha : s.hostHeld.any (fun q => samePair q.1 r) = false)
    (hu : portUp s r = true) (hv : hostAligned r op = false) : hostArrive s r op = .next (answerHost s r .nakInvalid) :=
  hostArrive_over ha (hostRun_check (hostCheck_unaligned hu hv))

/-- A request that its window allows is performed. -/
theorem hostRun_allowed {s : State} {r : HostReq} {op : HostOp} (hu : portUp s r = true) (hv : hostAligned r op = true)
    (hw : hostAllowed s r (hostNeed r op).1 (hostNeed r op).2 = true) : hostRun s r op = hostPerform s r op :=
  hostRun_perform (hostCheck_allowed hu hv hw)

theorem hostPerform_write_ok {s t : State} {r : HostReq} {data : List Byte}
    (h : engWrite s (hostWho r) r.va data.length (ofBytes data) data.length = .ok t) :
    hostPerform s r (.write data) = .over (answerHost t r .done) := by
  unfold hostPerform
  dsimp only
  rw [h]

theorem hostPerform_write_hold {s t : State} {r : HostReq} {data : List Byte}
    (h : engWrite s (hostWho r) r.va data.length (ofBytes data) data.length = .hold t) :
    hostPerform s r (.write data) = .wait { s with pages := t.pages } := by
  unfold hostPerform
  dsimp only
  rw [h]
  rfl

theorem hostPerform_read_ok {s t : State} {r : HostReq} {x : Nat} (h : engRead s (hostWho r) r.va r.len r.len = .ok t x false) :
    hostPerform s r .read = .over (answerHost t r (.data (bytesOf r.len x))) := by
  unfold hostPerform
  dsimp only
  rw [h]

theorem unsupportedHostRequest_answer {s : State} {r : HostReq} (k : UnsupportedKind) :
    exec (.unsupportedHostRequest r k) s = .next (answerHost s r (if portUp s r then .nakInvalid else .timeout)) := rfl

/-! ### Host windows -/

theorem hostWindowWrite_refused {s : State} {m i : Nat} {e : HostWinArg} (h : e.base.toNat % 65536 ≠ 0) :
    exec (.hostWindowWrite m i e) s = .next s := by
  refine congrArg Host.Outcome.next (if_neg ?_)
  simp [h]

theorem hostWindowWrite_sets {s : State} {m i : Nat} {e : HostWinArg} (hm : modUp s m = true) (hi : i < 64)
    (hb : e.base.toNat % 65536 = 0) (hl : e.len % 65536 = 0) (hr : regionOf e.base.toNat = some 2)
    (he : e.base.toNat + e.len ≤ 0x100000000000000) (ht : e.rights.toNat < 8) (hp : e.ports.toNat < 16) :
    exec (.hostWindowWrite m i e) s = .next (setMod s m { modAt s m with
      wins := tput (modAt s m).wins i ⟨e.base.toNat, e.len, e.rkey, e.rights, e.ports⟩ }) := by
  have hrights : e.rights.extractLsb' 3 5 = 0#5 := by
    apply BitVec.eq_of_toNat_eq
    rw [BitVec.extractLsb'_toNat, Nat.shiftRight_eq_div_pow, Nat.div_eq_of_lt (by omega)]
    rfl
  have hports : e.ports.extractLsb' 4 4 = 0#4 := by
    apply BitVec.eq_of_toNat_eq
    rw [BitVec.extractLsb'_toNat, Nat.shiftRight_eq_div_pow, Nat.div_eq_of_lt (by omega)]
    rfl
  refine congrArg Host.Outcome.next (if_pos ?_)
  simp [hm, hi, hb, hl, hr, he, hrights, hports]

/-! ### Modules that an operation leaves as they were -/

/-- A fold over steps that leave the modules alone does so too. -/
theorem foldl_mods {α : Type} {f : State → α → State} (hf : ∀ t a, (f t a).mods = t.mods) (s : State) (l : List α) :
    (l.foldl f s).mods = s.mods :=
  foldl_inv (P := fun t : State => t.mods = s.mods) (fun t a ht => (hf t a).trans ht) rfl

theorem settleD_mods (s : State) (ln : Line) (a : Nat) : (settleD s ln a).mods = s.mods := by
  unfold settleD
  dsimp only
  split
  · split <;> rfl
  · split <;> rfl

theorem recallLine_mods (s : State) (l : LineRef) : (recallLine s l).mods = s.mods := by
  unfold recallLine
  dsimp only
  split
  · rfl
  rw [setLine_mods]
  split
  · exact settleD_mods ..
  · rfl

theorem recallLines_mods (s : State) (p : LineRef → Bool) : (recallLines s p).mods = s.mods := by
  unfold recallLines
  refine foldl_mods (fun t q => ?_) _ _
  split
  · exact recallLine_mods ..
  · rfl

theorem returnHam_mods (s : State) (l : LineRef) (h : Nat) : (returnHam s l h).mods = s.mods := by
  unfold returnHam
  dsimp only
  split
  · rfl
  rw [setLine_mods]
  split
  · split
    · exact settleD_mods ..
    · rfl
  · rfl

theorem returnLines_mods (s : State) (m : Nat) (p : LineRef → Bool) : (returnLines s m p).mods = s.mods := by
  unfold returnLines
  refine foldl_mods (fun t q => ?_) _ _
  split
  · refine foldl_mods (fun u i => ?_) _ _
    split
    · exact returnHam_mods ..
    · rfl
  · rfl

theorem recallPage_mods (s : State) (p : PageRef) : (recallPage s p).mods = s.mods :=
  (returnLines_mods ..).trans (recallLines_mods ..)

theorem recallRange_mods (s : State) (p : PageRef) (n : Nat) : (recallRange s p n).mods = s.mods := by
  unfold recallRange
  dsimp only
  rw [recallLines_mods]
  exact foldl_mods (fun _ _ => returnLines_mods ..) _ _

theorem fillFrame_mods (s : State) (a : Nat) (bytes : Memory) : (fillFrame s a bytes).mods = s.mods := by
  unfold fillFrame
  refine (foldl_mods (fun t i => ?_) _ _).trans (foldl_mods (fun t i => ?_) _ _) <;> rfl

theorem copyFrame_mods (s : State) (a b : Nat) : (copyFrame s a b).mods = s.mods := by
  have hput : ∀ (t : State) (ecc : Tbl Ecc) (poison : Tbl Bool), t.mods = s.mods →
      { t with ecc := ecc, poison := poison }.mods = s.mods :=
    fun _ _ _ ht => ht
  refine hput _ _ _ (foldl_mods (fun t i => ?_) _ _)
  rfl

theorem poisonFrame_mods (s : State) (m f : Nat) : (poisonFrame s m f).mods = s.mods := by
  unfold poisonFrame
  refine foldl_mods (fun t i => ?_) _ _
  rfl

theorem fillSwitched_mods (s : State) (l : Lease) (p : PageRef) (e : Word) (f : Nat) (how : NewBytes) :
    (fillSwitched s l p e f how).1.mods = s.mods := by
  unfold fillSwitched
  extract_lets n pa
  split
  · exact foldl_mods (fun _ _ => copyFrame_mods ..) _ _
  · exact foldl_mods (fun _ _ => poisonFrame_mods ..) _ _
  · refine foldl_inv (P := fun r : State × Bool => r.1.mods = s.mods) (fun r i hr => ?_) rfl
    dsimp only
    split
    · dsimp only
      exact (fillFrame_mods ..).trans hr
    · dsimp only
      exact (poisonFrame_mods ..).trans hr

theorem switchPage_mods {s : State} {l : Lease} {p : PageRef} {a : Nat} {fs : List Nat} {force : Bool} {how : NewBytes}
    {r : State × Bool} (e : switchPage s l p a fs force how = some r) : r.1.mods = s.mods := by
  unfold switchPage at e
  dsimp only at e
  split at e
  · cases e
  · cases e
    rw [recallRange_mods]
    exact (fillSwitched_mods ..).trans (recallPage_mods ..)

theorem unmapPage_mods (s : State) (p : PageRef) (e : Word) (a : Nat) : (unmapPage s p e a).mods = s.mods := by
  unfold unmapPage
  refine (foldl_mods (fun t i => ?_) _ _).trans (recallPage_mods s p)
  rfl

theorem endPages_mods (s : State) (b : Nat) (l : Lease) (frames : List Nat) (how : NewBytes) :
    (endPages s b l frames how).1.mods = s.mods := by
  unfold endPages
  refine foldl_inv (P := fun r : State × Tbl Moved => r.1.mods = s.mods) (fun r q hr => ?_) rfl
  split
  · next e => exact (switchPage_mods e).trans hr
  · next e => exact (switchPage_mods e).trans hr
  · exact (unmapPage_mods ..).trans hr

theorem leaseEvents_mods (s : State) (b kind : Nat) (l : Lease) (tags : Tbl Moved) : (leaseEvents s b kind l tags).mods = s.mods := by
  unfold leaseEvents
  refine foldl_mods (fun t q => ?_) _ _
  refine foldl_mods (fun u r => ?_) _ _
  split <;> rfl

theorem dropPins_mods (s : State) (ps : List PageRef) : (dropPins s ps).mods = s.mods := by
  unfold dropPins
  dsimp only
  split <;> rfl

theorem freezePages_mods (s : State) (member : Nat) (f : LineRef → Line → Bool) : (freezePages s member f).mods = s.mods := by
  unfold freezePages
  refine foldl_mods (fun t q => ?_) _ _
  dsimp only
  split <;> rfl

theorem dropHopeless_mods (s : State) : (dropHopeless s).mods = s.mods := by
  unfold dropHopeless
  refine foldl_mods (fun t q => ?_) _ _
  dsimp only
  split
  · rw [setPage_mods]
    split
    · exact poisonFrame_mods ..
    · rfl
  · rfl

/-! ### What the service complex keeps of a module -/

/-- A module with the state, ports and service complex of another. -/
def SameService (x y : Mod) : Prop :=
  y.present = x.present ∧ y.failed = x.failed ∧ y.fenced = x.fenced ∧ y.ports = x.ports ∧ y.sp = x.sp

/-- Every module keeps its state, ports and service complex. -/
def KeepsService (s t : State) : Prop := ∀ m, SameService (modAt s m) (modAt t m)

theorem SameService.refl (x : Mod) : SameService x x := ⟨rfl, rfl, rfl, rfl, rfl⟩

theorem SameService.trans {x y z : Mod} (h : SameService x y) (k : SameService y z) : SameService x z := by
  obtain ⟨h1, h2, h3, h4, h5⟩ := h
  obtain ⟨k1, k2, k3, k4, k5⟩ := k
  exact ⟨k1.trans h1, k2.trans h2, k3.trans h3, k4.trans h4, k5.trans h5⟩

theorem KeepsService.refl (s : State) : KeepsService s s := fun _ => SameService.refl _

theorem KeepsService.trans {s t u : State} (h : KeepsService s t) (k : KeepsService t u) : KeepsService s u :=
  fun m => (h m).trans (k m)

theorem KeepsService.of_mods {s t : State} (h : t.mods = s.mods) : KeepsService s t := by
  intro m
  rw [modAt, modAt, h]
  exact SameService.refl _

theorem KeepsService.setMod {s : State} {b : Nat} {x : Mod} (h : SameService (modAt s b) x) : KeepsService s (setMod s b x) := by
  intro m
  by_cases hm : m = b
  · subst hm
    rwa [modAt_setMod]
  · rw [modAt_setMod_other _ _ _ _ hm]
    exact SameService.refl _

theorem KeepsService.foldl {α : Type} {f : State → α → State} (hf : ∀ t a, KeepsService t (f t a)) (s : State) (l : List α) :
    KeepsService s (l.foldl f s) :=
  foldl_inv (P := KeepsService s) (fun t a ht => ht.trans (hf t a)) (KeepsService.refl s)

theorem putRow_keeps (s : State) (j n : Nat) (f : RowSt → RowSt) : KeepsService s (putRow s j n f) :=
  KeepsService.setMod ⟨rfl, rfl, rfl, rfl, rfl⟩

theorem putLend_keeps (s : State) (m id : Nat) (f : Lease → Lease) : KeepsService s (putLend s m id f) :=
  KeepsService.setMod ⟨rfl, rfl, rfl, rfl, rfl⟩

theorem putBorrow_keeps (s : State) (b lender id : Nat) (host : Bool) (f : Lease → Lease) :
    KeepsService s (putBorrow s b lender id host f) :=
  KeepsService.setMod ⟨rfl, rfl, rfl, rfl, rfl⟩

theorem lenderFailed_keeps (s : State) (m : Nat) : KeepsService s (lenderFailed s m) := by
  unfold lenderFailed
  refine KeepsService.foldl (fun t l => ?_) _ _
  dsimp only
  refine KeepsService.trans ?_ (KeepsService.of_mods (leaseEvents_mods ..))
  refine KeepsService.trans (KeepsService.trans ?_ (putLend_keeps _ _ _ _)) (putBorrow_keeps _ _ _ _ _ _)
  have hpins : ∀ qs : List PageRef, KeepsService t (dropPins t qs) := fun _ => KeepsService.of_mods (dropPins_mods ..)
  split
  · exact hpins _
  · exact (hpins _).trans (KeepsService.of_mods (endPages_mods ..))

/-- What a module that has failed keeps, and what it is. -/
theorem moduleLost_service (s : State) (m : Nat) : SameService { modAt s m with failed := true } (modAt (moduleLost s m) m) := by
  unfold moduleLost
  dsimp only
  have h0 : SameService { modAt s m with failed := true }
      (modAt (setMod s m { modAt s m with failed := true, cuts := (modAt s m).cuts.filter (·.committed) }) m) := by
    rw [modAt_setMod]
    exact ⟨rfl, rfl, rfl, rfl, rfl⟩
  refine h0.trans ((?_ : KeepsService _ _) m)
  refine KeepsService.trans ?_ (lenderFailed_keeps _ _)
  refine KeepsService.trans ?_ (KeepsService.of_mods (dropHopeless_mods ..))
  refine KeepsService.trans (KeepsService.of_mods (freezePages_mods ..)) (KeepsService.foldl (fun t n => ?_) _ _)
  exact putRow_keeps _ _ _ _

theorem moduleLost_down (s : State) (m : Nat) : modUp (moduleLost s m) m = false := by
  obtain ⟨-, hf, -⟩ := moduleLost_service s m
  simp [modUp, hf]

theorem eraseMemory_keeps (s : State) (m : Nat) : KeepsService s (eraseMemory s m) := by
  unfold eraseMemory
  dsimp only
  exact KeepsService.trans (KeepsService.of_mods rfl) (KeepsService.foldl (fun t n => putRow_keeps _ _ _ _) _ _)

/-! ### Erased memory -/

theorem memGet_filter_out {p : Nat × Byte → Bool} {a : Nat} (h : ∀ b, p (a, b) = false) (m : Memory) :
    memGet (m.filter p) a = unlisted := by
  induction m with
  | nil => rfl
  | cons e r ih =>
    obtain ⟨i, b⟩ := e
    by_cases hp : p (i, b) = true
    · have hi : i ≠ a := by
        rintro rfl
        rw [h b] at hp
        cases hp
      rw [List.filter_cons_of_pos hp, memGet, if_neg hi, ih]
    · rw [List.filter_cons_of_neg hp, ih]

theorem tget_filter_out {α : Type} {p : Nat × α → Bool} {k : Nat} (h : ∀ x, p (k, x) = false) (d : α) (t : Tbl α) :
    tget (t.filter p) d k = d := by
  induction t with
  | nil => rfl
  | cons e r ih =>
    obtain ⟨i, x⟩ := e
    by_cases hp : p (i, x) = true
    · have hi : i ≠ k := by
        rintro rfl
        rw [h x] at hp
        cases hp
      rw [List.filter_cons_of_pos hp, tget, if_neg hi, ih]
    · rw [List.filter_cons_of_neg hp, ih]

theorem memRead_one (m : Memory) (a : Nat) : memRead m a 1 = (memGet m a).toNat := by
  simp [memRead]

/-- A listed byte of memory that the erasing of module `m` keeps. -/
def outsideModule (m : Nat) (p : Nat × Byte) : Bool :=
  !(decide (physFlat m 0 / 1 ≤ p.1) && decide (p.1 < (physFlat m 0 + 0x200000000000) / 1))

theorem eraseMemory_mem (s : State) (m : Nat) : (eraseMemory s m).mem = s.mem.filter (outsideModule m) := by
  unfold eraseMemory
  dsimp only
  exact foldl_inv (P := fun t : State => t.mem = s.mem.filter (outsideModule m)) (fun _ _ ht => ht) rfl

theorem memRead_eraseMemory (s : State) {m pa : Nat} (h : pa < 0x200000000000) : memRead (eraseMemory s m).mem (physFlat m pa) 1 = 0 := by
  have ha : physFlat m pa = physFlat m 0 + pa := by simp [physFlat]
  rw [memRead_one, eraseMemory_mem, memGet_filter_out]
  · rfl
  · intro b
    simp [outsideModule, ha, h]

/-! ### What the service processors note -/

theorem contains_setIn (l : List Nat) (n : Nat) (b : Bool) : (setIn l n b).contains n = b := by
  cases b with
  | false => simp [setIn]
  | true =>
    by_cases h : l.contains n = true
    · rw [setIn, if_pos rfl, if_pos h]
      exact h
    · rw [setIn, if_pos rfl, if_neg h]
      simp

@[simp] theorem putService_sp (s : State) (m : Nat) (f : Service → Service) : (modAt (putService s m f) m).sp = f (modAt s m).sp := by
  simp [putService]

@[simp] theorem putService_state (s : State) (m : Nat) (f : Service → Service) :
    modAt (putService s m f) m = { modAt s m with sp := f (modAt s m).sp } := by
  simp [putService]

theorem hostConnectionFailure_disconnects (s : State) (m n : Nat) :
    Goes (exec (.hostConnectionFailure m n) s) (fun t => ∀ l ∈ (modAt t m).borrow,
      l.id = n → l.host = true → l.revoked = false → l.connected = false) := by
  refine ⟨_, rfl, ?_⟩
  intro l hl hid hhost hrev
  rw [putBorrow, modAt_setMod] at hl
  obtain ⟨k, -, rfl⟩ := List.mem_map.1 hl
  by_cases hk : isMirror m n true k = true
  · rw [if_pos hk]
  · rw [if_neg hk] at hid hhost hrev ⊢
    simp [isMirror, hid, hhost, hrev] at hk

theorem diagnosisRepeat_agreed {s : State} {m : Nat} (hm : modUp s m = true) (n : Nat) (a b : Bool) :
    Goes (exec (.diagnosisRepeat m n a b) s) (fun t =>
      agreed (modAt t m) n = (((modAt s m).sp.aliveA || (modAt s m).sp.aliveB) && a && b)) := by
  refine ⟨_, if_neg (by simp [hm]), ?_⟩
  dsimp only
  rw [agreed, putService_sp]
  simp only [contains_setIn]

theorem serviceProcessorFailure_drops {s : State} {m : Nat} (hm : modUp s m = true) (isB : Bool) :
    Goes (exec (.serviceProcessorFailure m isB) s) (fun t =>
      (if isB then (modAt t m).sp.aliveB else (modAt t m).sp.aliveA) = false ∧
      (if isB then (modAt t m).sp.diagB else (modAt t m).sp.diagA) = []) := by
  refine ⟨_, if_neg (by simp [hm]), ?_⟩
  dsimp only
  rw [putService_sp]
  cases isB <;> exact ⟨rfl, rfl⟩

theorem ackSilenceTimeout_votes {s : State} {m n : Nat} (hm : modUp s m = true) (hn : n ≠ m) (hn32 : n < 32) (hu : modUp s n = true)
    (hf : (modAt s n).fenced = false) :
    Goes (exec (.ackSilenceTimeout n m) s) (fun t => (modAt t m).sp.votes.contains n = true) := by
  refine ⟨_, if_neg (by simp [hm, hn, hn32, hu, hf]), ?_⟩
  simp only [putService_sp, contains_setIn]

theorem voterTimeout_silent {s : State} {m n : Nat} (hm : modUp s m = true) (hn : n ≠ m) (hn32 : n < 32)
    (hv : (modAt s m).sp.votes.contains n = false) :
    Goes (exec (.voterTimeout n m) s) (fun t => (modAt t m).sp.silent.contains n = true) := by
  refine ⟨_, if_neg (by simp only [hm, hv]; simp [hn, hn32]), ?_⟩
  simp only [putService_sp, contains_setIn]

/-- A module that is fenced and lost has failed, is fenced, and its ports are off. -/
theorem moduleLost_fence (s : State) (m : Nat) : (modAt (moduleLost (fence s m) m) m).failed = true ∧
    (modAt (moduleLost (fence s m) m) m).fenced = true ∧ (modAt (moduleLost (fence s m) m) m).ports = 0 := by
  obtain ⟨-, hfail, hfence, hports, -⟩ := moduleLost_service (fence s m) m
  refine ⟨hfail, hfence.trans ?_, hports.trans ?_⟩ <;> rw [fence, modAt_setMod]

theorem moduleFailureDeclared_fails {s : State} {m : Nat} (hm : modUp s m = true)
    (hv : 3 ≤ ((votersOf s m).filter (fun v => (modAt s m).sp.votes.contains v)).length) :
    Goes (exec (.moduleFailureDeclared m) s) (fun t => (modAt t m).failed = true ∧ (modAt t m).fenced = true ∧
      (modAt t m).ports = 0) := by
  refine ⟨_, if_neg ?_, moduleLost_fence s m⟩
  rw [hm, decide_eq_false (Nat.not_lt.2 hv)]
  simp

theorem moduleFailureDeclared_few {s : State} {m : Nat}
    (hv : ((votersOf s m).filter (fun v => (modAt s m).sp.votes.contains v)).length < 3) :
    exec (.moduleFailureDeclared m) s = .next s := by
  refine if_pos ?_
  rw [decide_eq_true hv, Bool.or_true]

theorem capabilityFault_record {s : State} {m : Nat} {c : CoreRef} {g : Msg} {r : List Msg} (hs : s.net = g :: r)
    (hk : entryKind g.raw = 2) (hc : coreRefOf (msgSlot g) = c) (hd : g.dest = m) :
    exec (.capabilityFault m (.record c)) s = .next { s with net := r } := by
  show (match s.net.findIdx? _ with | some i => _ | none => _) = _
  rw [hs, List.findIdx?_cons, if_pos (by simp [hk, hc, hd])]
  rfl

theorem capabilityFault_recovery (s : State) (m : Nat) (byB : Bool) :
    Goes (exec (.capabilityFault m (.recovery byB)) s) (fun t =>
      if (modAt s m).sp.retried.contains (!byB) then (modAt t m).sp.reported = true ∧ (modAt t m).sp.retried = []
      else (modAt t m).sp.reported = (modAt s m).sp.reported ∧ (modAt t m).sp.retried.contains byB = true) := by
  refine ⟨_, rfl, ?_⟩
  dsimp only
  rw [putService_sp]
  by_cases h : (modAt s m).sp.retried.contains (!byB) = true
  · rw [if_pos h, if_pos h]
    exact ⟨rfl, rfl⟩
  · rw [if_neg h, if_neg h]
    refine ⟨rfl, ?_⟩
    by_cases hb : (modAt s m).sp.retried.contains byB = true
    · simpa only [if_pos hb] using hb
    · simp only [if_neg hb]
      simp

/-! ### Boot -/

section
variable {s : State} {m step : Nat} (hm : m < 32) (hat : (modAt s m).sp.bootAt = step) (h1 : 1 ≤ step) (h10 : step ≤ 10)
include hm hat h1 h10

/-- A boot step that is due is not refused. -/
theorem bootStep_due : (decide (32 ≤ m) || (modAt s m).sp.bootAt != step || decide (step = 0) || decide (10 < step)) = false := by
  simp only [hat]
  simp
  omega

theorem bootStep_starts (hh : (modAt s m).sp.boot.head? ≠ some (.started step)) (ok : Bool) :
    Goes (exec (.bootStep m step ok) s) (fun t =>
      if bootAlt (modAt s m) step = true ∧ (step = 5 ∨ step = 6) then
        (modAt t m).sp.bootAt = step + 1 ∧ (modAt t m).sp.boot = (modAt s m).sp.boot
      else (modAt t m).sp.bootAt = step ∧ (modAt t m).sp.boot = .started step :: (modAt s m).sp.boot) := by
  refine ⟨_, (if_neg (by rw [bootStep_due hm hat h1 h10]; simp)).trans (if_pos (by simpa using hh)), ?_⟩
  dsimp only
  by_cases ha : bootAlt (modAt s m) step = true ∧ (step = 5 ∨ step = 6)
  · rw [if_pos ha, if_pos (by simpa using ha), modAt_setMod]
    exact ⟨rfl, rfl⟩
  · rw [if_neg ha, if_neg (by simpa using ha), modAt_setMod]
    exact ⟨hat, rfl⟩

/-- A step that succeeds is logged; what it leaves is `bootDone`. -/
theorem bootStep_done (hh : (modAt s m).sp.boot.head? = some (.started step)) :
    exec (.bootStep m step true) s = .next (
      let y := bootDone (modAt s m) step (fun i => Config.freePick (s.clk + i)) (bootAlt (modAt s m) step)
      let t := setMod s m { y with sp := { y.sp with boot := .done step :: (modAt s m).sp.boot, bootAt := step + 1 } }
      if step = 9 then eraseMemory t m else t) :=
  (if_neg (by rw [bootStep_due hm hat h1 h10]; simp)).trans ((if_neg (by simpa using hh)).trans rfl)

theorem bootStep_retries (hh : (modAt s m).sp.boot.head? = some (.started step)) (ha : bootAlt (modAt s m) step = false) :
    exec (.bootStep m step false) s = .next (setMod s m { modAt s m with
      sp := startBoot { (modAt s m).sp with boot := .failed step :: (modAt s m).sp.boot } }) :=
  (if_neg (by rw [bootStep_due hm hat h1 h10]; simp)).trans ((if_neg (by simpa using hh)).trans ((if_neg Bool.false_ne_true).trans
    (if_pos (by rw [ha]; rfl))))

theorem bootStep_fails (hh : (modAt s m).sp.boot.head? = some (.started step)) (ha : bootAlt (modAt s m) step = true) :
    exec (.bootStep m step false) s = .next (
      let y := bootLost (modAt s m) step (Config.freePick (s.clk + 0))
      let gaveUp : Bool := step = 1 || step = 9 || step = 10
      let t := setMod s m { y with sp := { y.sp with boot := .failed step :: (modAt s m).sp.boot,
                                                     bootAt := if gaveUp then 12 else step + 1 } }
      if gaveUp && modUp t m then moduleLost t m else t) :=
  (if_neg (by rw [bootStep_due hm hat h1 h10]; simp)).trans ((if_neg (by simpa using hh)).trans ((if_neg Bool.false_ne_true).trans
    (if_neg (by rw [ha]; simp))))

end

/-- A last boot that failed in a step makes the next one take the alternate path there. -/
theorem bootAlt_startBoot (x : Mod) (step : Nat) (p : Service) :
    bootAlt { x with sp := startBoot { p with boot := .failed step :: p.boot } } step = true := by
  simp [bootAlt, startBoot, bootNo]

section
variable {s : State} {m step : Nat} (hm : m < 32) (hat : (modAt s m).sp.bootAt = step) (h1 : 1 ≤ step) (h10 : step ≤ 10)
  (hh : (modAt s m).sp.boot.head? = some (.started step))
include hm hat h1 h10 hh

theorem bootStep_done_goes :
    Goes (exec (.bootStep m step true) s) (fun t => (modAt t m).sp.bootAt = step + 1 ∧
      (modAt t m).sp.boot = .done step :: (modAt s m).sp.boot ∧ (step = 10 → modUp t m = true ∧ (modAt t m).fenced = false) ∧
      (step = 9 → (modAt t m).sp.keys = true)) := by
  refine ⟨_, bootStep_done hm hat h1 h10 hh, ?_⟩
  dsimp only
  by_cases h9 : step = 9
  · subst h9
    obtain ⟨-, -, -, -, hsp⟩ := eraseMemory_keeps (setMod s m _) m m
    rw [if_pos rfl, hsp, modAt_setMod]
    exact ⟨rfl, rfl, fun h => absurd h (by decide), fun _ => rfl⟩
  · rw [if_neg h9, modUp, modAt_setMod]
    refine ⟨rfl, rfl, ?_, fun h => absurd h h9⟩
    rintro rfl
    exact ⟨rfl, rfl⟩

theorem bootStep_retries_goes (ha : bootAlt (modAt s m) step = false) :
    Goes (exec (.bootStep m step false) s) (fun t => (modAt t m).sp.bootAt = 1 ∧ (modAt t m).sp.boot = [] ∧
      bootAlt (modAt t m) step = true) := by
  refine ⟨_, bootStep_retries hm hat h1 h10 hh ha, ?_⟩
  dsimp only
  rw [modAt_setMod]
  exact ⟨rfl, rfl, bootAlt_startBoot _ _ _⟩

theorem bootStep_fails_goes (ha : bootAlt (modAt s m) step = true) :
    Goes (exec (.bootStep m step false) s) (fun t => (modAt t m).sp.boot = .failed step :: (modAt s m).sp.boot ∧
      (modAt t m).sp.bootAt = (if step = 1 ∨ step = 9 ∨ step = 10 then 12 else step + 1) ∧
      (step = 1 ∨ step = 9 ∨ step = 10 → modUp t m = false)) := by
  refine ⟨_, bootStep_fails hm hat h1 h10 hh ha, ?_⟩
  dsimp only
  have hgave : ((decide (step = 1) || decide (step = 9) || decide (step = 10)) = true) ↔ (step = 1 ∨ step = 9 ∨ step = 10) := by
    simp [or_assoc]
  simp only [hgave, Bool.and_eq_true]
  generalize ht : setMod s m _ = t
  have hsp : (modAt t m).sp.boot = .failed step :: (modAt s m).sp.boot ∧
      (modAt t m).sp.bootAt = (if step = 1 ∨ step = 9 ∨ step = 10 then 12 else step + 1) := by
    rw [← ht, modAt_setMod]
    exact ⟨rfl, rfl⟩
  obtain ⟨hboot, hnext⟩ := hsp
  by_cases hg : (step = 1 ∨ step = 9 ∨ step = 10) ∧ modUp t m = true
  · obtain ⟨-, -, -, -, hkeep⟩ := moduleLost_service t m
    rw [if_pos hg, hkeep]
    exact ⟨hboot, hnext, fun _ => moduleLost_down t m⟩
  · rw [if_neg hg]
    exact ⟨hboot, hnext, fun h => by simpa using fun hu => hg ⟨h, hu⟩⟩

end

/-! ### Alarms and resets -/

theorem tamperAlarm_erases {s : State} {m : Nat} (h : (modAt s m).present = true) :
    Goes (exec (.tamperAlarm m) s) (fun t => (modAt t m).fenced = true ∧ (modAt t m).ports = 0 ∧
      (modAt t m).sp.keys = false ∧ ∀ pa, pa < 0x200000000000 → memRead t.mem (physFlat m pa) 1 = 0) := by
  refine ⟨_, if_neg (by simp [h]), ?_⟩
  obtain ⟨-, -, hfence, hports, hsp⟩ := eraseMemory_keeps (putService (fence s m) m (fun p => { p with keys := false })) m m
  refine ⟨hfence.trans ?_, hports.trans ?_, ?_, fun pa hpa => memRead_eraseMemory _ hpa⟩
  · rw [putService_state, fence, modAt_setMod]
  · rw [putService_state, fence, modAt_setMod]
  · rw [hsp, putService_sp]

theorem slotKey_module {w : SlotRef} (hd : w.d < 16) (hc : w.c < 512) (hk : w.k < 4) : slotKey w / 4 / 512 / 16 = w.m := by
  unfold slotKey coreKey
  omega

theorem moduleReset_resets {s : State} {m : Nat} (h : (modAt s m).present = true) :
    Goes (exec (.moduleReset m) s) (fun t => t.mem = s.mem ∧ (modAt t m).torus = false ∧
      ∀ w : SlotRef, w.m = m → w.d < 16 → w.c < 512 → w.k < 4 → slotAt t w = Slot.reset) := by
  refine ⟨_, if_neg (by simp [h]), rfl, ?_, ?_⟩
  · rw [modAt_setMod]
    rfl
  · intro w hm hd hc hk
    refine tget_filter_out (fun x => ?_) _ _
    simp [slotKey_module hd hc hk, hm]

/-! ### The clauses joined -/

/-- What a host request that no earlier one of its queue pair precedes does, its port being on. -/
theorem hostRequest_alone {s : State} {r : HostReq} (hu : portUp s r = true)
    (ha : s.hostHeld.any (fun q => samePair q.1 r) = false) :
    (∀ data, hostAllowed s r data.length 1 = false → exec (.rdmaWrite r data) s = .next (answerHost s r .nakAccess)) ∧
    (∀ data t, hostAllowed s r data.length 1 = true →
      engWrite s (hostWho r) r.va data.length (ofBytes data) data.length = .ok t →
      exec (.rdmaWrite r data) s = .next (answerHost t r .done)) ∧
    (∀ data t, hostAllowed s r data.length 1 = true →
      engWrite s (hostWho r) r.va data.length (ofBytes data) data.length = .hold t → exec (.rdmaWrite r data) s =
        .next { s with pages := t.pages, hostHeld := s.hostHeld ++ [(r, .write data)] }) ∧
    (∀ x t, hostAllowed s r r.len 0 = true → engRead s (hostWho r) r.va r.len r.len = .ok t x false →
      exec (.rdmaRead r) s = .next (answerHost t r (.data (bytesOf r.len x)))) ∧
    (r.va.toNat % 8 ≠ 0 → ∀ a b, exec (.compareSwap r a b) s = .next (answerHost s r .nakInvalid) ∧
      exec (.fetchAdd r a) s = .next (answerHost s r .nakInvalid)) ∧
    (r.va.toNat % 8 = 0 → hostAllowed s r 8 2 = true → ∀ (a b : Word) (x : Nat) (t : State),
      (perfAtomic s (hostWho r) r.va 8 (fun old => if old = a.toNat then some b.toNat else none) true = .ok t x →
        exec (.compareSwap r a b) s = .next (answerHost t r (.value (BitVec.ofNat 64 x)))) ∧
      (perfAtomic s (hostWho r) r.va 8 (fun old => some ((old + a.toNat) % 2 ^ 64)) true = .ok t x →
        exec (.fetchAdd r a) s = .next (answerHost t r (.value (BitVec.ofNat 64 x))))) := by
  refine ⟨fun data hw => ?_, fun data t hw e => ?_, fun data t hw e => ?_, fun x t hw e => ?_, fun hv a b => ⟨?_, ?_⟩,
    fun hv hw a b x t => ⟨fun e => ?_, fun e => ?_⟩⟩
  · exact hostArrive_over ha (hostRun_check (hostCheck_refused (op := .write data) hu rfl hw))
  · exact hostArrive_over ha ((hostRun_allowed (op := .write data) hu rfl hw).trans (hostPerform_write_ok e))
  · exact hostArrive_wait ha ((hostRun_allowed (op := .write data) hu rfl hw).trans (hostPerform_write_hold e))
  · exact hostArrive_over ha ((hostRun_allowed (op := .read) hu rfl hw).trans (hostPerform_read_ok e))
  · exact hostArrive_unaligned (op := .swap a b) ha hu (decide_eq_false hv)
  · exact hostArrive_unaligned (op := .add a) ha hu (decide_eq_false hv)
  · exact hostArrive_over ha ((hostRun_allowed (op := .swap a b) hu (decide_eq_true hv) hw).trans (hostAtomic_ok e))
  · exact hostArrive_over ha ((hostRun_allowed (op := .add a) hu (decide_eq_true hv) hw).trans (hostAtomic_ok e))

/-- Settles O51, clause by clause: requests, windows, votes, boot, alarms and resets. -/
theorem hostsAndService : Obligations.HostsAndService := by
  unfold Obligations.HostsAndService
  refine ⟨?_, ?_, ?_, ?_⟩
  · intro s r
    refine ⟨fun hu k => ?_, fun hu ha data => ⟨hostArrive_down ha hu _, hostArrive_down ha hu _⟩, fun hu k => ?_,
      fun hu ha => hostRequest_alone hu ha, ?_⟩
    · dsimp only
      rw [unsupportedHostRequest_answer, hu]
      rfl
    · dsimp only
      rw [unsupportedHostRequest_answer, hu]
      rfl
    · intro q p hq hp e
      exact ⟨fun _ => hostArrive_behind hq hp e _, hostArrive_behind hq hp e _, fun _ _ => hostArrive_behind hq hp e _,
        fun _ => hostArrive_behind hq hp e _⟩
  · intro s m i e hm
    refine ⟨hostWindowWrite_refused, fun hi hb hl hr he ht hp => ⟨_, hostWindowWrite_sets hm hi hb hl hr he ht hp, ?_, rfl⟩⟩
    rw [modAt_setMod]
    exact tfind_tput_same _ _ _
  · intro s m n hm
    exact ⟨hostConnectionFailure_disconnects s m n, diagnosisRepeat_agreed hm n, serviceProcessorFailure_drops hm,
      fun hn hn32 => ⟨ackSilenceTimeout_votes hm hn hn32, voterTimeout_silent hm hn hn32⟩,
      ⟨moduleFailureDeclared_fails hm, moduleFailureDeclared_few⟩, rfl, rfl, fun c g r => capabilityFault_record,
      capabilityFault_recovery s m⟩
  · intro s m
    refine ⟨fun step hm hat h1 h10 => ?_, fun h => ⟨tamperAlarm_erases h, moduleReset_resets h⟩⟩
    exact ⟨fun hh ok => bootStep_starts hm hat h1 h10 hh ok, fun hh => ⟨bootStep_done_goes hm hat h1 h10 hh,
      bootStep_retries_goes hm hat h1 h10 hh, bootStep_fails_goes hm hat h1 h10 hh⟩⟩

end Sys2Proof.Machine
end

section
/-!
PROOFS. Results that return or fail (O35; R18, R190, R194): what the operations that report a failure leave as it was, and the slot
that a result, or the failure of one, leaves.
-/

namespace Sys2Proof.Machine

/-! ### What reporting a failure leaves as it was

Reporting a failure rolls nothing back unless the slot has an open frame. Short of a rollback, no byte of memory, no buffered store and
no frame changes. -/

/-- From `s` to `t` no byte of memory, no buffered store and no frame of a slot has changed. -/
structure Quiet (s t : State) : Prop where
  mem : t.mem = s.mem
  stores : ∀ c, (coreAt t c).sbuf = (coreAt s c).sbuf ∧ (coreAt t c).fq = (coreAt s c).fq
  frames : ∀ w, (slotAt t w).frames = (slotAt s w).frames

theorem Quiet.refl (s : State) : Quiet s s := ⟨rfl, fun _ => ⟨rfl, rfl⟩, fun _ => rfl⟩

theorem Quiet.trans {s t u : State} (h : Quiet s t) (k : Quiet t u) : Quiet s u where
  mem := k.mem.trans h.mem
  stores c := ⟨(k.stores c).1.trans (h.stores c).1, (k.stores c).2.trans (h.stores c).2⟩
  frames w := (k.frames w).trans (h.frames w)

/-- What is neither memory nor a core nor a slot does not matter. -/
theorem quiet_of_eq {s t : State} (hm : t.mem = s.mem) (hc : t.cores = s.cores) (hs : t.slots = s.slots) : Quiet s t where
  mem := hm
  stores c := by simp [coreAt, hc]
  frames w := by simp [slotAt, hs]

theorem setSlot_quiet {s : State} {w : SlotRef} {x : Slot} (h : x.frames = (slotAt s w).frames) : Quiet s (setSlot s w x) where
  mem := rfl
  stores _ := ⟨rfl, rfl⟩
  frames v := by
    by_cases hk : slotKey v = slotKey w
    · simp only [slotAt, setSlot, hk, tget_tput_same]
      exact h
    · rw [slotAt_setSlot_other s w v x hk]

theorem setCore_quiet {s : State} {c : CoreRef} {x : Core} (hb : x.sbuf = (coreAt s c).sbuf) (hq : x.fq = (coreAt s c).fq) :
    Quiet s (setCore s c x) where
  mem := rfl
  stores d := by
    by_cases hk : coreKey d.m d.d d.c = coreKey c.m c.d c.c
    · simp only [coreAt, setCore, hk, tget_tput_same]
      exact ⟨hb, hq⟩
    · simp only [coreAt, setCore, tget_tput_other _ _ _ _ _ hk, and_self]
  frames _ := rfl

theorem foldl_quiet {α : Type} {f : State → α → State} {s : State} {l : List α} (hf : ∀ t a, Quiet t (f t a)) :
    Quiet s (l.foldl f s) :=
  foldl_inv (P := Quiet s) (fun t a h => h.trans (hf t a)) (.refl s)

theorem readFlat_quiet (s : State) (a n : Nat) : Quiet s (readFlat s a n).2 := by
  unfold readFlat
  dsimp only
  split
  · exact .refl s
  · exact quiet_of_eq rfl rfl rfl

theorem fixFetch_quiet (s : State) (w : SlotRef) (pc : Word) : Quiet s (fixFetch s w pc) := by
  unfold fixFetch
  split
  · exact .refl s
  · exact readFlat_quiet s _ _

theorem killOf_quiet (s : State) (w : SlotRef) (n : Nat) : Quiet s (killOf s w n) := by
  unfold killOf killLaunch
  split
  · exact .refl s
  split
  · exact .refl s
  split
  · exact .refl s
  · exact quiet_of_eq rfl rfl rfl

/-! ### Slots that wait, arrivals, veils -/

@[simp] theorem unmarkDst_frames (x : Slot) (d : Dst) : (unmarkDst x d).frames = x.frames := by cases d <;> rfl

theorem withdrawRecvs_frames (x : Slot) : (withdrawRecvs x).frames = x.frames :=
  foldl_inv (P := fun y : Slot => y.frames = x.frames) (fun y o h => (unmarkDst_frames y o.dst).trans h) rfl

theorem withdraw_quiet (s : State) (w : SlotRef) : Quiet s (withdraw s w) := by
  unfold withdraw
  dsimp only
  have h : Quiet s (setSlot s w (withdrawRecvs (slotAt s w))) := setSlot_quiet (withdrawRecvs_frames _)
  split
  · exact h
  · exact h.trans (setCore_quiet (c := coreRefOf w) rfl rfl)

theorem stopWait_quiet (s : State) (w : SlotRef) (a : Word) : Quiet s (stopWait s w a) := by
  unfold stopWait
  dsimp only
  split
  · exact setSlot_quiet rfl
  · exact (withdraw_quiet s w).trans (setSlot_quiet rfl)

@[simp] theorem sPut_frames (x : Slot) (r : RegIx) (v : Word) : (sPut x r v).frames = x.frames := by unfold sPut; split <;> rfl

theorem recheckWait_quiet (s : State) (w : SlotRef) (woken : Bool) : Quiet s (recheckWait s w woken) := by
  unfold recheckWait
  dsimp only
  split
  · split
    · exact setSlot_quiet rfl
    split
    · exact stopWait_quiet s w _
    split
    · refine (readFlat_quiet s _ _).trans (setSlot_quiet ?_)
      rw [(readFlat_quiet s _ _).frames]
      exact sPut_frames _ _ _
    · exact readFlat_quiet s _ _
  · exact .refl s

theorem recheckSlots_quiet (s : State) (f n : Nat) : Quiet s (recheckSlots s f n) := by
  unfold recheckSlots
  refine foldl_quiet fun t w => ?_
  split
  · exact recheckWait_quiet t w false
  · exact .refl t

theorem liftVeils_quiet (s : State) : Quiet s (liftVeils s) := by
  unfold liftVeils
  dsimp only
  split
  · exact .refl s
  · refine Quiet.trans ?_ (foldl_quiet fun t v => recheckSlots_quiet t v.key v.n)
    exact quiet_of_eq rfl rfl rfl

theorem countArrival_quiet (s : State) (w : SlotRef) (a : Arrival) : Quiet s (countArrival s w a) := by
  unfold countArrival
  split
  · exact .refl s
  · exact quiet_of_eq rfl rfl rfl

theorem settleArrivals_quiet (s : State) (c : CoreRef) : Quiet s (settleArrivals s c) := by
  unfold settleArrivals
  dsimp only
  split
  · exact .refl s
  · refine Quiet.trans ?_ (foldl_quiet fun t a => countArrival_quiet t (slotOf c 0) a)
    exact setCore_quiet rfl rfl

theorem unstall_quiet (s : State) (c : CoreRef) : Quiet s (unstall s c) := by
  unfold unstall
  refine foldl_quiet fun t w => ?_
  split
  · exact setSlot_quiet rfl
  · exact .refl t

/-- After a report the arrivals of the core are sent, and its slots try again what they stalled at. -/
theorem settled_quiet (s : State) (c : CoreRef) : Quiet s (unstall (settleArrivals s c) c) :=
  (settleArrivals_quiet s c).trans (unstall_quiet _ c)

/-! ### Faults that roll nothing back -/

@[simp] theorem bufferJump_frames (x : Slot) (pc : Word) : (bufferJump x pc).frames = x.frames := by
  unfold bufferJump
  split <;> rfl

theorem deviceSend_quiet (s : State) (w : SlotRef) (epa : BitVec 32) (raw : VWord) (why : MsgFor) :
    Quiet s (deviceSend s w epa raw why) := quiet_of_eq rfl rfl rfl

theorem deliverFault_quiet (s : State) (w : SlotRef) (st : Stop) : Quiet s (deliverFault s w st) := by
  unfold deliverFault
  exact Quiet.trans (setSlot_quiet (w := w) (by rfl)) (deviceSend_quiet _ _ _ _ _)

theorem localTrap_quiet (s : State) (w : SlotRef) (st : Stop) : Quiet s (localTrap s w st) := by
  unfold localTrap
  dsimp only
  split
  · refine Quiet.trans ?_ (killOf_quiet _ _ _)
    exact setSlot_quiet rfl
  have h : ∀ x : Slot, x.frames = (slotAt s w).frames → Quiet s (setSlot (fixFetch s w (slotAt s w).trap.vec) w x) := fun x hx =>
    (fixFetch_quiet s w _).trans (setSlot_quiet (hx.trans ((fixFetch_quiet s w _).frames w).symm))
  split
  · exact h _ (bufferJump_frames _ _)
  · rw [setSlot_setSlot]
    refine Quiet.trans ?_ (killOf_quiet _ _ _)
    exact h _ (bufferJump_frames _ _)

theorem takeFault_quiet (s : State) (w : SlotRef) (st : Stop) : Quiet s (takeFault s w st) := by
  unfold takeFault
  split
  · exact localTrap_quiet s w st
  · exact deliverFault_quiet s w st

/-- A slot that a fault stops: its park or end is left (R194). -/
def stopSlot (x : Slot) (st : Stop) : Slot :=
  { x with stop := some st, stalled := false, wasEnding := (match x.st with | .ending t => some t | _ => none),
           st := match x.st with | .parked _ _ | .ending _ => .ready | t => t }

/-- A fault that rolls nothing back is taken once only RECVs are outstanding (R283). -/
theorem raiseStop_noRoll {s : State} {w : SlotRef} {st : Stop} (h : st.roll = none) :
    raiseStop s w st = if onlyRecv (slotAt s w) then takeFault (setSlot s w (stopSlot (slotAt s w) st)) w st
      else setSlot s w (stopSlot (slotAt s w) st) := by
  have hs : raiseStop s w st = settleStop (setSlot s w (stopSlot (slotAt s w) st)) w := by
    unfold raiseStop
    rw [h]
    rfl
  have hst : (stopSlot (slotAt s w) st).stop = some st := rfl
  rw [hs]
  unfold settleStop
  rw [slotAt_setSlot]
  dsimp only
  rw [hst]
  dsimp only
  rw [h]
  rfl

theorem raiseStop_quiet {s : State} {w : SlotRef} {st : Stop} (h : st.roll = none) : Quiet s (raiseStop s w st) := by
  have hq : Quiet s (setSlot s w (stopSlot (slotAt s w) st)) := setSlot_quiet rfl
  rw [raiseStop_noRoll h]
  split
  · exact hq.trans (takeFault_quiet _ _ _)
  · exact hq

theorem rollOf_none {s : State} {w : SlotRef} {c : Cause} (h : (slotAt s w).frames = []) : rollOf s w c = none := by
  simp [rollOf, h]

theorem raiseDeferred_quiet {s : State} {w : SlotRef} {c : Cause} {v pc : Word} {acc : FailAcc} (h : (slotAt s w).frames = []) :
    Quiet s (raiseDeferred s w c v pc acc) := by
  unfold raiseDeferred
  dsimp only
  split
  · split
    · exact setSlot_quiet rfl
    · exact raiseStop_quiet (rollOf_none h)
  · split
    · exact .refl s
    · exact setSlot_quiet rfl

theorem failStore_quiet {s : State} {c : CoreRef} {e : StEnt} {k : Cause} {va : Word} (h : (slotAt s (slotOf c e.k)).frames = []) :
    Quiet s (failStore s c e k va) := by
  unfold failStore
  split
  · exact raiseDeferred_quiet h
  · exact setCore_quiet rfl rfl

/-! ### Buffered stores that fail -/

/-- The buffered stores that stay when `e` leaves: all but those of its instruction, or but itself once it has been begun (R194). -/
def staysWithout (e d : StEnt) : Bool := if e.begun then d.id != e.id else !(d.grp = e.grp && d.k = e.k)

/-- The core without those that leave. -/
def coreWithout (x : Core) (e : StEnt) : Core :=
  { x with sbuf := x.sbuf.filter (staysWithout e), fq := x.fq.filter (staysWithout e) }

theorem failSeen_slotAt (s : State) (w : Who) (va : Word) (v : SlotRef) : slotAt (failSeen s w va) v = slotAt s v := by
  rw [failSeen_reads s w va]
  rfl

theorem failSeen_coreAt (s : State) (w : Who) (va : Word) (c : CoreRef) : coreAt (failSeen s w va) c = coreAt s c := by
  rw [failSeen_reads s w va]
  rfl

/-- The failure of a store takes its instruction's stores out of the buffers and, when its slot has no open frame, changes no byte but
the A bits that the failed translation sets. -/
theorem reportStore_leaves {s : State} {c : CoreRef} {e : StEnt} {k : Cause} {va : Word}
    (hf : (slotAt s (slotOf c e.k)).frames = []) :
    (reportStore s c e k va).mem = (failSeen s (whoAs s (slotOf c 0) e.pkey e.supv) va).mem ∧
    (coreAt (reportStore s c e k va) c).sbuf = (coreAt s c).sbuf.filter (staysWithout e) ∧
    (coreAt (reportStore s c e k va) c).fq = (coreAt s c).fq.filter (staysWithout e) := by
  have hslot := failSeen_slotAt s (whoAs s (slotOf c 0) e.pkey e.supv) va (slotOf c e.k)
  have hcore := failSeen_coreAt s (whoAs s (slotOf c 0) e.pkey e.supv) va c
  unfold reportStore
  dsimp only
  generalize failSeen s (whoAs s (slotOf c 0) e.pkey e.supv) va = s1 at hslot hcore ⊢
  have hd : Quiet (setCore s1 c (coreWithout (coreAt s1 c) e)) (dropStore s1 c e) := liftVeils_quiet _
  have hdf : (slotAt (dropStore s1 c e) (slotOf c e.k)).frames = [] := by
    rw [hd.frames, slotAt_setCore, hslot, hf]
  have hwhole : (slotAt (dropStore s1 c e) (slotOf c (wholeStore s c e).k)).frames = [] := by
    unfold wholeStore
    split <;> exact hdf
  have hq := hd.trans ((failStore_quiet (e := wholeStore s c e) (k := k) (va := va) hwhole).trans (settled_quiet _ c))
  refine ⟨hq.mem, ?_, ?_⟩
  · rw [(hq.stores c).1, coreAt_setCore, hcore, coreWithout]
  · rw [(hq.stores c).2, coreAt_setCore, hcore, coreWithout]

/-! ### The slot that a failed access is reported to -/

/-- Neither the outstanding results nor the registers and their pending marks change. -/
structure KeepsRegs (x y : Slot) : Prop where
  outs : y.outs = x.outs
  pendS : y.pendS = x.pendS
  pendV : y.pendV = x.pendV
  sreg : y.sreg = x.sreg
  vreg : y.vreg = x.vreg

theorem bufferJump_keepsRegs (x : Slot) (pc : Word) : KeepsRegs x (bufferJump x pc) := by
  unfold bufferJump
  split <;> exact ⟨rfl, rfl, rfl, rfl, rfl⟩

theorem killOf_slots (s : State) (w : SlotRef) (n : Nat) : (killOf s w n).slots = s.slots := by
  unfold killOf killLaunch
  split
  · rfl
  split
  · rfl
  split <;> rfl

theorem slotAt_killOf (s : State) (w v : SlotRef) (n : Nat) : slotAt (killOf s w n) v = slotAt s v := by
  unfold slotAt
  rw [killOf_slots]

theorem localTrap_keepsRegs (s : State) (w : SlotRef) (st : Stop) : KeepsRegs (slotAt s w) (slotAt (localTrap s w st) w) := by
  unfold localTrap
  dsimp only
  split
  · rw [slotAt_killOf, slotAt_setSlot]
    exact ⟨rfl, rfl, rfl, rfl, rfl⟩
  split
  · rw [slotAt_setSlot]
    obtain ⟨ho, hs, hv, hr, hw⟩ := bufferJump_keepsRegs _ _
    exact ⟨ho, hs, hv, hr, hw⟩
  · rw [slotAt_killOf, slotAt_setSlot]
    obtain ⟨ho, hs, hv, hr, hw⟩ := bufferJump_keepsRegs _ _
    exact ⟨ho, hs, hv, hr, hw⟩

/-- The slot as a delivered fault leaves it (R283). -/
def deliveredSlot (x : Slot) (st : Stop) : Slot :=
  { x with st := .faulted, stop := none, failed := st.acc,
           trap := { x.trap with pc := st.pc, cause := BitVec.ofNat 8 (causeCode st.cause), defer := st.defer, esc := st.esc,
                                 val := st.val } }

theorem slotAt_deliverFault (s : State) (w : SlotRef) (st : Stop) :
    slotAt (deliverFault s w st) w = deliveredSlot (slotAt s w) st :=
  slotAt_setSlot s w _

theorem takeFault_keepsRegs (s : State) (w : SlotRef) (st : Stop) : KeepsRegs (slotAt s w) (slotAt (takeFault s w st) w) := by
  unfold takeFault
  split
  · exact localTrap_keepsRegs s w st
  · rw [slotAt_deliverFault]
    exact ⟨rfl, rfl, rfl, rfl, rfl⟩

section
variable {s : State} {w : SlotRef} {st : Stop}

theorem raiseStop_waits (h : st.roll = none) (hr : onlyRecv (slotAt s w) = false) :
    slotAt (raiseStop s w st) w = stopSlot (slotAt s w) st := by
  rw [raiseStop_noRoll h, hr, if_neg Bool.false_ne_true, slotAt_setSlot]

theorem raiseStop_delivers (h : st.roll = none) (hr : onlyRecv (slotAt s w) = true) (hs : (slotAt s w).supv = false) :
    slotAt (raiseStop s w st) w = deliveredSlot (stopSlot (slotAt s w) st) st := by
  have hs' : (stopSlot (slotAt s w) st).supv = false := hs
  rw [raiseStop_noRoll h, if_pos hr]
  unfold takeFault
  rw [slotAt_setSlot, hs', if_neg Bool.false_ne_true, slotAt_deliverFault, slotAt_setSlot]

theorem raiseStop_keepsRegs (h : st.roll = none) : KeepsRegs (slotAt s w) (slotAt (raiseStop s w st) w) := by
  rw [raiseStop_noRoll h]
  split
  · obtain ⟨ho, hs, hv, hr, hw⟩ := takeFault_keepsRegs (setSlot s w (stopSlot (slotAt s w) st)) w st
    rw [slotAt_setSlot] at ho hs hv hr hw
    exact ⟨ho, hs, hv, hr, hw⟩
  · rw [slotAt_setSlot]
    exact ⟨rfl, rfl, rfl, rfl, rfl⟩

end

/-- A failure is reported at once to a slot that issues, outside a handler, with no open frame (R194). -/
theorem raiseDeferred_now {s : State} {w : SlotRef} {c : Cause} {v pc : Word} {acc : FailAcc} (hs : (slotAt s w).stop = none)
    (hr : (slotAt s w).st = .ready) (hi : (slotAt s w).trap.inh = false) (hf : (slotAt s w).frames = []) :
    raiseDeferred s w c v pc acc = raiseStop s w ⟨c, v, pc, (slotAt s w).pc, true, false, acc, none⟩ := by
  unfold raiseDeferred
  dsimp only
  rw [hs]
  simp [hr, hi, rollOf_none hf]

theorem unstall_slotAt (s : State) (c : CoreRef) (w : SlotRef) :
    ∃ b, slotAt (unstall s c) w = { slotAt s w with stalled := b } := by
  refine foldl_inv (P := fun t : State => ∃ b, slotAt t w = { slotAt s w with stalled := b }) (fun t v ht => ?_) ⟨_, rfl⟩
  obtain ⟨b, hb⟩ := ht
  split
  · by_cases hk : slotKey w = slotKey v
    · have hv : slotAt t v = slotAt t w := by rw [slotAt, slotAt, hk]
      have hw : slotAt (setSlot t v { slotAt t v with stalled := false }) w = { slotAt t v with stalled := false } := by
        rw [slotAt, hk]
        exact slotAt_setSlot t v _
      exact ⟨false, by rw [hw, hv, hb]⟩
    · exact ⟨b, by rw [slotAt_setSlot_other _ _ _ _ hk, hb]⟩
  · exact ⟨b, hb⟩

theorem unstall_cores (s : State) (c : CoreRef) : (unstall s c).cores = s.cores := by
  refine foldl_inv (P := fun t : State => t.cores = s.cores) (fun t v ht => ?_) rfl
  split <;> exact ht

theorem slotAt_settleArrivals (s : State) (c : CoreRef) (w : SlotRef) : slotAt (settleArrivals s c) w = slotAt s w := by
  have h : (settleArrivals s c).slots = s.slots := by
    unfold settleArrivals
    dsimp only
    split
    · rfl
    · refine foldl_inv (P := fun t : State => t.slots = s.slots) (fun t a ht => ?_) rfl
      unfold countArrival
      split <;> exact ht
  unfold slotAt
  rw [h]

theorem settled_slotAt (s : State) (c : CoreRef) (w : SlotRef) :
    ∃ b, slotAt (unstall (settleArrivals s c) c) w = { slotAt s w with stalled := b } := by
  obtain ⟨b, hb⟩ := unstall_slotAt (settleArrivals s c) c w
  exact ⟨b, by rw [hb, slotAt_settleArrivals]⟩

theorem settleArrivals_none {s : State} {c : CoreRef} (h : (coreAt s c).arrivals = []) : settleArrivals s c = s := by
  simp [settleArrivals, h]

/-! ### A result that returns -/

@[simp] theorem unmarkDst_outs (x : Slot) (d : Dst) : (unmarkDst x d).outs = x.outs := by cases d <;> rfl
@[simp] theorem unmarkDst_st (x : Slot) (d : Dst) : (unmarkDst x d).st = x.st := by cases d <;> rfl
@[simp] theorem writeDst_outs (x : Slot) (d : Dst) (v : VWord) : (writeDst x d v).outs = x.outs := by cases d <;> simp [writeDst]
@[simp] theorem writeDst_st (x : Slot) (d : Dst) (v : VWord) : (writeDst x d v).st = x.st := by cases d <;> simp [writeDst]

/-- A result whose units have all been performed has no unit left to perform. -/
theorem performHere_done {s : State} {w : SlotRef} {i : Nat} {o : Out} (hf : (slotAt s w).outs.find? (fun p => p.id = i) = some o)
    (hd : ∀ u ∈ o.units, u.val.isSome = true) (j : Nat) : performHere s w i j = s := by
  unfold performHere
  rw [hf]
  dsimp only
  split
  · next u hu =>
    have hready : unitReady s w o j = false := by
      simp [unitReady, hu, Option.isSome_iff_ne_none.1 (hd u (List.mem_of_getElem? hu))]
    split
    · rfl
    · simp [performUnit, hu, hready]
  · rfl

theorem slotEnd_ready {s : State} {w : SlotRef} (h : (slotAt s w).st = .ready) : slotEnd s w = s := by
  simp [slotEnd, h]

/-- The slot once a result has returned: its destination is written and unmarked, and the result is no longer outstanding (R18). -/
def returnedSlot (x : Slot) (o : Out) (v : VWord) : Slot :=
  { writeDst (unmarkDst x o.dst) o.dst v with outs := x.outs.filter (fun p => p.id != o.id) }

/-- A slot that issues takes a result that returns; the slots of its core try again what they stalled at. -/
theorem returnOut_ready {s : State} {w : SlotRef} {o : Out} {v : VWord} (hs : (slotAt s w).stop = none)
    (hr : (slotAt s w).st = .ready) (he : (slotAt s w).wasEnding = none) :
    returnOut s w o v = unstall (setSlot s w (returnedSlot (slotAt s w) o v)) (coreRefOf w) := by
  have hst : (writeDst (unmarkDst (slotAt s w) o.dst) o.dst v).st = .ready := by simp [hr]
  have hx : (returnedSlot (slotAt s w) o v).st = .ready := hst
  have hend : slotEnd (unstall (setSlot s w (returnedSlot (slotAt s w) o v)) (coreRefOf w)) w =
      unstall (setSlot s w (returnedSlot (slotAt s w) o v)) (coreRefOf w) := by
    obtain ⟨b, hb⟩ := unstall_slotAt (setSlot s w (returnedSlot (slotAt s w) o v)) (coreRefOf w) w
    exact slotEnd_ready (by rw [hb, slotAt_setSlot]; exact hx)
  rw [← hend]
  unfold returnOut returnedSlot
  simp only [hs, hr, he, Option.isSome_none, Bool.or_self, Bool.false_eq_true, if_false, hst, writeDst_outs, unmarkDst_outs]

/-- A complete result returns: its performed units stay as they are, and no arrival waits for it. -/
theorem deferredResultReturn_returns {s : State} {w : SlotRef} {i : Nat} {o : Out} {v : VWord}
    (hf : (slotAt s w).outs.find? (fun p => p.id = i) = some o) (hd : ∀ u ∈ o.units, u.val.isSome = true)
    (hv : outValue (slotAt s w) o = some v) :
    exec (.deferredResultReturn w i none) s = .next (settleArrivals (returnOut s w o v) (coreRefOf w)) := by
  have hfold : ∀ l : List Nat, l.foldl (fun t j => performHere t w i j) s = s := fun l =>
    foldl_inv (P := fun t : State => t = s) (fun t j ht => by rw [ht]; exact performHere_done hf hd j) rfl
  show execDeferredResultReturn w i none s = _
  unfold execDeferredResultReturn
  simp only [hfold, hf, hv]

/-! ### A result that fails -/

/-- The slot without its `i`-th outstanding result. -/
def withoutOut (x : Slot) (i : Nat) : Slot := { x with outs := x.outs.filter (fun p => p.id != i) }

/-- The failure of an access stops its slot, which no longer has the result outstanding, when it issues, outside a handler, with no
open frame (R194). -/
theorem deferredFailure_out {s : State} {w : SlotRef} {i : Nat} {o : Out} {k : Cause} {va : Word}
    (hf : (slotAt s w).outs.find? (fun p => p.id = i) = some o) (hk : outFailure s w o = some (k, va))
    (hs : (slotAt s w).stop = none) (hr : (slotAt s w).st = .ready) (hi : (slotAt s w).trap.inh = false)
    (hfr : (slotAt s w).frames = []) :
    exec (.deferredFailure (.out w i)) s = .next (unstall (settleArrivals (raiseStop
      (setSlot (failSeen s (whoAs s w o.pkey o.supv) va) w (withoutOut (slotAt s w) i)) w
      ⟨k, va, o.pc, (slotAt s w).pc, true, false, .out o, none⟩) (coreRefOf w)) (coreRefOf w)) := by
  have hx := slotAt_setSlot (failSeen s (whoAs s w o.pkey o.supv) va) w (withoutOut (slotAt s w) i)
  have hnow := raiseDeferred_now (c := k) (v := va) (pc := o.pc) (acc := .out o) (by rw [hx]; exact hs) (by rw [hx]; exact hr)
    (by rw [hx]; exact hi) (by rw [hx]; exact hfr)
  rw [hx] at hnow
  show execDeferredFailure (.out w i) s = _
  unfold execDeferredFailure
  simp only [hf, hk]
  exact congrArg (fun t => (.next (unstall (settleArrivals t (coreRefOf w)) (coreRefOf w)) : Out_)) hnow

theorem deferredFailure_near {s : State} {c : CoreRef} {e : StEnt} {r : List StEnt} {k : Cause} {va : Word}
    (hb : (coreAt s c).sbuf = e :: r) (hk : storeFailure s c e (e.units.take 1) = some (k, va)) :
    exec (.deferredFailure (.near c)) s = .next (reportStore s c e k va) := by
  show execDeferredFailure (.near c) s = _
  unfold execDeferredFailure failOrStay
  simp only [hb, hk]

theorem deferredFailure_far {s : State} {c : CoreRef} {e : StEnt} {k : Cause} {va : Word}
    (hf : (coreAt s c).fq.find? (fun d => d.id = e.id) = some e) (hk : storeFailure s c e e.units = some (k, va)) :
    exec (.deferredFailure (.far c e.id)) s = .next (reportStore s c e k va) := by
  show execDeferredFailure (.far c e.id) s = _
  unfold execDeferredFailure failOrStay
  simp only [hf, hk]

end Sys2Proof.Machine

namespace Sys2Proof

open Sys2Proof.Machine

/-- Settles O35: a result that returns writes its slot alone; a failure that rolls nothing back leaves memory but for the A bits of its
translation, the registers, and the stores of other instructions. -/
theorem resultsReturnOrFail : Obligations.ResultsReturnOrFail := by
  unfold Obligations.ResultsReturnOrFail
  refine ⟨?_, ?_, ?_⟩
  · intro s w i o v x hf hd hv hs hr he ha
    have hid : o.id = i := by simpa using List.find?_some hf
    have hc := unstall_cores (setSlot s w (returnedSlot x o v)) (coreRefOf w)
    have hna : settleArrivals (unstall (setSlot s w (returnedSlot x o v)) (coreRefOf w)) (coreRefOf w) =
        unstall (setSlot s w (returnedSlot x o v)) (coreRefOf w) :=
      settleArrivals_none (by rw [coreAt, hc]; exact ha)
    obtain ⟨b, hb⟩ := unstall_slotAt (setSlot s w (returnedSlot x o v)) (coreRefOf w) w
    refine ⟨_, deferredResultReturn_returns hf hd hv, ?_⟩
    rw [returnOut_ready hs hr he, hna]
    refine ⟨(unstall_quiet _ _).mem, hc, b, ?_⟩
    rw [hb, slotAt_setSlot, returnedSlot, hid]
  · intro s w i o k va x left hf hk hs hr hi hfr
    refine ⟨_, deferredFailure_out hf hk hs hr hi hfr, ?_⟩
    generalize failSeen s (whoAs s w o.pkey o.supv) va = s1
    have hx : slotAt (setSlot s1 w (withoutOut x i)) w = withoutOut x i := slotAt_setSlot _ _ _
    generalize hs2 : setSlot s1 w (withoutOut x i) = s2 at hx ⊢
    generalize hst : (⟨k, va, o.pc, (slotAt s w).pc, true, false, .out o, none⟩ : Stop) = st
    have hroll : st.roll = none := by rw [← hst]
    have hm : (raiseStop s2 w st).mem = s1.mem := by rw [(raiseStop_quiet hroll).mem, ← hs2, setSlot_mem]
    obtain ⟨ho, hps, hpv, hsr, hvr⟩ := raiseStop_keepsRegs (s := s2) (w := w) hroll
    rw [hx] at ho hps hpv hsr hvr
    obtain ⟨b, hb⟩ := settled_slotAt (raiseStop s2 w st) (coreRefOf w) w
    dsimp only
    rw [hb]
    refine ⟨(settled_quiet _ _).mem.trans hm, hps, hpv, hsr, hvr, ho, fun h => ?_, fun h hsv => ?_⟩
    · rw [raiseStop_waits hroll (by rw [hx]; exact h)]
      rfl
    · rw [raiseStop_delivers hroll (by rw [hx]; exact h) (by rw [hx]; exact hsv), hx, ← hst]
      exact ⟨rfl, rfl, rfl⟩
  · intro s c e k va x keep Leaves hfr
    exact ⟨fun r hb hk => ⟨_, deferredFailure_near hb hk, reportStore_leaves hfr⟩,
      fun hf hk => ⟨_, deferredFailure_far hf hk, reportStore_leaves hfr⟩⟩

end Sys2Proof
end

section
/-!
PROOFS. The checks of an instruction before it runs (O54; R19, R21, R22, R30): every row that has a cell is an `issue` with its guard,
its registers and whether it is deferred, so what `issue` does first holds of each of them.
-/

namespace Sys2Proof.Machine

/-! ### What `issue` checks first -/

theorem pendingUse_some {clk : Nat} {x : Slot} {uses : List Use} (h : ∃ u ∈ uses, usePend x u = true) :
    ∃ u ∈ uses, usePend x u = true ∧ pendingUse clk x uses = some u := by
  obtain ⟨v, hv, hpv⟩ := h
  have hmem : v ∈ uses.filter (usePend x) := List.mem_filter.2 ⟨hv, hpv⟩
  obtain ⟨p, r, hl⟩ := List.exists_cons_of_ne_nil (List.ne_nil_of_mem hmem)
  have hi : Config.freePick clk % (r.length + 1) < (p :: r).length := Nat.mod_lt _ (Nat.succ_pos _)
  have he : (p :: r)[Config.freePick clk % (r.length + 1)]? = some _ := List.getElem?_eq_getElem hi
  obtain ⟨hmu, hpu⟩ := List.mem_filter.1 (by rw [hl]; exact List.mem_of_getElem? he)
  refine ⟨_, hmu, hpu, ?_⟩
  unfold pendingUse
  rw [hl]
  exact he

section
variable {s : State} {g : Guard} {uses : List Use} {deferred : Bool} {body : State → Eff} {accs : State → List Acc}

theorem issue_pending (hc : canIssue (curSlot s) = true) (hg : guardHolds (curSlot s) g = true) {u : Use}
    (hu : pendingUse s.clk (curSlot s) uses = some u) :
    Faults s (issue g uses deferred body s accs) .pendingAccess (useVal u) := by
  unfold curSlot at hc hg hu
  simp [Faults, issue, hc, hg, hu]

theorem issue_full (hc : canIssue (curSlot s) = true) (hg : guardHolds (curSlot s) g = true)
    (hu : ∀ u ∈ uses, usePend (curSlot s) u = false) (hd : deferred = true) (ho : 32 ≤ (curSlot s).outs.length) :
    Stalls s (issue g uses deferred body s accs) := by
  have hp := pendingUse_none s.clk (curSlot s) uses hu
  unfold curSlot at hc hg hp ho
  simp [Stalls, issue, hc, hg, hp, hd, ho, curSlot]

/-- The checks that come first for an instruction whose guard is true, for what it answers: PENDING_ACCESS names one of the registers
that are pending (R19), and a deferred one waits at 32 outstanding results (R21). -/
def Checks (s : State) (uses : List Use) (deferred : Bool) (o : Out_) : Prop :=
  ((∃ u ∈ uses, usePend (curSlot s) u = true) → ∃ u ∈ uses, usePend (curSlot s) u = true ∧ Faults s o .pendingAccess (useVal u)) ∧
  ((∀ u ∈ uses, usePend (curSlot s) u = false) → deferred = true → 32 ≤ (curSlot s).outs.length → Stalls s o)

theorem issue_checks (hc : canIssue (curSlot s) = true) (hg : guardHolds (curSlot s) g = true) :
    Checks s uses deferred (issue g uses deferred body s accs) := by
  refine ⟨fun h => ?_, issue_full hc hg⟩
  obtain ⟨u, hm, hp, hu⟩ := pendingUse_some (clk := s.clk) h
  exact ⟨u, hm, hp, issue_pending hc hg hu⟩

end

/-! ### Every instruction is issued with the guard of its cell -/

/-- What an instruction answers that is issued with this guard, these registers and this deferral. -/
def Issued (g : Guard) (uses : List Use) (deferred : Bool) (s : State) (o : Out_) : Prop :=
  ∃ body accs, o = issue g uses deferred body s accs

theorem issued_of_guard {e w : CellWord} {g : Guard} {uses : List Use} {deferred : Bool} {s : State} {o : Out_}
    (h : some e = some w) (hg : guardOf e = g) (hi : Issued g uses deferred s o) :
    ∃ uses deferred, Issued (guardOf w) uses deferred s o := by
  cases h
  exact ⟨uses, deferred, hg ▸ hi⟩

theorem Issued.checks {g : Guard} {uses : List Use} {deferred : Bool} {s : State} {o : Out_} (h : Issued g uses deferred s o)
    (hc : canIssue (curSlot s) = true) (hg : guardHolds (curSlot s) g = true) : Checks s uses deferred o := by
  obtain ⟨body, accs, rfl⟩ := h
  exact issue_checks hc hg

theorem Issued.guard_false {g : Guard} {uses : List Use} {deferred : Bool} {s : State} {o : Out_} (h : Issued g uses deferred s o)
    (hc : canIssue (curSlot s) = true) (hg : guardHolds (curSlot s) g = false) :
    o = .next (setSlot s s.cur (retired g (curSlot s).pc (curSlot s))) := by
  obtain ⟨body, accs, rfl⟩ := h
  exact issue_guard_false _ _ _ _ _ _ hc hg

theorem plainCmd_issued {g : Guard} {f : EForm} {op : CmdOp} {ty n : Nat} {peer : Bool} {chk : List Word → Option Nat} {s : State} :
    Issued g (usesE f n) true s (plainCmd g f op ty n peer chk s) := ⟨_, _, rfl⟩

theorem exec_issued {i : Instr} {w : CellWord} {s : State} (h : encode i = some w) :
    ∃ uses deferred, Issued (guardOf w) uses deferred s (exec i s) := by
  unfold exec
  cases i with
  | nop | add | sub | mul | mulh | madd | div | rem | abs | min | max | and | or | xor | andn | orn | shl | shr | sar | rot | clz
  | ctz | popc | brev | bswap | mov | movi | movhi | sel | ext | bfx | bfi | lea | cmp | test | addc | pand | por | pxor | pset
  | pget | bri | calli | ret | fadd | fsub | fmul | ffma | fdiv | fsqrt | fmin | fmax | fcmp | fclass | fcvt | fcvti | icvtf
  | frcp | frsq | fexp2 | flog2 | fsgn | sync | vote | bara | barw | domset | recv | peek | waita | wake | walk | tend | taskadd
  | spawn | yield | exit | mstat | gset | cbatch | waitb | trap | eret | brk | csrrd | csrwr | csrset | csrclr | ifence | dlog
  | resume | cdopen | cdpres | cdout | cdclose | cdfail | rbegin | rcommit =>
    exact issued_of_guard h (Laws.guardOf_encR _ _ _) ⟨_, _, rfl⟩
  | br | call | loop => exact issued_of_guard h (Laws.guardOf_encB _ _ _) ⟨_, _, rfl⟩
  | vadd | vsub | vmul | vmulh | vfma | vdiv | vsqrt | vmin | vmax | vabs | vsgn | vadds | vsubs | vand | vor | vxor | vandn
  | vshl | vshr | vsar | vpopc | vcmp | vsel | vbcast | vext | vins | vperm | vrot | vmovi | vredsum | vredmin | vredmax | vscan
  | vcvt | vpack | vwiden | vunpack3 | vsparse24 | vexpand24 | vdot4 | vtacc | vquant | vdeq | vrcp | vrsq | vexp2 | vlog2 | mand
  | mor | mxor | mnot | mpop | mfirst | mmov =>
    exact issued_of_guard h (Laws.guardOf_encV _ _ _) ⟨_, _, rfl⟩
  | ld | st | lda | strel | ldc | ldp | stp | pref | fence | flush | pin | unpin | amo | cas | cas2 | vld | vst | vlds | vsts
  | vgather | vscatter | vldb =>
    exact issued_of_guard h (Laws.guardOf_encM _ _ _) ⟨_, _, rfl⟩
  | mzero | cpy | cpy2 | cpyr | ecode | ckpt | migr => exact issued_of_guard h (Laws.guardOf_encE _ _ _) plainCmd_issued
  | send | mloadw | mswap | mstream | accrd | accwr | coll | engq =>
    exact issued_of_guard h (Laws.guardOf_encE _ _ _) ⟨_, _, rfl⟩
  | _ => exact nomatch h

end Sys2Proof.Machine

namespace Sys2Proof

open Sys2Proof.Machine

/-- Settles O54: a false guard by the guard of the cell, and the checks of each named instruction by the registers and the deferral it
is issued with. -/
theorem guardAndPendingChecks : Obligations.GuardAndPendingChecks := by
  unfold Obligations.GuardAndPendingChecks
  refine ⟨fun s i w he hc hg => ?_, fun s g hc hg => ?_⟩
  · obtain ⟨uses, deferred, hi⟩ := exec_issued he
    exact hi.guard_false hc hg
  intro Names LoadWaits Waits
  have waits : ∀ {i us d}, Issued g us d s (exec i s) → LoadWaits i us d := fun h => h.checks hc hg
  have names : ∀ {i us}, Issued g us false s (exec i s) → Names i us := fun h => (waits h).1
  -- From here on the statement is a list of claims, each of which one of the two facts turns into `Issued`.
  clear_value Names LoadWaits
  simp only [List.forall_mem_cons, List.not_mem_nil, false_implies, implies_true, and_true]
  refine ⟨fun f => ?_, fun f => ?_, fun f => ?_, fun f => ?_, fun f => ⟨waits ?_, ⟨waits ?_, waits ?_, waits ?_, waits ?_,
    waits plainCmd_issued⟩, waits ?_, waits ?_, waits plainCmd_issued, waits plainCmd_issued, waits plainCmd_issued,
    waits plainCmd_issued, waits plainCmd_issued, waits ?_, waits plainCmd_issued⟩⟩
  all_goals and_intros
  any_goals refine waits ?_
  any_goals refine names ?_
  all_goals
    unfold exec
    exact ⟨_, _, rfl⟩

end Sys2Proof
end

section
/-!
PROOFS. A step (O52; R13, R29, R38, R157, R194): the plan that the head of the agenda gives, and what the step does with it.
-/

namespace Sys2Proof.Machine

/-- Nothing has to be reported before the slot fetches (R194): no failure is held, or a trap's handler runs. -/
def FetchesNext (x : Slot) : Prop := x.held = [] ∨ x.trap.inh = true

theorem fetchesNext_iff (x : Slot) : FetchesNext x ↔ ¬ (!x.held.isEmpty && !x.trap.inh) = true := by
  simp [FetchesNext, or_iff_not_imp_left]

/-- A slot with a failure to report reports it instead of fetching. -/
theorem planIssue_held {s : State} {w : SlotRef} (hh : (slotAt (atFetch s w) w).held ≠ [])
    (hi : (slotAt (atFetch s w) w).trap.inh = false) : planIssue s w = .rest (reportHeld (atFetch s w) w) := by
  simp [planIssue, hh, hi]

theorem planIssue_runs {s : State} {w : SlotRef} {i : Instr} (h : FetchesNext (slotAt (atFetch s w) w))
    (he : fetchAt (atFetch s w) w (slotAt (atFetch s w) w).pc = .ok i) :
    planIssue s w = .run i (fetched (atFetch s w) w (slotAt (atFetch s w) w).pc) := by
  unfold planIssue
  dsimp only
  rw [if_neg ((fetchesNext_iff _).1 h), he]

theorem planIssue_faults {s : State} {w : SlotRef} {c : Cause} {v : Word} (h : FetchesNext (slotAt (atFetch s w) w))
    (he : fetchAt (atFetch s w) w (slotAt (atFetch s w) w).pc = .error (c, v)) :
    planIssue s w = .rest (raisePrecise (fetched (atFetch s w) w (slotAt (atFetch s w) w).pc) w c v) := by
  unfold planIssue
  dsimp only
  rw [if_neg ((fetchesNext_iff _).1 h), he]

theorem planMove_issue_none {s : State} {c : CoreRef} (h : pickSlot s c = none) : planMove s (.issue c) = .rest s := by
  unfold planMove
  dsimp only
  rw [h]

theorem planMove_issue_some {s : State} {c : CoreRef} {w : SlotRef} (h : pickSlot s c = some w) :
    planMove s (.issue c) = planIssue s w := by
  unfold planMove
  dsimp only
  rw [h]

/-- The plan of a step whose agenda is not empty is that of its head, after time has passed. -/
theorem plan_of_agenda {s : State} {m : Move} {r : List Move} (h : s.agenda = m :: r) :
    plan s = planMove { passTime s with agenda := r } m := by
  have hp : (passTime s).agenda = m :: r := h
  unfold plan
  dsimp only
  rw [hp]

theorem step_of_run {s t : State} {i : Instr} (h : plan s = .run i t) : step s = exec i t := by
  unfold step
  rw [h]

theorem step_of_rest {s t : State} (h : plan s = .rest t) : step s = .next t := by
  unfold step
  rw [h]

end Sys2Proof.Machine

namespace Sys2Proof

open Sys2Proof.Machine

/-- Settles O52: the step does what the plan of the agenda's head says, which for an issue is the slot's picked, its failure, its
fetch. -/
theorem stepRunsDecodedInstruction : Obligations.StepRunsDecodedInstruction := by
  intro s r i s1
  refine ⟨fun h => step_of_run (plan_of_agenda h), fun c h => ⟨fun hn => ?_, fun w hw => ?_⟩⟩
  · exact step_of_rest ((plan_of_agenda h).trans (planMove_issue_none hn))
  · have hp : plan s = planIssue s1 w := (plan_of_agenda h).trans (planMove_issue_some hw)
    exact ⟨fun hh hi => step_of_rest (hp.trans (planIssue_held hh hi)), fun hf =>
      ⟨fun he => step_of_run (hp.trans (planIssue_runs hf he)), fun e v he => step_of_rest (hp.trans (planIssue_faults hf he))⟩⟩

end Sys2Proof
end

section
/-!
PROOFS. The state after reset (O58; R7-R9, R141, R151, R193, R258, R287, R319): no slot, core or hamlet is listed, so each is as reset
leaves it, and so reads every CSR.
-/

namespace Sys2Proof.Machine

theorem slotAt_reset (w : SlotRef) : slotAt State.reset w = Slot.reset := rfl

theorem coreOf_reset (w : SlotRef) : coreOf State.reset w = Core.reset := rfl

theorem sGet_reset (r : RegIx) : sGet Slot.reset r = 0 := ite_self _

theorem pGet_reset (i : Nat) : pGet Slot.reset i = decide (i = 7) := by
  have h : Slot.reset.preg.getLsbD i = false := BitVec.getLsbD_zero
  simp [pGet, h]

theorem mGet_reset (i : Nat) : mGet Slot.reset i = if i = 0 then BitVec.allOnes 64 else 0 := rfl

/-- The CSRs with the Reset value 0. -/
theorem csrRead_reset_zero (w : SlotRef) :
    ∀ n ∈ [0x001, 0x002, 0x003, 0x004, 0x005, 0x011, 0x100, 0x101, 0x102, 0x104, 0x105, 0x108, 0x109, 0x10A, 0x10B, 0x10C, 0x10D,
      0x10E, 0x10F, 0x110, 0x111, 0x113, 0x120, 0x121, 0x122, 0x123, 0x124, 0x201, 0x202, 0x203, 0x204, 0x303, 0x304, 0x400,
      0x401, 0x402, 0x403, 0x405, 0x406, 0x408, 0x410, 0x411, 0x412, 0x413, 0x414, 0x415, 0x416, 0x417],
      csrRead State.reset w n 0 = 0 := by
  simp only [List.forall_mem_cons]
  and_intros
  on_goal -1 => exact List.forall_mem_nil _
  all_goals
    unfold csrRead
    rw [slotAt_reset, coreOf_reset]
    rfl

end Sys2Proof.Machine

namespace Sys2Proof

open Sys2Proof.Machine

/-- Settles O58: the registers as reset leaves them, the CSRs that read 0, and those with another Reset value. -/
theorem resetValues : Obligations.ResetValues := by
  intro w _
  exact ⟨rfl, sGet_reset, fun _ => rfl, pGet_reset, mGet_reset, csrRead_reset_zero w, rfl, rfl, rfl, rfl, rfl, rfl⟩

end Sys2Proof
end

section
/-!
PROOFS. Encoding and decoding agree (O56, O57; R29-R40): the fields that a form reads from a cell make up that cell again, so each
arm of the opcode map answers an instruction whose cell is the decoded one.
-/

namespace Sys2Proof.Laws

open Sys2Proof Sys2Proof.Machine

/-! ### The fields of a cell make it up -/

theorem ofBool_getLsbD {n : Nat} (x : BitVec n) (i : Nat) : BitVec.ofBool (x.getLsbD i) = x.extractLsb' i 1 := by
  ext j hj
  obtain rfl : j = 0 := by omega
  simp

theorem zero_of_getLsbD {n : Nat} {x : BitVec n} {i : Nat} (h : x.getLsbD i = false) : 0#1 = x.extractLsb' i 1 := by
  rw [← ofBool_getLsbD, h]
  rfl

/-- Every TYPE pattern is the code of the type it is read as. -/
theorem code_tyOf : ∀ x : BitVec 4, BitVec.ofNat 4 (tyCode (tyOf x.toNat)) = x := by decide

theorem encR_fields (w : CellWord) : encR (w.extractLsb' 80 11) (guardOf w) (rOf w) = w := by
  simp only [encR, guardOf, rOf, typeOf, fldD, fldA, fldB, fldC, code_tyOf, ofBool_getLsbD,
    BitVec.extractLsb'_append_extractLsb'_eq_extractLsb']
  exact BitVec.extractLsb'_eq_self

theorem encV_fields {w : CellWord} (h : w.getLsbD 46 = false) : encV (w.extractLsb' 80 11) (guardOf w) (vOf w) = w := by
  simp only [encV, guardOf, vOf, typeOf, fldD, fldA, fldB, fldC, code_tyOf, ofBool_getLsbD, zero_of_getLsbD h,
    BitVec.extractLsb'_append_extractLsb'_eq_extractLsb']
  exact BitVec.extractLsb'_eq_self

theorem encM_fields {w : CellWord} (h : w.getLsbD 46 = false) (h' : w.getLsbD 48 = false) :
    encM (w.extractLsb' 80 11) (guardOf w) (mOf w) = w := by
  rw [encM]
  nth_rewrite 1 [zero_of_getLsbD h']
  simp only [guardOf, mOf, typeOf, fldD, fldA, fldB, fldC, code_tyOf, ofBool_getLsbD, zero_of_getLsbD h,
    BitVec.extractLsb'_append_extractLsb'_eq_extractLsb']
  exact BitVec.extractLsb'_eq_self

theorem encB_fields {w : CellWord} (h : w.extractLsb' 48 8 = 0#8) : encB (w.extractLsb' 80 11) (guardOf w) (bOf w) = w := by
  simp only [encB, guardOf, bOf, fldD, fldA, fldB, fldC, ofBool_getLsbD, ← h,
    BitVec.extractLsb'_append_extractLsb'_eq_extractLsb']
  exact BitVec.extractLsb'_eq_self

theorem encE_fields {w : CellWord} (h : w.extractLsb' 32 16 = 0#16) : encE (w.extractLsb' 80 11) (guardOf w) (eOf w) = w := by
  simp only [encE, guardOf, eOf, typeOf, fldD, fldA, fldB, fldC, code_tyOf, ofBool_getLsbD, ← h,
    BitVec.extractLsb'_append_extractLsb'_eq_extractLsb']
  exact BitVec.extractLsb'_eq_self

/-! ### What an arm of the opcode map answers has the decoded cell -/

/-- Where `n` is the opcode of the cell, an instruction answered has that cell. -/
def AnswersCell (w : CellWord) (n : Nat) (o : Option Instr) : Prop := opcOf w = n → ∀ i, o = some i → encode i = some w

theorem field_of_opcOf {w : CellWord} {op : BitVec 11} (h : opcOf w = op.toNat) : w.extractLsb' 80 11 = op :=
  BitVec.eq_of_toNat_eq h

section
variable {w : CellWord} {n : Nat} {op : BitVec 11} {j : Instr}

theorem answersCell_resR (he : encode j = some (encR op (guardOf w) (rOf w))) (hn : n = op.toNat) :
    AnswersCell w n (resR w j) := by
  rintro ho i ⟨⟩
  rw [he, ← field_of_opcOf (ho.trans hn), encR_fields]

theorem answersCell_resV (he : encode j = some (encV op (guardOf w) (vOf w))) (hn : n = op.toNat) :
    AnswersCell w n (resV w j) := by
  intro ho i h
  obtain ⟨hr, rfl⟩ : w.getLsbD 46 = false ∧ j = i := by simpa [resV] using h
  rw [he, ← field_of_opcOf (ho.trans hn), encV_fields hr]

theorem answersCell_resM (he : encode j = some (encM op (guardOf w) (mOf w))) (hn : n = op.toNat) :
    AnswersCell w n (resM w j) := by
  intro ho i h
  obtain ⟨⟨hr, hr'⟩, rfl⟩ : (w.getLsbD 46 = false ∧ w.getLsbD 48 = false) ∧ j = i := by simpa [resM] using h
  rw [he, ← field_of_opcOf (ho.trans hn), encM_fields hr hr']

theorem answersCell_resB (he : encode j = some (encB op (guardOf w) (bOf w))) (hn : n = op.toNat) :
    AnswersCell w n (resB w j) := by
  intro ho i h
  obtain ⟨hr, rfl⟩ : w.extractLsb' 48 8 = 0#8 ∧ j = i := by simpa [resB] using h
  rw [he, ← field_of_opcOf (ho.trans hn), encB_fields hr]

theorem answersCell_resE (he : encode j = some (encE op (guardOf w) (eOf w))) (hn : n = op.toNat) :
    AnswersCell w n (resE w j) := by
  intro ho i h
  obtain ⟨hr, rfl⟩ : w.extractLsb' 32 16 = 0#16 ∧ j = i := by simpa [resE] using h
  rw [he, ← field_of_opcOf (ho.trans hn), encE_fields hr]

theorem answersCell_none : AnswersCell w n none := fun _ _ h => nomatch h

/-- One test of the opcode map. -/
theorem answersCell_dite {k : Nat} {a : n = k → Option Instr} {b : ¬ n = k → Option Instr}
    (ha : ∀ h, AnswersCell w n (a h)) (hb : ∀ h, AnswersCell w n (b h)) : AnswersCell w n (dite (n = k) a b) := by
  split
  · exact ha _
  · exact hb _

end

/-- Every arm of the opcode map, by its form. The map has too many arms for `split`, so it is opened into its tests of the opcode,
each of which `answersCell_dite` takes. -/
theorem byOpcode_answersCell (w : CellWord) (n : Nat) : AnswersCell w n (byOpcode n w) := by
  unfold byOpcode byOpcode.match_1
  repeat' refine answersCell_dite (fun h => ?_) fun _ => ?_
  all_goals try subst h
  any_goals exact answersCell_resR rfl rfl
  any_goals exact answersCell_resV rfl rfl
  any_goals exact answersCell_resM rfl rfl
  any_goals exact answersCell_resB rfl rfl
  any_goals exact answersCell_resE rfl rfl
  exact answersCell_none

end Sys2Proof.Laws

namespace Sys2Proof.Laws.RoundTrip

open Sys2Proof

/-- What the laws per instruction say, of every instruction: by its form, and of an event because it has no cell. -/
theorem statement (i : Instr) : Statement i := by
  cases i with
  | nop | add | sub | mul | mulh | madd | div | rem | abs | min | max | and | or | xor | andn | orn | shl | shr | sar | rot | clz
  | ctz | popc | brev | bswap | mov | movi | movhi | sel | ext | bfx | bfi | lea | cmp | test | addc | pand | por | pxor | pset
  | pget | bri | calli | ret | fadd | fsub | fmul | ffma | fdiv | fsqrt | fmin | fmax | fcmp | fclass | fcvt | fcvti | icvtf
  | frcp | frsq | fexp2 | flog2 | fsgn | sync | vote | bara | barw | domset | recv | peek | waita | wake | walk | tend | taskadd
  | spawn | yield | exit | mstat | gset | cbatch | waitb | trap | eret | brk | csrrd | csrwr | csrset | csrclr | ifence | dlog
  | resume | cdopen | cdpres | cdout | cdclose | cdfail | rbegin | rcommit => exact ofR _ _ _ _ rfl rfl
  | br | call | loop => exact ofB _ _ _ _ rfl rfl
  | vadd | vsub | vmul | vmulh | vfma | vdiv | vsqrt | vmin | vmax | vabs | vsgn | vadds | vsubs | vand | vor | vxor | vandn
  | vshl | vshr | vsar | vpopc | vcmp | vsel | vbcast | vext | vins | vperm | vrot | vmovi | vredsum | vredmin | vredmax | vscan
  | vcvt | vpack | vwiden | vunpack3 | vsparse24 | vexpand24 | vdot4 | vtacc | vquant | vdeq | vrcp | vrsq | vexp2 | vlog2 | mand
  | mor | mxor | mnot | mpop | mfirst | mmov => exact ofV _ _ _ _ rfl rfl
  | ld | st | lda | strel | ldc | ldp | stp | pref | fence | flush | pin | unpin | amo | cas | cas2 | vld | vst | vlds | vsts
  | vgather | vscatter | vldb => exact ofM _ _ _ _ rfl rfl
  | mzero | cpy | cpy2 | cpyr | ecode | ckpt | migr | send | mloadw | mswap | mstream | accrd | accwr | coll | engq =>
    exact ofE _ _ _ _ rfl rfl
  | _ => exact fun _ h _ => nomatch h

end Sys2Proof.Laws.RoundTrip

namespace Sys2Proof

open Sys2Proof.Laws

/-- What decoding answers is well formed and is what the opcode map answers (R38). -/
theorem decode_eq_some {w : CellWord} {i : Instr} (h : decode w = some i) :
    byOpcode (opcOf w) w = some i ∧ i.wf = true := by
  unfold decode at h
  split at h
  · next j hj =>
    split at h
    · next hw => cases h; exact ⟨hj, hw⟩
    · cases h
  · cases h

/-- Settles O57: forwards by the form of the instruction, backwards by the arm of the opcode map. -/
theorem decodeAndEncodeAgree : Obligations.DecodeAndEncodeAgree := by
  refine ⟨RoundTrip.statement, fun i w h => ?_⟩
  obtain ⟨hb, hw⟩ := decode_eq_some h
  exact ⟨byOpcode_answersCell w _ rfl i hb, hw⟩

/-- Settles O56: each cell is the encoding of its instruction, which is well formed, so it decodes to it. -/
theorem exampleCellsDecode : Obligations.ExampleCellsDecode := by
  have cell {i : Instr} {w : CellWord} : encode i = some w → i.wf = true → decode w = some i := decodeAndEncodeAgree.1 i w
  exact ⟨cell rfl rfl, cell rfl rfl, cell rfl rfl, cell rfl rfl, cell rfl rfl, cell rfl rfl, cell rfl rfl, cell rfl rfl,
    cell rfl rfl, cell rfl rfl, cell rfl rfl, cell rfl rfl⟩

end Sys2Proof
end

section
/-!
PROOFS. What the instructions on vector elements share: the elements of a packed vector, the results and the flags of the active
elements (R57, R108), and how an instruction that raises flags ends (R57, R101).
-/

namespace Sys2Proof.Machine

/-! ### Elements -/

theorem elemOf_eq (n : Nat) (v : VWord) (i : Nat) : elemOf n v i = v.toNat / 2 ^ (n * i) % 2 ^ n := by
  rw [elemOf, BitVec.extractLsb'_toNat, Nat.shiftRight_eq_div_pow]

theorem elemOf_lt (n : Nat) (v : VWord) (i : Nat) : elemOf n v i < 2 ^ n := by
  rw [elemOf_eq]
  exact Nat.mod_lt _ (by positivity)

/-- Digit `i` of a number made up of digits in base 2^n. -/
theorem packed_digit (n : Nat) (es : List Nat) (i : Nat) :
    es.foldr (fun e acc => acc * 2 ^ n + e % 2 ^ n) 0 / 2 ^ (n * i) % 2 ^ n = es.getD i 0 % 2 ^ n := by
  induction es generalizing i with
  | nil => simp
  | cons e es ih =>
    rw [List.foldr_cons]
    generalize List.foldr _ 0 es = a at ih
    cases i with
    | zero => simp
    | succ i =>
      have ha : (a * 2 ^ n + e % 2 ^ n) / 2 ^ n = a := by
        rw [Nat.mul_comm, Nat.mul_add_div (by positivity), Nat.div_eq_of_lt (Nat.mod_lt _ (by positivity)), Nat.add_zero]
      rw [Nat.mul_succ, Nat.pow_add, Nat.mul_comm (2 ^ (n * i)), ← Nat.div_div_eq_div_mul, ha]
      exact ih i

/-- The digits of a number that fit into a word are those of the word. -/
theorem digit_ofNat {x a n w : Nat} (h : a + n ≤ w) : (BitVec.ofNat w x).toNat / 2 ^ a % 2 ^ n = x / 2 ^ a % 2 ^ n := by
  refine Nat.eq_of_testBit_eq fun k => ?_
  simp only [BitVec.toNat_ofNat, Nat.testBit_mod_two_pow, Nat.testBit_div_two_pow]
  by_cases hk : k < n
  · simp [hk, show k + a < w by omega]
  · simp [hk]

theorem elemOf_packElems {n i : Nat} (es : List Nat) (h : i < 512 / n) : elemOf n (packElems n es) i = es.getD i 0 % 2 ^ n := by
  have hn : n * i + n ≤ 512 := by
    rw [← Nat.mul_succ]
    exact (Nat.mul_le_mul_left n (Nat.succ_le_of_lt h)).trans (Nat.mul_div_le 512 n)
  rw [elemOf_eq, packElems, digit_ofNat hn, packed_digit]

/-- Element `i` of a vector whose elements are listed one by one. -/
theorem elemOf_packElems_range {n i : Nat} (e : Nat → Nat) (h : i < 512 / n) :
    elemOf n (packElems n ((List.range (512 / n)).map e)) i = e i % 2 ^ n := by
  rw [elemOf_packElems _ h]
  simp [List.getD, h]

/-! ### The results and flags of the active elements -/

/-- A bit of the OR of flags is set when one of them sets it. -/
theorem foldl_or_getLsbD {α : Type} (fl : α → Flags) (l : List α) (a : Flags) (k : Nat) :
    (l.foldl (fun a r => a ||| fl r) a).getLsbD k = true ↔ a.getLsbD k = true ∨ ∃ r ∈ l, (fl r).getLsbD k = true := by
  induction l generalizing a with
  | nil => simp
  | cons r l ih => simp [ih, or_assoc]

theorem mapActive_writes (n : Nat) (mask : BitVec 64) (zm : Bool) (old : VWord) (op : Nat → Nat × Flags) :
    ElemWrites n mask zm old op (mapActive n mask zm old op).1 (mapActive n mask zm old op).2 := by
  constructor
  · intro j hj
    simp only [mapActive, List.map_map, lanes]
    rw [elemOf_packElems_range _ hj]
    simp only [Function.comp_apply]
    split
    · rfl
    · split
      · exact Nat.zero_mod _
      · exact Nat.mod_eq_of_lt (elemOf_lt ..)
  · intro k _
    simp only [mapActive, lanes, foldl_or_getLsbD, List.mem_map, List.mem_range]
    constructor
    · rintro (h | ⟨_, ⟨j, hj, rfl⟩, h⟩)
      · simp at h
      · split at h
        · next hm => exact ⟨j, hj, hm, h⟩
        · simp at h
    · rintro ⟨j, hj, hm, h⟩
      exact .inr ⟨_, ⟨j, hj, rfl⟩, by rwa [if_pos hm]⟩

/-- Elements whose operation raises nothing leave no flag. -/
theorem mapActive_writes_quiet (n : Nat) (mask : BitVec 64) (zm : Bool) (old : VWord) (op : Nat → Nat) :
    ElemWrites n mask zm old (fun j => (op j, 0)) (mapActive n mask zm old (fun j => (op j, 0))).1 0 :=
  ⟨(mapActive_writes n mask zm old _).1, fun k _ => by simp⟩

theorem ieee_getLsbD (fl : Flags) (q : Nat) : (ieee fl).getLsbD q = (decide (q < 5) && fl.getLsbD q) := by
  simp [ieee]

/-- Where no active element raises an enabled flag, none is raised. -/
theorem elemWrites_quiet {x : Slot} {n : Nat} {mask : BitVec 64} {zm : Bool} {old v : VWord} {op : Nat → Nat × Flags} {fl : Flags}
    (h : ElemWrites n mask zm old op v fl) (hq : QuietElems x n mask op) : ieee fl &&& x.csr.fena = 0 := by
  refine BitVec.eq_of_getLsbD_eq fun q hq5 => ?_
  rw [BitVec.getLsbD_and, show (0 : BitVec 5).getLsbD q = false from BitVec.getLsbD_zero, Bool.eq_false_iff]
  intro hs
  rw [Bool.and_eq_true, ieee_getLsbD, Bool.and_eq_true] at hs
  obtain ⟨⟨-, hf⟩, he⟩ := hs
  obtain ⟨j, hj, hm, ho⟩ := (h.2 q (by omega)).mp hf
  have hz : (ieee (op j).2 &&& x.csr.fena).getLsbD q = (0 : BitVec 5).getLsbD q := by rw [hq j hj hm]
  rw [BitVec.getLsbD_and, ieee_getLsbD, ho, he] at hz
  simp [hq5] at hz

/-! ### Writes that raise no flag -/

theorem writesV_vPut_quiet (x : Slot) (d : RegIx) (v : VWord) : WritesV x (vPut x d v) d v 0 := by
  have h := writesV_vPut x d v 0
  rwa [raiseFl_zero] at h

theorem writesM_mPut_quiet (x : Slot) (d : Nat) (v : BitVec 64) : WritesM x (mPut x d v) d v 0 := by
  have h := writesM_mPut x d v 0
  rwa [raiseFl_zero] at h

/-! ### How an instruction that raises flags ends -/

/-- An instruction takes FP_EXCEPTION with these flags in `FFLG` and as TRAPVAL, and writes nothing (R57). -/
def TakesFp (s : State) (o : Out_) (fl : BitVec 5) : Prop :=
  ∃ y, RaisesOnly (curSlot s) y (fl.setWidth 7) ∧
    o = .next (raisePrecise (setSlot s s.cur y) s.cur .fpException (fl.setWidth 64))

variable {s : State} {g : Guard} {uses : List Use} {deferred : Bool} {body : State → Eff}

theorem issue_takesFp {fl : BitVec 5} {z : Option Slot} (h : Ready s g uses deferred)
    (hb : body s = .faultIn (withCur s fun x => raiseFl x (fl.zeroExtend 7)) .fpException (fl.zeroExtend 64) z) :
    TakesFp s (issue g uses deferred body s) fl :=
  ⟨raiseFl (curSlot s) (fl.zeroExtend 7), rfl, by rw [issue_ready _ _ _ _ _ (fun _ => []) h, hb]; rfl⟩

/-- Flags that are enabled are trapped, by an instruction of fixed latency. -/
theorem finishFl_traps {fl : Flags} {wr : Slot → Slot} (h : Ready s g uses deferred) (hb : body s = finishFl s fl wr)
    (he : ieee fl &&& (curSlot s).csr.fena ≠ 0) : TakesFp s (issue g uses deferred body s) (ieee fl) :=
  issue_takesFp h (hb.trans (if_pos (bne_iff_ne.mpr he)))

/-- Flags that are not enabled are raised, and the result is written. -/
theorem finishFl_runs {fl : Flags} {wr : Slot → Slot} {P : Slot → Prop} (h : Ready s g uses deferred)
    (hb : body s = finishFl s fl wr) (he : ieee fl &&& (curSlot s).csr.fena = 0) (hP : P (raiseFl (wr (curSlot s)) fl)) :
    Runs s g (issue g uses deferred body s) P :=
  runs_of_withCur s g uses deferred body (fun _ => []) _ P h
    (hb.trans (if_neg (by rw [he]; decide))) hP

/-- Without a due injection or stray error the check of a vector result passes it on (R289). -/
theorem writeVChecked_clean {f : VForm} {n : Nat} {mask : BitVec 64} {fl : Flags} {v : VWord} (h : NoFlip (curSlot s)) :
    writeVChecked f n mask fl s v = writeV f fl s v := by
  obtain ⟨h1, h2⟩ := h
  simp [writeVChecked, flipDue, h1, h2]

end Sys2Proof.Machine
end

section
/-!
PROOFS. Ill-formed group records, ternary bytes and trits (O17; R67, R120, R121).
-/

namespace Sys2Proof

open Sys2Proof.Machine

/-- The trit of VTACC at which it faults is the first illegal one that an active element reads. -/
theorem vtaccBody_illegal {s : State} {f : VForm} {k : Nat}
    (hk : k < 64) (hm : (vMask (curSlot s) f).getLsbD (k / 4) = true) (h0 : elemOf 8 (vGet (curSlot s) f.b) k ≠ 0)
    (h1 : elemOf 8 (vGet (curSlot s) f.b) k ≠ 1) (h2 : elemOf 8 (vGet (curSlot s) f.b) k ≠ 0xFF)
    (hl : ∀ j, j < k → (vMask (curSlot s) f).getLsbD (j / 4) = true → elemOf 8 (vGet (curSlot s) f.b) j = 0 ∨
      elemOf 8 (vGet (curSlot s) f.b) j = 1 ∨ elemOf 8 (vGet (curSlot s) f.b) j = 0xFF) :
    vtaccBody f s = .fault .format (BitVec.ofNat 64 k) := by
  have hf : (List.range 64).find? (fun i => (vMask (curSlot s) f).getLsbD (i / 4) && elemOf 8 (vGet (curSlot s) f.b) i != 0 &&
      elemOf 8 (vGet (curSlot s) f.b) i != 1 && elemOf 8 (vGet (curSlot s) f.b) i != 0xFF) = some k := by
    rw [List.find?_range_eq_some]
    refine ⟨by simp [hm, h0, h1, h2], by simpa using hk, fun j hj => ?_⟩
    cases hmj : (vMask (curSlot s) f).getLsbD (j / 4) with
    | false => simp
    | true => rcases hl j hj hmj with h | h | h <;> simp [h]
  simp only [vtaccBody, hf]

/-- Settles O17: each body answers its fault before it writes. -/
theorem illFormedDataFault : Obligations.IllFormedDataFault := by
  intro s g f
  refine ⟨fun h => ⟨fun hr => ?_, fun hr => ?_⟩, fun h k hk hs => ?_, fun h k hk hm h0 h1 h2 hl => ?_⟩
  · exact issue_fault (accs := fun _ => []) (body := vquantBody f) h (if_pos hr)
  · exact issue_fault (accs := fun _ => []) (body := vdeqBody f) h (if_pos hr)
  · refine issue_fault (accs := fun _ => []) (body := vunpack3Body f) h ?_
    simp only [vunpack3Body, hk, hs, if_true]
  · exact issue_fault (accs := fun _ => []) (body := vtaccBody f) h (vtaccBody_illegal hk hm h0 h1 h2 hl)

end Sys2Proof
end

section
/-!
PROOFS. The ternary, dot-product and structured-sparsity instructions (O18; R69, R120-R123).
-/

namespace Sys2Proof.Machine

/-! ### Trits (R68, R120) -/

/-- The multiply-and-shift step of R69 divides a ternary byte by three. -/
theorem mul171_div512 {b : Nat} (h : b ≤ 242) : b * 171 / 512 = b / 3 := by omega

/-- Trit `i` of a legal byte is its digit `i` in base 3, less one. -/
theorem tritOf_eq {b : Nat} (h : b ≤ 242) (i : Nat) : tritOf b i = ((b / 3 ^ i % 3 : Nat) : Int) - 1 := by
  induction i generalizing b with
  | zero =>
    rw [tritOf, mul171_div512 h]
    omega
  | succ i ih =>
    rw [tritOf, mul171_div512 h, ih (by omega), Nat.pow_succ', Nat.div_div_eq_div_mul]

/-- Element `j` of VUNPACK3, by the steps of the device (R120). -/
def unpackedElem (x : Slot) (f : VForm) (j : Nat) : Nat :=
  let b := elemOf 8 (vGet x f.a) (tritByte (f.vimm.extractLsb' 0 6).toNat j)
  if 242 < b then 0 else wrapTo (tyBits f.ty) (tritOf b (j % 5))

/-- An illegal byte gives 0, a legal one its trit (R68, R69). -/
theorem unpackedElem_eq (x : Slot) (f : VForm) (j : Nat) :
    let b := elemOf 8 (vGet x f.a) (((f.vimm.extractLsb' 0 6).toNat + j / 5) % 64)
    unpackedElem x f j = ((if 242 < b then 0 else ((b / 3 ^ (j % 5) % 3 : Nat) : Int) - 1) % 2 ^ tyBits f.ty).toNat := by
  intro b
  show (if 242 < b then 0 else wrapTo (tyBits f.ty) (tritOf b (j % 5))) = _
  split
  · rw [Int.zero_emod, Int.toNat_zero]
  · next h => rw [tritOf_eq (by omega), wrapTo]

/-- The vector that VUNPACK3 writes. -/
def unpacked (x : Slot) (f : VForm) : VWord :=
  (mapActive (tyBits f.ty) (vMask x f) f.zm (vGet x f.d) fun j => (unpackedElem x f j, 0)).1

theorem unpacked_writes (x : Slot) (f : VForm) :
    let b := fun j => elemOf 8 (vGet x f.a) (((f.vimm.extractLsb' 0 6).toNat + j / 5) % 64)
    ElemWrites (tyBits f.ty) (vMask x f) f.zm (vGet x f.d) (fun j =>
      (((if 242 < b j then 0 else ((b j / 3 ^ (j % 5) % 3 : Nat) : Int) - 1) % 2 ^ tyBits f.ty).toNat, 0)) (unpacked x f) 0 := by
  simp only [← unpackedElem_eq]
  exact mapActive_writes_quiet ..

theorem vunpack3Body_legal {s : State} {f : VForm} (h : badTrit (curSlot s) f = none) :
    vunpack3Body f s = .done (withCur s fun x => vPut x f.d (unpacked (curSlot s) f)) := by
  simp only [vunpack3Body, h]
  rfl

theorem vunpack3Body_zeroed {s : State} {f : VForm} {k : Nat} (h : badTrit (curSlot s) f = some k) (hs : f.sub ≠ 0) :
    vunpack3Body f s = .done (withCur s fun x =>
      let y := raiseFl (vPut x f.d (unpacked (curSlot s) f)) flTERN
      { y with csr := { y.csr with ternidx := BitVec.ofNat 6 k } }) := by
  simp only [vunpack3Body, h, if_neg hs]
  rfl

/-! ### Accumulated elements (R121) -/

theorem ieee_narrow (t : Ty) (sat : Bool) (r : Int) : ieee (narrow t sat r).2 = 0 := by
  cases sat
  · rfl
  · show ieee (if (clampTo t r).2 then flSAT else 0) = 0
    split <;> rfl

/-- VDOT4 and VTACC write their accumulated elements, and trap nothing. -/
theorem accElems_runs {s : State} {g : Guard} {f : VForm} {body : State → Eff} {sum : Nat → Int} (hn : NoFlip (curSlot s))
    (h : Ready s g (usesV2 f) false)
    (hb : body s = writeVChecked f 32 (vMask (curSlot s) f) (accElems f (curSlot s) sum).2 s (accElems f (curSlot s) sum).1) :
    Runs s g (issue g (usesV2 f) false body s) fun y => ∃ v fl,
      ElemWrites 32 (vMask (curSlot s) f) f.zm (vGet (curSlot s) f.d) (fun j =>
        narrow .s32 (f.sub.getLsbD 0) (intOf .s32 (elemOf 32 (vGet (curSlot s) f.d) j) + sum j)) v fl ∧
      WritesV (curSlot s) y f.d v fl := by
  have he := mapActive_writes 32 (vMask (curSlot s) f) f.zm (vGet (curSlot s) f.d) (fun j =>
    narrow .s32 (f.sub.getLsbD 0) (intOf .s32 (elemOf 32 (vGet (curSlot s) f.d) j) + sum j))
  have hq : ieee (accElems f (curSlot s) sum).2 &&& (curSlot s).csr.fena = 0 :=
    elemWrites_quiet he fun j _ _ => by simp [ieee_narrow]
  exact finishFl_runs h (hb.trans (writeVChecked_clean hn)) hq ⟨_, _, he, writesV_vPut ..⟩

/-- The unsigned reading of a byte. -/
theorem intOf_z8_elemOf (v : VWord) (i : Nat) : intOf .z8 (elemOf 8 v i) = (elemOf 8 v i : Int) := by
  have h := elemOf_lt 8 v i
  simp only [intOf, tySigned, tyBits, Bool.false_eq_true, if_false]
  omega

/-- The signed reading of a byte. -/
theorem intOf_s8_elemOf (v : VWord) (i : Nat) :
    intOf .s8 (elemOf 8 v i) = if elemOf 8 v i < 128 then (elemOf 8 v i : Int) else (elemOf 8 v i : Int) - 256 := by
  have h := elemOf_lt 8 v i
  simp only [intOf, tySigned, tyBits, sintOf, if_true, Nat.mod_eq_of_lt h]
  split_ifs <;> omega

theorem readsZero_iff (v : VWord) (i : Nat) : intOf .s8 (elemOf 8 v i) = 0 ↔ elemOf 8 v i = 0 := by
  have h := elemOf_lt 8 v i
  rw [intOf_s8_elemOf]
  split <;> omega

theorem readsOne_iff (v : VWord) (i : Nat) : intOf .s8 (elemOf 8 v i) = 1 ↔ elemOf 8 v i = 1 := by
  have h := elemOf_lt 8 v i
  rw [intOf_s8_elemOf]
  split <;> omega

theorem readsNegOne_iff (v : VWord) (i : Nat) : intOf .s8 (elemOf 8 v i) = -1 ↔ elemOf 8 v i = 0xFF := by
  rw [intOf_s8_elemOf]
  split <;> omega

/-- VTACC finds no illegal trit where every byte that is read is a trit. -/
theorem vtacc_legal {s : State} {f : VForm} (h : ∀ i, i < 64 → (vMask (curSlot s) f).getLsbD (i / 4) = true →
      elemOf 8 (vGet (curSlot s) f.b) i = 0 ∨ elemOf 8 (vGet (curSlot s) f.b) i = 1 ∨ elemOf 8 (vGet (curSlot s) f.b) i = 0xFF) :
    ((List.range 64).find? fun i => (vMask (curSlot s) f).getLsbD (i / 4) && elemOf 8 (vGet (curSlot s) f.b) i != 0 &&
      elemOf 8 (vGet (curSlot s) f.b) i != 1 && elemOf 8 (vGet (curSlot s) f.b) i != 0xFF) = none := by
  rw [List.find?_eq_none]
  intro i hi
  cases hm : (vMask (curSlot s) f).getLsbD (i / 4) with
  | false => simp
  | true => rcases h i (List.mem_range.mp hi) hm with h | h | h <;> simp [h]

/-! ### Structured sparsity (R122, R123) -/

/-- The two kept indices are two of a group's four, the lower first. -/
theorem keptOf_sorted (t : Ty) (e : Nat → Nat) : (keptOf t e).1 < (keptOf t e).2 ∧ (keptOf t e).2 < 4 := by
  unfold keptOf
  split
  · next lo hi r h =>
    have hs : ((List.range 4).filter fun i => decide (rankIn t e i < 2)).Pairwise (· < ·) :=
      List.pairwise_lt_range.filter _
    have hm : hi ∈ (List.range 4).filter fun i => decide (rankIn t e i < 2) := by rw [h]; simp
    rw [h] at hs
    exact ⟨List.rel_of_pairwise_cons hs (by simp), List.mem_range.mp (List.mem_of_mem_filter hm)⟩
  · exact ⟨by decide, by decide⟩

theorem digits4_lt {p : Nat → Nat} (hp : ∀ q, p q < 4) (k : Nat) :
    (List.range k).foldl (fun a q => a + p q * 4 ^ q) 0 < 4 ^ k := by
  induction k with
  | zero => simp
  | succ k ih =>
    have h := Nat.mul_le_mul_right (4 ^ k) (Nat.le_of_lt_succ (hp k))
    rw [List.range_succ, List.foldl_append, Nat.pow_succ]
    simp only [List.foldl_cons, List.foldl_nil]
    omega

/-- Digit `q` of a sum of digits in base 4. -/
theorem digits4_get {p : Nat → Nat} (hp : ∀ q, p q < 4) {k q : Nat} (hq : q < k) :
    (List.range k).foldl (fun a q => a + p q * 4 ^ q) 0 / 4 ^ q % 4 = p q := by
  induction k with
  | zero => omega
  | succ k ih =>
    rw [List.range_succ, List.foldl_append]
    simp only [List.foldl_cons, List.foldl_nil]
    rcases Nat.lt_succ_iff_lt_or_eq.mp hq with hq | rfl
    · obtain ⟨d, rfl⟩ := Nat.exists_eq_add_of_lt hq
      rw [show p (q + d + 1) * 4 ^ (q + d + 1) = 4 ^ q * (p (q + d + 1) * 4 ^ d * 4) by ring,
        Nat.add_mul_div_left _ _ (by positivity), Nat.add_mul_mod_self_right, ih hq]
    · rw [Nat.add_mul_div_right _ _ (by positivity), Nat.div_eq_of_lt (digits4_lt hp q), Nat.zero_add, Nat.mod_eq_of_lt (hp q)]

/-- Group `q` of a mask of VSPARSE24 (R122). -/
theorem sparseMask_get {p : Nat → Nat} (hp : ∀ q, p q < 4) {k q : Nat} (hq : q < k) (hk : k ≤ 32) :
    (BitVec.ofNat 64 ((List.range k).foldl (fun a q => a + p q * 4 ^ q) 0)).toNat / 4 ^ q % 4 = p q := by
  have hd := digits4_get hp hq
  rw [show (4 : Nat) ^ q = 2 ^ (2 * q) by rw [Nat.pow_mul], show 4 = 2 ^ 2 from rfl] at *
  rw [digit_ofNat (by omega)]
  exact hd

/-- Element `j` of a vector whose elements are written without a mask. -/
theorem elemOf_vecAll {n j : Nat} (e : Nat → Nat) (h : j < 512 / n) (he : e j < 2 ^ n) :
    elemOf n (packElems n ((List.range (lanes n)).map e)) j = e j := by
  rw [lanes, elemOf_packElems_range e h, Nat.mod_eq_of_lt he]

/-- The kept indices of group `q` of VSPARSE24. -/
def keptAt (x : Slot) (f : VForm) (q : Nat) : Nat × Nat := keptOf f.ty fun i => vA x f (4 * q + i)

theorem keptAt_lt (x : Slot) (f : VForm) (q : Nat) : (keptAt x f q).1 < 4 ∧ (keptAt x f q).2 < 4 := by
  have := keptOf_sorted f.ty fun i => vA x f (4 * q + i)
  unfold keptAt
  omega

/-- Element `j` that VSPARSE24 writes. -/
def sparseElem (x : Slot) (f : VForm) (j : Nat) : Nat :=
  if j < 512 / tyBits f.ty / 2 then
    vA x f (4 * (j / 2) + (if j % 2 = 0 then (keptAt x f (j / 2)).1 else (keptAt x f (j / 2)).2))
  else 0

theorem sparseElem_lt (x : Slot) (f : VForm) (j : Nat) : sparseElem x f j < 2 ^ tyBits f.ty := by
  unfold sparseElem
  split
  · exact elemOf_lt ..
  · positivity

/-- The mask of VSPARSE24 that takes this component of each group's indices. -/
def sparseMask (x : Slot) (f : VForm) (p : Nat × Nat → Nat) : BitVec 64 :=
  BitVec.ofNat 64 ((List.range (512 / tyBits f.ty / 4)).foldl (fun a q => a + p (keptAt x f q) * 4 ^ q) 0)

theorem lanes_le (t : Ty) : 512 / tyBits t ≤ 128 := by
  cases t <;> decide

end Sys2Proof.Machine

namespace Sys2Proof

open Sys2Proof.Machine

/-- VSPARSE24 writes its two kept elements per group, and their indices into the mask pair. -/
theorem vsparse24_runs {s : State} {g : Guard} {f : VForm} (h : Ready s g (.dm f.c :: .dm (f.c + 1) :: usesV1 f) false) :
    let x := curSlot s
    let v := packElems (tyBits f.ty) ((List.range (lanes (tyBits f.ty))).map (sparseElem x f))
    Runs s g (exec (.vsparse24 g f) s) fun y => ∃ z z', WritesV x z f.d v 0 ∧
      WritesM z z' f.c.toNat (sparseMask x f (·.1)) 0 ∧ WritesM z' y (f.c.toNat + 1) (sparseMask x f (·.2)) 0 :=
  runs_of_withCur s g _ false (vsparseBody f) (fun _ => []) _ _ h rfl
    ⟨_, _, writesV_vPut_quiet .., writesM_mPut_quiet .., writesM_mPut_quiet ..⟩

/-- What the vector and the masks that VSPARSE24 writes hold of group `q`. -/
theorem sparse_group (x : Slot) (f : VForm) {q : Nat} (hq : q < 512 / tyBits f.ty / 4) :
    let v := packElems (tyBits f.ty) ((List.range (lanes (tyBits f.ty))).map (sparseElem x f))
    (sparseMask x f (·.1)).toNat / 4 ^ q % 4 = (keptAt x f q).1 ∧ (sparseMask x f (·.2)).toNat / 4 ^ q % 4 = (keptAt x f q).2 ∧
    (keptAt x f q).1 < (keptAt x f q).2 ∧ (keptAt x f q).2 < 4 ∧
    elemOf (tyBits f.ty) v (2 * q) = vA x f (4 * q + (keptAt x f q).1) ∧
    elemOf (tyBits f.ty) v (2 * q + 1) = vA x f (4 * q + (keptAt x f q).2) := by
  have hl := lanes_le f.ty
  obtain ⟨h1, h2⟩ := keptOf_sorted f.ty fun i => vA x f (4 * q + i)
  refine ⟨sparseMask_get (p := fun q => (keptAt x f q).1) (fun q => (keptAt_lt x f q).1) hq (by omega),
    sparseMask_get (p := fun q => (keptAt x f q).2) (fun q => (keptAt_lt x f q).2) hq (by omega), h1, h2, ?_, ?_⟩
  · rw [elemOf_vecAll _ (by omega) (sparseElem_lt ..), sparseElem, if_pos (by omega), if_pos (by omega),
      show 2 * q / 2 = q by omega]
  · rw [elemOf_vecAll _ (by omega) (sparseElem_lt ..), sparseElem, if_pos (by omega), if_neg (by omega),
      show (2 * q + 1) / 2 = q by omega]

/-- Settles O18: VUNPACK3 by its trits, VDOT4 and VTACC by their accumulated elements, the sparse instructions element by element. -/
theorem ternaryAndSparseResults : Obligations.TernaryAndSparseResults := by
  intro s g f hn
  refine ⟨fun h => ⟨fun hk => ?_, fun k hk hs => ?_⟩, fun h => ⟨?_, fun ht => ?_⟩, fun h => ?_, fun h => ?_⟩
  · exact runs_of_withCur s g _ false (vunpack3Body f) (fun _ => []) _ _ h (vunpack3Body_legal hk)
      ⟨_, writesV_vPut_quiet .., unpacked_writes ..⟩
  · exact runs_of_withCur s g _ false (vunpack3Body f) (fun _ => []) _ _ h (vunpack3Body_zeroed hk hs)
      ⟨_, _, unpacked_writes .., writesV_vPut .., rfl⟩
  · refine accElems_runs (body := vdot4Body f) hn h ?_
    simp only [vdot4Body, intOf_z8_elemOf]
    rfl
  · have hl := vtacc_legal (s := s) (f := f) fun i hi hm => by
      rw [← readsZero_iff, ← readsOne_iff, ← readsNegOne_iff]
      exact ht i hi hm
    refine accElems_runs (body := vtaccBody f) hn h ?_
    simp only [vtaccBody, hl, readsOne_iff, readsNegOne_iff]
    rfl
  · obtain ⟨y, hy, z, z', hv, hlo, hhi⟩ := vsparse24_runs h
    refine ⟨y, hy, z, z', _, _, _, hv, hlo, hhi, fun q hq => sparse_group _ f hq, fun j hj hl => ?_⟩
    rw [elemOf_vecAll _ hl (sparseElem_lt ..), sparseElem, if_neg (by omega)]
  · refine runs_of_withCur s g _ false (vecAll f _) (fun _ => []) _ _ h rfl ⟨_, writesV_vPut_quiet .., fun j hj => ?_⟩
    refine elemOf_vecAll _ hj ?_
    dsimp only
    split_ifs
    · exact elemOf_lt ..
    · exact elemOf_lt ..
    · positivity

end Sys2Proof
end

section
/-!
PROOFS. Reductions and VSCAN (O15; R79, R80, R115): the tree of R79 level by level, what it makes of integer sums and of bounds.
-/

namespace Sys2Proof.Machine

/-! ### The lane tree (R79) -/

section
variable {op : Nat → Nat → Nat × Flags}

/-- One level of the tree combines the lower half of the lanes with the upper one. -/
theorem treeLevel_lanes {w : Nat} {xs : List Nat} (h : xs.length = 2 * w) :
    (treeLevel op w xs).1 = List.zipWith (fun a b => (op a b).1) (xs.take w) (xs.drop w) := by
  refine List.ext_getElem (by simp [treeLevel]; omega) fun i hi _ => ?_
  have hw : i < w := by simpa [treeLevel] using hi
  have h1 : i < xs.length := by omega
  have h2 : i + w < xs.length := by omega
  simp [treeLevel, h1, h2, Nat.add_comm w i]

theorem mem_treeLevel {w c : Nat} {xs : List Nat} :
    c ∈ (treeLevel op w xs).1 ↔ ∃ i, i < w ∧ (op (xs.getD i 0) (xs.getD (i + w) 0)).1 = c := by
  simp [treeLevel]

theorem treeLevel_length (w : Nat) (xs : List Nat) : (treeLevel op w xs).1.length = w := by
  simp [treeLevel]

/-- Operations that raise no flag leave none. -/
theorem treeFold_flags (h : ∀ a b, (op a b).2 = 0) (k : Nat) (xs : List Nat) (fl : Flags) : (treeFold op k xs fl).2 = fl := by
  have hl : ∀ w ys, (treeLevel op w ys).2 = 0 := fun w ys => by
    refine BitVec.eq_of_getLsbD_eq fun q _ => ?_
    rw [Bool.eq_iff_iff, treeLevel, foldl_or_getLsbD]
    simp [h]
  induction k generalizing xs fl with
  | zero => rfl
  | succ k ih =>
    rw [treeFold, ih, hl]
    exact BitVec.or_zero

/-- Where the operation adds readings modulo `m`, the tree gives their sum modulo `m`. -/
theorem treeFold_sum {val : Nat → Int} {m : Int} (h : ∀ a b, val (op a b).1 ≡ val a + val b [ZMOD m]) {k : Nat} {xs : List Nat}
    (hl : xs.length = 2 ^ k) (fl : Flags) : val (treeFold op k xs fl).1 ≡ (xs.map val).sum [ZMOD m] := by
  have hz : ∀ ys zs : List Nat, ys.length = zs.length →
      ((List.zipWith (fun a b => (op a b).1) ys zs).map val).sum ≡ (ys.map val).sum + (zs.map val).sum [ZMOD m] := by
    intro ys
    induction ys with
    | nil => intro zs hzs; simp [List.length_eq_zero_iff.mp hzs.symm]
    | cons y ys ih =>
      rintro (_ | ⟨z, zs⟩) hzs
      · simp at hzs
      · simp only [List.zipWith_cons_cons, List.map_cons, List.sum_cons]
        calc _ ≡ (val y + val z) + ((ys.map val).sum + (zs.map val).sum) [ZMOD m] := (h y z).add (ih zs (by simpa using hzs))
          _ = _ := by ring
  induction k generalizing xs fl with
  | zero =>
    obtain ⟨a, rfl⟩ := List.length_eq_one_iff.mp hl
    simp [treeFold]
  | succ k ih =>
    have hw : xs.length = 2 * 2 ^ k := by rw [hl, Nat.pow_succ']
    refine (ih (treeLevel_length ..) _).trans ?_
    rw [treeLevel_lanes hw]
    refine (hz _ _ (by simp; omega)).trans ?_
    rw [← List.sum_append, ← List.map_append, List.take_append_drop]

/-- Where the operation answers one of its readings, and one that precedes both, so does the tree with all lanes. -/
theorem treeFold_selects {val : Nat → Int} {R : Int → Int → Prop} (ht : ∀ {a b c}, R a b → R b c → R a c) (hr : ∀ a, R a a)
    (h : ∀ a b, (val (op a b).1 = val a ∨ val (op a b).1 = val b) ∧ R (val (op a b).1) (val a) ∧ R (val (op a b).1) (val b))
    {k : Nat} {xs : List Nat} (hl : xs.length = 2 ^ k) (fl : Flags) :
    (∃ a ∈ xs, val (treeFold op k xs fl).1 = val a) ∧ ∀ a ∈ xs, R (val (treeFold op k xs fl).1) (val a) := by
  induction k generalizing xs fl with
  | zero =>
    obtain ⟨a, rfl⟩ := List.length_eq_one_iff.mp hl
    simp [treeFold, hr]
  | succ k ih =>
    have hw : xs.length = 2 * 2 ^ k := by rw [hl, Nat.pow_succ']
    obtain ⟨⟨c, hc, he⟩, hb⟩ := ih (treeLevel_length (op := op) (2 ^ k) xs) (fl ||| (treeLevel op (2 ^ k) xs).2)
    have hm : ∀ i, i < 2 * 2 ^ k → xs.getD i 0 ∈ xs := fun i hi => by
      rw [List.getD_eq_getElem _ _ (by omega)]
      exact List.getElem_mem _
    constructor
    · obtain ⟨i, hi, rfl⟩ := mem_treeLevel.mp hc
      rcases (h (xs.getD i 0) (xs.getD (i + 2 ^ k) 0)).1 with hs | hs
      · exact ⟨_, hm i (by omega), he.trans hs⟩
      · exact ⟨_, hm (i + 2 ^ k) (by omega), he.trans hs⟩
    · intro a ha
      obtain ⟨i, hi, rfl⟩ := List.mem_iff_getElem.mp ha
      rw [← List.getD_eq_getElem xs 0 hi]
      by_cases hk : i < 2 ^ k
      · exact ht (hb _ (mem_treeLevel.mpr ⟨i, hk, rfl⟩)) (h ..).2.1
      · have hu := (h (xs.getD (i - 2 ^ k) 0) (xs.getD (i - 2 ^ k + 2 ^ k) 0)).2.2
        rw [Nat.sub_add_cancel (by omega)] at hu
        exact ht (hb _ (mem_treeLevel.mpr ⟨i - 2 ^ k, by omega, by rw [Nat.sub_add_cancel (by omega)]⟩)) hu

end

/-! ### Integer lanes (R115) -/

/-- The active elements. -/
def activeElems (x : Slot) (f : VForm) : List Nat := (List.range (512 / tyBits f.ty)).filter fun j => (vMask x f).getLsbD j

theorem redLanes_length {t : Ty} (x : Slot) {f : VForm} (h : f.ty = t) (ht : tyIsInt t = true) (ident : Nat) :
    (redLanes x f ident).length = 2 ^ Nat.log2 (lanes (tyBits f.ty)) := by
  rw [redLanes, List.length_map, List.length_range, h]
  revert ht
  cases t <;> decide

theorem mem_redLanes {x : Slot} {f : VForm} {ident a : Nat} :
    a ∈ redLanes x f ident ↔ (∃ j ∈ activeElems x f, vA x f j = a) ∨
      (∃ j, j < 512 / tyBits f.ty ∧ (vMask x f).getLsbD j = false) ∧ ident = a := by
  simp only [redLanes, lanes, activeElems, List.mem_map, List.mem_range, List.mem_filter]
  constructor
  · rintro ⟨j, hj, rfl⟩
    cases hm : (vMask x f).getLsbD j with
    | true => exact .inl ⟨j, ⟨hj, hm⟩, by simp⟩
    | false => exact .inr ⟨⟨j, hj, hm⟩, by simp⟩
  · rintro (⟨j, ⟨hj, hm⟩, rfl⟩ | ⟨⟨j, hj, hm⟩, rfl⟩)
    · exact ⟨j, hj, by simp [hm]⟩
    · exact ⟨j, hj, by simp [hm]⟩

/-- Inactive lanes that read 0 add nothing to the sum. -/
theorem redLanes_sum {x : Slot} {f : VForm} {ident : Nat} {val : Nat → Int} (h : val ident = 0) :
    ((redLanes x f ident).map val).sum = ((activeElems x f).map fun j => val (vA x f j)).sum := by
  rw [redLanes, activeElems, lanes, List.map_map]
  generalize List.range (512 / tyBits f.ty) = l
  induction l with
  | nil => rfl
  | cons j l ih =>
    rw [List.map_cons, List.sum_cons, ih, Function.comp_apply, List.filter_cons]
    cases (vMask x f).getLsbD j <;> simp [h]

/-- What the tree answers bounds the active elements and is one of them, where inactive lanes hold the other bound. -/
theorem treeFold_active {op : Nat → Nat → Nat × Flags} {val : Nat → Int} {R : Int → Int → Prop} {x : Slot} {f : VForm} {ident : Nat}
    (ht : ∀ {a b c}, R a b → R b c → R a c) (hr : ∀ a, R a a) (hs : ∀ {a b}, R a b → R b a → a = b)
    (hi : ∀ a, R (val a) (val ident))
    (h : ∀ a b, (val (op a b).1 = val a ∨ val (op a b).1 = val b) ∧ R (val (op a b).1) (val a) ∧ R (val (op a b).1) (val b))
    {k : Nat} (hl : (redLanes x f ident).length = 2 ^ k) (fl : Flags) :
    let v := val (treeFold op k (redLanes x f ident) fl).1
    (∀ j ∈ activeElems x f, R v (val (vA x f j))) ∧
      (activeElems x f ≠ [] → ∃ j ∈ activeElems x f, v = val (vA x f j)) ∧ (activeElems x f = [] → v = val ident) := by
  obtain ⟨⟨a, ha, he⟩, hb⟩ := treeFold_selects (val := val) (R := R) ht hr h hl fl
  intro v
  have hbound : ∀ j ∈ activeElems x f, R v (val (vA x f j)) := fun j hj => hb _ (mem_redLanes.mpr (.inl ⟨j, hj, rfl⟩))
  refine ⟨hbound, fun hne => ?_, fun hnil => ?_⟩
  · rcases mem_redLanes.mp ha with ⟨j, hj, rfl⟩ | ⟨-, rfl⟩
    · exact ⟨j, hj, he⟩
    · obtain ⟨j, hj⟩ := List.exists_mem_of_ne_nil _ hne
      refine ⟨j, hj, hs (hbound j hj) ?_⟩
      show R _ (val (treeFold op k (redLanes x f ident) fl).1)
      rw [he]
      exact hi _
  · rcases mem_redLanes.mp ha with ⟨j, hj, -⟩ | ⟨-, rfl⟩
    · rw [hnil] at hj
      cases hj
    · exact he

theorem wrapTo_modEq (t : Ty) (z : Int) : intOf t (wrapTo (tyBits t) z) ≡ z [ZMOD 2 ^ tyBits t] := by
  obtain ⟨q, hq⟩ := intOf_mod t (wrapTo (tyBits t) z)
  rw [hq, wrapTo_cast]
  refine (Int.add_mul_emod_self_right ..).trans ?_
  exact Int.emod_emod_of_dvd _ dvd_rfl

/-- A value of a type is what its pattern reads as. -/
theorem intOf_wrapTo {t : Ty} {z : Int} (h : tyMin t ≤ z ∧ z ≤ tyMax t) : intOf t (wrapTo (tyBits t) z) = z := by
  obtain ⟨q, hq⟩ := (wrapTo_modEq t z).symm.dvd
  exact eq_of_range t _ _ q (intOf_range t _) h (by linarith)

theorem tyMin_le_tyMax (t : Ty) : tyMin t ≤ tyMax t := (intOf_range t 0).1.trans (intOf_range t 0).2

end Sys2Proof.Machine

namespace Sys2Proof

open Sys2Proof.Machine

/-- A reduction whose flags are not enabled writes the tree's result. -/
theorem reduce_runs {s : State} {g : Guard} {f : VForm} {body : State → Eff} {op : Nat → Nat → Nat × Flags} {ident : Nat}
    {P : Slot → Prop} (h : Ready s g [.v f.a, .ds f.d] false) (hb : body s = reduceBody f op ident s)
    (he : ieee (treeFold op (Nat.log2 (lanes (tyBits f.ty))) (redLanes (curSlot s) f ident) 0).2 &&& (curSlot s).csr.fena = 0)
    (hP : ∀ y, WritesS (curSlot s) y f.d
      (extendTo f.ty (treeFold op (Nat.log2 (lanes (tyBits f.ty))) (redLanes (curSlot s) f ident) 0).1)
      (treeFold op (Nat.log2 (lanes (tyBits f.ty))) (redLanes (curSlot s) f ident) 0).2 → P y) :
    Runs s g (issue g [.v f.a, .ds f.d] false body s) P :=
  finishFl_runs h hb he (hP _ (writesS_sPut ..))

theorem redLanes_eq_cons {x : Slot} {f : VForm} (h : 0 < 512 / tyBits f.ty) (ident : Nat) :
    redLanes x f ident = (redLanes x f ident).headD 0 :: (redLanes x f ident).tail := by
  cases hl : redLanes x f ident with
  | nil =>
    rw [redLanes, List.map_eq_nil_iff, List.range_eq_nil, lanes] at hl
    omega
  | cons y r => rfl

theorem vscanBody_eq {s : State} {f : VForm} (h : 0 < 512 / tyBits f.ty) :
    let x := curSlot s
    let l := redLanes x f (idAdd f.ty)
    let r := scanFold (redAdd x f) (l.headD 0) l.tail 0
    vscanBody f s = writeV f r.2 s
      (mapActive (tyBits f.ty) (vMask x f) f.zm (vGet x f.d) fun j => ((l.headD 0 :: r.1).getD j 0, 0)).1 := by
  intro x l r
  unfold vscanBody
  dsimp only
  rw [redLanes_eq_cons h (idAdd f.ty)]

/-- An integer reduction raises no flag. -/
theorem intReduce_runs {s : State} {g : Guard} {f : VForm} {body : State → Eff} {op : Nat → Nat → Nat × Flags} {ident : Nat}
    {P : Slot → Prop} (h : Ready s g [.v f.a, .ds f.d] false) (hb : body s = reduceBody f op ident s) (hq : ∀ a b, (op a b).2 = 0)
    (hP : ∀ y, WritesS (curSlot s) y f.d
      (extendTo f.ty (treeFold op (Nat.log2 (lanes (tyBits f.ty))) (redLanes (curSlot s) f ident) 0).1) 0 → P y) :
    Runs s g (issue g [.v f.a, .ds f.d] false body s) P := by
  have hf := treeFold_flags hq (Nat.log2 (lanes (tyBits f.ty))) (redLanes (curSlot s) f ident) 0
  refine reduce_runs h hb (by rw [hf]; exact BitVec.zero_and) fun y hy => hP y ?_
  rwa [hf] at hy

/-- The integer operations of R115 on readings. -/
theorem redAdd_int {x : Slot} {f : VForm} (ht : tyIsInt f.ty = true) (hs : f.sub ≠ 1) (a b : Nat) :
    redAdd x f a b = (wrapTo (tyBits f.ty) (intOf f.ty a + intOf f.ty b), 0) := by
  rw [redAdd, if_pos ht, decide_eq_false hs]
  rfl

theorem intOf_redMinMax {f : VForm} (ht : tyIsInt f.ty = true) (isMax : Bool) (a b : Nat) :
    intOf f.ty (redMinMax f isMax a b).1 =
      if isMax then max (intOf f.ty a) (intOf f.ty b) else min (intOf f.ty a) (intOf f.ty b) := by
  have ha := intOf_range f.ty a
  have hb := intOf_range f.ty b
  rw [redMinMax, if_pos ht]
  refine intOf_wrapTo ?_
  cases isMax
  · rw [if_neg (by decide)]; omega
  · rw [if_pos rfl]; omega

theorem redMinMax_flags {f : VForm} (ht : tyIsInt f.ty = true) (isMax : Bool) (a b : Nat) : (redMinMax f isMax a b).2 = 0 := by
  rw [redMinMax, if_pos ht]

theorem intOf_idMin {t : Ty} (ht : tyIsInt t = true) : intOf t (idMin t) = tyMax t := by
  rw [idMin, if_pos ht, intOf_wrapTo ⟨tyMin_le_tyMax t, le_rfl⟩]

theorem intOf_idMax {t : Ty} (ht : tyIsInt t = true) : intOf t (idMax t) = tyMin t := by
  rw [idMax, if_pos ht, intOf_wrapTo ⟨le_rfl, tyMin_le_tyMax t⟩]

/-- What VREDSUM without `.sat` writes is the sum of the active elements modulo 2^n. -/
theorem treeFold_redAdd {x : Slot} {f : VForm} (ht : tyIsInt f.ty = true) (hs : f.sub ≠ 1) :
    ∃ q, valOf f.ty (extendTo f.ty (treeFold (redAdd x f) (Nat.log2 (lanes (tyBits f.ty))) (redLanes x f (idAdd f.ty)) 0).1) =
      ((activeElems x f).map fun j => intOf f.ty (vA x f j)).sum + q * 2 ^ tyBits f.ty := by
  have h0 : intOf f.ty (idAdd f.ty) = 0 := by
    rw [idAdd, if_pos ht]
    simp [intOf, sintOf]
  have hm := treeFold_sum (op := redAdd x f) (val := intOf f.ty) (m := 2 ^ tyBits f.ty)
    (fun a b => by rw [redAdd_int ht hs]; exact wrapTo_modEq ..) (redLanes_length x rfl ht (idAdd f.ty)) 0
  rw [redLanes_sum h0] at hm
  obtain ⟨q, hq⟩ := hm.symm.dvd
  exact ⟨q, by rw [valOf_extendTo]; linarith⟩

/-- What VREDMIN writes bounds the active elements below and is one of them (R115). -/
theorem treeFold_redMin {x : Slot} {f : VForm} (ht : tyIsInt f.ty = true) :
    let v := valOf f.ty
      (extendTo f.ty (treeFold (redMinMax f false) (Nat.log2 (lanes (tyBits f.ty))) (redLanes x f (idMin f.ty)) 0).1)
    (∀ j ∈ activeElems x f, v ≤ intOf f.ty (vA x f j)) ∧
      (activeElems x f ≠ [] → ∃ j ∈ activeElems x f, v = intOf f.ty (vA x f j)) ∧ (activeElems x f = [] → v = tyMax f.ty) := by
  rw [valOf_extendTo, ← intOf_idMin ht]
  refine treeFold_active (R := (· ≤ ·)) le_trans le_refl le_antisymm (fun a => ?_) (fun a b => ?_)
    (redLanes_length x rfl ht (idMin f.ty)) 0
  · rw [intOf_idMin ht]
    exact (intOf_range f.ty a).2
  · rw [intOf_redMinMax ht, if_neg (by decide)]
    omega

/-- What VREDMAX writes bounds the active elements above and is one of them (R115). -/
theorem treeFold_redMax {x : Slot} {f : VForm} (ht : tyIsInt f.ty = true) :
    let v := valOf f.ty
      (extendTo f.ty (treeFold (redMinMax f true) (Nat.log2 (lanes (tyBits f.ty))) (redLanes x f (idMax f.ty)) 0).1)
    (∀ j ∈ activeElems x f, intOf f.ty (vA x f j) ≤ v) ∧
      (activeElems x f ≠ [] → ∃ j ∈ activeElems x f, v = intOf f.ty (vA x f j)) ∧ (activeElems x f = [] → v = tyMin f.ty) := by
  rw [valOf_extendTo, ← intOf_idMax ht]
  refine treeFold_active (R := (· ≥ ·)) ge_trans le_refl (fun h h' => le_antisymm h' h) (fun a => ?_) (fun a b => ?_)
    (redLanes_length x rfl ht (idMax f.ty)) 0
  · rw [intOf_idMax ht]
    exact (intOf_range f.ty a).1
  · rw [intOf_redMinMax ht, if_pos rfl]
    omega

/-- Settles O15: the tree and the scan as the bodies compute them; sums and bounds by induction on the levels of the tree. -/
theorem allReductionResults : Obligations.AllReductionResults := by
  refine ⟨fun s g f => ⟨fun h => ⟨fun he => ?_, fun he => ?_, fun he => ?_⟩, fun h h0 he => ?_⟩,
    fun s g f ht h => ⟨fun hs => ?_, ?_, ?_⟩⟩
  · exact reduce_runs (body := fun s => reduceBody f (redAdd (curSlot s) f) (idAdd f.ty) s) h rfl he fun y hy => hy
  · exact reduce_runs h rfl he fun y hy => hy
  · exact reduce_runs h rfl he fun y hy => hy
  · exact finishFl_runs h (vscanBody_eq h0) he ⟨_, writesV_vPut .., mapActive_writes_quiet ..⟩
  · obtain ⟨q, hq⟩ := treeFold_redAdd (x := curSlot s) ht hs
    exact intReduce_runs (body := fun s => reduceBody f (redAdd (curSlot s) f) (idAdd f.ty) s) h rfl
      (fun a b => by rw [redAdd_int ht hs]) fun y hy => ⟨_, q, hq, hy⟩
  · exact intReduce_runs h rfl (redMinMax_flags ht false) fun y hy => ⟨_, hy, treeFold_redMin ht⟩
  · exact intReduce_runs h rfl (redMinMax_flags ht true) fun y hy => ⟨_, hy, treeFold_redMax ht⟩

end Sys2Proof
end

section
/-!
PROOFS. Enabled IEEE flags (O10; R57, R101): each body that raises flags ends in FP_EXCEPTION when one of them is enabled, with the
flags of the result, or those of the active elements.
-/

namespace Sys2Proof.Machine

/-! ### Bodies that raise the flags of one result -/

section
variable {s : State} {g : Guard} {uses : List Use} {deferred : Bool} {body : State → Eff}

/-- A deferred instruction traps its enabled flags as it issues (R101). -/
theorem deferFl_traps {fl : Flags} {d : Dst} {v : VWord} (h : Ready s g uses deferred) (hb : body s = deferFl s fl d v)
    (he : ieee fl &&& (curSlot s).csr.fena ≠ 0) : TakesFp s (issue g uses deferred body s) (ieee fl) :=
  issue_takesFp h (hb.trans (if_pos (bne_iff_ne.mpr he)))

/-- A checked instruction without a due injection ends as an unchecked one. -/
theorem fpArithChecked_clean {f : RForm} {op : FFmt → RMode → Nat → Nat → Nat → Nat × Flags} (h : NoFlip (curSlot s)) :
    fpArithChecked f op s = fpArith f op s := by
  unfold fpArithChecked fpArith
  dsimp only
  split
  · exact finishChecked_clean _ _ _ _ _ _ h
  · rfl

end

/-! ### The flags of the active elements -/

/-- The flags in `fl` are those that one of the first `k` elements raises, if it is active. -/
def FlagsOf (mask : BitVec 64) (k : Nat) (op : Nat → Nat × Flags) (fl : BitVec 5) : Prop :=
  ∀ q, q < 5 → (fl.getLsbD q = true ↔ ∃ j, j < k ∧ mask.getLsbD j = true ∧ (op j).2.getLsbD q = true)

theorem ieee_eq_of_flags {mask : BitVec 64} {k : Nat} {op : Nat → Nat × Flags} {fl : BitVec 5} {all : Flags}
    (h : FlagsOf mask k op fl)
    (ha : ∀ q, q < 7 → (all.getLsbD q = true ↔ ∃ j, j < k ∧ mask.getLsbD j = true ∧ (op j).2.getLsbD q = true)) :
    ieee all = fl := by
  refine BitVec.eq_of_getLsbD_eq fun q hq => ?_
  rw [Bool.eq_iff_iff, ieee_getLsbD, decide_eq_true hq, Bool.true_and, h q hq, ha q (by omega)]

/-- The flags of a fold over the active elements. -/
theorem foldl_active_getLsbD (mask : BitVec 64) (k : Nat) (fl : Nat → Flags) (q : Nat) :
    ((List.range k).foldl (fun a j => if mask.getLsbD j then a ||| fl j else a) (0 : Flags)).getLsbD q = true ↔
      ∃ j, j < k ∧ mask.getLsbD j = true ∧ (fl j).getLsbD q = true := by
  have he : (fun (a : Flags) j => if mask.getLsbD j then a ||| fl j else a) =
      fun a j => a ||| (if mask.getLsbD j then fl j else 0) := by
    funext a j
    split
    · rfl
    · exact BitVec.or_zero.symm
  rw [he, foldl_or_getLsbD]
  constructor
  · rintro (h | ⟨j, hj, h⟩)
    · simp at h
    · split at h
      · next hm => exact ⟨j, List.mem_range.mp hj, hm, h⟩
      · simp at h
  · rintro ⟨j, hj, hm, h⟩
    exact .inr ⟨j, List.mem_range.mpr hj, by rwa [if_pos hm]⟩

/-- The flags of a conversion are those of the elements that take part and are active (R116). -/
theorem convElems_flags {ws wd p : Nat} {mask : BitVec 64} {zm : Bool} {old src : VWord} {op : Nat → Nat × Flags}
    (h : p * (512 / max ws wd) + 512 / max ws wd ≤ 512 / wd ∨ wd = max ws wd) (q : Nat) :
    (convElems ws wd p mask zm old src op).2.getLsbD q = true ↔ ∃ j, j < 512 / max ws wd ∧ mask.getLsbD j = true ∧
      (op (elemOf ws src ((if ws < wd then p * (512 / max ws wd) else 0) + j))).2.getLsbD q = true := by
  set n := 512 / max ws wd with hn
  set db := if wd < ws then p * n else 0 with hdb
  have hfit : db + n ≤ 512 / wd := by
    rcases h with h | h
    · rw [hdb]
      split <;> omega
    · rw [hdb, if_neg (by omega), hn, ← h, Nat.zero_add]
  simp only [convElems, foldl_or_getLsbD, List.mem_map, List.mem_range, ← hn, ← hdb]
  constructor
  · rintro (h | ⟨_, ⟨i, hi, rfl⟩, h⟩)
    · simp at h
    · split at h
      · simp at h
      · next hd =>
        rw [Bool.or_eq_true, decide_eq_true_eq, decide_eq_true_eq] at hd
        split at h
        · next hm => exact ⟨i - db, by omega, hm, h⟩
        · simp at h
  · rintro ⟨j, hj, hm, h⟩
    refine .inr ⟨_, ⟨db + j, by omega, rfl⟩, ?_⟩
    rw [if_neg (by simp; omega), Nat.add_sub_cancel_left, if_pos hm]
    exact h

/-! ### Bodies that raise the flags of the active elements -/

section
variable {s : State} {g : Guard} {uses : List Use} {deferred : Bool} {body : State → Eff} {f : VForm}

/-- The element operation of a floating-point type. -/
theorem vecVal_float (x : Slot) (iop : Int → Int → Int → Int) (sat : Bool) (fop : FFmt → RMode → Nat → Nat → Nat → Nat × Flags)
    (h : tyIsInt f.ty = false) :
    vecVal f x iop sat fop = fun j =>
      fop (fmtOf f.ty) (rmOf x f.sub) (vA x f j) (vB x f j) (elemOf (tyBits f.ty) (vGet x f.c) j) := by
  funext j
  unfold vecVal
  dsimp only
  rw [h]
  rfl

theorem vecArith_clean {checked : Bool} {iop : Int → Int → Int → Int} {sat : Bool}
    {fop : FFmt → RMode → Nat → Nat → Nat → Nat × Flags} (hn : NoFlip (curSlot s)) :
    let r := mapActive (tyBits f.ty) (vMask (curSlot s) f) f.zm (vGet (curSlot s) f.d) (vecVal f (curSlot s) iop sat fop)
    vecArith f checked iop sat fop s = writeV f r.2 s r.1 := by
  unfold vecArith
  dsimp only
  split
  · exact writeVChecked_clean hn
  · rfl

theorem vecDeferred_float {iop : Int → Int → Int → Int} {fop : FFmt → RMode → Nat → Nat → Nat → Nat × Flags}
    (ht : tyIsInt f.ty = false) :
    let r := mapActive (tyBits f.ty) (vMask (curSlot s) f) f.zm (vGet (curSlot s) f.d) (vecVal f (curSlot s) iop false fop)
    vecDeferred f iop fop s = deferFl s r.2 (.vreg f.d) r.1 := by
  unfold vecDeferred
  dsimp only
  rw [ht]
  rfl

theorem vcmpBody_float (ht : tyIsInt f.ty = false) : ∃ wr, vcmpBody f s =
    finishFl s ((List.range (512 / tyBits f.ty)).foldl (fun a j => if (vMask (curSlot s) f).getLsbD j then
      a ||| (fpCmp (fmtOf f.ty) f.sub.toNat (vA (curSlot s) f j) (vB (curSlot s) f j)).2 else a) (0 : Flags)) wr := by
  unfold vcmpBody
  simp only [ht, Bool.false_eq_true, if_false]
  exact ⟨_, rfl⟩

theorem vecArith_traps {checked : Bool} {iop : Int → Int → Int → Int} {sat : Bool}
    {fop : FFmt → RMode → Nat → Nat → Nat → Nat × Flags} (hn : NoFlip (curSlot s)) (ht : tyIsInt f.ty = false)
    (h : Ready s g uses deferred) (hb : body s = vecArith f checked iop sat fop s) {fl : BitVec 5}
    (hf : FlagsOf (vMask (curSlot s) f) (512 / tyBits f.ty) (fun j => fop (fmtOf f.ty) (rmOf (curSlot s) f.sub) (vA (curSlot s) f j)
      (vB (curSlot s) f j) (elemOf (tyBits f.ty) (vGet (curSlot s) f.c) j)) fl)
    (he : fl &&& (curSlot s).csr.fena ≠ 0) : TakesFp s (issue g uses deferred body s) fl := by
  rw [← vecVal_float _ iop sat fop ht] at hf
  have hi := ieee_eq_of_flags hf (mapActive_writes _ _ f.zm (vGet (curSlot s) f.d) _).2
  rw [← hi] at he ⊢
  exact finishFl_traps h (hb.trans (vecArith_clean hn)) he

theorem vecDeferred_traps {iop : Int → Int → Int → Int} {fop : FFmt → RMode → Nat → Nat → Nat → Nat × Flags}
    (ht : tyIsInt f.ty = false) (h : Ready s g uses deferred) (hb : body s = vecDeferred f iop fop s) {fl : BitVec 5}
    (hf : FlagsOf (vMask (curSlot s) f) (512 / tyBits f.ty) (fun j => fop (fmtOf f.ty) (rmOf (curSlot s) f.sub) (vA (curSlot s) f j)
      (vB (curSlot s) f j) (elemOf (tyBits f.ty) (vGet (curSlot s) f.c) j)) fl)
    (he : fl &&& (curSlot s).csr.fena ≠ 0) : TakesFp s (issue g uses deferred body s) fl := by
  rw [← vecVal_float _ iop false fop ht] at hf
  have hi := ieee_eq_of_flags hf (mapActive_writes _ _ f.zm (vGet (curSlot s) f.d) _).2
  rw [← hi] at he ⊢
  exact deferFl_traps h (hb.trans (vecDeferred_float ht)) he

theorem idAdd_float {t : Ty} (h : tyIsInt t = false) : idAdd t = signBit (fmtOf t) true := by rw [idAdd, h]; rfl
theorem idMin_float {t : Ty} (h : tyIsInt t = false) : idMin t = infPat (fmtOf t) false := by rw [idMin, h]; rfl
theorem idMax_float {t : Ty} (h : tyIsInt t = false) : idMax t = infPat (fmtOf t) true := by rw [idMax, h]; rfl

theorem reduce_traps {op : Nat → Nat → Nat × Flags} {ident ident' : Nat} (h : Ready s g uses deferred)
    (hb : body s = reduceBody f op ident s) (hi : ident = ident')
    (he : ieee (treeFold op (Nat.log2 (512 / tyBits f.ty)) (redLanes (curSlot s) f ident') 0).2 &&& (curSlot s).csr.fena ≠ 0) :
    TakesFp s (issue g uses deferred body s)
      (ieee (treeFold op (Nat.log2 (512 / tyBits f.ty)) (redLanes (curSlot s) f ident') 0).2) := by
  subst hi
  exact finishFl_traps h hb he

theorem vscan_traps {ident : Nat} {l : List Nat} (h : Ready s g uses deferred) (h0 : 0 < 512 / tyBits f.ty)
    (hi : idAdd f.ty = ident) (hl : redLanes (curSlot s) f ident = l)
    (he : ieee (scanFold (redAdd (curSlot s) f) (l.headD 0) l.tail 0).2 &&& (curSlot s).csr.fena ≠ 0) :
    TakesFp s (issue g uses deferred (vscanBody f) s) (ieee (scanFold (redAdd (curSlot s) f) (l.headD 0) l.tail 0).2) := by
  subst hi hl
  exact finishFl_traps h (vscanBody_eq h0) he

theorem conv_traps {op : Nat → Nat × Flags} (h : Ready s g uses deferred)
    (hb : body s =
      let v := convElems (tyBits (convSrc f)) (tyBits f.ty) (convPart f) (vMask (curSlot s) f) f.zm (vGet (curSlot s) f.d)
        (vGet (curSlot s) f.a) op
      writeV f v.2 s v.1)
    (hw : convPart f * (512 / max (tyBits (convSrc f)) (tyBits f.ty)) + 512 / max (tyBits (convSrc f)) (tyBits f.ty) ≤
      512 / tyBits f.ty ∨ tyBits f.ty = max (tyBits (convSrc f)) (tyBits f.ty)) {fl : BitVec 5}
    (hf : FlagsOf (vMask (curSlot s) f) (512 / max (tyBits (convSrc f)) (tyBits f.ty)) (fun j =>
      op (elemOf (tyBits (convSrc f)) (vGet (curSlot s) f.a)
        ((if tyBits (convSrc f) < tyBits f.ty then convPart f * (512 / max (tyBits (convSrc f)) (tyBits f.ty)) else 0) + j))) fl)
    (he : fl &&& (curSlot s).csr.fena ≠ 0) : TakesFp s (issue g uses deferred body s) fl := by
  have hi := ieee_eq_of_flags hf fun q _ => convElems_flags (zm := f.zm) (old := vGet (curSlot s) f.d) hw q
  rw [← hi] at he ⊢
  exact finishFl_traps h hb he

theorem vcmp_traps (ht : tyIsInt f.ty = false) (h : Ready s g uses deferred) {fl : BitVec 5}
    (hf : FlagsOf (vMask (curSlot s) f) (512 / tyBits f.ty) (fun j => (0, (fpCmp (fmtOf f.ty) f.sub.toNat (vA (curSlot s) f j)
      (vB (curSlot s) f j)).2)) fl)
    (he : fl &&& (curSlot s).csr.fena ≠ 0) : TakesFp s (issue g uses deferred (vcmpBody f) s) fl := by
  have hi := ieee_eq_of_flags hf fun q _ => foldl_active_getLsbD (vMask (curSlot s) f) (512 / tyBits f.ty)
    (fun j => (fpCmp (fmtOf f.ty) f.sub.toNat (vA (curSlot s) f j) (vB (curSlot s) f j)).2) q
  rw [← hi] at he ⊢
  obtain ⟨wr, hb⟩ := vcmpBody_float (s := s) ht
  exact finishFl_traps h hb he

end

end Sys2Proof.Machine

namespace Sys2Proof

open Sys2Proof.Machine

/-- Settles O10: scalar instructions by the flags of their result, vector ones by those of their active elements. -/
theorem enabledFlagsTrap : Obligations.EnabledFlagsTrap := by
  refine ⟨fun s g f => ⟨fun h hn => ?_, fun h => ?_, fun h => ?_, fun h => ?_⟩,
    fun s g f hn => ⟨fun ht => ⟨fun h => ?_, fun h => ?_, fun h => ?_, fun h => ?_, fun h => ?_, fun h => ?_, fun h h0 => ?_⟩,
      fun h => ?_, fun h => ⟨fun hr => ?_, fun hr => ?_⟩⟩⟩
  · exact ⟨finishFl_traps h rfl, finishFl_traps h rfl, finishFl_traps h (fpArithChecked_clean hn),
      finishFl_traps h (fpArithChecked_clean hn), finishFl_traps h rfl, finishFl_traps h rfl⟩
  · exact ⟨deferFl_traps h rfl, deferFl_traps h rfl, deferFl_traps h rfl, deferFl_traps h rfl, deferFl_traps h rfl,
      deferFl_traps h rfl⟩
  · exact ⟨finishFl_traps h rfl, finishFl_traps h rfl, finishFl_traps h rfl⟩
  · exact finishFl_traps h rfl
  · exact ⟨fun _ hf => vecArith_traps hn ht h rfl hf, fun _ hf => vecArith_traps hn ht h rfl hf,
      fun _ hf => vecArith_traps hn ht h rfl hf, fun _ hf => vecArith_traps hn ht h rfl hf,
      fun _ hf => vecArith_traps hn ht h rfl hf⟩
  · exact fun _ hf => vecArith_traps hn ht h rfl hf
  · exact fun _ hf => vecDeferred_traps ht h rfl hf
  · exact ⟨fun _ hf => vecDeferred_traps ht h rfl hf, fun _ hf => vecDeferred_traps ht h rfl hf,
      fun _ hf => vecDeferred_traps ht h rfl hf, fun _ hf => vecDeferred_traps ht h rfl hf,
      fun _ hf => vecDeferred_traps ht h rfl hf⟩
  · exact fun _ => vcmp_traps ht h
  · exact ⟨reduce_traps (body := fun s => reduceBody f (redAdd (curSlot s) f) (idAdd f.ty) s) h rfl (idAdd_float ht),
      reduce_traps h rfl (idMin_float ht), reduce_traps h rfl (idMax_float ht)⟩
  · exact vscan_traps h h0 (idAdd_float ht) rfl
  · exact fun hw _ => conv_traps h rfl hw
  · exact fun hw _ => conv_traps (body := vquantBody f) h (if_neg (Bool.eq_false_iff.mp hr)) hw
  · exact fun hw _ => conv_traps (body := vdeqBody f) h (if_neg (Bool.eq_false_iff.mp hr)) hw

end Sys2Proof
end

section
/-!
PROOFS. The one rounding (O8; R54, R55, R62): a magnitude as a real number, and its rounding to an integer and among rising
magnitudes. The statements compare magnitudes in units of 2^u; here each comparison is one with a real number.
-/

namespace Sys2Proof.Machine

/-! ### Magnitudes as real numbers -/

/-- `cmp` compares twice the magnitude `v` with integers. -/
def Compares (cmp : Nat → Ordering) (v : ℝ) : Prop :=
  ∀ k : Nat, (cmp k = .lt ↔ 2 * v < k) ∧ (cmp k = .gt ↔ (k : ℝ) < 2 * v)

theorem Compares.eq_iff {cmp : Nat → Ordering} {v : ℝ} (h : Compares cmp v) (k : Nat) : cmp k = .eq ↔ 2 * v = k := by
  obtain ⟨hl, hg⟩ := h k
  rcases lt_trichotomy (2 * v) k with hv | hv | hv
  · simp [hl.mpr hv, hv.ne]
  · cases hc : cmp k with
    | lt => exact absurd hv (hl.mp hc).ne
    | gt => exact absurd hv (hg.mp hc).ne'
    | eq => simp [hv]
  · simp [hg.mpr hv, hv.ne']

/-- The magnitude m × 2^e, or one that lies above it by less than 2^e when `st`. -/
def Denotes (m : Nat) (e : Int) (st : Bool) (x : ℝ) : Prop :=
  if st then (m : ℝ) * 2 ^ e < x ∧ x < (m + 1) * 2 ^ e else x = m * 2 ^ e

/-- `r` is the integer that the magnitude `w` rounds to (R55). -/
def RoundsReal (rm : RMode) (neg : Bool) (w : ℝ) (r : Nat) : Prop :=
  match roundDir rm neg with
  | some false => (r : ℝ) ≤ w ∧ w < r + 1
  | some true => w ≤ r ∧ (r : ℝ) - 1 < w
  | none => 2 * w ≤ 2 * r + 1 ∧ 2 * (r : ℝ) - 1 ≤ 2 * w ∧ (2 * w = 2 * r + 1 ∨ 2 * w = 2 * r - 1 → r % 2 = 0)

theorem roundDir_cases (rm : RMode) (neg : Bool) :
    roundDir rm neg = none ∨ roundDir rm neg = some false ∨ roundDir rm neg = some true := by
  cases rm <;> cases neg <;> decide

theorem RoundsReal.near {rm : RMode} {neg : Bool} {w : ℝ} {r : Nat} (h : RoundsReal rm neg w r) :
    (r : ℝ) - 1 < w ∧ w < r + 1 := by
  unfold RoundsReal at h
  split at h
  · exact ⟨by linarith, h.2⟩
  · exact ⟨h.2, by linarith⟩
  · exact ⟨by linarith, by linarith⟩

theorem roundsReal_natCast (rm : RMode) (neg : Bool) (r : Nat) : RoundsReal rm neg (r : ℝ) r := by
  unfold RoundsReal
  split
  · exact ⟨le_rfl, by linarith⟩
  · exact ⟨le_rfl, by linarith⟩
  · exact ⟨by linarith, by linarith, by rintro (h | h) <;> linarith⟩

/-- A magnitude between `r` and `r + 1` rounds to the nearer of them, or to the even one. -/
theorem roundsReal_nearest (neg : Bool) {w : ℝ} {r cmp : Nat} (h0 : (r : ℝ) < w) (h1 : w < r + 1)
    (hc : cmp = if 2 * w < 2 * r + 1 then 0 else if 2 * w = 2 * r + 1 then 1 else 2) :
    RoundsReal .rne neg w (if cmp = 2 || (cmp = 1 && decide (r % 2 = 1)) then r + 1 else r) := by
  unfold RoundsReal
  simp only [roundDir]
  rcases lt_trichotomy (2 * w) (2 * r + 1) with h | h | h
  · rw [if_pos h] at hc
    subst hc
    simp only [Nat.reduceEqDiff, decide_false, Bool.false_and, Bool.or_false, Bool.false_eq_true, if_false]
    exact ⟨h.le, by linarith, by rintro (h' | h') <;> linarith⟩
  · rw [if_neg h.not_lt, if_pos h] at hc
    subst hc
    rcases Nat.mod_two_eq_zero_or_one r with hr | hr
    · rw [if_neg (by simp [hr])]
      exact ⟨h.le, by linarith, fun _ => hr⟩
    · rw [if_pos (by simp [hr])]
      push_cast
      exact ⟨by linarith, by linarith, fun _ => by omega⟩
  · rw [if_neg h.not_gt, if_neg h.ne'] at hc
    subst hc
    rw [if_pos (by simp)]
    push_cast
    exact ⟨by linarith, by linarith, by rintro (h' | h') <;> linarith⟩

/-- The choice of `roundsUp` between `r` and `r + 1`, where `cmp` compares the part of `w` above `r` with a half. -/
theorem roundsReal_roundsUp (rm : RMode) (neg : Bool) {w : ℝ} {r cmp : Nat} {inex : Bool} (h0 : (r : ℝ) ≤ w) (h1 : w < r + 1)
    (hi : inex = true ↔ w ≠ r) (hc : cmp = if 2 * w < 2 * r + 1 then 0 else if 2 * w = 2 * r + 1 then 1 else 2) :
    let z := if roundsUp rm neg (r % 2 = 1) cmp inex then r + 1 else r
    RoundsReal rm neg w z ∧ (inex = true ↔ w ≠ z) := by
  rcases h0.eq_or_lt with rfl | h0
  · have hf : inex = false := by simpa using hi
    rw [if_pos (by linarith)] at hc
    have hz : roundsUp rm neg (r % 2 = 1) cmp inex = false := by
      subst hf hc
      cases rm <;> rfl
    simp only [hz, Bool.false_eq_true, if_false]
    exact ⟨roundsReal_natCast .., hi⟩
  · have hin : inex = true := hi.mpr h0.ne'
    subst hin
    constructor
    · cases rm with
      | rne => exact roundsReal_nearest neg h0 h1 hc
      | rtz => exact ⟨h0.le, h1⟩
      | rup => cases neg <;> simp [RoundsReal, roundDir, roundsUp, h0, h0.le, h1, h1.le]
      | rdn => cases neg <;> simp [RoundsReal, roundDir, roundsUp, h0, h0.le, h1, h1.le]
    · split
      · push_cast
        simp [h1.ne]
      · simp [h0.ne']

/-! ### Rounding to a multiple of 2^q -/

theorem two_zpow_toNat {k : Int} (h : 0 ≤ k) : ((2 ^ k.toNat : Nat) : ℝ) = (2 : ℝ) ^ k := by
  obtain ⟨n, rfl⟩ := Int.eq_ofNat_of_zero_le h
  simp

/-- The part of a magnitude above `r` that is dropped, in units of 2^-k: the digits `d`, and something below one unit when `st`. -/
theorem dropped_vs_half {d half : Nat} {st : Bool} {d' : ℝ} (h : Denotes d 0 st d') :
    ((st || d != 0) = true ↔ d' ≠ 0) ∧ (if d < half then 0 else if d = half && !st then 1 else 2) =
      if d' < half then 0 else if d' = half then 1 else 2 := by
  cases st with
  | false =>
    have hd : d' = d := by simpa [Denotes] using h
    subst hd
    simp
  | true =>
    obtain ⟨h0, h1⟩ : (d : ℝ) < d' ∧ d' < d + 1 := by simpa [Denotes] using h
    have hpos : (0 : ℝ) < d' := lt_of_le_of_lt (Nat.cast_nonneg d) h0
    refine ⟨by simp [hpos.ne'], ?_⟩
    by_cases hd : d < half
    · have hc : (d : ℝ) + 1 ≤ half := by exact_mod_cast hd
      rw [if_pos hd, if_pos (by linarith)]
    · have hc : (half : ℝ) ≤ d := by exact_mod_cast Nat.le_of_not_lt hd
      rw [if_neg hd, if_neg (by simp), if_neg (by linarith), if_neg (by linarith)]

/-- What `roundAt` drops below 2^q: the part `w - m / 2^k` of `w`, from its digits `m % 2^k` and `st`. -/
theorem dropped_part {m k : Nat} {st : Bool} {w : ℝ} (hk : 0 < k) (h : Denotes m 0 st (w * 2 ^ k)) :
    ((m / 2 ^ k : Nat) : ℝ) ≤ w ∧ w < (m / 2 ^ k : Nat) + 1 ∧ ((st || m % 2 ^ k != 0) = true ↔ w ≠ (m / 2 ^ k : Nat)) ∧
      (if m % 2 ^ k < 2 ^ (k - 1) then 0 else if m % 2 ^ k = 2 ^ (k - 1) && !st then 1 else 2) =
        if 2 * w < 2 * (m / 2 ^ k : Nat) + 1 then 0 else if 2 * w = 2 * (m / 2 ^ k : Nat) + 1 then 1 else 2 := by
  have hm : (m : ℝ) = 2 ^ k * (m / 2 ^ k : Nat) + (m % 2 ^ k : Nat) := by exact_mod_cast (Nat.div_add_mod m (2 ^ k)).symm
  have hd : ((m % 2 ^ k : Nat) : ℝ) + 1 ≤ 2 ^ k := by exact_mod_cast Nat.mod_lt m (show 0 < 2 ^ k by positivity)
  have hhalf : (2 : ℝ) ^ k = 2 * (2 ^ (k - 1) : Nat) := by
    push_cast
    rw [← pow_succ', Nat.sub_add_cancel hk]
  have hH : (0 : ℝ) < (2 ^ (k - 1) : Nat) := by positivity
  have hd0 : (0 : ℝ) ≤ (m % 2 ^ k : Nat) := Nat.cast_nonneg _
  rw [hhalf] at hm hd h
  generalize m / 2 ^ k = r at *
  generalize m % 2 ^ k = d at *
  generalize 2 ^ (k - 1) = half at *
  obtain ⟨d', hw⟩ : ∃ d' : ℝ, w = r + d' / (2 * half) := ⟨(w - r) * (2 * half), by field_simp; ring⟩
  have hwd : w * (2 * half) = 2 * half * r + d' := by rw [hw]; field_simp
  have hdd : Denotes d 0 st d' := by
    unfold Denotes at *
    split_ifs at * <;> simp only [zpow_zero, mul_one] at * <;> [exact ⟨by linarith, by linarith⟩; linarith]
  obtain ⟨hi, hc⟩ := dropped_vs_half (half := half) hdd
  have hb : 0 ≤ d' ∧ d' < 2 * half := by
    unfold Denotes at hdd
    split_ifs at hdd <;> simp only [zpow_zero, mul_one] at hdd <;> constructor <;> linarith
  have h2w : 2 * w = 2 * r + d' / half := by rw [hw]; field_simp
  refine ⟨?_, ?_, ?_, ?_⟩
  · rw [hw]
    linarith [div_nonneg hb.1 (by linarith : 0 ≤ 2 * (half : ℝ))]
  · rw [hw, add_lt_add_iff_left, div_lt_one (by linarith)]
    exact hb.2
  · rw [hi, hw]
    simp [hH.ne']
  · simp only [hc, h2w, add_lt_add_iff_left, div_lt_one hH, add_right_inj, div_eq_one_iff_eq hH.ne']

/-- `roundAt` rounds a magnitude in units of 2^q, and says whether that changed it. -/
theorem roundAt_spec (rm : RMode) (neg : Bool) {m : Nat} {e q : Int} {st : Bool} {x : ℝ} (h : Denotes m e st x)
    (hs : st = true → e < q) :
    RoundsReal rm neg (x / 2 ^ q) (roundAt rm neg m e st q).1 ∧
      ((roundAt rm neg m e st q).2 = true ↔ x / 2 ^ q ≠ (roundAt rm neg m e st q).1) := by
  have h2 : (0 : ℝ) < 2 ^ q := by positivity
  unfold roundAt
  split
  · next hq =>
    have hst : st = false := by
      cases st
      · rfl
      · exact absurd (hs rfl) (by omega)
    subst hst
    have hw : x / 2 ^ q = ((m * 2 ^ (e - q).toNat : Nat) : ℝ) := by
      have hx : x = m * 2 ^ e := h
      rw [hx, Nat.cast_mul, two_zpow_toNat (by omega), zpow_sub₀ (by norm_num), mul_div_assoc]
    refine roundsReal_roundsUp rm neg hw.ge (by linarith) (by simp [hw]) ?_
    rw [if_pos (by linarith)]
  · next hq =>
    have hk : (q - e).toNat = q - e := by omega
    have hx : Denotes m 0 st (x / 2 ^ q * 2 ^ (q - e).toNat) := by
      have hq2 : x / 2 ^ q * 2 ^ (q - e).toNat = x / 2 ^ e := by
        rw [← zpow_natCast, hk, zpow_sub₀ (by norm_num)]
        field_simp
      have he : (0 : ℝ) < 2 ^ e := by positivity
      rw [hq2]
      unfold Denotes at *
      rw [zpow_zero, mul_one, mul_one, lt_div_iff₀ he, div_lt_iff₀ he, div_eq_iff he.ne']
      exact h
    obtain ⟨h0, h1, hi, hc⟩ := dropped_part (by omega) hx
    exact roundsReal_roundsUp rm neg h0 h1 hi hc

/-! ### Rounding among rising magnitudes -/

section
variable {mag : Nat → Nat} {rm : RMode} {neg : Bool} {cmp : Nat → Ordering} {w c : ℝ} {r p : Nat}
  (hc : Compares cmp (w * c)) (h0 : 0 < c) (hp : (mag p : ℝ) = r * c)
  (hup : (mag (p + 1) : ℝ) = (r + 1) * c ∨ w < r ∧ (mag p : ℝ) < mag (p + 1))
  (hdown : p ≠ 0 → (mag (p - 1) : ℝ) = (r - 1) * c ∨ (r : ℝ) ≤ w ∧ (mag (p - 1) : ℝ) < mag p)
include hc h0 hp

include hup in
theorem roundsDown_mag (hl : (r : ℝ) ≤ w) (hu : w < r + 1) : cmp (2 * mag p) ≠ .lt ∧ cmp (2 * mag (p + 1)) = .lt := by
  have hl' := mul_le_mul_of_nonneg_right hl h0.le
  have hu' := mul_lt_mul_of_pos_right hu h0
  rw [Ne, (hc _).1, (hc _).1]
  push_cast
  rw [hp]
  rcases hup with hup | ⟨hup, -⟩
  · rw [hup]
    exact ⟨by linarith, by linarith⟩
  · linarith

include hdown in
theorem roundsAway_mag (hu : w ≤ r) (hl : (r : ℝ) - 1 < w) :
    cmp (2 * mag p) ≠ .gt ∧ (p ≠ 0 → cmp (2 * mag (p - 1)) = .gt) := by
  have hu' := mul_le_mul_of_nonneg_right hu h0.le
  have hl' := mul_lt_mul_of_pos_right hl h0
  rw [Ne, (hc _).2, (hc _).2]
  push_cast
  rw [hp]
  refine ⟨by linarith, fun hp0 => ?_⟩
  rcases hdown hp0 with hdown | ⟨hw, hdown⟩
  · rw [hdown]
    linarith
  · have := mul_le_mul_of_nonneg_right hw h0.le
    linarith

include hup in
theorem roundsNearest_above (hu : 2 * w ≤ 2 * r + 1) :
    cmp (mag p + mag (p + 1)) ≠ .gt ∧ (cmp (mag p + mag (p + 1)) = .eq → 2 * w = 2 * r + 1) := by
  have hu' := mul_le_mul_of_nonneg_right hu h0.le
  rw [Ne, (hc _).2, hc.eq_iff]
  push_cast
  rcases hup with hup | ⟨hw, hup⟩
  · rw [hp, hup]
    exact ⟨by linarith, fun he => mul_right_cancel₀ h0.ne' (by linarith)⟩
  · have := mul_lt_mul_of_pos_right hw h0
    exact ⟨by linarith, fun he => by linarith⟩

include hdown in
theorem roundsNearest_below (hl : 2 * (r : ℝ) - 1 ≤ 2 * w) (hp0 : p ≠ 0) :
    cmp (mag (p - 1) + mag p) ≠ .lt ∧ (cmp (mag (p - 1) + mag p) = .eq → 2 * w = 2 * r - 1) := by
  have hl' := mul_le_mul_of_nonneg_right hl h0.le
  rw [Ne, (hc _).1, hc.eq_iff]
  push_cast
  rcases hdown hp0 with hdown | ⟨hw, hdown⟩
  · rw [hp, hdown]
    exact ⟨by linarith, fun he => mul_right_cancel₀ h0.ne' (by linarith)⟩
  · have := mul_le_mul_of_nonneg_right hw h0.le
    exact ⟨by linarith, fun he => by linarith⟩

include hup hdown in
/-- A pattern whose magnitude is `r` units of `c` is what `w * c` rounds to, when `w` rounds to `r` and the magnitudes next to it are
one unit away, or lie on the side of it away from `w`. -/
theorem roundsTo_of_real (h : RoundsReal rm neg w r) (hpar : p % 2 = r % 2) : RoundsTo mag rm neg cmp p := by
  rcases roundDir_cases rm neg with hd | hd | hd <;> rw [RoundsReal, hd] at h <;> rw [RoundsTo, hd]
  case inr.inl => exact roundsDown_mag hc h0 hp hup h.1 h.2
  case inr.inr => exact roundsAway_mag hc h0 hp hdown h.1 h.2
  case inl =>
    obtain ⟨hu, hl, heven⟩ := h
    obtain ⟨ha, hae⟩ := roundsNearest_above hc h0 hp hup hu
    refine ⟨ha, fun hp0 => (roundsNearest_below hc h0 hp hdown hl hp0).1, fun he => ?_⟩
    rw [hpar]
    rcases he with he | ⟨hp0, he⟩
    · exact heven (.inl (hae he))
    · exact heven (.inr ((roundsNearest_below hc h0 hp hdown hl hp0).2 he))

end

/-- Rounding to an integer, as the statements say it, in units of which `c` make one. -/
theorem roundsTo_integer {rm : RMode} {neg : Bool} {cmp : Nat → Ordering} {w : ℝ} {c r : Nat} (hc : Compares cmp (w * c))
    (h0 : 0 < c) (h : RoundsReal rm neg w r) : RoundsTo (fun p => p * c) rm neg cmp r := by
  refine roundsTo_of_real hc (by exact_mod_cast h0) (by push_cast; rfl) (.inl (by push_cast; rfl)) (fun hr => .inl ?_) h rfl
  rw [Nat.cast_mul, Nat.cast_sub (by omega), Nat.cast_one]

end Sys2Proof.Machine
end

section
/-!
PROOFS. The patterns of a format (O8; R53-R55, R61, R62): their magnitudes in rising order, the largest finite one, and what
`fpRound` answers.
-/

namespace Sys2Proof.Machine

/-! ### The patterns of a binade -/

/-- The pattern without its sign of `r` units of the last place, in the binade `j` above the subnormals' unit. -/
def patOf (f : FFmt) (j r : Nat) : Nat := if r < 2 ^ f.fb then r else (j + 1) * 2 ^ f.fb + (r - 2 ^ f.fb)

/-- `r` units of the last place can stand in binade `j`: it has the format's precision, or `j` is the lowest. -/
def InBinade (f : FFmt) (j r : Nat) : Prop := r ≤ 2 ^ (f.fb + 1) ∧ (j ≠ 0 → 2 ^ f.fb ≤ r)

theorem patOf_lowest (f : FFmt) (r : Nat) : patOf f 0 r = r := by
  unfold patOf
  split <;> omega

theorem patOf_normal {f : FFmt} {j r : Nat} (h : 2 ^ f.fb ≤ r) : patOf f j r = (j + 1) * 2 ^ f.fb + (r - 2 ^ f.fb) :=
  if_neg (by omega)

theorem patOf_succ {f : FFmt} {j r : Nat} (h : InBinade f j r) : patOf f j r + 1 = patOf f j (r + 1) := by
  obtain ⟨-, hn⟩ := h
  by_cases hj : j = 0
  · subst hj
    simp only [patOf_lowest]
  · have := hn hj
    rw [patOf_normal this, patOf_normal (by omega)]
    omega

theorem patOf_parity {f : FFmt} (hf : 1 ≤ f.fb) (j r : Nat) : patOf f j r % 2 = r % 2 := by
  obtain ⟨k, hk⟩ : ∃ k, 2 ^ f.fb = 2 * k := ⟨2 ^ (f.fb - 1), by rw [← Nat.pow_succ', Nat.succ_eq_add_one, Nat.sub_add_cancel hf]⟩
  unfold patOf
  rw [hk]
  split
  · rfl
  · rw [show (j + 1) * (2 * k) = 2 * ((j + 1) * k) by ring]
    omega

/-- The magnitude of a normal pattern, by its exponent and fraction. -/
theorem fpMag_normal {f : FFmt} {u : Int} (hu : u < qMin f) {j d : Nat} (h : d < 2 ^ f.fb) :
    fpMag f u ((j + 1) * 2 ^ f.fb + d) = (2 ^ f.fb + d) * 2 ^ ((qMin f - u).toNat + j) := by
  have hq : ((j + 1) * 2 ^ f.fb + d) / 2 ^ f.fb = j + 1 := by
    rw [Nat.mul_comm, Nat.mul_add_div (by positivity), Nat.div_eq_of_lt h, Nat.add_zero]
  have hr : ((j + 1) * 2 ^ f.fb + d) % 2 ^ f.fb = d := by
    rw [Nat.mul_comm, Nat.mul_add_mod, Nat.mod_eq_of_lt h]
  have he : (qMin f + ((j + 1 : Nat) : Int) - 1 - u).toNat = (qMin f - u).toNat + j := by omega
  rw [fpMag, if_neg (by rw [Nat.add_one_mul]; omega), hq, hr, he]

/-- The magnitude of a pattern of binade `j`: its last place is worth 2^j of the subnormals' unit. -/
theorem fpMag_patOf {f : FFmt} {u : Int} (hu : u < qMin f) {j r : Nat} (h : InBinade f j r) :
    fpMag f u (patOf f j r) = r * 2 ^ ((qMin f - u).toNat + j) := by
  obtain ⟨hr, hn⟩ := h
  have hp : 2 ^ (f.fb + 1) = 2 ^ f.fb + 2 ^ f.fb := by rw [Nat.pow_succ]; ring
  have h0 : 0 < 2 ^ f.fb := by positivity
  rcases Nat.lt_or_ge r (2 ^ f.fb) with hs | hs
  · have hj : j = 0 := by
      by_contra hj
      exact absurd (hn hj) (by omega)
    subst hj
    rw [patOf_lowest, fpMag, if_pos hs, Nat.add_zero]
  obtain ⟨d, rfl⟩ := Nat.exists_eq_add_of_le hs
  rw [patOf_normal hs, Nat.add_sub_cancel_left]
  rcases Nat.lt_or_ge d (2 ^ f.fb) with hd | hd
  · exact fpMag_normal hu hd
  · have hd : d = 2 ^ f.fb := by omega
    rw [hd, ← Nat.add_one_mul, ← Nat.add_zero ((j + 1 + 1) * 2 ^ f.fb), fpMag_normal hu h0]
    ring

/-- The pattern below the least one of a binade has a smaller magnitude. -/
theorem fpMag_below_binade {f : FFmt} {u : Int} (hu : u < qMin f) {j : Nat} (hj : j ≠ 0) :
    fpMag f u (patOf f j (2 ^ f.fb) - 1) < fpMag f u (patOf f j (2 ^ f.fb)) := by
  obtain ⟨i, rfl⟩ := Nat.exists_eq_succ_of_ne_zero hj
  have h0 : 0 < 2 ^ f.fb := by positivity
  have hp : patOf f (i + 1) (2 ^ f.fb) - 1 = (i + 1) * 2 ^ f.fb + (2 ^ f.fb - 1) := by
    rw [patOf_normal le_rfl, Nat.add_one_mul (i + 1)]
    omega
  have hb : InBinade f (i + 1) (2 ^ f.fb) := ⟨Nat.pow_le_pow_right (by norm_num) (by omega), fun _ => le_rfl⟩
  rw [Nat.succ_eq_add_one, hp, fpMag_normal hu (by omega), fpMag_patOf hu hb, ← Nat.add_assoc, Nat.pow_succ, Nat.mul_comm _ 2,
    ← Nat.mul_assoc]
  exact Nat.mul_lt_mul_of_pos_right (by omega) (by positivity)

/-- The pattern above the greatest one of a binade has a greater magnitude. -/
theorem fpMag_above_binade {f : FFmt} {u : Int} (hu : u < qMin f) (hf : 1 ≤ f.fb) (j : Nat) :
    fpMag f u (patOf f j (2 ^ (f.fb + 1))) < fpMag f u (patOf f j (2 ^ (f.fb + 1)) + 1) := by
  have h1 : 1 < 2 ^ f.fb := Nat.one_lt_two_pow (by omega)
  have hp : 2 ^ (f.fb + 1) = 2 ^ f.fb + 2 ^ f.fb := by rw [Nat.pow_succ]; ring
  have hs : patOf f j (2 ^ (f.fb + 1)) + 1 = (j + 1 + 1) * 2 ^ f.fb + 1 := by
    rw [patOf_normal (by omega), Nat.add_one_mul (j + 1)]
    omega
  have hb : InBinade f j (2 ^ (f.fb + 1)) := ⟨le_rfl, fun _ => by omega⟩
  rw [hs, fpMag_normal hu h1, fpMag_patOf hu hb, ← Nat.add_assoc, Nat.pow_succ 2 (_ + j), Nat.mul_comm _ 2, ← Nat.mul_assoc]
  exact Nat.mul_lt_mul_of_pos_right (by omega) (by positivity)

/-- A magnitude rounded to units of the last place of its binade is rounded to a pattern (R55). -/
theorem roundsTo_patOf {f : FFmt} {u : Int} (hu : u < qMin f) (hf : 1 ≤ f.fb) {rm : RMode} {neg : Bool} {cmp : Nat → Ordering}
    {w : ℝ} {j r : Nat} (hc : Compares cmp (w * (2 ^ ((qMin f - u).toNat + j) : Nat))) (h : RoundsReal rm neg w r)
    (hw : w < 2 ^ (f.fb + 1)) (hj : j ≠ 0 → (2 : ℝ) ^ f.fb ≤ w) (hr : InBinade f j r) :
    RoundsTo (fpMag f u) rm neg cmp (patOf f j r) := by
  refine roundsTo_of_real hc (by positivity) (by rw [fpMag_patOf hu hr]; push_cast; rfl) ?_ (fun h0 => ?_) h (patOf_parity hf j r)
  · rcases Nat.lt_or_ge r (2 ^ (f.fb + 1)) with hlt | hge
    · left
      rw [patOf_succ hr, fpMag_patOf hu ⟨hlt, fun h => (hr.2 h).trans (Nat.le_succ r)⟩]
      push_cast
      rfl
    · obtain rfl : r = 2 ^ (f.fb + 1) := le_antisymm hr.1 hge
      exact .inr ⟨by exact_mod_cast hw, by exact_mod_cast fpMag_above_binade hu hf j⟩
  · by_cases hl : j ≠ 0 ∧ r = 2 ^ f.fb
    · obtain ⟨hj0, rfl⟩ := hl
      exact .inr ⟨by exact_mod_cast hj hj0, by exact_mod_cast fpMag_below_binade hu hj0⟩
    · have hr0 : r ≠ 0 := by
        rintro rfl
        by_cases hj0 : j = 0
        · exact h0 (by rw [hj0, patOf_lowest])
        · have := hr.2 hj0
          have : 0 < 2 ^ f.fb := by positivity
          omega
      have hb : InBinade f j (r - 1) := ⟨(Nat.sub_le r 1).trans hr.1, fun hj0 => by have := hr.2 hj0; omega⟩
      left
      rw [show patOf f j r - 1 = patOf f j (r - 1) by rw [← Nat.sub_add_cancel (Nat.pos_of_ne_zero hr0), ← patOf_succ hb]; simp,
        fpMag_patOf hu hb, Nat.cast_mul, Nat.cast_sub (Nat.pos_of_ne_zero hr0), Nat.cast_one]

/-! ### The largest finite pattern -/

/-- The exponent of the last place of the largest finite numbers, and their greatest significand. -/
def maxQ (f : FFmt) : Int := if f.e4 then (f.bias : Int) + 1 - f.fb else (f.bias : Int) - f.fb
def maxM (f : FFmt) : Nat := if f.e4 then 2 ^ (f.fb + 1) - 2 else 2 ^ (f.fb + 1) - 1

/-- What the rounding needs of a format's parameters (R53, R61). -/
structure FmtOk (f : FFmt) : Prop where
  fb_pos : 1 ≤ f.fb
  qMin_lt : qMin f < maxQ f
  maxPat_eq : maxPat f false = patOf f (maxQ f - qMin f).toNat (maxM f)
  nan_eq : f.e4 = true → canonNaN f = 0x7F

theorem fmtOf_ok (t : Ty) : FmtOk (fmtOf t) := by
  cases t <;> exact ⟨by decide, by decide, by decide, by decide⟩

theorem maxM_bounds {f : FFmt} (hf : 1 ≤ f.fb) : 2 ^ f.fb ≤ maxM f ∧ maxM f < 2 ^ (f.fb + 1) := by
  have h1 : 1 < 2 ^ f.fb := Nat.one_lt_two_pow (by omega)
  have hp : 2 ^ (f.fb + 1) = 2 ^ f.fb + 2 ^ f.fb := by rw [Nat.pow_succ]; ring
  unfold maxM
  split <;> omega

/-- The patterns beyond the largest finite one, by binade and significand. -/
theorem maxPat_lt_iff {f : FFmt} (ok : FmtOk f) {q : Int} (hq : qMin f ≤ q) {r : Nat} (h : InBinade f (q - qMin f).toNat r) :
    maxPat f false < patOf f (q - qMin f).toNat r ↔ maxQ f < q ∨ q = maxQ f ∧ maxM f < r := by
  obtain ⟨hm, hm'⟩ := maxM_bounds ok.fb_pos
  have hlt := ok.qMin_lt
  have hp : 2 ^ (f.fb + 1) = 2 ^ f.fb + 2 ^ f.fb := by rw [Nat.pow_succ]; ring
  obtain ⟨j, hj⟩ : ∃ j : Nat, (q - qMin f).toNat = j := ⟨_, rfl⟩
  obtain ⟨k, hk⟩ : ∃ k : Nat, (maxQ f - qMin f).toNat = k := ⟨_, rfl⟩
  rw [ok.maxPat_eq, patOf_normal hm, hj, hk]
  rw [hj] at h
  obtain ⟨hr, hn⟩ := h
  rcases lt_trichotomy j k with hjk | rfl | hjk
  · have hle : (j + 1 + 1) * 2 ^ f.fb ≤ (k + 1) * 2 ^ f.fb := Nat.mul_le_mul_right _ (by omega)
    have hpat : patOf f j r ≤ (j + 1 + 1) * 2 ^ f.fb := by
      rw [Nat.add_one_mul (j + 1)]
      unfold patOf
      split <;> omega
    exact iff_of_false (by omega) (by omega)
  · rw [patOf_normal (hn (by omega))]
    have := hn (by omega)
    omega
  · have hle : (k + 1 + 1) * 2 ^ f.fb ≤ (j + 1) * 2 ^ f.fb := Nat.mul_le_mul_right _ (by omega)
    rw [Nat.add_one_mul (k + 1)] at hle
    rw [patOf_normal (hn (by omega))]
    exact iff_of_true (by omega) (by omega)

/-! ### Tininess after rounding (R54) -/

/-- The magnitude `x` rounds, with the format's precision and any exponent, to less than the least normal number. -/
def TinyReal (f : FFmt) (rm : RMode) (neg : Bool) (x : ℝ) : Prop :=
  let least : ℝ := 2 ^ (qMin f + f.fb)
  let below : ℝ := (2 ^ (f.fb + 1) - 1) * 2 ^ (qMin f - 1)
  match roundDir rm neg with
  | some false => x < least
  | some true => x ≤ below
  | none => 2 * x < below + least

/-- Tininess as the statements compare it. -/
theorem tinyReal_iff {f : FFmt} {u : Int} (hu : u < qMin f) {rm : RMode} {neg : Bool} {cmp : Nat → Ordering} {x : ℝ}
    (hc : Compares cmp (x / 2 ^ u)) :
    (let least := fpMag f u (2 ^ f.fb)
     let below := (2 ^ (f.fb + 1) - 1) * 2 ^ (qMin f - 1 - u).toNat
     match roundDir rm neg with
     | some false => cmp (2 * least) = .lt
     | some true => cmp (2 * below) ≠ .gt
     | none => cmp (below + least) = .lt) ↔ TinyReal f rm neg x := by
  have h2 : (0 : ℝ) < 2 ^ u := by positivity
  have hl : (fpMag f u (2 ^ f.fb) : ℝ) = 2 ^ (qMin f + f.fb) / 2 ^ u := by
    have := fpMag_patOf hu (f := f) (j := 0) (r := 2 ^ f.fb) ⟨Nat.pow_le_pow_right (by norm_num) (by omega), fun _ => le_rfl⟩
    rw [patOf_lowest, Nat.add_zero] at this
    rw [this, Nat.cast_mul, two_zpow_toNat (by omega), zpow_sub₀ (by norm_num), zpow_add₀ (by norm_num)]
    push_cast
    rw [zpow_natCast]
    ring
  have hb : (((2 ^ (f.fb + 1) - 1) * 2 ^ (qMin f - 1 - u).toNat : Nat) : ℝ) =
      (2 ^ (f.fb + 1) - 1) * 2 ^ (qMin f - 1) / 2 ^ u := by
    rw [Nat.cast_mul, two_zpow_toNat (by omega), zpow_sub₀ (by norm_num), Nat.cast_sub Nat.one_le_two_pow]
    push_cast
    ring
  rcases roundDir_cases rm neg with hd | hd | hd <;> rw [TinyReal, hd] <;> dsimp only
  case inl => rw [(hc _).1, Nat.cast_add, hl, hb, ← add_div, ← mul_div_assoc, div_lt_div_iff_of_pos_right h2]
  case inr.inl =>
    rw [(hc _).1, Nat.cast_mul, hl, Nat.cast_two, mul_lt_mul_iff_right₀ (by norm_num), div_lt_div_iff_of_pos_right h2]
  case inr.inr =>
    rw [Ne, (hc _).2, not_lt, Nat.cast_mul, hb, Nat.cast_two, mul_le_mul_iff_right₀ (by norm_num), div_le_div_iff_of_pos_right h2]

/-- A magnitude that is not below the least normal number is not tiny. -/
theorem not_tinyReal {f : FFmt} {rm : RMode} {neg : Bool} {x : ℝ} (h : 2 ^ (qMin f + f.fb) ≤ x) : ¬ TinyReal f rm neg x := by
  have hb : ((2 : ℝ) ^ (f.fb + 1) - 1) * 2 ^ (qMin f - 1) < 2 ^ (qMin f + f.fb) := by
    rw [show qMin f + f.fb = ((f.fb + 1 : Nat) : Int) + (qMin f - 1) by push_cast; ring, zpow_add₀ (by norm_num), zpow_natCast]
    exact mul_lt_mul_of_pos_right (by linarith) (by positivity)
  unfold TinyReal
  dsimp only
  split <;> intro ht <;> linarith

/-- Tininess of `w` units of 2^q, where 2^q is 1 + d binades below the subnormals' unit. -/
theorem tinyReal_units {f : FFmt} {rm : RMode} {neg : Bool} {w : ℝ} {q : Int} {d : Nat} (hd : qMin f = q + 1 + d) :
    TinyReal f rm neg (w * 2 ^ q) ↔ match roundDir rm neg with
      | some false => w < 2 ^ (f.fb + 1) * 2 ^ d
      | some true => w ≤ (2 ^ (f.fb + 1) - 1) * 2 ^ d
      | none => 2 * w < (2 ^ (f.fb + 1) - 1) * 2 ^ d + 2 ^ (f.fb + 1) * 2 ^ d := by
  have h2 : (0 : ℝ) < 2 ^ q := by positivity
  have e1 : (2 : ℝ) ^ (qMin f + f.fb) = 2 ^ (f.fb + 1) * 2 ^ d * 2 ^ q := by
    rw [hd, show q + 1 + d + f.fb = ((f.fb + 1 : Nat) : Int) + (d : Nat) + q by push_cast; ring, zpow_add₀ (by norm_num),
      zpow_add₀ (by norm_num), zpow_natCast, zpow_natCast]
  have e2 : (2 : ℝ) ^ (qMin f - 1) = 2 ^ d * 2 ^ q := by
    rw [hd, show q + 1 + d - 1 = (d : Int) + q by ring, zpow_add₀ (by norm_num), zpow_natCast]
  rcases roundDir_cases rm neg with hd | hd | hd <;> rw [TinyReal, hd] <;> dsimp only <;>
    simp only [e1, e2, ← mul_assoc, ← add_mul, mul_lt_mul_iff_left₀ h2, mul_le_mul_iff_left₀ h2]

/-- A magnitude of the binade below the least normal number is tiny when it rounds to a number of that binade. -/
theorem tiny_top_binade {rm : RMode} {neg : Bool} {w : ℝ} {r n : Nat} (h : RoundsReal rm neg w r) (hn : n % 2 = 0) (hh : w < n) :
    r < n ↔ match roundDir rm neg with
      | some false => w < n
      | some true => w ≤ n - 1
      | none => 2 * w < n - 1 + n := by
  rcases roundDir_cases rm neg with hd | hd | hd <;> rw [RoundsReal, hd] at h <;> rw [hd]
  case inr.inl => exact iff_of_true (by exact_mod_cast lt_of_le_of_lt h.1 hh) hh
  case inr.inr =>
    obtain ⟨hu, hl⟩ := h
    constructor
    · intro hr
      have : (r : ℝ) + 1 ≤ n := by exact_mod_cast hr
      show w ≤ n - 1
      linarith
    · intro (hw : w ≤ n - 1)
      exact_mod_cast (show (r : ℝ) < n by linarith)
  case inl =>
    obtain ⟨hu, hl, heven⟩ := h
    constructor
    · intro hr
      have hr1 : (r : ℝ) + 1 ≤ n := by exact_mod_cast hr
      have hne : 2 * w ≠ n - 1 + n := by
        intro he
        have hrn : r + 1 = n := by exact_mod_cast (show (r : ℝ) + 1 = n by linarith)
        have := heven (.inl (by linarith))
        omega
      exact lt_of_le_of_ne (by linarith) hne
    · intro (hw : 2 * w < n - 1 + n)
      exact_mod_cast (show (r : ℝ) < n by linarith)

/-- Tininess as `fpRound` finds it: by the rounding to the unit 2^q that the format's precision gives `x`. -/
theorem tinyReal_rounded {f : FFmt} {rm : RMode} {neg : Bool} {x : ℝ} {q : Int} {r : Nat} (h : RoundsReal rm neg (x / 2 ^ q) r)
    (hl : (2 : ℝ) ^ f.fb ≤ x / 2 ^ q) (hh : x / 2 ^ q < 2 ^ (f.fb + 1)) :
    q < qMin f ∧ r < 2 ^ (qMin f + f.fb - q).toNat ↔ TinyReal f rm neg x := by
  have h2 : (0 : ℝ) < 2 ^ q := by positivity
  obtain ⟨w, hw⟩ : ∃ w, x / 2 ^ q = w := ⟨_, rfl⟩
  obtain rfl : x = w * 2 ^ q := by rw [← hw]; field_simp
  rw [hw] at h hl hh
  by_cases hq : q < qMin f
  · obtain ⟨d, hd⟩ : ∃ d : Nat, qMin f = q + 1 + d := ⟨(qMin f - q - 1).toNat, by omega⟩
    rw [and_iff_right hq, show (qMin f + f.fb - q).toNat = f.fb + 1 + d by omega, tinyReal_units hd]
    rcases Nat.eq_zero_or_pos d with rfl | hd0
    · have ht := tiny_top_binade (n := 2 ^ (f.fb + 1)) h (by rw [Nat.pow_succ']; exact Nat.mul_mod_right ..) (by exact_mod_cast hh)
      simpa using ht
    · have hd2 : (2 : ℝ) ≤ 2 ^ d := by exact_mod_cast Nat.pow_le_pow_right (show 0 < 2 by norm_num) hd0
      have hn2 : (2 : ℝ) ≤ 2 ^ (f.fb + 1) := by exact_mod_cast Nat.pow_le_pow_right (show 0 < 2 by norm_num) (Nat.succ_pos f.fb)
      have hr : r < 2 ^ (f.fb + 1 + d) := by
        have hnear := h.near
        exact_mod_cast (show (r : ℝ) < 2 ^ (f.fb + 1 + d) by rw [pow_add]; nlinarith)
      refine iff_of_true hr ?_
      split <;> nlinarith
  · refine iff_of_false (fun h => hq h.1) (not_tinyReal ?_)
    rw [add_comm, zpow_add₀ (by norm_num), zpow_natCast]
    have : (2 : ℝ) ^ qMin f ≤ 2 ^ q := zpow_le_zpow_right₀ (by norm_num) (by omega)
    exact mul_le_mul hl this (by positivity) (le_trans (by positivity) hl)

/-! ### What `fpRound` answers -/

/-- The exponent of the last place that the format's precision gives a magnitude, and that which the format has for it. -/
def precQ (f : FFmt) (m : Nat) (e : Int) : Int := e + bitLen m - 1 - f.fb
def lastQ (f : FFmt) (m : Nat) (e : Int) : Int := max (precQ f m e) (qMin f)

theorem fpRound_eq {f : FFmt} {rm : RMode} {sat neg : Bool} {m : Nat} {e : Int} {st : Bool} (hm : m ≠ 0) :
    let q := lastQ f m e
    let r := roundAt rm neg m e st q
    fpRound f rm sat neg m e st =
      if maxQ f < q ∨ q = maxQ f ∧ maxM f < r.1 then overflowPat f rm sat neg
      else (signBit f neg + patOf f (q - qMin f).toNat r.1, (if r.2 then flNX else 0) |||
        (if (precQ f m e < qMin f ∧ (roundAt rm neg m e st (precQ f m e)).1 < 2 ^ (qMin f + f.fb - precQ f m e).toNat) ∧ r.2
          then flUF else 0)) := by
  intro q r
  unfold fpRound
  rw [if_neg (by simp [hm])]
  simp only [Bool.or_eq_true, Bool.and_eq_true, decide_eq_true_eq]
  rfl

theorem bitLen_bounds {m : Nat} (hm : m ≠ 0) : 2 ^ (bitLen m - 1) ≤ m ∧ m < 2 ^ bitLen m := by
  rw [bitLen, if_neg hm]
  exact ⟨Nat.log2_self_le hm, Nat.lt_log2_self⟩

theorem bitLen_pos {m : Nat} (hm : m ≠ 0) : 0 < bitLen m := by
  rw [bitLen, if_neg hm]
  omega

/-- The leading digit of a magnitude. -/
theorem Denotes.leading {m : Nat} {e : Int} {st : Bool} {x : ℝ} (h : Denotes m e st x) (hm : m ≠ 0) :
    (2 : ℝ) ^ (e + bitLen m - 1) ≤ x ∧ x < 2 ^ (e + bitLen m) := by
  have h2 : (0 : ℝ) < 2 ^ e := by positivity
  obtain ⟨hl, hu⟩ := bitLen_bounds hm
  have hp := bitLen_pos hm
  have hlr : ((2 : ℝ) ^ (bitLen m - 1)) * 2 ^ e ≤ m * 2 ^ e := mul_le_mul_of_nonneg_right (by exact_mod_cast hl) h2.le
  have hur : ((m : ℝ) + 1) * 2 ^ e ≤ 2 ^ bitLen m * 2 ^ e := mul_le_mul_of_nonneg_right (by exact_mod_cast hu) h2.le
  have e1 : (2 : ℝ) ^ (e + bitLen m - 1) = 2 ^ (bitLen m - 1) * 2 ^ e := by
    rw [show e + bitLen m - 1 = ((bitLen m - 1 : Nat) : Int) + e by omega, zpow_add₀ (by norm_num), zpow_natCast]
  have e2 : (2 : ℝ) ^ (e + bitLen m) = 2 ^ bitLen m * 2 ^ e := by
    rw [add_comm, zpow_add₀ (by norm_num), zpow_natCast]
  rw [e1, e2]
  unfold Denotes at h
  split at h
  · exact ⟨by linarith, by linarith⟩
  · exact ⟨by linarith, by linarith⟩

/-- A rounded magnitude stands in its binade. -/
theorem inBinade_of_rounds {f : FFmt} {rm : RMode} {neg : Bool} {w : ℝ} {j r : Nat} (h : RoundsReal rm neg w r)
    (hw : w < 2 ^ (f.fb + 1)) (hj : j ≠ 0 → (2 : ℝ) ^ f.fb ≤ w) : InBinade f j r := by
  obtain ⟨h1, h2⟩ := h.near
  constructor
  · exact Nat.le_of_lt_succ (by exact_mod_cast (show (r : ℝ) < 2 ^ (f.fb + 1) + 1 by linarith))
  · intro h0
    have := hj h0
    exact Nat.le_of_lt_succ (by exact_mod_cast (show (2 : ℝ) ^ f.fb < r + 1 by linarith))

/-- What an overflow delivers, as the statements say it. -/
theorem overflowPat_eq {f : FFmt} (ok : FmtOk f) (rm : RMode) (sat neg : Bool) :
    overflowPat f rm sat neg = (if sat = true ∨ roundDir rm neg = some false then maxPat f neg
      else if f.e4 then 0x7F else infPat f neg, (if sat then flSAT else flOF) ||| flNX) := by
  have hn : (if f.e4 then canonNaN f else infPat f neg) = if f.e4 then 0x7F else infPat f neg := by
    split
    · next h => exact ok.nan_eq h
    · rfl
  unfold overflowPat
  rw [hn]
  cases sat
  · cases rm <;> cases neg <;> rfl
  · rfl

/-- In units of the last place that the precision gives it, a magnitude has that many digits. -/
theorem Denotes.prec_units {f : FFmt} {m : Nat} {e : Int} {st : Bool} {x : ℝ} (h : Denotes m e st x) (hm : m ≠ 0) :
    (2 : ℝ) ^ f.fb ≤ x / 2 ^ precQ f m e ∧ x / 2 ^ precQ f m e < 2 ^ (f.fb + 1) := by
  obtain ⟨hl, hh⟩ := h.leading hm
  rw [le_div_iff₀ (by positivity), div_lt_iff₀ (by positivity), ← zpow_natCast, ← zpow_natCast, ← zpow_add₀ (by norm_num),
    ← zpow_add₀ (by norm_num), precQ]
  constructor
  · rwa [show (f.fb : Int) + (e + bitLen m - 1 - f.fb) = e + bitLen m - 1 by ring]
  · rwa [show ((f.fb + 1 : Nat) : Int) + (e + bitLen m - 1 - f.fb) = e + bitLen m by push_cast; ring]

/-- In units of the last place that the format has for it, a magnitude has no more digits, and as many above the subnormals. -/
theorem Denotes.last_units {f : FFmt} {m : Nat} {e : Int} {st : Bool} {x : ℝ} (h : Denotes m e st x) (hm : m ≠ 0) :
    x / 2 ^ lastQ f m e < 2 ^ (f.fb + 1) ∧ ((lastQ f m e - qMin f).toNat ≠ 0 → (2 : ℝ) ^ f.fb ≤ x / 2 ^ lastQ f m e) := by
  obtain ⟨hl, hh⟩ := h.prec_units (f := f) hm
  rcases le_total (precQ f m e) (qMin f) with hq | hq
  · rw [lastQ, max_eq_right hq]
    have hx : 0 ≤ x := le_trans (by positivity) (h.leading hm).1
    refine ⟨lt_of_le_of_lt (div_le_div_of_nonneg_left hx (by positivity) (zpow_le_zpow_right₀ (by norm_num) hq)) hh, fun h0 => ?_⟩
    omega
  · rw [lastQ, max_eq_left hq]
    exact ⟨hh, fun _ => hl⟩

/-- Units of binade `q` in units of 2^u. -/
theorem binade_units {f : FFmt} {u q : Int} (hu : u < qMin f) (hq : qMin f ≤ q) (x : ℝ) :
    x / 2 ^ q * (2 ^ ((qMin f - u).toNat + (q - qMin f).toNat) : Nat) = x / 2 ^ u := by
  rw [show (qMin f - u).toNat + (q - qMin f).toNat = (q - u).toNat by omega, two_zpow_toNat (by omega), zpow_sub₀ (by norm_num)]
  field_simp

/-- `fpRound` rounds once (R54, R55, R62). -/
theorem fpRound_rounded {f : FFmt} (ok : FmtOk f) {u : Int} (hu : u < qMin f) {rm : RMode} {sat neg : Bool} {m : Nat} {e : Int}
    {st : Bool} {x : ℝ} {cmp : Nat → Ordering} (hm : m ≠ 0) (hx : Denotes m e st x) (hs : st = true → f.fb + 2 ≤ bitLen m)
    (hc : Compares cmp (x / 2 ^ u)) : Rounded f u rm sat neg cmp (fpRound f rm sat neg m e st) := by
  obtain ⟨hwq, hj⟩ := hx.last_units (f := f) hm
  obtain ⟨hpl, hph⟩ := hx.prec_units (f := f) hm
  have hmin : qMin f ≤ lastQ f m e := le_max_right ..
  have hprec : st = true → e < precQ f m e := fun h => by
    have := hs h
    unfold precQ
    omega
  obtain ⟨hr, hi⟩ := roundAt_spec rm neg (q := lastQ f m e) hx fun h => lt_of_lt_of_le (hprec h) (le_max_left ..)
  obtain ⟨hrp, -⟩ := roundAt_spec rm neg hx hprec
  have heq := fpRound_eq (f := f) (rm := rm) (sat := sat) (neg := neg) (e := e) (st := st) hm
  dsimp only at heq
  have htiny := (tinyReal_rounded hrp hpl hph).trans (tinyReal_iff hu hc).symm
  have hscale := binade_units hu hmin x
  generalize lastQ f m e = q at *
  generalize roundAt rm neg m e st q = z at *
  have hb := inBinade_of_rounds hr hwq hj
  refine ⟨patOf f (q - qMin f).toNat z.1, roundsTo_patOf hu ok.fb_pos (by rwa [hscale]) hr hwq hj hb,
    fun hover => ?_, fun hfin => ?_⟩
  · rw [maxPat_lt_iff ok hmin hb] at hover
    rw [heq, if_pos hover, overflowPat_eq ok]
    exact ⟨rfl, rfl⟩
  · rw [← not_lt, maxPat_lt_iff ok hmin hb] at hfin
    rw [heq, if_neg hfin]
    have hexact : cmp (2 * fpMag f u (patOf f (q - qMin f).toNat z.1)) = .eq ↔ ¬ z.2 = true := by
      rw [hc.eq_iff, hi, not_not, ← hscale, Nat.cast_mul, fpMag_patOf hu hb, Nat.cast_two, Nat.cast_mul,
        mul_right_inj' two_ne_zero]
      exact mul_left_inj' (by positivity)
    refine ⟨rfl, fun he => ?_, fun he ht => ?_, fun he ht => ?_⟩
    · simp [hexact.mp he]
    · have hz := not_not.mp (mt hexact.mpr he)
      rw [if_pos hz, if_pos ⟨htiny.mpr ht, hz⟩]
    · have hz := not_not.mp (mt hexact.mpr he)
      rw [if_pos hz, if_neg fun h => ht (htiny.mp h.1)]
      exact BitVec.or_zero

end Sys2Proof.Machine
end

section
/-!
PROOFS. What the floating-point operations round (O8; R55, R94, R99): quotients, square roots and their reciprocals, each by enough
digits and a sign of what is dropped.
-/

namespace Sys2Proof.Machine

/-! ### Comparisons of the statements as comparisons with real numbers -/

theorem compares_quotient {cmp : Nat → Ordering} {a b : Nat} {v : ℝ} (hb : 0 < b) (hv : 2 * v * b = a)
    (h : ∀ k, cmp k = compare a (k * b)) : Compares cmp v := by
  have hb' : (0 : ℝ) < b := by exact_mod_cast hb
  intro k
  rw [h, compare_lt_iff_lt, compare_gt_iff_gt, ← Nat.cast_lt (α := ℝ), ← Nat.cast_lt (α := ℝ), Nat.cast_mul, ← hv,
    mul_lt_mul_iff_left₀ hb', mul_lt_mul_iff_left₀ hb']
  exact ⟨Iff.rfl, Iff.rfl⟩

theorem compares_root {cmp : Nat → Ordering} {a b : Nat} {v : ℝ} (hb : 0 < b) (h0 : 0 ≤ v) (hv : (2 * v) ^ 2 * b = a)
    (h : ∀ k, cmp k = compare a (k * k * b)) : Compares cmp v := by
  have hb' : (0 : ℝ) < b := by exact_mod_cast hb
  intro k
  rw [h, compare_lt_iff_lt, compare_gt_iff_gt, ← Nat.cast_lt (α := ℝ), ← Nat.cast_lt (α := ℝ), Nat.cast_mul, ← hv,
    mul_lt_mul_iff_left₀ hb', mul_lt_mul_iff_left₀ hb', Nat.cast_mul, ← sq,
    pow_lt_pow_iff_left₀ (by linarith) (by positivity) two_ne_zero, pow_lt_pow_iff_left₀ (by positivity) (by linarith) two_ne_zero]
  exact ⟨Iff.rfl, Iff.rfl⟩

/-- The comparison of a magnitude m × 2^e in units of 2^u. -/
theorem compares_twice {u e : Int} (hu : u ≤ e) (m : Nat) :
    Compares (fun k => compare (2 * m * 2 ^ (e - u).toNat) k) (m * 2 ^ e / 2 ^ u) := by
  refine compares_quotient (b := 1) one_pos ?_ fun k => by rw [Nat.mul_one]
  rw [Nat.cast_mul, two_zpow_toNat (by omega), zpow_sub₀ (by norm_num)]
  push_cast
  ring

theorem denotes_exact (m : Nat) (e : Int) : Denotes m e false (m * 2 ^ e) := rfl

/-- A magnitude cut to an integer number of units. -/
theorem denotes_floor {m : Nat} {e : Int} {st : Bool} {y : ℝ} (h0 : (m : ℝ) ≤ y) (h1 : y < m + 1) (hs : st = false ↔ y = m) :
    Denotes m e st (y * 2 ^ e) := by
  have h2 : (0 : ℝ) < 2 ^ e := by positivity
  unfold Denotes
  cases st with
  | false => rw [hs.mp rfl]; rfl
  | true =>
    have hne : (m : ℝ) ≠ y := fun h => absurd (hs.mpr h.symm) (by decide)
    exact ⟨mul_lt_mul_of_pos_right (lt_of_le_of_ne h0 hne) h2, mul_lt_mul_of_pos_right h1 h2⟩

theorem lt_bitLen {n k : Nat} (h : 2 ^ k ≤ n) : k < bitLen n := by
  have hn : n ≠ 0 := (lt_of_lt_of_le (Nat.two_pow_pos k) h).ne'
  exact (Nat.pow_lt_pow_iff_right (by norm_num)).mp (lt_of_le_of_lt h (bitLen_bounds hn).2)

/-- A magnitude m × 2^e rounded once. -/
theorem fpRound_exact {f : FFmt} (ok : FmtOk f) {u : Int} (hu : u < qMin f) {rm : RMode} {sat neg : Bool} {m : Nat} {e : Int}
    (hm : m ≠ 0) (he : u ≤ e) :
    Rounded f u rm sat neg (fun k => compare (2 * m * 2 ^ (e - u).toNat) k) (fpRound f rm sat neg m e false) :=
  fpRound_rounded ok hu hm (denotes_exact m e) (fun h => by cases h) (compares_twice he m)

/-! ### Quotients -/

/-- An integer quotient is the cut real one, and leaves a rest when it differs. -/
theorem div_floor (a : Nat) {b : Nat} (hb : b ≠ 0) : ((a / b : Nat) : ℝ) ≤ a / b ∧ (a : ℝ) / b < (a / b : Nat) + 1 ∧
    (a % b = 0 ↔ (a : ℝ) / b = (a / b : Nat)) := by
  have hb' : (0 : ℝ) < b := by exact_mod_cast Nat.pos_of_ne_zero hb
  have hq : (a : ℝ) = b * (a / b : Nat) + (a % b : Nat) := by exact_mod_cast (Nat.div_add_mod a b).symm
  have hr : ((a % b : Nat) : ℝ) < b := by exact_mod_cast Nat.mod_lt _ (Nat.pos_of_ne_zero hb)
  have hr0 : (0 : ℝ) ≤ (a % b : Nat) := Nat.cast_nonneg _
  refine ⟨?_, ?_, ?_⟩
  · rw [le_div_iff₀ hb']; linarith
  · rw [div_lt_iff₀ hb']; linarith
  · rw [div_eq_iff hb'.ne', hq, mul_comm, add_eq_left, Nat.cast_eq_zero]

theorem fpDiv_rounded {f : FFmt} (ok : FmtOk f) {u : Int} (hlow : u < qMin f) {rm : RMode} {x y : Nat} {n1 n2 : Bool} {m1 m2 : Nat}
    {e1 e2 : Int} (hx : fpDecode f x = .fin n1 m1 e1) (hy : fpDecode f y = .fin n2 m2 e2) (h1 : m1 ≠ 0) (h2 : m2 ≠ 0)
    {cmp : Nat → Ordering} (hc : Compares cmp (m1 / m2 * 2 ^ (e1 - e2) / 2 ^ u)) :
    Rounded f u rm false (n1 != n2) cmp (fpDiv f rm x y) := by
  have hdiv : fpDiv f rm x y = fpRound f rm false (n1 != n2) (m1 * 2 ^ (f.fb + 4 + bitLen m2) / m2)
      (e1 - e2 - (f.fb + 4 + bitLen m2 : Nat)) (m1 * 2 ^ (f.fb + 4 + bitLen m2) % m2 != 0) := by
    simp only [fpDiv, hx, hy, if_neg h1, if_neg h2]
  rw [hdiv]
  obtain ⟨h, hh⟩ : ∃ h, f.fb + 4 + bitLen m2 = h := ⟨_, rfl⟩
  rw [hh]
  have hm2 : (0 : ℝ) < m2 := by exact_mod_cast Nat.pos_of_ne_zero h2
  have hbig : 2 ^ (f.fb + 4) ≤ m1 * 2 ^ h / m2 := by
    rw [Nat.le_div_iff_mul_le (Nat.pos_of_ne_zero h2)]
    calc 2 ^ (f.fb + 4) * m2 ≤ 2 ^ (f.fb + 4) * 2 ^ bitLen m2 := Nat.mul_le_mul_left _ (bitLen_bounds h2).2.le
      _ = 2 ^ h := by rw [← Nat.pow_add, hh]
      _ ≤ m1 * 2 ^ h := Nat.le_mul_of_pos_left _ (Nat.pos_of_ne_zero h1)
  have hx' : (m1 : ℝ) / m2 * 2 ^ (e1 - e2) = (m1 * 2 ^ h : Nat) / m2 * 2 ^ (e1 - e2 - (h : Nat)) := by
    rw [zpow_sub₀ (by norm_num) (e1 - e2), zpow_natCast]
    push_cast
    field_simp
  obtain ⟨hl, hu, hr⟩ := div_floor (m1 * 2 ^ h) h2
  have hne : m1 * 2 ^ h / m2 ≠ 0 := (lt_of_lt_of_le (Nat.two_pow_pos _) hbig).ne'
  have hlen : f.fb + 2 ≤ bitLen (m1 * 2 ^ h / m2) := by have := lt_bitLen hbig; omega
  have hd : Denotes (m1 * 2 ^ h / m2) (e1 - e2 - (h : Nat)) (m1 * 2 ^ h % m2 != 0) (m1 / m2 * 2 ^ (e1 - e2)) := by
    rw [hx']
    exact denotes_floor hl hu (by rw [← hr]; simp)
  exact fpRound_rounded ok hlow hne hd (fun _ => hlen) hc

/-! ### Square roots -/

/-- The digits of `isqrtAux` close in on the root. -/
theorem isqrtAux_spec (k n r : Nat) (h0 : r * r ≤ n) (h1 : n < (r + 2 ^ k) * (r + 2 ^ k)) :
    isqrtAux k n r * isqrtAux k n r ≤ n ∧ n < (isqrtAux k n r + 1) * (isqrtAux k n r + 1) := by
  induction k generalizing r with
  | zero => exact ⟨h0, h1⟩
  | succ k ih =>
    rw [isqrtAux]
    split
    · next h => exact ih _ h (by rwa [Nat.pow_succ', Nat.two_mul, ← Nat.add_assoc] at h1)
    · next h => exact ih _ h0 (by omega)

theorem isqrt_spec (n : Nat) : isqrt n * isqrt n ≤ n ∧ n < (isqrt n + 1) * (isqrt n + 1) := by
  refine isqrtAux_spec _ n 0 (Nat.zero_le n) ?_
  have hn : n < 2 ^ bitLen n := by
    by_cases h : n = 0
    · subst h; decide
    · exact (bitLen_bounds h).2
  rw [Nat.zero_add, ← Nat.pow_add]
  exact lt_of_lt_of_le hn (Nat.pow_le_pow_right (by norm_num) (by omega))

/-- The integer square root of a cut magnitude: `y` with `y² = v`, where `n` is `v` cut. -/
theorem isqrt_floor {n : Nat} {v y : ℝ} (hy : 0 ≤ y) (hv : y ^ 2 = v) (h0 : (n : ℝ) ≤ v) (h1 : v < n + 1) :
    (isqrt n : ℝ) ≤ y ∧ y < isqrt n + 1 := by
  obtain ⟨hl, hu⟩ := isqrt_spec n
  have hlr : ((isqrt n : ℝ)) ^ 2 ≤ n := by rw [sq]; exact_mod_cast hl
  have hur : (n : ℝ) + 1 ≤ (isqrt n + 1) ^ 2 := by rw [sq]; exact_mod_cast hu
  exact ⟨(pow_le_pow_iff_left₀ (Nat.cast_nonneg _) hy two_ne_zero).mp (by linarith),
    lt_of_pow_lt_pow_left₀ 2 (by positivity) (by linarith)⟩

theorem isqrt_digits {n k : Nat} (h : 2 ^ (2 * k) ≤ n) : isqrt n ≠ 0 ∧ k + 1 ≤ bitLen (isqrt n) := by
  have hk : 2 ^ k ≤ isqrt n := by
    have hlt := lt_of_le_of_lt h (isqrt_spec n).2
    rw [Nat.two_mul, Nat.pow_add] at hlt
    exact Nat.le_of_lt_succ (Nat.mul_self_lt_mul_self_iff.mp hlt)
  exact ⟨(lt_of_lt_of_le (Nat.two_pow_pos k) hk).ne', lt_bitLen hk⟩

/-- A root `v` of m × 2^e, rounded once. -/
theorem fpSqrt_rounded {f : FFmt} (ok : FmtOk f) {u : Int} (hu : u < qMin f) {rm : RMode} {x : Nat} {m : Nat} {e : Int}
    (hx : fpDecode f x = .fin false m e) (hm : m ≠ 0) {v : ℝ} (h0 : 0 ≤ v) (hv : v ^ 2 = m * 2 ^ e) {cmp : Nat → Ordering}
    (hc : Compares cmp (v / 2 ^ u)) : Rounded f u rm false false cmp (fpSqrt f rm x) := by
  obtain ⟨h, hh⟩ : ∃ h : Nat, 2 * (f.fb + 4) + (if e % 2 = 0 then 0 else 1) = h := ⟨_, rfl⟩
  have hsqrt : fpSqrt f rm x = fpRound f rm false false (isqrt (m * 2 ^ h)) ((e - h) / 2)
      (isqrt (m * 2 ^ h) * isqrt (m * 2 ^ h) != m * 2 ^ h) := by
    simp only [fpSqrt, hx, if_neg hm, hh, Bool.false_eq_true, if_false]
  rw [hsqrt]
  obtain ⟨g, hg⟩ : ∃ g : Int, (e - h) / 2 = g := ⟨_, rfl⟩
  have hge : e = h + 2 * g := by split at hh <;> omega
  have hy : (v * 2 ^ (-g)) ^ 2 = (m * 2 ^ h : Nat) := by
    rw [mul_pow, hv, ← zpow_natCast, ← zpow_mul, mul_assoc, ← zpow_add₀ (by norm_num), hge]
    push_cast
    rw [show (h : Int) + 2 * g + -g * 2 = (h : Nat) by ring, zpow_natCast]
  have hy0 : 0 ≤ v * 2 ^ (-g) := by positivity
  obtain ⟨hl, hhi⟩ := isqrt_floor hy0 hy le_rfl (by linarith)
  have hvy : v = v * 2 ^ (-g) * 2 ^ g := by rw [mul_assoc, ← zpow_add₀ (by norm_num)]; simp
  have hd : Denotes (isqrt (m * 2 ^ h)) g (isqrt (m * 2 ^ h) * isqrt (m * 2 ^ h) != m * 2 ^ h) v := by
    rw [hvy]
    refine denotes_floor hl hhi ?_
    rw [bne_eq_false_iff_eq, ← pow_left_inj₀ hy0 (Nat.cast_nonneg _) two_ne_zero, hy, sq, ← Nat.cast_mul, Nat.cast_inj, eq_comm]
  obtain ⟨hne, hlen⟩ := isqrt_digits (k := f.fb + 4) (n := m * 2 ^ h)
    ((Nat.pow_le_pow_right (by norm_num) (by omega)).trans (Nat.le_mul_of_pos_left _ (Nat.pos_of_ne_zero hm)))
  rw [hg]
  exact fpRound_rounded ok hu hne hd (fun _ => by omega) hc

/-- The reciprocal `v` of a root of m × 2^e, rounded once. -/
theorem fpRsq_rounded {f : FFmt} (ok : FmtOk f) {u : Int} (hu : u < qMin f) {rm : RMode} {x : Nat} {m : Nat} {e : Int}
    (hx : fpDecode f x = .fin false m e) (hm : m ≠ 0) {v : ℝ} (h0 : 0 ≤ v) (hv : v ^ 2 * (m * 2 ^ e) = 1) {cmp : Nat → Ordering}
    (hc : Compares cmp (v / 2 ^ u)) : Rounded f u rm false false cmp (fpRsq f rm x) := by
  obtain ⟨m', hm'⟩ : ∃ m', (if e % 2 = 0 then m else 2 * m) = m' := ⟨_, rfl⟩
  obtain ⟨g, hg⟩ : ∃ g : Int, (if e % 2 = 0 then e else e - 1) / 2 = g := ⟨_, rfl⟩
  obtain ⟨h, hh⟩ : ∃ h, f.fb + 4 + bitLen m' = h := ⟨_, rfl⟩
  have hrsq : fpRsq f rm x = fpRound f rm false false (isqrt (2 ^ (2 * h) / m')) (-(h : Int) - g)
      (isqrt (2 ^ (2 * h) / m') * isqrt (2 ^ (2 * h) / m') * m' != 2 ^ (2 * h)) := by
    simp only [fpRsq, hx, if_neg hm, hm', hh, hg, Bool.false_eq_true, if_false]
  rw [hrsq]
  have hm0 : m' ≠ 0 := by split at hm' <;> omega
  have hm0' : (0 : ℝ) < m' := by exact_mod_cast Nat.pos_of_ne_zero hm0
  have heven : (m : ℝ) * 2 ^ e = m' * 2 ^ (2 * g) := by
    split at hm'
    · rw [← hm', show 2 * g = e by omega]
    · rw [← hm', show e = 1 + 2 * g by omega, zpow_add₀ (by norm_num), zpow_one]
      push_cast
      ring
  have hy : (v * 2 ^ (h + g)) ^ 2 = (2 ^ (2 * h) : Nat) / m' := by
    rw [eq_div_iff hm0'.ne', mul_pow, ← zpow_natCast ((2 : ℝ) ^ (h + g)), ← zpow_mul,
      show ((h : Int) + g) * (2 : Nat) = 2 * g + (2 * h : Nat) by push_cast; ring, zpow_add₀ (by norm_num), zpow_natCast]
    push_cast
    calc _ = v ^ 2 * (m' * 2 ^ (2 * g)) * 2 ^ (2 * h) := by ring
      _ = _ := by rw [← heven, hv, one_mul]
  have hy0 : 0 ≤ v * 2 ^ (h + g) := by positivity
  obtain ⟨hdl, hdh, -⟩ := div_floor (2 ^ (2 * h)) hm0
  obtain ⟨hl, hhi⟩ := isqrt_floor hy0 hy hdl hdh
  have hvy : v = v * 2 ^ (h + g) * 2 ^ (-(h : Int) - g) := by rw [mul_assoc, ← zpow_add₀ (by norm_num)]; simp
  have hd : Denotes (isqrt (2 ^ (2 * h) / m')) (-(h : Int) - g)
      (isqrt (2 ^ (2 * h) / m') * isqrt (2 ^ (2 * h) / m') * m' != 2 ^ (2 * h)) v := by
    rw [hvy]
    refine denotes_floor hl hhi ?_
    rw [bne_eq_false_iff_eq, ← pow_left_inj₀ hy0 (Nat.cast_nonneg _) two_ne_zero, hy, div_eq_iff hm0'.ne', sq, ← Nat.cast_mul,
      ← Nat.cast_mul, Nat.cast_inj, eq_comm]
  have hdig : 2 ^ (2 * (f.fb + 3)) ≤ 2 ^ (2 * h) / m' := by
    rw [Nat.le_div_iff_mul_le (Nat.pos_of_ne_zero hm0)]
    calc 2 ^ (2 * (f.fb + 3)) * m' ≤ 2 ^ (2 * (f.fb + 3)) * 2 ^ bitLen m' := Nat.mul_le_mul_left _ (bitLen_bounds hm0).2.le
      _ = 2 ^ (2 * (f.fb + 3) + bitLen m') := (Nat.pow_add ..).symm
      _ ≤ 2 ^ (2 * h) := Nat.pow_le_pow_right (by norm_num) (by omega)
  obtain ⟨hne, hlen⟩ := isqrt_digits hdig
  exact fpRound_rounded ok hu hne hd (fun _ => by omega) hc

end Sys2Proof.Machine
end

section
/-!
PROOFS. FCMP, the conversions, and the exact results that the floating-point operations round (O8; R55, R59, R94-R99, R117, R124,
R125).
-/

namespace Sys2Proof.Machine

/-! ### Signed magnitudes -/

theorem signedOf_natAbs (s : Int) : signedOf (decide (s < 0)) s.natAbs = s := by
  by_cases h : s < 0
  · rw [decide_eq_true h, signedOf, if_pos rfl]
    omega
  · rw [decide_eq_false h, signedOf, if_neg (by decide)]
    omega

theorem signedOf_false (m : Nat) : signedOf false m = m := rfl

theorem signedOf_zero (n : Bool) : signedOf n 0 = 0 := by cases n <;> rfl

theorem signedOf_mul (n : Bool) (m k : Nat) : signedOf n (m * k) = signedOf n m * k := by
  cases n <;> simp [signedOf]

theorem signedOf_not (n : Bool) (m : Nat) : signedOf (!n) m = -signedOf n m := by
  cases n <;> simp [signedOf]

theorem natAbs_signedOf (n : Bool) (m : Nat) : (signedOf n m).natAbs = m := by
  cases n <;> simp [signedOf]

/-- A power of two in units of a smaller one. -/
theorem two_pow_units {e d u : Int} (h : u ≤ d) (h' : d ≤ e) :
    (2 : Int) ^ (e - u).toNat = 2 ^ (e - d).toNat * 2 ^ (d - u).toNat := by
  rw [← pow_add, show (e - u).toNat = (e - d).toNat + (d - u).toNat by omega]

/-! ### Sums and products (R55, R94) -/

/-- The number ±m × 2^e in units of 2^u. -/
def inUnits (u : Int) (n : Bool) (m : Nat) (e : Int) : Int := signedOf n m * 2 ^ (e - u).toNat

theorem fpAddExact_spec (rm : RMode) (n1 : Bool) (m1 : Nat) (e1 : Int) (n2 : Bool) (m2 : Nat) (e2 : Int) :
    ∃ n m e, fpAddExact rm n1 m1 e1 n2 m2 e2 = .fin n m e ∧
      (∀ u, u ≤ e1 → u ≤ e2 → u ≤ e → inUnits u n m e = inUnits u n1 m1 e1 + inUnits u n2 m2 e2) ∧
      (m = 0 → n = if n1 = n2 then n1 else decide (rm = .rdn)) := by
  obtain ⟨e, he⟩ : ∃ e, min e1 e2 = e := ⟨_, rfl⟩
  obtain ⟨s, hs⟩ : ∃ s, signedOf n1 m1 * 2 ^ (e1 - e).toNat + signedOf n2 m2 * 2 ^ (e2 - e).toNat = s := ⟨_, rfl⟩
  have hsum : ∀ u, u ≤ e → inUnits u n1 m1 e1 + inUnits u n2 m2 e2 = s * 2 ^ (e - u).toNat := fun u hu => by
    unfold inUnits
    rw [two_pow_units hu (show e ≤ e1 by omega), two_pow_units hu (show e ≤ e2 by omega), ← hs]
    ring
  unfold fpAddExact
  simp only [he, hs]
  split
  · next h0 =>
    refine ⟨_, 0, e, rfl, fun u _ _ hu => ?_, fun _ => rfl⟩
    rw [hsum u hu, h0, inUnits, signedOf_zero, zero_mul]
  · next h0 =>
    refine ⟨_, _, e, rfl, fun u _ _ hu => ?_, fun hz => absurd (Int.natAbs_eq_zero.mp hz) h0⟩
    rw [hsum u hu, inUnits, signedOf_natAbs]

section
variable {f : FFmt} {rm : RMode} {x y z : Nat} {n1 n2 n3 : Bool} {m1 m2 m3 : Nat} {e1 e2 e3 : Int}
  (hx : fpDecode f x = .fin n1 m1 e1) (hy : fpDecode f y = .fin n2 m2 e2)
include hx hy

theorem fpAdd_exact : ∃ n m e, fpAdd f rm x y = fpRound f rm false n m e false ∧
    (∀ u, u ≤ e1 → u ≤ e2 → u ≤ e → inUnits u n m e = inUnits u n1 m1 e1 + inUnits u n2 m2 e2) ∧
    (m = 0 → n = if n1 = n2 then n1 else decide (rm = .rdn)) := by
  obtain ⟨n, m, e, h, hv, hz⟩ := fpAddExact_spec rm n1 m1 e1 n2 m2 e2
  exact ⟨n, m, e, by simp [fpAdd, hx, hy, isNan, fpSum, h, fpDeliver], hv, hz⟩

theorem fpSub_exact : ∃ n m e, fpSub f rm x y = fpRound f rm false n m e false ∧
    (∀ u, u ≤ e1 → u ≤ e2 → u ≤ e → inUnits u n m e = inUnits u n1 m1 e1 - inUnits u n2 m2 e2) ∧
    (m = 0 → n = if n1 ≠ n2 then n1 else decide (rm = .rdn)) := by
  obtain ⟨n, m, e, h, hv, hz⟩ := fpAddExact_spec rm n1 m1 e1 (!n2) m2 e2
  refine ⟨n, m, e, by simp [fpSub, hx, hy, isNan, fpSum, fpNegVal, h, fpDeliver], fun u h1 h2 h3 => ?_, fun h0 => ?_⟩
  · rw [hv u h1 h2 h3, inUnits, inUnits, inUnits, signedOf_not]
    ring
  · rw [hz h0]
    cases n1 <;> cases n2 <;> rfl

theorem fpMul_exact : fpMul f rm x y = fpRound f rm false (n1 != n2) (m1 * m2) (e1 + e2) false := by
  simp [fpMul, hx, hy, isNan, fpMulVal, fpDeliver]

theorem fpFma_exact (hz : fpDecode f z = .fin n3 m3 e3) : ∃ n m e, fpFma f rm x y z = fpRound f rm false n m e false ∧
    (∀ u, u ≤ e1 + e2 → u ≤ e3 → u ≤ e →
      inUnits u n m e = inUnits u (n1 != n2) (m1 * m2) (e1 + e2) + inUnits u n3 m3 e3) ∧
    (m = 0 → n = if (n1 != n2) = n3 then n3 else decide (rm = .rdn)) := by
  obtain ⟨n, m, e, h, hv, h0⟩ := fpAddExact_spec rm (n1 != n2) (m1 * m2) (e1 + e2) n3 m3 e3
  refine ⟨n, m, e, by simp [fpFma, hx, hy, hz, isNan, fpMulVal, fpSum, h, fpDeliver], hv, fun hm => ?_⟩
  rw [h0 hm]
  split
  · assumption
  · rfl

end

/-! ### Powers of two and their logarithms (R99) -/

theorem fpDecode_zero {f : FFmt} {x : Nat} {n : Bool} {e : Int} (h : fpDecode f x = .fin n 0 e) : e = qMin f := by
  have hp : 2 ^ f.fb ≠ 0 := by positivity
  unfold fpDecode at h
  dsimp only at h
  split_ifs at h <;> simp_all

/-- The integer that a number is, by the sign of its exponent. -/
theorem signedOf_integer {n : Bool} {m : Nat} {e i u : Int} (hu : u ≤ 0) (he : u ≤ e) (h : inUnits u n m e = i * 2 ^ (-u).toNat) :
    (0 ≤ e → signedOf n (m * 2 ^ e.toNat) = i) ∧
      (e < 0 → m % 2 ^ (-e).toNat = 0 ∧ signedOf n (m / 2 ^ (-e).toNat) = i) := by
  have hp {k : Nat} : (2 : Int) ^ k ≠ 0 := by positivity
  constructor
  · intro h0
    rw [inUnits, two_pow_units hu h0, zero_sub, sub_zero, ← mul_assoc] at h
    rw [signedOf_mul]
    exact_mod_cast mul_right_cancel₀ hp h
  · intro h0
    have hs : signedOf n m = i * 2 ^ (-e).toNat := by
      have h2 := two_pow_units he h0.le
      rw [zero_sub, zero_sub] at h2
      rw [inUnits, h2, ← mul_assoc] at h
      exact mul_right_cancel₀ hp h
    have hd : m = i.natAbs * 2 ^ (-e).toNat := by
      rw [← natAbs_signedOf n m, hs, Int.natAbs_mul, Int.natAbs_pow]
      rfl
    have hdiv : m / 2 ^ (-e).toNat * 2 ^ (-e).toNat = m := by
      rw [hd, Nat.mul_div_cancel _ (by positivity)]
    refine ⟨by rw [hd, Nat.mul_mod_left], ?_⟩
    rw [← hdiv, signedOf_mul] at hs
    exact mul_right_cancel₀ hp (by exact_mod_cast hs)

/-- A number of a small integer value has its leading digit below that of the greatest. -/
theorem bitLen_small {m : Nat} {e : Int} (hm : m ≠ 0) {k : Nat} (h0 : 0 ≤ e → m * 2 ^ e.toNat < 2 ^ k)
    (h1 : e < 0 → m < 2 ^ k * 2 ^ (-e).toNat) : bitLen m + e ≤ k := by
  obtain ⟨hl, -⟩ := bitLen_bounds hm
  have hp := bitLen_pos hm
  rcases lt_or_ge e 0 with he | he
  · have hlt : 2 ^ (bitLen m - 1) < 2 ^ (k + (-e).toNat) := by rw [Nat.pow_add]; exact lt_of_le_of_lt hl (h1 he)
    have := (Nat.pow_lt_pow_iff_right (by norm_num)).mp hlt
    omega
  · have hlt : 2 ^ (bitLen m - 1 + e.toNat) < 2 ^ k := by
      rw [Nat.pow_add]
      exact lt_of_le_of_lt (Nat.mul_le_mul_right _ hl) (h0 he)
    have := (Nat.pow_lt_pow_iff_right (by norm_num)).mp hlt
    omega

/-- FEXP2 of an integer is that power of two. -/
theorem fpExp2_integer {f : FFmt} (hf : 1 ≤ f.fb) {rm : RMode} {x : Nat} {n : Bool} {m : Nat} {e i u : Int}
    (hx : fpDecode f x = .fin n m e) (hu : u < qMin f) (he : u ≤ e) (hl : -4000 ≤ i) (hh : i ≤ 4000)
    (h : inUnits u n m e = i * 2 ^ (-u).toNat) : fpExp2 f rm x = fpRound f rm false false 1 i false := by
  have hq : qMin f ≤ 0 := by unfold qMin; omega
  obtain ⟨hpos, hneg⟩ := signedOf_integer (by omega) he h
  have hsmall : bitLen m + e ≤ 14 := by
    by_cases hm : m = 0
    · subst hm
      have := fpDecode_zero hx
      rw [this, show bitLen 0 = 0 from rfl]
      omega
    · refine (bitLen_small (k := 12) hm (fun h0 => ?_) fun h0 => ?_).trans (by norm_num)
      · rw [← natAbs_signedOf n (m * _), hpos h0]
        omega
      · have hi := natAbs_signedOf n (m / 2 ^ (-e).toNat)
        rw [(hneg h0).2] at hi
        have := Nat.div_mul_cancel (Nat.dvd_of_mod_eq_zero (hneg h0).1)
        rw [← this]
        exact Nat.mul_lt_mul_of_pos_right (by omega) (by positivity)
  have hi : (if 0 ≤ e then signedOf n (m * 2 ^ e.toNat) else signedOf n (m / 2 ^ (-e).toNat)) = i := by
    split
    · next h0 => exact hpos h0
    · next h0 => exact (hneg (by omega)).2
  simp only [fpExp2, hx]
  rw [if_pos, if_neg (by omega), hi, show max (-5000) (min 5000 i) = i by omega]
  rcases lt_or_ge e 0 with h0 | h0
  · simp [(hneg h0).1]
  · simp [h0]

/-- FLOG2 of a power of two is that integer. -/
theorem fpLog2_power {f : FFmt} {rm : RMode} {x : Nat} {m : Nat} {e i u : Int} (hx : fpDecode f x = .fin false m e) (he : u ≤ e)
    (hi : u ≤ i) (h : inUnits u false m e = 2 ^ (i - u).toNat) :
    fpLog2 f rm x = fpRound f rm false (decide (i < 0)) i.natAbs 0 false := by
  have hm : m * 2 ^ (e - u).toNat = 2 ^ (i - u).toNat := by
    rw [inUnits, signedOf_false] at h
    exact_mod_cast h
  obtain ⟨k, -, hk⟩ := (Nat.dvd_prime_pow Nat.prime_two).mp ⟨_, hm.symm⟩
  subst hk
  rw [← Nat.pow_add] at hm
  have hki := Nat.pow_right_injective le_rfl hm
  have htop : bitLen (2 ^ k) - 1 = k := by
    rw [bitLen, if_neg (by positivity), Nat.log2_two_pow, Nat.add_sub_cancel]
  have hik : e + (k : Int) = i := by omega
  simp only [fpLog2, hx, htop, hik]
  rw [if_neg (by positivity), if_neg (by decide), if_pos trivial]

/-! ### Conversions (R58, R59, R98, R117) -/

theorem fpCvt_exact {src dst : FFmt} {rm : RMode} {sat : Bool} {x : Nat} {n : Bool} {m : Nat} {e : Int}
    (hx : fpDecode src x = .fin n m e) : fpCvt dst src rm sat x = fpRound dst rm sat n m e false := by
  rw [fpCvt, hx, fpDeliver]

/-- The clamping of a conversion to an integer type (R59). -/
theorem fpCvtInt_eq {t : Ty} {src : FFmt} {rm : RMode} {x : Nat} {n : Bool} {m : Nat} {e : Int} (hx : fpDecode src x = .fin n m e) :
    let r := roundAt rm n m e false 0
    let z := max (tyMin t) (min (signedOf n r.1) (tyMax t))
    fpCvtInt t src rm x = (wrapTo (tyBits t) z, if z ≠ signedOf n r.1 then flNV else if r.2 then flNX else 0) := by
  intro r z
  have hle := tyMin_le_tyMax t
  have heq : fpCvtInt t src rm x = if signedOf n r.1 < tyMin t then (wrapTo (tyBits t) (tyMin t), flNV)
      else if signedOf n r.1 > tyMax t then (wrapTo (tyBits t) (tyMax t), flNV)
      else (wrapTo (tyBits t) (signedOf n r.1), if r.2 then flNX else 0) := by
    simp only [fpCvtInt, hx, fpToInt]
    rfl
  rw [heq]
  split
  · rw [show z = tyMin t by omega, if_pos (by omega)]
  · split
    · rw [show z = tyMax t by omega, if_pos (by omega)]
    · rw [show z = signedOf n r.1 by omega]
      simp

/-- A conversion to an integer rounds to an integer first (R59). -/
theorem fpCvtInt_rounded {t : Ty} {src : FFmt} {rm : RMode} {x : Nat} {n : Bool} {m : Nat} {e u : Int}
    (hx : fpDecode src x = .fin n m e)
    (hu : u ≤ 0) (he : u ≤ e) :
    let cmp := fun k => compare (2 * m * 2 ^ (e - u).toNat) k
    ∃ i, RoundsTo (fun p => p * 2 ^ (-u).toNat) rm n cmp i ∧
      let z := max (tyMin t) (min (signedOf n i) (tyMax t))
      fpCvtInt t src rm x = (wrapTo (tyBits t) z,
        if z ≠ signedOf n i then flNV else if cmp (2 * i * 2 ^ (-u).toNat) = .eq then 0 else flNX) := by
  intro cmp
  obtain ⟨hr, hi⟩ := roundAt_spec rm n (q := 0) (denotes_exact m e) (fun h => by cases h)
  rw [zpow_zero, div_one] at hr hi
  have hc := compares_twice he m
  have hs : (m : ℝ) * 2 ^ e * (2 ^ (-u).toNat : Nat) = m * 2 ^ e / 2 ^ u := by
    rw [two_zpow_toNat (by omega), zpow_neg, div_eq_mul_inv]
  have hexact : cmp (2 * (roundAt rm n m e false 0).1 * 2 ^ (-u).toNat) = .eq ↔ ¬ (roundAt rm n m e false 0).2 = true := by
    rw [hc.eq_iff, hi, not_not, ← hs, Nat.mul_assoc, Nat.cast_mul, Nat.cast_two, mul_right_inj' two_ne_zero, Nat.cast_mul]
    exact mul_left_inj' (by positivity)
  refine ⟨_, roundsTo_integer (by rwa [hs]) (by positivity) hr, ?_⟩
  have heq := fpCvtInt_eq (t := t) (rm := rm) hx
  dsimp only at heq ⊢
  rw [heq]
  by_cases hz : (roundAt rm n m e false 0).2 = true
  · rw [if_pos hz, if_neg fun h => hexact.mp h hz]
  · rw [if_neg hz, if_pos (hexact.mpr hz)]

/-! ### Grouped integers (R66, R124, R125) -/

/-- `roundDiv` rounds a quotient to an integer, and says whether that changed it. -/
theorem roundDiv_spec (rm : RMode) (neg : Bool) (num : Nat) {den : Nat} (hd : den ≠ 0) :
    RoundsReal rm neg (num / den) (roundDiv rm neg num den).1 ∧
      ((roundDiv rm neg num den).2 = true ↔ (num / den : ℝ) ≠ (roundDiv rm neg num den).1) := by
  obtain ⟨h0, h1, hr⟩ := div_floor num hd
  have hd' : (0 : ℝ) < den := by exact_mod_cast Nat.pos_of_ne_zero hd
  have hn : (num : ℝ) = den * (num / den : Nat) + (num % den : Nat) := by exact_mod_cast (Nat.div_add_mod num den).symm
  have hv : 2 * (num / den : ℝ) = 2 * (num / den : Nat) + 2 * (num % den : Nat) / den := by
    rw [eq_sub_of_add_eq' hn.symm]
    field_simp
    ring
  refine roundsReal_roundsUp rm neg h0 h1 (by rw [bne_iff_ne, Ne, hr]) ?_
  simp only [hv, add_lt_add_iff_left, add_right_inj, div_lt_one hd', div_eq_one_iff_eq hd'.ne']
  norm_cast

/-- The quotient that VQUANT rounds, as numerator and denominator. -/
def quantNum (m sm : Nat) (e se : Int) : Nat × Nat :=
  (if se ≤ e then m * 2 ^ (e - se).toNat else m, if se ≤ e then sm else sm * 2 ^ (se - e).toNat)

theorem quantNum_eq (m : Nat) {sm : Nat} (e se : Int) (hs : sm ≠ 0) :
    (quantNum m sm e se).2 ≠ 0 ∧ ((quantNum m sm e se).1 / (quantNum m sm e se).2 : ℝ) = m * 2 ^ e / (sm * 2 ^ se) := by
  have hs' : (sm : ℝ) ≠ 0 := by exact_mod_cast hs
  unfold quantNum
  by_cases h : se ≤ e
  · simp only [if_pos h]
    refine ⟨hs, ?_⟩
    rw [Nat.cast_mul, two_zpow_toNat (by omega), zpow_sub₀ (by norm_num)]
    field_simp
  · simp only [if_neg h]
    refine ⟨by positivity, ?_⟩
    rw [Nat.cast_mul, two_zpow_toNat (by omega), zpow_sub₀ (by norm_num)]
    field_simp

/-- The clamping of VQUANT to the codes from 0 to `top`. -/
theorem clampedCode {top : Int} (h : 0 ≤ top) (q : Int) :
    (if q < 0 then (0, flSAT) else if q > top then (top.toNat, flSAT) else (q.toNat, (0 : Flags))) =
      ((max 0 (min q top)).toNat, if max 0 (min q top) ≠ q then flSAT else 0) := by
  split
  · rw [show max 0 (min q top) = 0 by omega, if_pos (by omega)]
    rfl
  · split
    · rw [show max 0 (min q top) = top by omega, if_pos (by omega)]
    · rw [show max 0 (min q top) = q by omega, if_neg (not_not.mpr rfl)]

theorem quantElem_eq {src : FFmt} {rm : RMode} {g4 : Bool} {r x : Nat} {n : Bool} {m sm : Nat} {e se : Int}
    (hx : fpDecode src x = .fin n m e) (hr : recScaleVal r = (sm, se)) (hs : sm ≠ 0) :
    let d := roundDiv rm n (quantNum m sm e se).1 (quantNum m sm e se).2
    let q := signedOf n d.1 + recZp r
    let z := max 0 (min q (if g4 then 15 else 255))
    quantElem g4 r src rm x = (z.toNat, (if z ≠ q then flSAT else 0) ||| if d.2 then flNX else 0) := by
  have hmax : (0 : Int) ≤ if g4 then 15 else 255 := by split <;> decide
  simp only [quantElem, hx, hr, if_neg hs, clampedCode hmax]
  rfl

/-- VQUANT rounds the quotient by SCALE, adds ZP and clamps (R124). -/
theorem quantElem_rounded {src : FFmt} {rm : RMode} {g4 : Bool} {r x : Nat} {n : Bool} {m sm : Nat} {e se u : Int}
    (hx : fpDecode src x = .fin n m e) (he : u ≤ e) (hr : recScaleVal r = (sm, se)) (hs : sm ≠ 0) (hse : u ≤ se) :
    ∃ i, RoundsTo id rm n (fun k => compare (2 * m * 2 ^ (e - u).toNat) (k * sm * 2 ^ (se - u).toNat)) i ∧
      let q := signedOf n i + recZp r
      let z := max 0 (min q (if g4 then 15 else 255))
      quantElem g4 r src rm x = (z.toNat, (if z ≠ q then flSAT else 0) |||
        if m * 2 ^ (e - u).toNat = i * sm * 2 ^ (se - u).toNat then 0 else flNX) := by
  obtain ⟨hden, hv⟩ := quantNum_eq m e se hs
  obtain ⟨hr', hi⟩ := roundDiv_spec rm n (quantNum m sm e se).1 hden
  have heq := quantElem_eq (rm := rm) (g4 := g4) hx hr hs
  dsimp only at heq
  generalize roundDiv rm n (quantNum m sm e se).1 (quantNum m sm e se).2 = d at *
  rw [hv] at hr' hi
  have hs' : (sm : ℝ) ≠ 0 := by exact_mod_cast hs
  have hpos : 0 < sm * 2 ^ (se - u).toNat := Nat.mul_pos (Nat.pos_of_ne_zero hs) (by positivity)
  have hposr : ((sm * 2 ^ (se - u).toNat : Nat) : ℝ) ≠ 0 := by exact_mod_cast hpos.ne'
  have hm : (m : ℝ) * 2 ^ e / (sm * 2 ^ se) * (sm * 2 ^ (se - u).toNat : Nat) = (m * 2 ^ (e - u).toNat : Nat) := by
    rw [Nat.cast_mul, Nat.cast_mul, two_zpow_toNat (by omega), two_zpow_toNat (by omega), zpow_sub₀ (by norm_num),
      zpow_sub₀ (by norm_num)]
    field_simp
  have hc : Compares (fun k => compare (2 * m * 2 ^ (e - u).toNat) (k * sm * 2 ^ (se - u).toNat)) (m * 2 ^ e / (sm * 2 ^ se)) :=
    compares_quotient (a := 2 * m * 2 ^ (e - u).toNat) hpos (by rw [mul_assoc, hm]; push_cast; ring)
      fun k => by rw [Nat.mul_assoc k]
  have hexact : m * 2 ^ (e - u).toNat = d.1 * sm * 2 ^ (se - u).toNat ↔ ¬ d.2 = true := by
    rw [hi, not_not, ← Nat.cast_inj (R := ℝ), ← hm, Nat.mul_assoc, Nat.cast_mul d.1]
    exact mul_left_inj' hposr
  have hround := roundsTo_integer (c := 1) (by rwa [Nat.cast_one, mul_one]) one_pos hr'
  rw [show (fun p => p * 1) = id from funext Nat.mul_one] at hround
  refine ⟨d.1, hround, ?_⟩
  dsimp only
  rw [heq]
  by_cases hz : d.2 = true
  · rw [if_pos hz, if_neg fun h => hexact.mp h hz]
  · rw [if_neg hz, if_pos (hexact.mpr hz)]

theorem deqElem_eq (r : Nat) (dst : FFmt) (rm : RMode) (q : Nat) :
    let d : Int := (q : Int) - recZp r
    deqElem r dst rm q = if (recScaleVal r).1 = 0 ∨ d = 0 then (0, 0)
      else fpRound dst rm false (decide (d < 0)) (d.natAbs * (recScaleVal r).1) (recScaleVal r).2 false := by
  simp only [deqElem, Bool.or_eq_true, decide_eq_true_eq]

end Sys2Proof.Machine
end

section
/-!
PROOFS. The clauses of O8 joined.
-/

namespace Sys2Proof

open Sys2Proof.Machine

/-! ### The instructions -/

theorem fcmp_runs {s : State} {g : Guard} {f : RForm} (h : Ready s g [.s f.a, .s f.b, .dp f.d] false) (hd : f.d.toNat < 8)
    (hq : ieee (fpCmp (fmtOf f.ty) f.sub.toNat (fpA (curSlot s) f) (fpB (curSlot s) f)).2 &&& (curSlot s).csr.fena = 0) :
    Runs s g (exec (.fcmp g f) s) fun y => ∃ z,
      WritesP (curSlot s) z f.d.toNat (fpCmp (fmtOf f.ty) f.sub.toNat (fpA (curSlot s) f) (fpB (curSlot s) f)).1 ∧
      RaisesOnly z y (fpCmp (fmtOf f.ty) f.sub.toNat (fpA (curSlot s) f) (fpB (curSlot s) f)).2 :=
  finishFl_runs h rfl hq ⟨_, writesP_pPut _ _ _ hd, rfl⟩

/-! ### The operations at a format -/

/-- The pattern of 1.0. -/
theorem fpDecode_one (t : Ty) : fpDecode (fmtOf t) ((fmtOf t).bias * 2 ^ (fmtOf t).fb) =
    .fin false (2 ^ (fmtOf t).fb) (-(fmtOf t).fb) := by
  cases t <;> decide

section
variable (ty : Ty) {rm : RMode} {u : Int} (hu : u < qMin (fmtOf ty)) {x y : Nat} {n1 n2 : Bool} {m1 m2 : Nat} {e1 e2 : Int}
  (hx : fpDecode (fmtOf ty) x = .fin n1 m1 e1)
include hu hx

theorem fpDiv_once (hy : fpDecode (fmtOf ty) y = .fin n2 m2 e2) (h1 : m1 ≠ 0) (h2 : m2 ≠ 0) (he : u ≤ e1 - e2) :
    Rounded (fmtOf ty) u rm false (n1 != n2) (fun k => compare (2 * m1 * 2 ^ (e1 - e2 - u).toNat) (k * m2))
      (fpDiv (fmtOf ty) rm x y) := by
  have hm : (m2 : ℝ) ≠ 0 := by exact_mod_cast h2
  refine fpDiv_rounded (fmtOf_ok ty) hu hx hy h1 h2 (compares_quotient (Nat.pos_of_ne_zero h2) ?_ fun _ => rfl)
  rw [Nat.cast_mul, two_zpow_toNat (by omega), zpow_sub₀ (by norm_num) _ u]
  push_cast
  field_simp

theorem fpRcp_once (h1 : m1 ≠ 0) (he : u ≤ -e1) :
    Rounded (fmtOf ty) u rm false n1 (fun k => compare (2 * 2 ^ (-e1 - u).toNat) (k * m1)) (fpRcp (fmtOf ty) rm x) := by
  have hm : (m1 : ℝ) ≠ 0 := by exact_mod_cast h1
  have hr := fpDiv_rounded (rm := rm) (fmtOf_ok ty) hu (fpDecode_one ty) hx (by positivity) h1
    (cmp := fun k => compare (2 * 2 ^ (-e1 - u).toNat) (k * m1)) (compares_quotient (Nat.pos_of_ne_zero h1) ?_ fun _ => rfl)
  · rwa [Bool.false_bne] at hr
  rw [Nat.cast_mul, two_zpow_toNat (by omega), zpow_sub₀ (by norm_num) _ u, zpow_sub₀ (by norm_num), zpow_neg,
    zpow_natCast, zpow_neg]
  push_cast
  field_simp

theorem fpSqrt_once (h1 : m1 ≠ 0) (hn : n1 = false) (he : 2 * u ≤ e1) :
    Rounded (fmtOf ty) u rm false false (fun k => compare (4 * m1 * 2 ^ (e1 - 2 * u).toNat) (k * k)) (fpSqrt (fmtOf ty) rm x) := by
  subst hn
  have hv : √((m1 : ℝ) * 2 ^ e1) ^ 2 = m1 * 2 ^ e1 := Real.sq_sqrt (by positivity)
  refine fpSqrt_rounded (fmtOf_ok ty) hu hx h1 (Real.sqrt_nonneg _) hv
    (compares_root one_pos (by positivity) ?_ fun k => by rw [Nat.mul_one])
  rw [mul_pow, div_pow, hv, ← zpow_natCast ((2 : ℝ) ^ u), ← zpow_mul, Nat.cast_mul, two_zpow_toNat (by omega),
    zpow_sub₀ (by norm_num)]
  push_cast
  rw [mul_comm u]
  ring

theorem fpRsq_once (h1 : m1 ≠ 0) (hn : n1 = false) (he : 2 * u ≤ -e1) :
    Rounded (fmtOf ty) u rm false false (fun k => compare (4 * 2 ^ (-e1 - 2 * u).toNat) (k * k * m1)) (fpRsq (fmtOf ty) rm x) := by
  subst hn
  have hm : (0 : ℝ) < m1 := by exact_mod_cast Nat.pos_of_ne_zero h1
  have hv : (√((m1 : ℝ) * 2 ^ e1))⁻¹ ^ 2 * (m1 * 2 ^ e1) = 1 := by
    rw [inv_pow, Real.sq_sqrt (by positivity)]
    field_simp
  refine fpRsq_rounded (fmtOf_ok ty) hu hx h1 (by positivity) hv
    (compares_root (Nat.pos_of_ne_zero h1) (by positivity) ?_ fun _ => rfl)
  rw [mul_pow, div_pow, inv_pow, Real.sq_sqrt (by positivity), ← zpow_natCast ((2 : ℝ) ^ u), ← zpow_mul, Nat.cast_mul,
    two_zpow_toNat (by omega), zpow_sub₀ (by norm_num), zpow_neg]
  push_cast
  rw [mul_comm u]
  field_simp
  norm_num

end

/-- Settles O8: the instructions by the bodies they end in; each operation by the exact value that it rounds once. -/
theorem floatCompareAndConvertResults : Obligations.FloatCompareAndConvertResults := by
  refine ⟨fun s g f => ⟨fun h hd hq => fcmp_runs h hd hq, fun h => ⟨fun hq => ?_, fun hq => ?_, fun hq => ?_⟩⟩, fun ty rm u => ?_⟩
  · exact finishFl_runs h rfl hq (writesS_sPut ..)
  · exact finishFl_runs h rfl hq ⟨_, patResult_extendTo _ _ _ rfl, writesS_sPut ..⟩
  · exact finishFl_runs h rfl hq (writesS_sPut ..)
  intro t Twice at_ hu
  have ok : FmtOk t := fmtOf_ok ty
  have hu0 : u ≤ 0 := by
    have : qMin t ≤ 0 := by have := ok.fb_pos; unfold qMin; omega
    omega
  refine ⟨fun sat neg e => ?_, fun sat neg m e hm he => fpRound_exact ok hu hm he, fun x y n1 n2 m1 m2 e1 e2 hx hy =>
    ⟨?_, ?_, fpMul_exact hx hy, fun z n3 m3 e3 hz => ?_, fpDiv_once ty hu hx hy, fpRcp_once ty hu hx, fpSqrt_once ty hu hx,
      fpRsq_once ty hu hx, fun i he hi hl hh hv => ?_, fun i he hi hn hv => ?_⟩,
    fun src sat x n m e hx he => ⟨fpCvt_exact hx, fun hs hd => ?_, fun to_ _ => fpCvtInt_rounded hx hu0 he, fun g4 r => ?_⟩,
    fun sat i => rfl, fun r q => deqElem_eq r t rm q⟩
  · simp [fpRound]
  · obtain ⟨n, m, e, h, hv, hz⟩ := fpAdd_exact (rm := rm) hx hy
    exact ⟨n, m, e, h, hv u, hz⟩
  · obtain ⟨n, m, e, h, hv, hz⟩ := fpSub_exact (rm := rm) hx hy
    exact ⟨n, m, e, h, hv u, hz⟩
  · obtain ⟨n, m, e, h, hv, h0⟩ := fpFma_exact (rm := rm) hx hy hz
    exact ⟨n, m, e, h, hv u, h0⟩
  · have h := fpExp2_integer (rm := rm) ok.fb_pos hx hu he hl hh hv
    rw [h]
    exact fpRound_exact ok hu one_ne_zero hi
  · subst hn
    exact fpLog2_power hx he hi hv
  · rw [cvtElem, hs, hd]
    rfl
  · exact fun hs hse => quantElem_rounded hx he rfl hs hse

end Sys2Proof
end

section
/-!
PROOFS. Integer arithmetic (O1, O2; R51, R52, R82, R84, R85): a fixed-latency instruction writes its exact result narrowed, DIV and REM
leave theirs outstanding.
-/

namespace Sys2Proof.Machine

variable {s : State} {g : Guard} {f : RForm}

/-- Without a due injection a residue-checked integer instruction ends as an unchecked one (R289). -/
theorem arith_clean {checked : Bool} {op : Int → Int → Int → Int} (hn : NoFlip (curSlot s)) :
    let r := narrow f.ty (f.sub = 1) (op (intA (curSlot s) f) (intB (curSlot s) f) (intC (curSlot s) f))
    arith f checked op s = writeInt f r.2 s r.1 := by
  unfold arith
  dsimp only
  split
  · exact finishChecked_clean _ _ _ _ _ _ hn
  · rfl

/-- An integer instruction of fixed latency writes its exact result, narrowed (R51, R52, R84). -/
theorem arith_runs {checked : Bool} {op : Int → Int → Int → Int} (h : Ready s g (usesR f) false) (hn : NoFlip (curSlot s)) :
    Runs s g (issue g (usesR f) false (arith f checked op) s) fun y => ∃ v fl,
      IntResult f.ty (f.sub = 1) (op (intA (curSlot s) f) (intB (curSlot s) f) (intC (curSlot s) f)) v fl ∧
      WritesS (curSlot s) y f.d v fl :=
  runs_of_withCur s g _ _ _ (fun _ => []) _ _ h (arith_clean hn) ⟨_, _, intResult_narrow .., writesS_sPut ..⟩

/-- The outstanding result of the current slot that carries a value and needs no access (R17). -/
def valueOut (s : State) (d : Dst) (v : VWord) : Out :=
  ⟨s.nextId, (curSlot s).pc, .value v, [], d, [], none, (curSlot s).csr.pkey, (curSlot s).supv⟩

/-- A deferred value is the outstanding result of the slot as it was before flags were raised. -/
theorem deferValue_raiseFl (fl : Flags) (d : Dst) (v : VWord) :
    deferValue (withCur s fun x => raiseFl x fl) d v =
      addOut { withCur s (fun x => raiseFl x fl) with nextId := s.nextId + 1 } (valueOut s d v) := by
  have hx : curSlot (withCur s fun x => raiseFl x fl) = raiseFl (curSlot s) fl := curSlot_withCur ..
  simp only [deferValue, freshId, valueOut]
  congr 1
  simp [curSlot, withCur, raiseFl]

/-- A deferred instruction that raises flags and leaves a value. -/
theorem defers_of_deferValue {uses : List Use} {body : State → Eff} {fl : Flags} {d : Dst} {v : VWord} (h : Ready s g uses true)
    (hb : body s = .done (deferValue (withCur s fun x => raiseFl x fl) d v)) :
    Defers s g (issue g uses true body s) d (.value v) [] fun y => RaisesOnly (curSlot s) y fl :=
  defers_of_addOut s g _ _ (fun _ => []) (fun x => raiseFl x fl) (valueOut s d v) _ h (by rw [hb, deferValue_raiseFl]) rfl rfl rfl rfl
    rfl

/-- A deferred integer instruction raises SAT at once and leaves its exact result, narrowed, outstanding (R51, R52, R85). -/
theorem arithDeferred_defers {op : Int → Int → Int} {r : Int} (h : Ready s g (usesR f) true)
    (hr : op (intA (curSlot s) f) (intB (curSlot s) f) = r) :
    ∃ v fl, IntResult f.ty (f.sub = 1) r v fl ∧
      Defers s g (issue g (usesR f) true (arithDeferred f op) s) (sDst f.d) (.value (v.setWidth 512)) []
        fun y => RaisesOnly (curSlot s) y fl :=
  ⟨_, _, hr ▸ intResult_narrow .., defers_of_deferValue h rfl⟩

end Sys2Proof.Machine

namespace Sys2Proof

open Sys2Proof.Machine

/-- Settles O1: each instruction is `arith` of its formula. -/
theorem integerArithmeticResults : Obligations.IntegerArithmeticResults := by
  intro s g f h hn
  have habs : |intA (curSlot s) f| = if intA (curSlot s) f < 0 then -intA (curSlot s) f else intA (curSlot s) f := by
    split
    · next hneg => exact abs_of_neg hneg
    · next hpos => exact abs_of_nonneg (not_lt.mp hpos)
  refine ⟨arith_runs h hn, arith_runs h hn, arith_runs h hn, arith_runs h hn, arith_runs h hn, ?_, arith_runs h hn,
    arith_runs h hn⟩
  dsimp only
  rw [habs]
  exact arith_runs h hn

/-- Settles O2: `divTy` and `remOp` are the quotient and the remainder of the statement. -/
theorem divisionDefersItsResult : Obligations.DivisionDefersItsResult :=
  fun _ _ _ h => ⟨arithDeferred_defers h rfl, arithDeferred_defers h rfl⟩

end Sys2Proof
end

section
/-!
PROOFS. The operations on patterns (O3; R51, R86): each operation of the model on natural numbers is the one on the bit vector of its
type's width.
-/

namespace Sys2Proof.Machine

/-! ### Operations on natural numbers as operations on bit vectors -/

section
variable {n : Nat} (u : BitVec n)

theorem sintOf_toNat : sintOf n u.toNat = u.toInt := by
  unfold sintOf
  dsimp only
  rw [Nat.mod_eq_of_lt u.isLt, BitVec.toInt_eq_toNat_cond]
  push_cast
  rfl

theorem wrapTo_eq_ofInt (r : Int) : wrapTo n r = (BitVec.ofInt n r).toNat := by
  rw [BitVec.toNat_ofInt, wrapTo]
  push_cast
  rfl

/-- The floor of a signed pattern divided by a power of two is its arithmetic shift. -/
theorem wrapTo_sintOf_div (k : Nat) : wrapTo n (sintOf n u.toNat / 2 ^ k) = (u.sshiftRight k).toNat := by
  have hd : sintOf n u.toNat / 2 ^ k = (u.sshiftRight k).toInt := by
    rw [sintOf_toNat, BitVec.toInt_sshiftRight, Int.shiftRight_eq_div_pow]
    push_cast
    rfl
  rw [hd, wrapTo_eq_ofInt, BitVec.ofInt_toInt]

theorem clzOf_toNat : clzOf n u.toNat = u.clz.toNat := by
  have hle : u.clz.toNat ≤ n := by simpa [BitVec.le_def] using u.clz_le
  unfold clzOf
  rw [Nat.mod_eq_of_lt u.isLt]
  by_cases hu : u = 0#n
  · have hz : u.clz.toNat = n := by simp [BitVec.clz_eq_iff_eq_zero.mpr hu]
    rw [hz, hu]
    simp [bitLen]
  · have h0 : u.toNat ≠ 0 := fun e => hu (BitVec.eq_of_toNat_eq e)
    have hn : 0 < n := Nat.pos_of_ne_zero fun e => by subst e; exact hu (BitVec.of_length_zero)
    have hlt : u.clz.toNat < n := by simpa [BitVec.lt_def] using BitVec.clz_lt_iff_ne_zero.mpr hu
    have hlog : u.toNat.log2 = n - 1 - u.clz.toNat := (Nat.log2_eq_iff h0).mpr
      ⟨BitVec.two_pow_sub_clz_le_toNat_of_ne_zero hn hu, by
        rw [show n - 1 - u.clz.toNat + 1 = n - u.clz.toNat by omega]
        exact BitVec.toNat_lt_two_pow_sub_clz⟩
    rw [bitLen, if_neg h0, hlog]
    omega

/-- `ctzOf` counts the zeros below the lowest one among the low `m` bits. -/
theorem ctzOf_eq_of_lowest {m x k : Nat} (hk : k ≤ m) (h0 : ∀ i, i < k → x.testBit i = false) (h1 : k < m → x.testBit k = true) :
    ctzOf m x = k := by
  induction m generalizing x k with
  | zero => exact (Nat.le_zero.mp hk).symm
  | succ m ih =>
    rw [ctzOf]
    cases k with
    | zero =>
      rw [if_pos]
      simpa [Nat.testBit_zero] using h1 (by omega)
    | succ k =>
      rw [if_neg]
      · rw [ih (Nat.le_of_succ_le_succ hk) (fun i hi => by rw [Nat.testBit_div_two]; exact h0 (i + 1) (by omega))
          (fun hlt => by rw [Nat.testBit_div_two]; exact h1 (by omega)), Nat.add_comm]
      · simpa [Nat.testBit_zero] using h0 0 (by omega)

theorem ctzOf_toNat : ctzOf n u.toNat = u.ctz.toNat := by
  have hle : u.ctz.toNat ≤ n := by
    rw [BitVec.ctz_eq_reverse_clz]
    simpa [BitVec.le_def] using u.reverse.clz_le
  refine ctzOf_eq_of_lowest hle (fun i hi => BitVec.getLsbD_false_of_lt_ctz hi) fun hlt => ?_
  refine BitVec.getLsbD_true_ctz_of_ne_zero (BitVec.ctz_lt_iff_ne_zero.mp ?_)
  simpa [BitVec.lt_def] using hlt

theorem popCount_toNat_low (m : Nat) : popCount m u.toNat = u.cpopNatRec m 0 := by
  induction m with
  | zero => rfl
  | succ m ih =>
    rw [popCount, ih, BitVec.cpopNatRec_succ, BitVec.cpopNatRec_eq (0 + _), Nat.zero_add, BitVec.testBit_toNat, Nat.add_comm]
    cases u.getLsbD m <;> rfl

theorem popCount_toNat : popCount n u.toNat = u.cpop.toNat := by
  rw [popCount_toNat_low, BitVec.toNat_cpop]

theorem testBit_bitRevAux (m x acc i : Nat) :
    (bitRevAux m x acc).testBit i = if i < m then x.testBit (m - 1 - i) else acc.testBit (i - m) := by
  induction m generalizing x acc with
  | zero => simp [bitRevAux]
  | succ m ih =>
    rw [bitRevAux, ih]
    rcases Nat.lt_trichotomy i m with h | rfl | h
    · rw [if_pos h, if_pos (by omega), Nat.testBit_div_two, show m - 1 - i + 1 = m + 1 - 1 - i by omega]
    · simp [Nat.testBit_zero]
    · rw [if_neg (by omega), if_neg (by omega), show i - m = i - (m + 1) + 1 by omega, Nat.testBit_add_one]
      congr 1
      omega

theorem bitRevAux_toNat : bitRevAux n u.toNat 0 = u.reverse.toNat := by
  refine Nat.eq_of_testBit_eq fun i => ?_
  rw [testBit_bitRevAux, BitVec.testBit_toNat, BitVec.testBit_toNat, BitVec.getLsbD_reverse, BitVec.getMsbD_eq_getLsbD]
  by_cases h : i < n <;> simp [h]

theorem byteRevAux_digit (m x acc i : Nat) :
    byteRevAux m x acc / 256 ^ i % 256 = if i < m then x / 256 ^ (m - 1 - i) % 256 else acc / 256 ^ (i - m) % 256 := by
  induction m generalizing x acc with
  | zero => simp [byteRevAux]
  | succ m ih =>
    rw [byteRevAux, ih]
    rcases Nat.lt_trichotomy i m with h | rfl | h
    · rw [if_pos h, if_pos (by omega), Nat.div_div_eq_div_mul, ← Nat.pow_succ', show (m - 1 - i).succ = m + 1 - 1 - i by omega]
    · simp
    · rw [if_neg (by omega), if_neg (by omega), show i - m = i - (m + 1) + 1 by omega, Nat.pow_succ', ← Nat.div_div_eq_div_mul,
        show (256 * acc + x % 256) / 256 = acc by omega]

theorem rotl_toNat {k : Nat} (hk : k < n) : rotl n u.toNat k = (u.rotateLeft k).toNat := by
  have hu := u.isLt
  have hlow : u.toNat / 2 ^ (n - k) < 2 ^ k := by
    rw [Nat.div_lt_iff_lt_mul (by positivity), ← Nat.pow_add, show k + (n - k) = n by omega]
    exact hu
  have hmod : u.toNat * 2 ^ k % 2 ^ n = u.toNat % 2 ^ (n - k) * 2 ^ k := by
    conv_lhs => rw [show 2 ^ n = 2 ^ (n - k) * 2 ^ k by rw [← Nat.pow_add, Nat.sub_add_cancel hk.le]]
    exact Nat.mul_mod_mul_right ..
  have hfit : u.toNat % 2 ^ (n - k) * 2 ^ k + u.toNat / 2 ^ (n - k) < 2 ^ n := by
    have h1 : u.toNat % 2 ^ (n - k) + 1 ≤ 2 ^ (n - k) := Nat.mod_lt _ (by positivity)
    have h2 := Nat.mul_le_mul_right (2 ^ k) h1
    rw [← Nat.pow_add, Nat.sub_add_cancel hk.le, Nat.add_mul, Nat.one_mul] at h2
    omega
  rw [rotl, BitVec.toNat_rotateLeft, Nat.mod_eq_of_lt hk, Nat.shiftLeft_eq, Nat.shiftRight_eq_div_pow, Nat.add_mod, hmod,
    Nat.mod_eq_of_lt (hlow.trans (Nat.pow_lt_pow_right (by norm_num) hk)), Nat.mod_eq_of_lt hfit, Nat.mul_comm,
    Nat.two_pow_add_eq_or_of_lt hlow]

theorem rotateRight_eq_rotateLeft {k : Nat} (hk : k < n) : u.rotateRight k = u.rotateLeft ((n - k) % n) := by
  rcases Nat.eq_zero_or_pos k with rfl | h0
  · rw [Nat.sub_zero, Nat.mod_self]
    simp [BitVec.rotateLeft_def, BitVec.rotateRight_def, BitVec.ushiftRight_eq_zero (Nat.le_refl n)]
  · have hk' : n - k < n := by omega
    rw [Nat.mod_eq_of_lt hk', BitVec.rotateLeft_def, BitVec.rotateRight_def, Nat.mod_eq_of_lt hk', Nat.mod_eq_of_lt hk,
      show n - (n - k) = k by omega, BitVec.or_comm]

end

/-! ### Instructions on patterns -/

section
variable {s : State} {g : Guard} {f : RForm}

theorem patA_eq (x : Slot) (f : RForm) : patA x f = ((sGet x f.a).setWidth (tyBits f.ty)).toNat := (BitVec.toNat_setWidth ..).symm

theorem patB_eq (x : Slot) (f : RForm) : patB x f = ((opB x f).setWidth (tyBits f.ty)).toNat := (BitVec.toNat_setWidth ..).symm

theorem patNotB_eq (x : Slot) (f : RForm) : patNotB x f = (~~~(opB x f).setWidth (tyBits f.ty)).toNat := by
  rw [patNotB, patB_eq, BitVec.toNat_not]

theorem tyBits_pos (t : Ty) : 0 < tyBits t := by cases t <;> decide

theorem shamt_lt (x : Slot) (f : RForm) : shamt x f < tyBits f.ty := Nat.mod_lt _ (tyBits_pos f.ty)

theorem writesS_sPut_quiet (x : Slot) (d : RegIx) (v : Word) : WritesS x (sPut x d v) d v 0 := by
  have h := writesS_sPut x d v 0
  rwa [raiseFl_zero] at h

/-- An instruction on patterns writes the extension of its result and raises nothing (R51, R86). -/
theorem bitop_runs {op : Slot → Nat → Nat} {P : Slot → Prop} (h : Ready s g (usesR f) false)
    (hP : ∀ y, WritesS (curSlot s) y f.d (extendTo f.ty (op (curSlot s) (patA (curSlot s) f))) 0 → P y) :
    Runs s g (issue g (usesR f) false (bitop f op) s) P :=
  runs_of_withCur s g _ _ _ (fun _ => []) _ _ h rfl (hP _ (writesS_sPut ..))

/-- An instruction whose result is the number of a bit vector writes that pattern. -/
theorem bitop_gives {op : Slot → Nat → Nat} {p : BitVec (tyBits f.ty)} (h : Ready s g (usesR f) false)
    (hp : op (curSlot s) ((sGet (curSlot s) f.a).setWidth (tyBits f.ty)).toNat = p.toNat) :
    Runs s g (issue g (usesR f) false (bitop f op) s) fun y => ∃ z, PatResult f.ty p.toNat z ∧ WritesS (curSlot s) y f.d z 0 :=
  bitop_runs h fun _ hy => ⟨_, patResult_extendTo _ _ _ (by rw [patA_eq, hp]), hy⟩

/-- Byte `j` of BSWAP's result is byte `n/8-1-j` of the pattern. -/
theorem byteRev_extractLsb' {ty : Ty} {z : Word} {j : Nat} (u : BitVec (tyBits ty))
    (hz : z.toNat % 2 ^ tyBits ty = byteRevAux (tyBits ty / 8) u.toNat 0 % 2 ^ tyBits ty) (hj : j < tyBits ty / 8) :
    z.extractLsb' (8 * j) 8 = u.extractLsb' (8 * (tyBits ty / 8 - 1 - j)) 8 := by
  have hd : 8 * j + 8 ≤ tyBits ty := by omega
  have hz' : BitVec.ofNat (tyBits ty) z.toNat = BitVec.ofNat (tyBits ty) (byteRevAux (tyBits ty / 8) u.toNat 0) := by
    refine BitVec.eq_of_toNat_eq ?_
    rw [BitVec.toNat_ofNat, BitVec.toNat_ofNat, hz]
  have h256 : ∀ k, 256 ^ k = 2 ^ (8 * k) := fun k => by rw [Nat.pow_mul]
  refine BitVec.eq_of_toNat_eq ?_
  rw [BitVec.extractLsb'_toNat, BitVec.extractLsb'_toNat, Nat.shiftRight_eq_div_pow, Nat.shiftRight_eq_div_pow,
    ← digit_ofNat hd, hz', digit_ofNat hd, ← h256, ← h256]
  exact (byteRevAux_digit _ _ _ _).trans (if_pos hj)

end

end Sys2Proof.Machine

namespace Sys2Proof

open Sys2Proof.Machine

/-- Settles O3: each operation on natural numbers is the one on the patterns. -/
theorem patternResults : Obligations.PatternResults := by
  intro s g f h
  have hk : (opB (curSlot s) f).toNat % tyBits f.ty < tyBits f.ty := shamt_lt (curSlot s) f
  refine ⟨bitop_gives h ?_, bitop_gives h ?_, bitop_gives h ?_, bitop_gives h ?_, bitop_gives h ?_, bitop_gives h ?_,
    bitop_gives h ?_, bitop_gives h ?_, bitop_gives h ?_, bitop_gives h ?_, bitop_gives h ?_, bitop_gives h ?_, bitop_gives h ?_,
    bitop_runs h fun y hy => ⟨_, extended_extendTo .., hy, fun j hj => ?_⟩⟩
  · exact (congrArg _ (patB_eq ..)).trans (BitVec.toNat_and ..).symm
  · exact (congrArg _ (patB_eq ..)).trans (BitVec.toNat_or ..).symm
  · exact (congrArg _ (patB_eq ..)).trans (BitVec.toNat_xor ..).symm
  · exact (congrArg _ (patNotB_eq ..)).trans (BitVec.toNat_and ..).symm
  · exact (congrArg _ (patNotB_eq ..)).trans (BitVec.toNat_or ..).symm
  · rw [BitVec.toNat_shiftLeft, Nat.shiftLeft_eq]; rfl
  · rw [BitVec.toNat_ushiftRight, Nat.shiftRight_eq_div_pow]; rfl
  · exact wrapTo_sintOf_div ..
  · dsimp only
    split
    · exact rotl_toNat _ hk
    · rw [rotateRight_eq_rotateLeft _ hk]
      exact rotl_toNat _ (Nat.mod_lt _ (tyBits_pos f.ty))
  · exact clzOf_toNat _
  · exact ctzOf_toNat _
  · exact popCount_toNat _
  · exact bitRevAux_toNat _
  · exact byteRev_extractLsb' _ (by rw [patA_eq]; exact (patResult_extendTo _ _ _ rfl).2) hj

end Sys2Proof
end

section
/-!
PROOFS. Moves, comparisons and predicates (O4, O5; R87-R90): the value or the predicate that an instruction writes, bit by bit where the
statement reads it so.
-/

namespace Sys2Proof.Machine

variable {s : State} {g : Guard} {f : RForm}

/-! ### How the instructions end -/

/-- An instruction that writes one value to D writes it and raises nothing (R87). -/
theorem writeS_runs {uses : List Use} {op : Slot → Word} {P : Slot → Prop} (h : Ready s g uses false)
    (hP : ∀ y, WritesS (curSlot s) y f.d (op (curSlot s)) 0 → P y) : Runs s g (issue g uses false (writeS f op) s) P :=
  runs_of_withCur s g _ _ _ (fun _ => []) _ _ h rfl (hP _ (writesS_sPut_quiet ..))

theorem writeS_gives {uses : List Use} {op : Slot → Word} {P : Word → Prop} (h : Ready s g uses false) (hP : P (op (curSlot s))) :
    Runs s g (issue g uses false (writeS f op) s) fun y => ∃ v, P v ∧ WritesS (curSlot s) y f.d v 0 :=
  writeS_runs h fun _ hy => ⟨_, hP, hy⟩

/-- An instruction that writes one predicate writes it (R88, R90). -/
theorem writeP_runs {uses : List Use} {d : RegIx} {op : Slot → Bool} {P : Slot → Prop} (h : Ready s g uses false) (hd : d.toNat < 8)
    (hP : ∀ y, WritesP (curSlot s) y d.toNat (op (curSlot s)) → P y) : Runs s g (issue g uses false (writeP d op) s) P :=
  runs_of_withCur s g _ _ _ (fun _ => []) _ _ h rfl (hP _ (writesP_pPut _ _ _ hd))

theorem writeP_writes {uses : List Use} {d : RegIx} {op : Slot → Bool} {b : Bool} (h : Ready s g uses false) (hd : d.toNat < 8)
    (hb : op (curSlot s) = b) : Runs s g (issue g uses false (writeP d op) s) fun y => WritesP (curSlot s) y d.toNat b :=
  writeP_runs h hd fun _ hy => hb ▸ hy

/-! ### Extended fields -/

/-- The low `k` bits as the statement extends them (R87). -/
theorem extendBits_spec (t : Ty) (k u : Nat) :
    (tySigned t = true → extendBits t k u = BitVec.ofInt 64 (BitVec.ofNat k u).toInt) ∧
      (tySigned t = false → extendBits t k u = BitVec.ofNat 64 (u % 2 ^ k)) := by
  have hs : sintOf k u = (BitVec.ofNat k u).toInt := by
    rw [← sintOf_toNat, BitVec.toNat_ofNat, sintOf, sintOf, Nat.mod_mod]
  exact ⟨fun h => by rw [extendBits, if_pos h, hs], fun h => by rw [extendBits, h]; rfl⟩

/-- The mask of a bit field. -/
theorem fieldMask_getLsbD {len pos j : Nat} (hj : j < 64) :
    (BitVec.ofNat 64 ((2 ^ len - 1) * 2 ^ pos)).getLsbD j = decide (pos ≤ j ∧ j < pos + len) := by
  rw [BitVec.getLsbD_ofNat, decide_eq_true hj, Bool.true_and, Nat.testBit_mul_two_pow, Nat.testBit_two_pow_sub_one, Bool.decide_and]
  by_cases h : pos ≤ j
  · rw [decide_eq_true h, Bool.true_and, Bool.true_and]
    exact decide_eq_decide.mpr (by omega)
  · rw [decide_eq_false h, Bool.false_and, Bool.false_and]

/-- A field inserted into a value: inside the mask the field, outside it the value (R87). -/
theorem insertField_getLsbD (a b : Word) {len pos j : Nat} (hj : j < 64) :
    let m := BitVec.ofNat 64 ((2 ^ len - 1) * 2 ^ pos)
    ((a &&& ~~~m) ||| ((b <<< pos) &&& m)).getLsbD j =
      if pos ≤ j ∧ j < pos + len then b.getLsbD (j - pos) else a.getLsbD j := by
  intro m
  rw [BitVec.getLsbD_or, BitVec.getLsbD_and, BitVec.getLsbD_and, BitVec.getLsbD_not, fieldMask_getLsbD hj, BitVec.getLsbD_shiftLeft]
  split
  · next h => simp [h, hj]
  · next h => simp [h, hj]

/-- The upper quarter of a value replaced (R87). -/
theorem append_low_parts (i : BitVec 16) (a : Word) :
    (i ++ a.extractLsb' 0 48).extractLsb' 48 16 = i ∧ (i ++ a.extractLsb' 0 48).extractLsb' 0 48 = a.extractLsb' 0 48 := by
  constructor
  · exact BitVec.extractLsb'_append_eq_left
  · exact BitVec.extractLsb'_append_eq_right

/-! ### Predicates -/

/-- The condition of CMP for each of its codes (R88). -/
theorem cmpCond_spec {a b : Int} {sub : BitVec 3} {cond : Prop}
    (h : (sub = 0 ∧ (cond ↔ a = b)) ∨ (sub = 1 ∧ (cond ↔ a ≠ b)) ∨ (sub = 2 ∧ (cond ↔ a < b)) ∨
      (sub = 3 ∧ (cond ↔ a ≤ b)) ∨ (sub = 4 ∧ (cond ↔ a > b)) ∨ (sub = 5 ∧ (cond ↔ a ≥ b))) :
    cmpCond sub.toNat a b = true ↔ cond := by
  rcases h with ⟨rfl, h⟩ | ⟨rfl, h⟩ | ⟨rfl, h⟩ | ⟨rfl, h⟩ | ⟨rfl, h⟩ | ⟨rfl, h⟩ <;> exact decide_eq_true_iff.trans h.symm

/-- Two patterns share a one, as bit vectors (R88). -/
theorem land_patterns (x : Slot) (f : RForm) :
    (Nat.land (patA x f) (patB x f) != 0) =
      (BitVec.ofNat (tyBits f.ty) ((sGet x f.a).setWidth (tyBits f.ty)).toNat &&&
        BitVec.ofNat (tyBits f.ty) ((opB x f).setWidth (tyBits f.ty)).toNat != 0) := by
  rw [patA_eq, patB_eq, BitVec.ofNat_toNat, BitVec.ofNat_toNat, BitVec.setWidth_eq, BitVec.setWidth_eq]
  generalize BitVec.setWidth (tyBits f.ty) (sGet x f.a) = u
  generalize BitVec.setWidth (tyBits f.ty) (opB x f) = v
  rw [Bool.eq_iff_iff, bne_iff_ne, bne_iff_ne, ne_eq, ne_eq, not_iff_not, BitVec.toNat_inj.symm]
  rfl

/-- A sum of powers of two chosen by the bits of `b` has those bits. -/
theorem bitSum_lt_and_testBit (b : Nat → Bool) (m : Nat) :
    let t := (List.range m).foldl (fun a i => a + (if b i then 2 ^ i else 0)) 0
    t < 2 ^ m ∧ ∀ j, j < m → t.testBit j = b j := by
  induction m with
  | zero => exact ⟨Nat.one_pos, fun j hj => absurd hj (Nat.not_lt_zero j)⟩
  | succ m ih =>
    simp only [List.range_succ, List.foldl_append, List.foldl_cons, List.foldl_nil]
    generalize (List.range m).foldl _ 0 = t at ih
    obtain ⟨hlt, hbits⟩ := ih
    cases hb : b m
    · simp only [Bool.false_eq_true, if_false, Nat.add_zero]
      refine ⟨hlt.trans (Nat.pow_lt_pow_right (by norm_num) (Nat.lt_succ_self m)), fun j hj => ?_⟩
      rcases Nat.lt_succ_iff_lt_or_eq.mp hj with h | rfl
      · exact hbits j h
      · rw [hb]
        exact Nat.testBit_lt_two_pow hlt
    · simp only [if_true]
      refine ⟨by rw [Nat.pow_succ]; omega, fun j hj => ?_⟩
      rw [Nat.add_comm]
      rcases Nat.lt_succ_iff_lt_or_eq.mp hj with h | rfl
      · rw [Nat.testBit_two_pow_add_gt h]
        exact hbits j h
      · rw [Nat.testBit_two_pow_add_eq, Nat.testBit_lt_two_pow hlt, hb]
        rfl

/-! ### ADDC (R88) -/

theorem wrapTo_natCast (n k : Nat) : wrapTo n k = k % 2 ^ n := by
  unfold wrapTo
  norm_cast

/-- A difference of patterns with a borrow, modulo the width. -/
theorem wrapTo_sub {n a b c : Nat} (hb : b < 2 ^ n) (hc : c ≤ 1) :
    wrapTo n ((a : Int) - b - c) = (a + 2 ^ n + 2 ^ n - b - c) % 2 ^ n := by
  have h1 : 1 ≤ 2 ^ n := Nat.one_le_two_pow
  rw [← wrapTo_natCast, wrapTo, wrapTo]
  have hz : ((a + 2 ^ n + 2 ^ n - b - c : Nat) : Int) = (a : Int) - b - c + 2 * 2 ^ n := by
    have : ((2 ^ n : Nat) : Int) = 2 ^ n := by push_cast; rfl
    omega
  rw [hz, Int.add_mul_emod_self_right]

/-- ADDC's result and carry: the sum with its overflow, or the difference with its borrow. -/
def AddcGives (n pa pb ci : Nat) (sub : BitVec 3) (r : Nat) (co : Bool) : Prop :=
  (sub = 0 → r % 2 ^ n = (pa + pb + ci) % 2 ^ n ∧ (co = true ↔ 2 ^ n ≤ pa + pb + ci)) ∧
  (sub ≠ 0 → r % 2 ^ n = (pa + 2 ^ n + 2 ^ n - pb - ci) % 2 ^ n ∧ (co = true ↔ pa < pb + ci))

/-- Without a due injection ADDC writes its result and its carry. -/
theorem addcBody_eq (hn : NoFlip (curSlot s)) : ∃ r co,
    addcBody f s = .done (withCur s fun x => pPut (sPut x f.d (extendTo f.ty r)) f.c.toNat co) ∧
    AddcGives (tyBits f.ty) (patA (curSlot s) f) (patB (curSlot s) f) (if pGet (curSlot s) f.c.toNat then 1 else 0) f.sub r co := by
  have hb : patB (curSlot s) f < 2 ^ tyBits f.ty := Nat.mod_lt _ (by positivity)
  have hc : (if pGet (curSlot s) f.c.toNat = true then (1 : Int) else 0) =
      ((if pGet (curSlot s) f.c.toNat = true then 1 else 0 : Nat) : Int) := by split <;> rfl
  have hc1 : (if pGet (curSlot s) f.c.toNat = true then 1 else 0) ≤ 1 := by split <;> decide
  unfold addcBody
  dsimp only
  rw [finishChecked_clean _ _ _ _ _ _ hn]
  refine ⟨_, _, rfl, fun h0 => ?_, fun h0 => ?_⟩
  · rw [if_pos h0, if_pos h0, hc]
    norm_cast
    exact ⟨by rw [wrapTo_natCast, Nat.mod_mod], by simp⟩
  · rw [if_neg h0, if_neg h0, hc, wrapTo_sub hb hc1, Nat.mod_mod]
    exact ⟨rfl, by rw [decide_eq_true_iff]; omega⟩

theorem addc_runs (h : Ready s g [.s f.a, .s f.b, .ds f.d, .dp f.c] false) (hn : NoFlip (curSlot s)) (hc : f.c.toNat < 8) :
    Runs s g (exec (.addc g f) s) fun y => ∃ z r co, WritesS (curSlot s) z f.d (extendTo f.ty r) 0 ∧ WritesP z y f.c.toNat co ∧
      AddcGives (tyBits f.ty) (patA (curSlot s) f) (patB (curSlot s) f) (if pGet (curSlot s) f.c.toNat then 1 else 0)
        f.sub r co := by
  obtain ⟨r, co, hb, hr⟩ := addcBody_eq (f := f) hn
  exact runs_of_withCur s g _ _ _ (fun _ => []) _ _ h hb ⟨_, r, co, writesS_sPut_quiet .., writesP_pPut _ _ _ hc, hr⟩

end Sys2Proof.Machine

namespace Sys2Proof

open Sys2Proof.Machine

/-- Settles O4: each instruction writes one value, whose bits the statement gives. -/
theorem moveResults : Obligations.MoveResults := by
  refine fun s g f => ⟨fun h => ⟨writeS_gives h rfl, writeS_gives h (patResult_extendTo _ _ _ rfl),
    writeS_gives h (append_low_parts ..), writeS_gives h (extendBits_spec ..), writeS_gives h ?_,
    writeS_gives h fun j hj => insertField_getLsbD _ _ hj, writeS_gives h rfl⟩, fun h => writeS_gives h rfl⟩
  rw [BitVec.toNat_ushiftRight, Nat.shiftRight_eq_div_pow]
  exact extendBits_spec ..

/-- Settles O5: a comparison by its condition, ADDC by its sum or difference, PGET by its sum of powers of two. -/
theorem compareAndPredicateResults : Obligations.CompareAndPredicateResults := by
  refine ⟨fun s g f => ⟨fun h hd => ⟨fun cond hc => ?_, ?_⟩, fun h hn hc => ?_⟩,
    fun s g f => ⟨fun h => ?_, fun h hd => ⟨?_, ?_, ?_⟩, fun h hd => ?_, fun h => ?_⟩⟩
  · exact writeP_runs h hd fun y hy => ⟨_, cmpCond_spec hc, hy⟩
  · refine writeP_writes h hd ?_
    rw [← land_patterns]
    dsimp only
    split
    · next h0 => rw [decide_eq_true h0, beq_true]
    · next h0 => rw [decide_eq_false h0, beq_false]
  · obtain ⟨y, ho, z, r, co, hz, hy, hadd, hsub⟩ := addc_runs h hn hc
    rw [patA_eq, patB_eq] at hadd hsub
    refine ⟨y, ho, z, _, co, hz, hy, fun h0 => ?_, fun h0 => ?_⟩
    · obtain ⟨hr, hco⟩ := hadd h0
      exact ⟨patResult_extendTo _ _ _ hr, hco⟩
    · obtain ⟨hr, hco⟩ := hsub h0
      exact ⟨patResult_extendTo _ _ _ hr, hco⟩
  · exact ⟨_, issue_done (accs := fun _ => []) h rfl, rfl⟩
  · exact writeP_writes h hd rfl
  · exact writeP_writes h hd rfl
  · exact writeP_writes h hd rfl
  · refine writeP_writes h hd ?_
    rw [opAI, Bool.eq_iff_iff, bne_iff_ne, decide_eq_true_iff]
  · refine writeS_runs h fun y hy => ⟨_, hy, fun h0 => if_pos h0, fun h0 => ?_⟩
    obtain ⟨hlt, hbits⟩ := bitSum_lt_and_testBit (pGet (curSlot s)) 8
    rw [if_neg h0, BitVec.toNat_ofNat, Nat.mod_eq_of_lt (hlt.trans (by norm_num)), BitVec.getLsbD_ofNat]
    refine ⟨hlt, ?_, fun j hj => ?_⟩
    · rw [hbits 7 (by norm_num)]
      rfl
    · rw [BitVec.getLsbD_ofNat, hbits j hj, decide_eq_true (by omega), Bool.true_and]

end Sys2Proof
end

section
/-!
PROOFS. Transfers of control (O6; R11, R13, R14, R23, R24, R91-R93): where a transfer goes, what it leaves, and the check that a bad
target fails.
-/

namespace Sys2Proof.Machine

variable {s : State} {g : Guard} {uses : List Use} {body : State → Eff} {t : Word} {wr : Slot → Slot}

/-! ### The fetch of the target's line -/

/-- The corrections that a read makes concern no slot. -/
theorem readFlat_setSlot (s : State) (w : SlotRef) (y : Slot) (a n : Nat) :
    (readFlat (setSlot s w y) a n).2 = setSlot (readFlat s a n).2 w y := by
  cases h : s.ecc.isEmpty <;> simp only [readFlat, setSlot_ecc, h] <;> rfl

/-- A fetch reads of the slot nothing but its instruction buffer. -/
theorem fixFetch_setSlot (s : State) (w : SlotRef) (t : Word) {y : Slot} (hi : y.ibuf = (slotAt s w).ibuf) :
    fixFetch (setSlot s w y) w t = setSlot (fixFetch s w t) w y := by
  have hl : lineView (setSlot s w y) w (lineOfPc t) = lineView s w (lineOfPc t) := by
    unfold lineView
    rw [slotAt_setSlot, hi]
    rfl
  unfold fixFetch
  rw [slotAt_setSlot, hi, hl]
  split
  · rfl
  · exact readFlat_setSlot ..

/-! ### How a transfer ends -/

/-- A transfer goes to a target that passes its checks, and is reported on itself when the target fails one (R14, R92, R93). -/
def Transfers (s : State) (g : Guard) (o : Out_) (t : Word) (P : Slot → Prop) : Prop :=
  (checkTarget s s.cur t = none → RunsTo s g t o P) ∧
  ∀ c, checkTarget s s.cur t = some c → o = .next (raisePrecise (fixFetch s s.cur t) s.cur c t)

theorem transfer_transfers {P : Slot → Prop} (h : Ready s g uses false) (hb : body s = transfer t wr s)
    (hi : (wr (curSlot s)).ibuf = (curSlot s).ibuf) (hP : P (wr (curSlot s))) :
    Transfers s g (issue g uses false body s) t P := by
  rw [issue_ready _ _ _ _ _ (fun _ => []) h, hb, transfer]
  refine ⟨fun hc => ⟨wr (curSlot s), ?_, hP⟩, fun c hc => ?_⟩
  · have hf : fixFetch (setSlot s s.cur (wr (slotAt s s.cur))) s.cur t = _ := fixFetch_setSlot s s.cur t hi
    rw [hc]
    simp only [applyEff, afterIssue, withCur, slotAt_setSlot, setSlot_setSlot, hf]
    unfold bufferJump retired curSlot
    split <;> rfl
  · rw [hc]
    rfl

theorem sPut_ibuf (x : Slot) (d : RegIx) (v : Word) : (sPut x d v).ibuf = x.ibuf := by
  unfold sPut
  split <;> rfl

/-! ### The transfers (R92) -/

theorem br_transfers {f : BForm} (h : Ready s g [] false) :
    Transfers s g (exec (.br g f) s) (branchTarget (curSlot s).pc f) fun y => y = curSlot s :=
  transfer_transfers (body := fun s => transfer (branchTarget (curSlot s).pc f) id s) h rfl rfl rfl

theorem bri_transfers {f : RForm} (h : Ready s g [.s f.a] false) :
    Transfers s g (exec (.bri g f) s) (sGet (curSlot s) f.a) fun y => y = curSlot s :=
  transfer_transfers (body := fun s => transfer (sGet (curSlot s) f.a) id s) h rfl rfl rfl

theorem ret_transfers {f : RForm} (h : Ready s g [.s 63] false) :
    Transfers s g (exec (.ret g f) s) (sGet (curSlot s) 63) fun y => y = curSlot s :=
  transfer_transfers (body := fun s => transfer (sGet (curSlot s) 63) id s) h rfl rfl rfl

theorem call_transfers {f : BForm} (h : Ready s g [.ds 63] false) :
    Transfers s g (exec (.call g f) s) (branchTarget (curSlot s).pc f) fun y => WritesS (curSlot s) y 63 (nextCell (curSlot s).pc) 0 :=
  transfer_transfers (body := fun s => transfer (branchTarget (curSlot s).pc f) (writeLink (curSlot s).pc) s) h rfl (sPut_ibuf ..)
    (writesS_sPut_quiet ..)

theorem calli_transfers {f : RForm} (h : Ready s g [.s f.a, .ds 63] false) :
    Transfers s g (exec (.calli g f) s) (sGet (curSlot s) f.a) fun y => WritesS (curSlot s) y 63 (nextCell (curSlot s).pc) 0 :=
  transfer_transfers (body := fun s => transfer (sGet (curSlot s) f.a) (writeLink (curSlot s).pc) s) h rfl (sPut_ibuf ..)
    (writesS_sPut_quiet ..)

theorem loop_transfers {f : BForm} (h : Ready s g [.ds f.a] false) (hc : sGet (curSlot s) f.a - 1 ≠ 0) :
    Transfers s g (exec (.loop g f) s) (branchTarget (curSlot s).pc f)
      fun y => WritesS (curSlot s) y f.a (sGet (curSlot s) f.a - 1) 0 :=
  transfer_transfers h (if_neg hc : loopBody f s = _) (sPut_ibuf ..) (writesS_sPut_quiet ..)

/-- LOOP falls through when its count becomes zero. -/
theorem loop_runs {f : BForm} (h : Ready s g [.ds f.a] false) (hc : sGet (curSlot s) f.a - 1 = 0) :
    Runs s g (exec (.loop g f) s) fun y => WritesS (curSlot s) y f.a 0 0 :=
  runs_of_withCur s g _ _ _ (fun _ => []) _ _ h (if_pos hc : loopBody f s = _) (writesS_sPut_quiet ..)

/-! ### The checks of a target (R11, R13, R14) -/

theorem checkPc_fetchAlign (h : cellIx t = none) : checkPc t = some .fetchAlign := by simp [checkPc, h]

theorem checkPc_access (h : cellIx t ≠ none) (ha : t.extractLsb' 20 44 ≠ 0) : checkPc t = some .access := by
  obtain ⟨k, hk⟩ := Option.ne_none_iff_exists'.mp h
  rw [checkPc, hk]
  exact if_pos (bne_iff_ne.mpr ha)

theorem checkPc_none {k : Nat} (h : cellIx t = some k) (ha : t.extractLsb' 20 44 = 0) : checkPc t = none := by
  simp [checkPc, h, ha]

theorem checkTarget_of_checkPc {w : SlotRef} {c : Cause} (h : checkPc t = some c) : checkTarget s w t = some c := by
  rw [checkTarget, h]

/-- A legal PC is checked by its line: parity, form, and the TGT bit of its cell. -/
theorem checkTarget_line {w : SlotRef} {k : Nat} (hk : cellIx t = some k) (ha : t.extractLsb' 20 44 = 0) :
    let first := lineView s w (lineOfPc t)
    let line := if lwBad first then freshLine s (coreRefOf w) (lineOfPc t) else first
    checkTarget s w t = if lwBad line = true then some .lineParity
      else if (lwOf line).extractLsb' 14 18 ≠ 0 then some .illegalLine
      else if (lwOf line).getLsbD k = false then some .branchTarget else none := by
  intro first line
  have hl : checkLine s w t = if lwBad line then .error .lineParity
      else if (lwOf line).extractLsb' 14 18 != 0#18 then .error .illegalLine else .ok line := rfl
  rw [checkTarget, checkPc_none hk ha, hl, hk]
  by_cases hb : lwBad line = true
  · simp [hb]
  by_cases hi : (lwOf line).extractLsb' 14 18 = 0
  · cases hg : (lwOf line).getLsbD k <;> simp [hb, hi, hg]
  · have hi' : ((lwOf line).extractLsb' 14 18 != 0#18) = true := bne_iff_ne.mpr hi
    rw [if_neg hb, if_neg hb, if_pos hi', if_pos hi]

end Sys2Proof.Machine

namespace Sys2Proof

open Sys2Proof.Machine

/-- Settles O6: each transfer goes or is reported by the check of its target, whose cause is the first check that fails. -/
theorem transfersOfControl : Obligations.TransfersOfControl :=
  ⟨fun _ _ _ _ => ⟨fun h => (br_transfers h).1, fun h => (bri_transfers h).1, fun h => (call_transfers h).1,
      fun h => (calli_transfers h).1, fun h => (ret_transfers h).1, fun h => ⟨loop_runs h, fun h0 => (loop_transfers h h0).1⟩⟩,
    fun _ _ _ _ c => ⟨fun h => (br_transfers h).2 c, fun h => (bri_transfers h).2 c, fun h => (call_transfers h).2 c,
      fun h => (calli_transfers h).2 c, fun h => (ret_transfers h).2 c, fun h h0 => (loop_transfers h h0).2 c,
      fun hk => checkTarget_of_checkPc (checkPc_fetchAlign hk), fun hk ha => checkTarget_of_checkPc (checkPc_access hk ha),
      fun _ hk ha => checkTarget_line hk ha⟩⟩

end Sys2Proof
end

section
/-!
PROOFS. The scalar floating-point instructions whose flags are not enabled (O7, O9; R57, R94-R101): those of fixed latency write their
result, the deferred ones leave theirs outstanding, and hold the slot while `FENA` is not zero.
-/

namespace Sys2Proof.Machine

variable {s : State} {g : Guard} {f : RForm}

/-- The class of FCLASS as a power of two. -/
theorem ofNat_two_pow_eq_shift (k : Nat) : BitVec.ofNat 64 (2 ^ k) = 1#64 <<< k := by
  refine BitVec.eq_of_toNat_eq ?_
  rw [BitVec.toNat_ofNat, BitVec.toNat_shiftLeft, Nat.shiftLeft_eq]
  simp

/-! ### Deferred results (R101) -/

section
variable {uses : List Use} {body : State → Eff} {fl : Flags} {d : Dst} {v : VWord}

/-- An instruction that is held until the value that it defers returns. -/
theorem holds_of_deferValue (h : Ready s g uses true)
    (hb : body s = .hold (deferValue (withCur s fun x => raiseFl x fl) d v) s.nextId) :
    Holds s g (issue g uses true body s) d (.value v) [] fun y => RaisesOnly (curSlot s) y fl := by
  refine ⟨raiseFl (curSlot s) fl, valueOut s d v, rfl, rfl, rfl, rfl, rfl, rfl, rfl, rfl, ?_⟩
  rw [issue_ready _ _ _ _ _ (fun _ => []) h, hb, deferValue_raiseFl]
  simp [applyEff, addOut, withCur, curSlot, setSlot, slotAt, valueOut]

/-- A deferred instruction with no enabled flag, as `FENA` says. -/
def DefersOrHolds (s : State) (g : Guard) (o : Out_) (d : Dst) (v : VWord) (fl : Flags) : Prop :=
  if (curSlot s).csr.fena = 0 then Defers s g o d (.value v) [] fun y => RaisesOnly (curSlot s) y fl
  else Holds s g o d (.value v) [] fun y => RaisesOnly (curSlot s) y fl

theorem deferFl_defersOrHolds (h : Ready s g uses true) (hb : body s = deferFl s fl d v) (he : ieee fl &&& (curSlot s).csr.fena = 0) :
    DefersOrHolds s g (issue g uses true body s) d v fl := by
  have hq : (ieee fl &&& (curSlot s).csr.fena != 0) = false := by rw [he]; rfl
  unfold DefersOrHolds
  unfold deferFl at hb
  dsimp only at hb
  rw [hq, if_neg Bool.false_ne_true] at hb
  split
  · next h0 =>
    rw [if_pos h0] at hb
    exact defers_of_deferValue h hb
  · next h0 =>
    rw [if_neg h0] at hb
    exact holds_of_deferValue h hb

end

end Sys2Proof.Machine

namespace Sys2Proof

open Sys2Proof.Machine

/-- Settles O7: arithmetic by its flags, which are not enabled; FCLASS and FSGN raise none. -/
theorem floatResults : Obligations.FloatResults := by
  intro s g f h hn
  refine ⟨fun he => ?_, fun he => ?_, fun he => ?_, fun he => ?_, fun he => ?_, fun he => ?_, ?_, ?_⟩
  · exact finishFl_runs h rfl he (writesS_sPut ..)
  · exact finishFl_runs h rfl he (writesS_sPut ..)
  · exact finishFl_runs h (fpArithChecked_clean hn) he (writesS_sPut ..)
  · exact finishFl_runs h (fpArithChecked_clean hn) he (writesS_sPut ..)
  · exact finishFl_runs h rfl he (writesS_sPut ..)
  · exact finishFl_runs h rfl he (writesS_sPut ..)
  · exact writeS_runs h fun _ hy => by rwa [ofNat_two_pow_eq_shift] at hy
  · exact writeS_runs h fun _ hy => hy

/-- Settles O9: each instruction ends in `deferFl`, whose flags are not enabled. -/
theorem deferredFloatResults : Obligations.DeferredFloatResults :=
  fun _ _ _ h => ⟨deferFl_defersOrHolds h rfl, deferFl_defersOrHolds h rfl, deferFl_defersOrHolds h rfl,
    deferFl_defersOrHolds h rfl, deferFl_defersOrHolds h rfl, deferFl_defersOrHolds h rfl⟩

end Sys2Proof
end

section
/-!
PROOFS. Stores (O21; R104, R128, R208, R224, R232): a store instruction for which there is room enters its near units in the store
buffer and its far ones in the far store queue.
-/

namespace Sys2Proof.Machine

variable {s t : State} {us : List AccUnit} {rel : Option Nat} {flush : Option Bool}

/-! ### Entries of the buffers -/

/-- These entries have come to the ends of the current core's buffers, and nothing else changed but the identities handed out. -/
def Entered (s t : State) (near far : List StEnt) : Prop :=
  ∃ n cores, OnlyCore s cores { coreOf s s.cur with sbuf := (coreOf s s.cur).sbuf ++ near, fq := (coreOf s s.cur).fq ++ far } ∧
    t = { s with nextId := n, cores := cores }

theorem entered_self (s : State) : Entered s s [] [] :=
  ⟨s.nextId, s.cores, ⟨by rw [List.append_nil, List.append_nil]; rfl, fun _ _ => rfl⟩, rfl⟩

theorem entered_near (s : State) (n : Nat) (es : List StEnt) :
    Entered s (setCoreOf { s with nextId := n } s.cur { coreOf s s.cur with sbuf := (coreOf s s.cur).sbuf ++ es }) es [] :=
  ⟨n, _, ⟨by rw [List.append_nil]; exact tget_tput_same .., fun _ hk => tget_tput_other _ _ _ _ _ hk⟩, rfl⟩

theorem entered_far (s : State) (n : Nat) (es : List StEnt) :
    Entered s (setCoreOf { s with nextId := n } s.cur { coreOf s s.cur with fq := (coreOf s s.cur).fq ++ es }) [] es :=
  ⟨n, _, ⟨by rw [List.append_nil]; exact tget_tput_same .., fun _ hk => tget_tput_other _ _ _ _ _ hk⟩, rfl⟩

/-- The far entries after the near ones. -/
theorem Entered.then {u : State} {near far : List StEnt} (h : Entered s t near []) (k : Entered t u [] far) : Entered s u near far := by
  obtain ⟨n, cores, ⟨hc, ho⟩, rfl⟩ := h
  obtain ⟨n', cores', ⟨hc', ho'⟩, rfl⟩ := k
  refine ⟨n', cores', ⟨?_, fun q hq => (ho' q hq).trans (ho q hq)⟩, rfl⟩
  rw [hc', coreOf, hc, List.append_nil, List.append_nil]

/-- Entries do not change what a later entry of the same instruction is made of, but for the stores that a release makes visible. -/
theorem newEntry_of_entered {near far es : List StEnt} (h : Entered s t near far) (hr : rel = none ∨ t = s)
    (k : NewEntry t es us rel flush) : NewEntry s es us rel flush := by
  rcases hr with rfl | rfl
  · obtain ⟨n, cores, -, rfl⟩ := h
    exact k
  · exact k

/-- The entry that a store of the current slot makes of these units (R208, R224). -/
def storeEntry (s : State) (grp : Nat) (us : List AccUnit) (rel : Option Nat) (flush : Option Bool) : StEnt :=
  ⟨s.nextId, s.cur.k, (curSlot s).pc, us, if rel.isSome then relCovers s s.cur else [], rel, grp, false,
    if flush.isSome then [] else wholeWords s.cur us, flush, remoteUid (curSlot s), (curSlot s).csr.pkey, (curSlot s).supv⟩

theorem newEntry_storeEntry (grp : Nat) (h : us ≠ []) : NewEntry s [storeEntry s grp us rel flush] us rel flush :=
  .inr ⟨_, rfl, h, rfl, rfl, rfl, rfl, rfl, rfl, rfl, rfl⟩

/-! ### Entering the buffers -/

/-- A near store with room enters the store buffer. -/
theorem bufferStore_near (grp : Nat) (hroom : (coreOf s s.cur).sbuf.length < 16) :
    ∃ es t, bufferStore s true grp us rel flush = some t ∧ NewEntry s es us rel flush ∧ Entered s t es [] ∧ (us = [] → t = s) := by
  by_cases h : us = []
  · subst h
    exact ⟨[], s, rfl, .inl ⟨rfl, rfl⟩, entered_self s, fun _ => rfl⟩
  · refine ⟨_, _, ?_, newEntry_storeEntry grp h, entered_near s (s.nextId + 1) _, fun he => absurd he h⟩
    simp only [bufferStore, List.isEmpty_iff, h, if_false, if_true, if_neg (Nat.not_le.mpr hroom)]
    rfl

/-- A far store with room enters the far store queue. -/
theorem bufferStore_far (grp : Nat) (hroom : (coreOf s s.cur).fq.length < 16) :
    ∃ es t, bufferStore s false grp us rel flush = some t ∧ NewEntry s es us rel flush ∧ Entered s t [] es := by
  by_cases h : us = []
  · subst h
    exact ⟨[], s, rfl, .inl ⟨rfl, rfl⟩, entered_self s⟩
  · refine ⟨_, _, ?_, newEntry_storeEntry grp h, entered_far s (s.nextId + 1) _⟩
    simp only [bufferStore, List.isEmpty_iff, h, Bool.false_eq_true, if_false, if_neg (Nat.not_le.mpr hroom)]
    rfl

/-- An instruction's units enter the two buffers. Of a release there is one unit, so that its entry does not cover another of its own. -/
theorem bufferBoth_enters (hroom : BufferRoom s) (hr : rel = none ∨ ∃ u, us = [u]) :
    ∃ near far t, bufferBoth s us rel flush = some t ∧
      NewEntry s near (us.filter (fun u => isNear s (whoOf s s.cur) u.va)) rel flush ∧
      NewEntry s far (us.filter (fun u => !isNear s (whoOf s s.cur) u.va)) rel flush ∧ Entered s t near far := by
  have hp : us.partition (unitNear s s.cur) = (us.filter (fun u => isNear s (whoOf s s.cur) u.va),
      us.filter (fun u => !isNear s (whoOf s s.cur) u.va)) := List.partition_eq_filter_filter ..
  obtain ⟨near, t, hb, hn, he, h0⟩ := bufferStore_near (us := us.filter (fun u => isNear s (whoOf s s.cur) u.va)) (rel := rel)
    (flush := flush) s.nextId hroom.1
  have hroom' : (coreOf t t.cur).fq.length < 16 := by
    obtain ⟨n, cores, ⟨hc, -⟩, rfl⟩ := he
    rw [coreOf, hc, List.append_nil]
    exact hroom.2
  obtain ⟨far, v, hb', hn', he'⟩ := bufferStore_far (us := us.filter (fun u => !isNear s (whoOf s s.cur) u.va)) (rel := rel)
    (flush := flush) s.nextId hroom'
  refine ⟨near, far, v, ?_, hn, ?_, he.then he'⟩
  · rw [bufferBoth, hp]
    dsimp only
    rw [hb]
    exact hb'
  · rcases hr with rfl | ⟨u, rfl⟩
    · exact newEntry_of_entered he (.inl rfl) hn'
    · cases hu : isNear s (whoOf s s.cur) u.va
      · exact newEntry_of_entered he (.inr (h0 (by simp [hu]))) hn'
      · simp only [List.filter_cons, hu, Bool.not_true, Bool.false_eq_true, if_false, List.filter_nil] at hn' ⊢
        rcases hn' with ⟨-, rfl⟩ | ⟨-, -, hne, -⟩
        · exact .inl ⟨rfl, rfl⟩
        · exact absurd rfl hne

/-! ### Store instructions -/

/-- A store instruction whose checks pass enters the buffers. -/
theorem buffersStore_of_bufferBoth {g : Guard} {uses : List Use} {body : State → Eff} {accs : State → List Acc}
    (h : Ready s g uses false (accs s)) (hroom : BufferRoom s) (hr : rel = none ∨ ∃ u, us = [u])
    (hb : ∀ t, bufferBoth s us rel flush = some t → body s = .done t) :
    BuffersStore s g (issue g uses false body s accs) us rel flush := by
  obtain ⟨near, far, t, ht, hn, hf, n, cores, hc, rfl⟩ := bufferBoth_enters hroom hr
  exact ⟨near, far, n, cores, hn, hf, hc, issue_done h (hb _ ht)⟩

theorem storeBody_done {check : BitVec 16 → Word → Nat → Option Cause} {f : MForm} {n : Nat} {data : Slot → Nat}
    (hl : ldaOut (curSlot s) = false) (hc : check (coreOf s s.cur).ident.asid (eaOf (curSlot s) f) n = none)
    (hk : confine s.cur (curSlot s) [(eaOf (curSlot s) f, n)] = none)
    (hb : bufferBoth s [⟨eaOf (curSlot s) f, n, 0, some (BitVec.ofNat 128 (data (curSlot s) % 256 ^ n))⟩] rel none = some t) :
    storeBody check f n data rel s = .done t := by
  unfold storeBody oneUnit
  dsimp only
  rw [hl, hc, hk]
  dsimp only
  rw [hb]
  rfl

theorem vStoreBody_done {f : MForm} {k : VAddr} (hl : ldaOut (curSlot s) = false)
    (hc : vCheck (coreOf s s.cur).ident.asid (curSlot s) f k = none)
    (hk : confine s.cur (curSlot s) ((vActive (curSlot s) f k).map (fun e => (e.2, tyBytes f.ty))) = none)
    (hb : bufferBoth s (vAccUnits (curSlot s) f k (some (vGet (curSlot s) f.c))) none none = some t) :
    vStoreBody f k s = .done t := by
  unfold vStoreBody
  dsimp only
  rw [hl, hc, hk]
  dsimp only
  rw [hb]
  rfl

/-! ### FLUSH (R232) -/

section
variable {f : MForm} (hl : ldaOut (curSlot s) = false)
include hl

theorem flushBody_page {tag a : Nat} (hp : placeOf (coreOf s s.cur).ident.asid (eaOf (curSlot s) f) = .page tag a) :
    flushBody f s = if flushIdle s s.cur (eaOf (curSlot s) f &&& ~~~127#64) then .done s
      else match bufferBoth s [⟨eaOf (curSlot s) f &&& ~~~127#64, 128, 0, none⟩] none (some (f.ext.getLsbD 0)) with
        | none => .stall s
        | some t => .done t := by
  unfold flushBody
  dsimp only
  rw [hl, hp]
  rfl

theorem flushBody_bad (hp : placeOf (coreOf s s.cur).ident.asid (eaOf (curSlot s) f) = .bad) :
    flushBody f s = .fault .access (eaOf (curSlot s) f) := by
  unfold flushBody
  dsimp only
  rw [hl, hp]
  rfl

/-- Outside the pages FLUSH does nothing. -/
theorem flushBody_elsewhere (hb : placeOf (coreOf s s.cur).ident.asid (eaOf (curSlot s) f) ≠ .bad)
    (hp : ∀ tag a, placeOf (coreOf s s.cur).ident.asid (eaOf (curSlot s) f) ≠ .page tag a) : flushBody f s = .done s := by
  unfold flushBody
  dsimp only
  rw [hl]
  cases h : placeOf (coreOf s s.cur).ident.asid (eaOf (curSlot s) f) with
  | bad => exact absurd h hb
  | page tag a => exact absurd h (hp tag a)
  | lcl a => rfl
  | core d c off => rfl

end

end Sys2Proof.Machine

namespace Sys2Proof

open Sys2Proof.Machine

/-- Settles O21: each store's checks pass, so that its units enter the buffers, which have room. -/
theorem storesEnterTheBuffers : Obligations.StoresEnterTheBuffers := by
  intro s g f hl hroom
  refine ⟨fun h hk => ⟨fun hc => ?_, fun hc => ?_⟩, fun h hc hk => ?_, fun h hc hk => ?_, fun h hc hk => ?_, fun h hc hk => ?_,
    fun h => ⟨fun ⟨tag, a, hp⟩ => ⟨fun hi => ?_, fun hi => ?_⟩, fun hp => ?_, fun hb hp => ?_⟩⟩
  · exact buffersStore_of_bufferBoth h hroom (.inl rfl) fun _ ht => storeBody_done hl hc hk ht
  · exact buffersStore_of_bufferBoth h hroom (.inr ⟨_, rfl⟩) fun _ ht => storeBody_done hl hc hk ht
  · exact buffersStore_of_bufferBoth h hroom (.inl rfl) fun _ ht => storeBody_done hl hc hk ht
  · exact buffersStore_of_bufferBoth h hroom (.inl rfl) fun _ ht => vStoreBody_done hl hc hk ht
  · exact buffersStore_of_bufferBoth h hroom (.inl rfl) fun _ ht => vStoreBody_done hl hc hk ht
  · exact buffersStore_of_bufferBoth h hroom (.inl rfl) fun _ ht => vStoreBody_done hl hc hk ht
  · refine buffersStore_of_bufferBoth (accs := fun _ => []) h hroom (.inl rfl) fun t ht => ?_
    rw [flushBody_page hl hp, hi, ht]
    rfl
  · exact ⟨_, issue_done (accs := fun _ => []) h ((flushBody_page hl hp).trans (if_pos hi)), rfl⟩
  · exact issue_fault (accs := fun _ => []) h (flushBody_bad hl hp)
  · exact ⟨_, issue_done (accs := fun _ => []) h (flushBody_elsewhere hl hb hp), rfl⟩

end Sys2Proof
end

section
/-!
PROOFS. A load where a word's errors are listed twice (O20; R27, R105): the statement speaks of every state, and so of tables of error
entries that list one word twice, which no operation of the machine makes. A read corrects the word by dropping the first of the two, and
then the second one shows, which is neither what was there nor a word without errors.
-/

namespace Sys2Proof.Machine

/-- The error entries that an outcome leaves. -/
def eccAfter : Out_ → Tbl Ecc
  | .next t => t.ecc
  | _ => []

/-- A load that has run has only corrected words. -/
theorem correctsOnly_eccAfter {s : State} {g : Guard} {o : Out_} {P : Slot → Slot → Prop} (h : LoadsNow s g o P) :
    CorrectsOnly s.ecc (eccAfter o) := by
  obtain ⟨ecc, new, y, hc, rfl, -⟩ := h
  exact hc

/-- Slot 0 of core 0 is READY; word 0 of its local store is listed with one flipped bit, and again with two. -/
def twiceListed : State :=
  { setSlot State.reset ⟨0, 0, 0, 0⟩ { Slot.reset with st := .ready } with ecc := [(0, ⟨1, false⟩), (0, ⟨3, false⟩)] }

/-- The guard that always holds. -/
def always : Guard := ⟨false, 7, false⟩

/-- The form of a load of 8 bytes at LOCAL address 0. -/
def loadWord0 : MForm := ⟨.s64, 0, false, 1, 0, 0, 0, false, 0, 0, 0, 0⟩

theorem twiceListed_ready (accs : List Acc) : Ready twiceListed always (.ds loadWord0.d :: usesM loadWord0) false accs :=
  ⟨⟨by decide, by decide, by decide, nofun⟩, fun _ hp => absurd hp List.not_mem_nil⟩

/-- The read drops the first entry of word 0 and leaves the second. -/
theorem eccAfter_ld_twiceListed : eccAfter (exec (.ld always loadWord0) twiceListed) = [(0, ⟨3, false⟩)] := by decide +kernel

/-- That is no correction: the word had one flipped bit and now has two. -/
theorem not_correctsOnly_second : ¬ CorrectsOnly twiceListed.ecc [(0, ⟨3, false⟩)] := by
  intro h
  exact absurd (h 0) (by decide)

end Sys2Proof.Machine

namespace Sys2Proof

open Sys2Proof.Machine

/-- Refutes O20: a LOCAL load of a word whose errors are listed twice leaves the second entry, with its two flipped bits. -/
theorem not_loadResults : ¬ Obligations.LoadResults := by
  intro h
  obtain ⟨hlocal, -⟩ := h
  obtain ⟨hld, -⟩ := hlocal twiceListed always loadWord0 (by decide) (by decide)
  obtain ⟨hgood, -, -⟩ := hld (twiceListed_ready _) (by decide)
  obtain ⟨hloads, -⟩ := hgood (by decide +kernel) (by unfold localGood; decide +kernel)
  have hc := correctsOnly_eccAfter hloads
  rw [eccAfter_ld_twiceListed] at hc
  exact not_correctsOnly_second hc

end Sys2Proof
end

section
/-!
PROOFS. Vector element arithmetic (O11, O12; R101, R108, R111, R126): an instruction of fixed latency writes its elements and raises
their flags, a deferred one leaves its vector outstanding.
-/

namespace Sys2Proof.Machine

/-! ### Element operations -/

/-- Under `.sat` the result is the exact one clamped to the type, with SAT when that changed it (R52). -/
theorem narrow_sat (t : Ty) (r : Int) : narrow t true r =
    ((max (tyMin t) (min r (tyMax t)) % 2 ^ tyBits t).toNat, if r < tyMin t ∨ tyMax t < r then flSAT else 0) := by
  have hle : tyMin t ≤ tyMax t := (intOf_range t 0).1.trans (intOf_range t 0).2
  simp only [narrow, wrapTo, if_true]
  rcases lt_or_ge r (tyMin t) with h | h
  · have hc : clampTo t r = (tyMin t, true) := if_pos h
    rw [hc, if_pos (Or.inl h), min_eq_left (h.le.trans hle), max_eq_left h.le]
    rfl
  · rcases lt_or_ge (tyMax t) r with h' | h'
    · have hc : clampTo t r = (tyMax t, true) := (if_neg (not_lt.mpr h)).trans (if_pos h')
      rw [hc, if_pos (Or.inr h'), min_eq_right h'.le, max_eq_right hle]
      rfl
    · have hc : clampTo t r = (r, false) := (if_neg (not_lt.mpr h)).trans (if_neg (not_lt.mpr h'))
      have hin : ¬ (r < tyMin t ∨ tyMax t < r) := by omega
      rw [hc, if_neg hin, min_eq_left h', max_eq_right h]
      rfl

variable {s : State} {g : Guard} {f : VForm}

/-- The element operation of an integer type. -/
theorem vecVal_int (x : Slot) (iop : Int → Int → Int → Int) (sat : Bool) (fop : FFmt → RMode → Nat → Nat → Nat → Nat × Flags)
    (h : tyIsInt f.ty = true) :
    vecVal f x iop sat fop = fun j =>
      narrow f.ty sat (iop (intOf f.ty (vA x f j)) (intOf f.ty (vB x f j)) (intOf f.ty (elemOf (tyBits f.ty) (vGet x f.c) j))) := by
  funext j
  unfold vecVal
  dsimp only
  rw [h]
  rfl

/-- An element instruction of fixed latency writes its results, no active one of which traps (R57, R108, R111). -/
theorem vecArith_runs {uses : List Use} {checked : Bool} {iop : Int → Int → Int → Int} {sat : Bool}
    {fop : FFmt → RMode → Nat → Nat → Nat → Nat × Flags} {op : Nat → Nat × Flags} (hn : NoFlip (curSlot s))
    (h : Ready s g uses false) (hop : vecVal f (curSlot s) iop sat fop = op)
    (hq : QuietElems (curSlot s) (tyBits f.ty) (vMask (curSlot s) f) op) :
    Runs s g (issue g uses false (vecArith f checked iop sat fop) s) fun y => ∃ v fl,
      ElemWrites (tyBits f.ty) (vMask (curSlot s) f) f.zm (vGet (curSlot s) f.d) op v fl ∧ WritesV (curSlot s) y f.d v fl := by
  subst hop
  have hw := mapActive_writes (tyBits f.ty) (vMask (curSlot s) f) f.zm (vGet (curSlot s) f.d) (vecVal f (curSlot s) iop sat fop)
  exact finishFl_runs h (vecArith_clean hn) (elemWrites_quiet hw hq) ⟨_, _, hw, writesV_vPut ..⟩

/-! ### Deferred vectors (R101, R126) -/

/-- A deferred value that raises no flag. -/
theorem deferValue_eq_raiseNone (s : State) (d : Dst) (v : VWord) :
    deferValue s d v = deferValue (withCur s fun x => raiseFl x 0) d v := by
  rw [deferValue_raiseFl]
  simp only [raiseFl_zero]
  simp [deferValue, freshId, valueOut, addOut, withCur, curSlot, setSlot, slotAt]

variable {uses : List Use} {iop : Int → Int → Int → Int} {fop : FFmt → RMode → Nat → Nat → Nat → Nat × Flags} {op : Nat → Nat × Flags}

/-- A deferred element instruction on integers leaves its vector outstanding; nothing is raised. -/
theorem vecDeferred_int (h : Ready s g uses true) (ht : tyIsInt f.ty = true) :
    let r := mapActive (tyBits f.ty) (vMask (curSlot s) f) f.zm (vGet (curSlot s) f.d) (vecVal f (curSlot s) iop false fop)
    Defers s g (issue g uses true (vecDeferred f iop fop) s) (.vreg f.d) (.value r.1) [] fun y => RaisesOnly (curSlot s) y 0 := by
  refine defers_of_deferValue h ?_
  rw [← deferValue_eq_raiseNone]
  exact if_pos ht

/-- A deferred element instruction leaves its vector outstanding, and while `FENA` is not zero a floating-point one holds its slot (R101). -/
theorem vecDeferred_gives (h : Ready s g uses true) (hop : vecVal f (curSlot s) iop false fop = op) :
    ∃ v fl, ElemWrites (tyBits f.ty) (vMask (curSlot s) f) f.zm (vGet (curSlot s) f.d) op v fl ∧
      ((curSlot s).csr.fena = 0 ∨ tyIsInt f.ty = true →
        Defers s g (issue g uses true (vecDeferred f iop fop) s) (.vreg f.d) (.value v) [] fun y => RaisesOnly (curSlot s) y fl) ∧
      ((curSlot s).csr.fena ≠ 0 → tyIsInt f.ty = false → QuietElems (curSlot s) (tyBits f.ty) (vMask (curSlot s) f) op →
        Holds s g (issue g uses true (vecDeferred f iop fop) s) (.vreg f.d) (.value v) [] fun y => RaisesOnly (curSlot s) y fl) := by
  subst hop
  have hw := mapActive_writes (tyBits f.ty) (vMask (curSlot s) f) f.zm (vGet (curSlot s) f.d) (vecVal f (curSlot s) iop false fop)
  cases ht : tyIsInt f.ty with
  | true =>
    refine ⟨_, 0, ⟨hw.1, fun k _ => ?_⟩, fun _ => vecDeferred_int h ht, nofun⟩
    rw [vecVal_int _ _ _ _ ht]
    simp [narrow]
  | false =>
    have hends := fun he => deferFl_defersOrHolds h (vecDeferred_float (iop := iop) (fop := fop) ht) he
    refine ⟨_, _, hw, fun h0 => ?_, fun hne _ hq => ?_⟩
    · have h0 : (curSlot s).csr.fena = 0 := h0.resolve_right Bool.false_ne_true
      have hd := hends (by rw [h0]; exact BitVec.and_zero)
      rwa [DefersOrHolds, if_pos h0] at hd
    · have hd := hends (elemWrites_quiet hw hq)
      rwa [DefersOrHolds, if_neg hne] at hd

end Sys2Proof.Machine

namespace Sys2Proof

open Sys2Proof.Machine

/-- Settles O11: each instruction is `vecArith` of its operation, which by type is one on integers or on floating-point numbers. -/
theorem vectorArithmeticResults : Obligations.VectorArithmeticResults := by
  intro s g f hn
  have habs : ∀ z : Int, |z| = if z < 0 then -z else z := fun z => by
    split
    · next hneg => exact abs_of_neg hneg
    · next hpos => exact abs_of_nonneg (not_lt.mp hpos)
  refine ⟨fun h => ⟨vecArith_runs hn h rfl, vecArith_runs hn h rfl, vecArith_runs hn h rfl, vecArith_runs hn h rfl,
    vecArith_runs hn h rfl, fun ht => ⟨?_, ?_, ?_⟩, fun ht => ?_⟩, fun h => vecArith_runs hn h rfl, fun h => ?_⟩
  · exact vecArith_runs hn h (vecVal_int _ _ _ _ ht)
  · exact vecArith_runs hn h ((vecVal_int _ _ _ _ ht).trans (funext fun j => narrow_sat ..))
  · exact vecArith_runs hn h ((vecVal_int _ _ _ _ ht).trans (funext fun j => narrow_sat ..))
  · exact vecArith_runs hn h (vecVal_float _ _ _ _ ht)
  · dsimp only
    simp only [habs]
    exact vecArith_runs hn h rfl

/-- Settles O12: each instruction is `vecDeferred` of its operation. -/
theorem deferredVectorResults : Obligations.DeferredVectorResults :=
  fun _ _ _ => ⟨fun h => vecDeferred_gives h rfl, fun h ht => ⟨vecDeferred_gives h (vecVal_float _ _ _ _ ht),
    vecDeferred_gives h (vecVal_float _ _ _ _ ht), vecDeferred_gives h (vecVal_float _ _ _ _ ht),
    vecDeferred_gives h (vecVal_float _ _ _ _ ht), vecDeferred_gives h (vecVal_float _ _ _ _ ht)⟩⟩

end Sys2Proof
end

section
/-!
PROOFS. Element patterns and element moves (O13; R112, R114): each element operation of the model on natural numbers is the one of the
statement, modulo the width.
-/

namespace Sys2Proof.Machine

variable {s : State} {g : Guard} {f : VForm}

/-! ### Elements as patterns -/

theorem vA_lt (x : Slot) (f : VForm) (j : Nat) : vA x f j < 2 ^ tyBits f.ty := elemOf_lt ..

theorem vB_lt (x : Slot) (f : VForm) (j : Nat) : vB x f j < 2 ^ tyBits f.ty := by
  unfold vB vElemB
  split
  · exact Nat.mod_lt _ (by positivity)
  · exact elemOf_lt ..

@[simp] theorem toNat_ofNat_vA (x : Slot) (f : VForm) (j : Nat) : (BitVec.ofNat (tyBits f.ty) (vA x f j)).toNat = vA x f j := by
  rw [BitVec.toNat_ofNat, Nat.mod_eq_of_lt (vA_lt ..)]

@[simp] theorem toNat_ofNat_vB (x : Slot) (f : VForm) (j : Nat) : (BitVec.ofNat (tyBits f.ty) (vB x f j)).toNat = vB x f j := by
  rw [BitVec.toNat_ofNat, Nat.mod_eq_of_lt (vB_lt ..)]

/-- The scalar operand B of VEXT, VINS and VROT as a number (R114). -/
theorem vScalB_eq (x : Slot) (f : VForm) :
    vScalB x f = if f.i then (f.vimm.signExtend 64).toNat else (sGet x f.b).toNat :=
  apply_ite BitVec.toNat ..

/-! ### How the instructions end -/

/-- Flags each of which comes with flags that raise no enabled one raise none (R57). -/
theorem ieee_quiet {fl : Flags} {fena : BitVec 5}
    (h : ∀ q, q < 7 → fl.getLsbD q = true → ∃ fl' : Flags, ieee fl' &&& fena = 0 ∧ fl'.getLsbD q = true) : ieee fl &&& fena = 0 := by
  refine BitVec.eq_of_getLsbD_eq fun q hq => ?_
  rw [BitVec.getLsbD_and, ieee_getLsbD, decide_eq_true hq, Bool.true_and]
  cases hf : fl.getLsbD q with
  | false => simp
  | true =>
    obtain ⟨fl', hz, hs⟩ := h q (by omega) hf
    rw [← hz, BitVec.getLsbD_and, ieee_getLsbD, decide_eq_true hq, hs]
    rfl

/-- Element results that agree modulo the width leave the same vector. -/
theorem elemWrites_congr {n : Nat} {mask : BitVec 64} {zm : Bool} {old v : VWord} {op op' : Nat → Nat}
    (h : ElemWrites n mask zm old (fun j => (op j, 0)) v 0) (hop : ∀ j, op j % 2 ^ n = op' j % 2 ^ n) :
    ElemWrites n mask zm old (fun j => (op' j, 0)) v 0 := by
  obtain ⟨hv, hfl⟩ := h
  exact ⟨fun j hj => by rw [hv j hj, hop j], hfl⟩

/-- An instruction on element patterns writes its results and raises nothing (R112, R114). -/
theorem vecBits_runs {uses : List Use} {op : Slot → Nat → Nat} {P : Slot → Prop} (h : Ready s g uses false)
    (hP : ∀ y v, ElemWrites (tyBits f.ty) (vMask (curSlot s) f) f.zm (vGet (curSlot s) f.d) (fun j => (op (curSlot s) j, 0)) v 0 →
      WritesV (curSlot s) y f.d v 0 → P y) :
    Runs s g (issue g uses false (vecBits f op) s) P :=
  runs_of_withCur s g _ _ _ (fun _ => []) _ _ h rfl (hP _ _ (mapActive_writes_quiet ..) (writesV_vPut_quiet ..))

theorem vecBits_gives {uses : List Use} {op : Slot → Nat → Nat} {op' : Nat → Nat} (h : Ready s g uses false)
    (hop : ∀ j, op (curSlot s) j % 2 ^ tyBits f.ty = op' j % 2 ^ tyBits f.ty) :
    Runs s g (issue g uses false (vecBits f op) s) fun y => ∃ v,
      ElemWrites (tyBits f.ty) (vMask (curSlot s) f) f.zm (vGet (curSlot s) f.d) (fun j => (op' j, 0)) v 0 ∧
        WritesV (curSlot s) y f.d v 0 :=
  vecBits_runs h fun _ v he hw => ⟨v, elemWrites_congr he hop, hw⟩

/-- An instruction that writes every element of D without a mask (R114). -/
theorem vecAll_gives {uses : List Use} {op : Slot → Nat → Nat} {op' : Nat → Nat} (h : Ready s g uses false)
    (hop : ∀ j, op (curSlot s) j = op' j ∧ op' j < 2 ^ tyBits f.ty) :
    Runs s g (issue g uses false (vecAll f op) s) fun y => ∃ v, WritesV (curSlot s) y f.d v 0 ∧
      ∀ j, j < 512 / tyBits f.ty → elemOf (tyBits f.ty) v j = op' j := by
  refine runs_of_withCur s g _ _ _ (fun _ => []) _ _ h rfl ⟨_, writesV_vPut_quiet .., fun j hj => ?_⟩
  obtain ⟨he, hlt⟩ := hop j
  rw [elemOf_vecAll _ hj (he ▸ hlt), he]

/-- An instruction that writes one scalar register writes it and raises nothing (R114, R127). -/
theorem sPut_runs {uses : List Use} {op : Slot → Word} {P : Slot → Prop} (h : Ready s g uses false)
    (hP : ∀ y, WritesS (curSlot s) y f.d (op (curSlot s)) 0 → P y) :
    Runs s g (issue g uses false (fun s => .done (withCur s fun x => sPut x f.d (op x))) s) P :=
  runs_of_withCur s g _ _ _ (fun _ => []) _ _ h rfl (hP _ (writesS_sPut_quiet ..))

end Sys2Proof.Machine

namespace Sys2Proof

open Sys2Proof.Machine

/-- Settles O13: each instruction is `vecBits` or `vecAll` of its element operation; VEXT writes a scalar. -/
theorem vectorPatternAndMoveResults : Obligations.VectorPatternAndMoveResults := by
  refine ⟨fun s g f => ⟨fun h => ⟨?_, ?_, ?_, ?_, ?_, ?_, ?_⟩, fun h => ?_⟩,
    fun s g f => ⟨fun h => ⟨?_, ?_⟩, fun h => ?_, fun h => ?_, fun h => ?_, fun h => ?_, fun h => ?_⟩⟩
  · refine vecBits_gives h fun j => ?_
    rw [BitVec.toNat_and, toNat_ofNat_vA, toNat_ofNat_vB]
    rfl
  · refine vecBits_gives h fun j => ?_
    rw [BitVec.toNat_or, toNat_ofNat_vA, toNat_ofNat_vB]
    rfl
  · refine vecBits_gives h fun j => ?_
    rw [BitVec.toNat_xor, toNat_ofNat_vA, toNat_ofNat_vB]
    rfl
  · refine vecBits_gives h fun j => ?_
    rw [BitVec.toNat_and, BitVec.toNat_not, toNat_ofNat_vA, toNat_ofNat_vB]
    rfl
  · refine vecBits_gives h fun j => ?_
    rw [BitVec.toNat_shiftLeft, toNat_ofNat_vA, Nat.shiftLeft_eq]
  · refine vecBits_gives h fun j => ?_
    rw [BitVec.toNat_ushiftRight, toNat_ofNat_vA, Nat.shiftRight_eq_div_pow]
  · refine vecBits_gives h fun j => ?_
    rw [← wrapTo_sintOf_div, toNat_ofNat_vA]
  · refine vecBits_gives h fun j => ?_
    rw [← popCount_toNat, toNat_ofNat_vA]
  · refine vecAll_gives h fun j => ?_
    rw [Nat.mod_eq_of_lt (vB_lt ..)]
    dsimp only
    refine ⟨rfl, ?_⟩
    split
    · exact vA_lt ..
    · exact vB_lt ..
  · exact vecBits_gives h fun j => rfl
  · exact vecBits_gives h fun j => Nat.mod_mod ..
  · refine sPut_runs h fun y hy => ⟨_, ?_, hy⟩
    rw [vScalB_eq]
    exact patResult_extendTo _ _ _ rfl
  · refine vecAll_gives h fun j => ⟨by rw [vScalB_eq]; rfl, ?_⟩
    rw [← vScalB_eq]
    split
    · exact Nat.mod_lt _ (by positivity)
    · exact elemOf_lt ..
  · exact vecBits_gives h fun j => by rw [vScalB_eq]; rfl
  · exact vecBits_gives h fun j => rfl

end Sys2Proof
end

section
/-!
PROOFS. VCMP and the mask instructions (O14; R113, R127).
-/

namespace Sys2Proof.Machine

variable {s : State} {g : Guard} {f : VForm}

/-- A mask has the bits it is made from. -/
theorem maskOf_getLsbD (l : Nat) (p : Nat → Bool) {j : Nat} (hj : j < 64) :
    (maskOf l p).getLsbD j = if j < l then p j else false := by
  obtain ⟨hlt, hbits⟩ := bitSum_lt_and_testBit p l
  rw [maskOf, BitVec.getLsbD_ofNat, decide_eq_true hj, Bool.true_and]
  split
  · next h => exact hbits j h
  · next h => exact Nat.testBit_lt_two_pow (hlt.trans_le (Nat.pow_le_pow_right (by norm_num) (not_lt.mp h)))

/-- An instruction that writes one mask writes it and raises nothing (R127). -/
theorem writeM_runs {uses : List Use} {op : Slot → BitVec 64} (h : Ready s g uses false) :
    Runs s g (issue g uses false (writeM f.d op) s) fun y => WritesM (curSlot s) y f.d.toNat (op (curSlot s)) 0 :=
  runs_of_withCur s g _ _ _ (fun _ => []) _ _ h rfl (writesM_mPut_quiet ..)

/-- MMOV from a scalar register or the immediate (R127). -/
theorem execMmov_fromScalar (hs : f.sub = 0) :
    execMmov g f s = issue g [.s f.a, .dm f.d] false (writeM f.d fun x => if f.i then vImm f else sGet x f.a) s := by
  have hb : mmovBody f = writeM f.d fun x => if f.i then vImm f else sGet x f.a := by
    funext s
    unfold mmovBody
    rw [hs]
    rfl
  rw [execMmov, hb, hs]
  rfl

/-- MMOV to a scalar register (R127). -/
theorem execMmov_toScalar (hs : f.sub = 1) :
    execMmov g f s = issue g [.ds f.d] false (fun s => .done (withCur s fun x => sPut x f.d (mGet x f.a.toNat))) s := by
  have hb : mmovBody f = fun s => .done (withCur s fun x => sPut x f.d (mGet x f.a.toNat)) := by
    funext s
    unfold mmovBody
    rw [hs]
    rfl
  rw [execMmov, hb, hs]
  rfl

/-- MMOV from mask to mask (R127). -/
theorem execMmov_fromMask (hs : 1 < f.sub.toNat) :
    execMmov g f s = issue g [.dm f.d] false (writeM f.d fun x => mGet x f.a.toNat) s := by
  obtain ⟨k, hk⟩ : ∃ k, f.sub.toNat = k + 2 := ⟨f.sub.toNat - 2, by omega⟩
  have hb : mmovBody f = writeM f.d fun x => mGet x f.a.toNat := by
    funext s
    unfold mmovBody
    rw [hk]
    rfl
  rw [execMmov, hb, hk]
  rfl

/-- Whether VCMP's comparison holds for element `j`, and its flags (R113). -/
def cmpElem (x : Slot) (f : VForm) (j : Nat) : Bool × Flags :=
  if tyIsInt f.ty then (cmpCond f.sub.toNat (intOf f.ty (vA x f j)) (intOf f.ty (vB x f j)), (0 : Flags))
  else fpCmp (fmtOf f.ty) f.sub.toNat (vA x f j) (vB x f j)

/-- The flags of the active elements that VCMP compares. -/
def cmpFlags (x : Slot) (f : VForm) : Flags :=
  (List.range (512 / tyBits f.ty)).foldl (fun a j => if (vMask x f).getLsbD j then a ||| (cmpElem x f j).2 else a) 0

theorem vcmpBody_eq (s : State) (f : VForm) : vcmpBody f s =
    finishFl s (cmpFlags (curSlot s) f) fun x => mPut x f.d.toNat (maskOf (512 / tyBits f.ty) fun j =>
      if (vMask (curSlot s) f).getLsbD j then (cmpElem (curSlot s) f j).1 else !f.zm && (mGet (curSlot s) f.d.toNat).getLsbD j) :=
  rfl

theorem cmpFlags_quiet {x : Slot} (hq : QuietElems x (tyBits f.ty) (vMask x f) fun j => (0, (cmpElem x f j).2)) :
    ieee (cmpFlags x f) &&& x.csr.fena = 0 := by
  refine ieee_quiet fun q _ hf => ?_
  obtain ⟨j, hj, hm, hs⟩ := (foldl_active_getLsbD ..).mp hf
  exact ⟨_, hq j hj hm, hs⟩

end Sys2Proof.Machine

namespace Sys2Proof

open Sys2Proof.Machine

/-- Settles O14: VCMP by the bits of its mask and the flags of its active elements; each mask instruction writes one register. -/
theorem maskResults : Obligations.MaskResults := by
  intro s g f
  refine ⟨fun h hq => ?_, fun h => ⟨?_, ?_, ?_, ?_, fun hs => ?_⟩, fun h => ⟨?_, ?_, fun hs => ?_⟩, fun h hs => ?_⟩
  · exact finishFl_runs h (vcmpBody_eq s f) (cmpFlags_quiet hq)
      ⟨_, _, writesM_mPut .., fun j hj => maskOf_getLsbD _ _ hj, fun k _ => foldl_active_getLsbD ..⟩
  · exact writeM_runs h
  · exact writeM_runs h
  · exact writeM_runs h
  · exact writeM_runs h
  · exact Eq.mpr (congrArg (Runs s g · _) (execMmov_fromMask hs)) (writeM_runs h)
  · refine sPut_runs h fun y hy => ?_
    rwa [popCount_toNat, BitVec.ofNat_toNat, BitVec.setWidth_eq] at hy
  · refine sPut_runs h fun y hy => ?_
    rwa [ctzOf_toNat, BitVec.ofNat_toNat, BitVec.setWidth_eq] at hy
  · exact Eq.mpr (congrArg (Runs s g · _) (execMmov_toScalar hs)) (sPut_runs h fun _ hy => hy)
  · exact Eq.mpr (congrArg (Runs s g · _) (execMmov_fromScalar hs)) (writeM_runs h)

end Sys2Proof
end

section
/-!
PROOFS. Conversions between element widths (O16; R116-R119, R124, R125).
-/

namespace Sys2Proof.Machine

variable {s : State} {g : Guard} {f : VForm}

/-- A conversion writes its elements and raises the flags of those that it converts (R116). -/
theorem convElems_writes (ws wd p : Nat) (mask : BitVec 64) (zm : Bool) (old src : VWord) (op : Nat → Nat × Flags) :
    ConvWrites ws wd p mask zm old src op (convElems ws wd p mask zm old src op).1 (convElems ws wd p mask zm old src op).2 := by
  unfold ConvWrites convElems
  extract_lets n sb db rs
  constructor
  · intro i hi
    simp only [rs, List.map_map]
    rw [elemOf_packElems_range _ hi]
    simp only [Function.comp_apply, Bool.or_eq_true, decide_eq_true_eq]
    by_cases h : i < db ∨ db + n ≤ i
    · rw [if_pos h, if_neg (by omega), Nat.mod_eq_of_lt (elemOf_lt ..)]
    · have hin : db ≤ i ∧ i < db + n := by omega
      rw [if_neg h, if_pos hin]
      split
      · rfl
      · split
        · exact Nat.zero_mod _
        · exact Nat.mod_eq_of_lt (elemOf_lt ..)
  · intro k _
    simp only [rs, foldl_or_getLsbD, List.mem_map, List.mem_range]
    constructor
    · rintro (h | ⟨_, ⟨i, hi, rfl⟩, h⟩)
      · simp at h
      · split at h
        · simp at h
        · next hd =>
          rw [Bool.or_eq_true, decide_eq_true_eq, decide_eq_true_eq] at hd
          split at h
          · next hm => exact ⟨i - db, by omega, by omega, hm, h⟩
          · simp at h
    · rintro ⟨j, hj, hfit, hm, h⟩
      refine .inr ⟨_, ⟨db + j, hfit, rfl⟩, ?_⟩
      rw [if_neg (by simp; omega), Nat.add_sub_cancel_left, if_pos hm]
      exact h

/-- A conversion no active element of which traps writes its elements (R57, R116). -/
theorem conv_runs {uses : List Use} {body : State → Eff} {op : Nat → Nat × Flags} (h : Ready s g uses false)
    (hb : body s =
      let v := convElems (tyBits (convSrc f)) (tyBits f.ty) (convPart f) (vMask (curSlot s) f) f.zm (vGet (curSlot s) f.d)
        (vGet (curSlot s) f.a) op
      writeV f v.2 s v.1)
    (hq : ∀ j, j < 512 / max (tyBits (convSrc f)) (tyBits f.ty) → (vMask (curSlot s) f).getLsbD j = true →
      ieee (op (elemOf (tyBits (convSrc f)) (vGet (curSlot s) f.a)
        ((if tyBits (convSrc f) < tyBits f.ty then convPart f * (512 / tyBits f.ty) else 0) + j))).2 &&&
          (curSlot s).csr.fena = 0) :
    Runs s g (issue g uses false body s) fun y => ∃ v fl,
      ConvWrites (tyBits (convSrc f)) (tyBits f.ty) (convPart f) (vMask (curSlot s) f) f.zm (vGet (curSlot s) f.d)
        (vGet (curSlot s) f.a) op v fl ∧ WritesV (curSlot s) y f.d v fl := by
  have hw := convElems_writes (tyBits (convSrc f)) (tyBits f.ty) (convPart f) (vMask (curSlot s) f) f.zm (vGet (curSlot s) f.d)
    (vGet (curSlot s) f.a) op
  refine finishFl_runs h hb (ieee_quiet fun q hq7 hf => ?_) ⟨_, _, hw, writesV_vPut ..⟩
  obtain ⟨j, hj, -, hm, hs⟩ := (hw.2 q hq7).mp hf
  have hz := hq j hj hm
  split at hs
  · next hlt =>
    rw [if_pos hlt] at hz
    rw [max_eq_right hlt.le] at hs
    exact ⟨_, hz, hs⟩
  · next hge =>
    rw [if_neg hge] at hz
    exact ⟨_, hz, hs⟩

/-- VPACK writes its narrowed elements, and traps nothing (R118). -/
theorem vpack_runs (h : Ready s g (usesV2 f) false) :
    Runs s g (exec (.vpack g f) s) fun y => ∃ v fl, WritesV (curSlot s) y f.d v fl ∧
      ElemWrites (tyBits f.ty) (vMask (curSlot s) f) f.zm (vGet (curSlot s) f.d) (fun j =>
        narrow f.ty (f.sub = 1) (intOf (wideOf f.ty) (if j < 512 / tyBits f.ty / 2 then
          elemOf (2 * tyBits f.ty) (vGet (curSlot s) f.a) j
        else elemOf (2 * tyBits f.ty) (vGet (curSlot s) f.b) (j - 512 / tyBits f.ty / 2)))) v fl := by
  have hw := mapActive_writes (tyBits f.ty) (vMask (curSlot s) f) f.zm (vGet (curSlot s) f.d) (fun j =>
    narrow f.ty (f.sub = 1) (intOf (wideOf f.ty) (if j < 512 / tyBits f.ty / 2 then
      elemOf (2 * tyBits f.ty) (vGet (curSlot s) f.a) j
    else elemOf (2 * tyBits f.ty) (vGet (curSlot s) f.b) (j - 512 / tyBits f.ty / 2))))
  exact finishFl_runs (body := vpackBody f) h rfl (elemWrites_quiet hw fun j _ _ => by simp [ieee_narrow])
    ⟨_, _, writesV_vPut .., hw⟩

end Sys2Proof.Machine

namespace Sys2Proof

open Sys2Proof.Machine

/-- Settles O16: VCVT, VQUANT and VDEQ by the elements that take part, VWIDEN and VPACK element by element. -/
theorem vectorConversionResults : Obligations.VectorConversionResults := by
  intro s g f
  refine ⟨fun h => ⟨conv_runs h rfl, ?_⟩, fun h => vpack_runs h, fun h => ⟨fun hr => ?_, fun hr => ?_⟩⟩
  · exact vecBits_runs h fun y v he hw => ⟨v, hw, he⟩
  · exact conv_runs (body := vquantBody f) h (if_neg (Bool.eq_false_iff.mp hr))
  · exact conv_runs (body := vdeqBody f) h (if_neg (Bool.eq_false_iff.mp hr))

end Sys2Proof
end

section
/-!
PROOFS. A vector load where a word's errors are listed twice (O23; R27, R130): as for a scalar load, the read of the LOCAL words drops the
first entry of word 0, and the second one shows.
-/

namespace Sys2Proof.Machine

theorem twiceListed_readyV (accs : List Acc) : Ready twiceListed always (.dv loadWord0.d :: usesM loadWord0) false accs :=
  ⟨⟨by decide, by decide, by decide, nofun⟩, fun _ hp => absurd hp List.not_mem_nil⟩

/-- The words that the load reads are good: none of them has more than one flipped bit. -/
theorem localGood_twiceListed : ∀ j, j < 8 → localGood twiceListed (vAddrOf (curSlot twiceListed) loadWord0 .contiguous j) 8 := by
  unfold localGood
  decide +kernel

/-- The read drops the first entry of word 0 and leaves the second. -/
theorem eccAfter_vld_twiceListed : eccAfter (exec (.vld always loadWord0) twiceListed) = [(0, ⟨3, false⟩)] := by decide +kernel

end Sys2Proof.Machine

namespace Sys2Proof

open Sys2Proof.Machine

/-- Refutes O23: a LOCAL vector load of a word whose errors are listed twice leaves the second entry, with its two flipped bits. -/
theorem not_vectorLoadResults : ¬ Obligations.VectorLoadResults := by
  intro h
  obtain ⟨hvld, -⟩ := h twiceListed always loadWord0 (by decide) (by decide)
  have hloads := hvld (twiceListed_readyV _) (by decide +kernel) (by decide +kernel) (by decide +kernel)
    fun j hj _ => localGood_twiceListed j hj
  have hc := correctsOnly_eccAfter hloads
  rw [eccAfter_vld_twiceListed] at hc
  exact not_correctsOnly_second hc

end Sys2Proof
end

section
/-!
PROOFS. Buffered stores that drain, and the merge of the dirty log (O39; R129, R202, R203, R208, R365): what one access of a store leaves
of memory, and what the buffers hold afterwards.
-/

namespace Sys2Proof.Machine

/-! ### Writes that keep the buffers -/

/-- The buffered stores of every core are as before. -/
structure KeepsStores (s t : State) : Prop where
  sbuf : ∀ c, (coreAt t c).sbuf = (coreAt s c).sbuf
  fq : ∀ c, (coreAt t c).fq = (coreAt s c).fq

theorem KeepsStores.trans {s t u : State} (h : KeepsStores s t) (k : KeepsStores t u) : KeepsStores s u where
  sbuf c := (k.sbuf c).trans (h.sbuf c)
  fq c := (k.fq c).trans (h.fq c)

theorem Quiet.keepsStores {s t : State} (h : Quiet s t) : KeepsStores s t := ⟨fun c => (h.stores c).1, fun c => (h.stores c).2⟩

theorem keepsStores_of_cores {s t : State} (h : t.cores = s.cores) : KeepsStores s t :=
  ⟨fun c => by simp [coreAt, h], fun c => by simp [coreAt, h]⟩

theorem KeepsStores.congr {s s' t t' : State} (h : KeepsStores s t) (hs : s'.cores = s.cores) (ht : t'.cores = t.cores) :
    KeepsStores s' t' :=
  (keepsStores_of_cores hs.symm).trans (h.trans (keepsStores_of_cores ht))

/-- After the bytes of a local store are written, slots that wait on them compare anew, which writes nothing (R153). -/
theorem writeLocal_quiet (s : State) (c : CoreRef) (f n x : Nat) : Quiet (writeFlat s f n x) (writeLocal s c f n x) := by
  unfold writeLocal
  refine foldl_quiet fun t w => ?_
  split
  · exact recheckWait_quiet t w false
  · exact .refl t

theorem writeLocal_keepsStores (s : State) (c : CoreRef) (f n x : Nat) : KeepsStores s (writeLocal s c f n x) :=
  KeepsStores.trans (t := writeFlat s f n x) (keepsStores_of_cores rfl) (writeLocal_quiet s c f n x).keepsStores

/-! ### What a write to a page leaves besides its bytes -/

/-- The dirty log takes no entry `e`: it is enabled and full, and `e` is not among the entries appended last (R202). -/
def LogRefuses (d : DirtyLog) (e : Nat) : Prop := logSize d ≠ 0 ∧ e ∉ d.last ∧ logSize d ≤ d.cnt

theorem logStore_eq_none {s : State} {w : Who} {tag va : Nat} :
    logStore s w tag va = none ↔ LogRefuses (coreAt s w.c).log (logEntry w.asid tag va) := by
  unfold logStore LogRefuses
  dsimp only
  split
  · next h =>
    rw [Bool.or_eq_true, decide_eq_true_eq, List.contains_iff_mem] at h
    exact ⟨nofun, fun ⟨h0, hl, _⟩ => (h.elim h0 hl).elim⟩
  next h =>
  rw [Bool.or_eq_true, decide_eq_true_eq, List.contains_iff_mem, not_or] at h
  split
  · next hfull => exact ⟨fun _ => ⟨h.1, h.2, hfull⟩, fun _ => rfl⟩
  · next hroom => exact ⟨nofun, fun ⟨_, _, hfull⟩ => (hroom hfull).elim⟩

theorem logStore_keepsStores {s : State} {w : Who} {tag va : Nat} : ∀ t ∈ logStore s w tag va, KeepsStores s t := by
  unfold logStore
  dsimp only
  split
  · rintro _ ⟨⟩
    exact keepsStores_of_cores rfl
  split
  · exact nofun
  · rintro _ ⟨⟩
    refine (writeLocal_keepsStores ..).trans (Quiet.keepsStores (setCore_quiet ?_ ?_)) <;> rfl

theorem askHome_cores (s : State) (w : Who) (va : Word) (l : LineRef) (a own : Nat) (unc write : Bool) :
    (askHome s w va l a own unc write).cores = s.cores := by
  unfold askHome
  split
  · rfl
  · rw [translate_reads s w va l a own]

theorem settleD_cores (s : State) (ln : Line) (a : Nat) : (settleD s ln a).cores = s.cores := by
  unfold settleD
  dsimp only
  split <;> split <;> rfl

/-- A write to a page leaves the cores to its entry in the dirty log, which no engine makes. -/
theorem noteWrite_cases (s : State) (w : Who) (va : Word) (l : LineRef) (a own : Nat) (unc : Bool) : ∃ s', s'.cores = s.cores ∧
    ((noteWrite s w va l a own unc = some s' ∧ (w.eng = true ∨ ∀ tag b, placeOf w.asid va ≠ .page tag b)) ∨
      (w.eng = false ∧ ∃ tag b, placeOf w.asid va = .page tag b ∧ noteWrite s w va l a own unc = logStore s' w tag b)) := by
  unfold noteWrite
  extract_lets s1 ln noLog home atHome taken s3
  have h1 : s1.cores = s.cores := askHome_cores ..
  have hh : home.cores = s.cores := (settleD_cores s1 ln a).trans h1
  have h3 : s3.cores = s.cores := by
    unfold s3
    split
    · split <;> exact hh
    · exact h1
  clear_value s3 home
  cases he : w.eng with
  | true => exact ⟨setLeafBits home own bitD, hh, .inl ⟨if_pos rfl, .inl rfl⟩⟩
  | false =>
    refine ⟨s3, h3, ?_⟩
    rw [if_neg Bool.false_ne_true]
    split
    · next hp => exact .inr ⟨rfl, _, _, hp, rfl⟩
    · next hp => exact .inl ⟨rfl, .inr hp⟩

/-- A write to a page waits where the dirty log of its core refuses its entry (R202). -/
theorem noteWrite_eq_none {s : State} {w : Who} {va : Word} {l : LineRef} {a own : Nat} {unc : Bool} :
    noteWrite s w va l a own unc = none ↔ w.eng = false ∧ ∃ tag b, placeOf w.asid va = .page tag b ∧
      LogRefuses (coreAt s w.c).log (logEntry w.asid tag b) := by
  obtain ⟨s', hc, ⟨he, hno⟩ | ⟨hw, tag, b, hp, he⟩⟩ := noteWrite_cases s w va l a own unc
  · rw [he]
    refine ⟨nofun, fun ⟨hw, tag, b, hp, _⟩ => ?_⟩
    rcases hno with h | h
    · rw [hw] at h
      cases h
    · exact absurd hp (h tag b)
  · have hcore : coreAt s' w.c = coreAt s w.c := by rw [coreAt, hc, coreAt]
    rw [he, logStore_eq_none, hcore]
    constructor
    · exact fun h => ⟨hw, tag, b, hp, h⟩
    · rintro ⟨-, tag', b', hp', h⟩
      cases hp.symm.trans hp'
      exact h

theorem noteWrite_keepsStores {s : State} {w : Who} {va : Word} {l : LineRef} {a own : Nat} {unc : Bool} :
    ∀ t ∈ noteWrite s w va l a own unc, KeepsStores s t := by
  obtain ⟨s', hc, ⟨he, -⟩ | ⟨-, tag, b, -, he⟩⟩ := noteWrite_cases s w va l a own unc
  · rw [he]
    rintro _ ⟨⟩
    exact keepsStores_of_cores hc
  · rw [he]
    exact fun t ht => (keepsStores_of_cores hc).trans (logStore_keepsStores t ht)

theorem noteTail_mem (s : State) (l : LineRef) (va : Word) (n : Nat) : (noteTail s l va n).mem = s.mem := by
  unfold noteTail
  dsimp only
  split <;> rfl

theorem noteTail_cores (s : State) (l : LineRef) (va : Word) (n : Nat) : (noteTail s l va n).cores = s.cores := by
  unfold noteTail
  dsimp only
  split <;> rfl

/-! ### One access of a store -/

/-- A write to a local store: its bytes are in memory, and the buffers are as they were. -/
theorem perfWrite_local {s : State} {w : Who} {va : Word} {n x : Nat} {c : CoreRef} {f : Nat}
    (hr : resolve s w va true = .lstore c f) :
    ∃ t, perfWrite s w va n x = .ok t () ∧ KeepsStores s t ∧ t.mem = memWrite s.mem f n x :=
  ⟨writeLocal s c f n x, by rw [perfWrite, hr], writeLocal_keepsStores .., (writeLocal_quiet ..).mem⟩

/-- A write to a page that waits for nothing: its bytes are in memory, and the buffers are as they were. -/
theorem perfWrite_line {s : State} {w : Who} {va : Word} {n x f : Nat} {l : LineRef} {le : Word} {a own : Nat} {unc : Bool}
    (hm : MemOk s) (hr : resolve s w va true = .line f l le a own unc) (hb : lineBlocked s (lineAt s l) w unc true = false)
    (hn : noteWrite s w va l a own unc ≠ none) :
    ∃ t, perfWrite s w va n x = .ok t () ∧ KeepsStores s t ∧ memRead t.mem f n = x % 256 ^ n := by
  obtain ⟨s', hs'⟩ := Option.ne_none_iff_exists'.mp hn
  refine ⟨writeFlat (noteTail s' l va n) f n x, ?_, ?_, ?_⟩
  · simp only [perfWrite, hr, hb, hs', Bool.false_eq_true, if_false]
  · exact (noteWrite_keepsStores s' hs').trans (keepsStores_of_cores (noteTail_cores s' l va n))
  · exact memRead_write_same f n x (noteTail_memOk (noteWrite_memOk hm s' hs'))

theorem putVeil_eq (s : State) (w : SlotRef) (scope : Nat) (covers : List Nat) (t : Tgt) (va : Word) (n : Nat) :
    ∃ veils, putVeil s w scope covers t va n = { s with veils := veils } := by
  unfold putVeil
  dsimp only
  split
  · split
    · exact ⟨s.veils, rfl⟩
    · exact ⟨_, rfl⟩
  · exact ⟨s.veils, rfl⟩

/-- A store whose access is performed, whatever veils stand, is tried with success: the veil of a release and the check bits of words
apart, it leaves what the access leaves (R130, R215). -/
theorem tryStore_ok {s : State} {w : SlotRef} {e : StEnt} {u : AccUnit} {d : BitVec 128} {P : Memory → Prop} (hd : u.val = some d)
    (h : ∀ veils, ∃ t, perfWrite { s with veils := veils } (whoAs s { w with k := e.k } e.pkey e.supv) u.va u.n d.toNat = .ok t () ∧
      KeepsStores { s with veils := veils } t ∧ P t.mem) :
    ∃ t, tryStore s w e u = .ok t () ∧ KeepsStores s t ∧ P t.mem := by
  unfold tryStore
  rw [hd]
  extract_lets v who t q last
  cases e.rel with
  | none =>
    obtain ⟨s', hs', hks, hP⟩ := h s.veils
    dsimp only
    rw [show perfWrite s who u.va u.n d.toNat = .ok s' () from hs']
    clear_value last t
    dsimp only
    split <;> exact ⟨_, rfl, hks.congr rfl rfl, hP⟩
  | some sc =>
    obtain ⟨veils, hv⟩ := putVeil_eq s v sc e.covers t u.va u.n
    obtain ⟨s', hs', hks, hP⟩ := h veils
    dsimp only
    rw [hv, hs']
    clear_value last t
    dsimp only
    split <;> exact ⟨_, rfl, hks.congr rfl rfl, hP⟩

/-! ### A store that leaves its buffer -/

/-- The other entries of a store's instruction go on by themselves once one of its accesses is performed (R194). -/
def begunWith (e x : StEnt) : StEnt := if x.grp = e.grp && x.k = e.k then { x with begun := true } else x

theorem begunWith_id (e x : StEnt) : (begunWith e x).id = x.id := by
  unfold begunWith
  split <;> rfl

theorem storeGone_leaves (s : State) (c : CoreRef) (e : StEnt) : (storeGone s c e).mem = s.mem ∧
    (coreAt (storeGone s c e) c).sbuf = putEntry (coreAt s c).sbuf e ∧
    (coreAt (storeGone s c e) c).fq = putEntry (coreAt s c).fq e := by
  unfold storeGone
  dsimp only
  have hq := (liftVeils_quiet (setCore s c { coreAt s c with
    sbuf := putEntry (coreAt s c).sbuf e, fq := putEntry (coreAt s c).fq e })).trans (settled_quiet _ c)
  refine ⟨hq.mem, ?_, ?_⟩
  · rw [(hq.stores c).1, coreAt_setCore]
  · rw [(hq.stores c).2, coreAt_setCore]

/-- A unit of a buffered store is performed and leaves its buffer (R129, R208). -/
theorem performStore_leaves {s s' : State} {c : CoreRef} {e : StEnt} {j : Nat} {u : AccUnit}
    (hstop : dieStopped (modAt s c.m) c.d = false) (hu : e.units[j]? = some u) (hflush : e.flush = none)
    (horder : storeOrder s (slotOf c 0) e u = true) (hmeet : unitsMeet (slotOf c 0) (e.units.take j) [u] = false)
    (hready : groupReady s (slotOf c 0) e = true) (htry : tryStore s (slotOf c 0) e u = .ok s' ()) (hk : KeepsStores s s') :
    (performStore s c e j).mem = s'.mem ∧
    (coreAt (performStore s c e j) c).sbuf = putEntry ((coreAt s c).sbuf.map (begunWith e)) { dropUnit e j with begun := true } ∧
    (coreAt (performStore s c e j) c).fq = putEntry ((coreAt s c).fq.map (begunWith e)) { dropUnit e j with begun := true } := by
  have he : performStore s c e j = storeGone (beginGroup s' c e) c { dropUnit e j with begun := true } := by
    simp [performStore, hu, hstop, horder, hmeet, hflush, htry, hready]
  obtain ⟨hm, hb, hq⟩ := storeGone_leaves (beginGroup s' c e) c { dropUnit e j with begun := true }
  rw [he]
  refine ⟨hm, ?_, ?_⟩
  · rw [hb, beginGroup, coreAt_setCore, ← hk.sbuf c]
    rfl
  · rw [hq, beginGroup, coreAt_setCore, ← hk.fq c]
    rfl

/-- An entry whose last unit has gone leaves the buffer that it heads. -/
theorem putEntry_head {e : StEnt} {r : List StEnt} {j : Nat} (h : (dropUnit e j).units = []) :
    putEntry ((e :: r).map (begunWith e)) { dropUnit e j with begun := true } =
      (r.filter fun x => x.id != e.id).map (begunWith e) := by
  have hid : ((fun x : StEnt => x.id != e.id) ∘ begunWith e) = fun x => x.id != e.id := by
    funext x
    rw [Function.comp_apply, begunWith_id]
  have hput : putEntry ((e :: r).map (begunWith e)) { dropUnit e j with begun := true } =
      ((e :: r).map (begunWith e)).filter fun x => x.id != e.id := if_pos (by rw [h]; rfl)
  rw [hput, List.filter_map, hid, List.filter_cons_of_neg (by simp)]

/-! ### The merge of the dirty log -/

theorem mergeLog_leaves (s : State) (c : CoreRef) (n : Nat) : (mergeLog s c n).slots = s.slots ∧
    (coreAt (mergeLog s c n) c).log = { (coreAt s c).log with
      cnt := (coreAt s c).log.cnt - min n (coreAt s c).log.cnt,
      last := (coreAt s c).log.last.take ((coreAt s c).log.cnt - min n (coreAt s c).log.cnt) } := by
  unfold mergeLog
  dsimp only
  generalize e : List.foldl _ s _ = t
  obtain ⟨hslots, -, -⟩ : SameCores s t :=
    e ▸ foldl_inv (P := SameCores s) (fun _ _ hu => mergeEntry_sameCores (readFlat_sameCores hu)) ⟨rfl, rfl, rfl⟩
  exact ⟨hslots, by rw [coreAt_setCore]⟩

/-- What the walk finds of the page that a log entry names (R201). -/
def loggedPage (s : State) (m e : Nat) : Xl := walkPage s m (if e.testBit 47 then globalTag else e / 2 ^ 48) (e % 2 ^ 40 * 65536)

theorem mergeEntry_mapped {s : State} {m e a : Nat} {le : Word} (h : loggedPage s m e = .leaf le a ∨ loggedPage s m e = .absent a) :
    mergeEntry s m e = setLeafBits s a bitD := by
  unfold loggedPage at h
  unfold mergeEntry
  rcases h with h | h <;> simp only [h]

theorem mergeEntry_unmapped {s : State} {m e : Nat} (h : loggedPage s m e = .unmapped) : mergeEntry s m e = s := by
  unfold loggedPage at h
  unfold mergeEntry
  simp only [h]

/-- A read corrects words, and no page table is one of them. -/
theorem loggedPage_readFlat (s : State) (a n m e : Nat) : loggedPage (readFlat s a n).2 m e = loggedPage s m e := by
  unfold readFlat
  dsimp only
  split <;> rfl

/-- The merge of one entry reads the oldest one. -/
theorem mergeLog_one {s : State} {c : CoreRef} (h : (coreAt s c).log.cnt ≠ 0) :
    let at0 := localFlat c (logAddr (coreAt s c).log 0)
    (mergeLog s c 1).mem = (mergeEntry (readFlat s at0 8).2 c.m (memRead s.mem at0 8)).mem := by
  have hk : min 1 (coreAt s c).log.cnt = 1 := by omega
  unfold mergeLog
  dsimp only
  rw [hk]
  rfl

/-- D set in a leaf is read back. -/
theorem setLeafBits_bitD_testBit {s : State} (a : Nat) (h : MemOk s) : (memRead (setLeafBits s a bitD).mem a 8).testBit 4 = true := by
  have hbit : bitD.testBit 4 = true := by decide
  rw [setLeafBits, memRead_write_same _ _ _ h, show (256 : Nat) ^ 8 = 2 ^ 64 by norm_num, Nat.testBit_mod_two_pow, Nat.testBit_or,
    hbit, Bool.or_true]
  rfl

/-! ### The events -/

theorem execStoreBufferDrain_head {s : State} {c : CoreRef} {e : StEnt} {r : List StEnt} (h : (coreAt s c).sbuf = e :: r) :
    exec (.storeBufferDrain c) s = .next (performStore s c e 0) := by
  show execStoreBufferDrain c s = _
  simp only [execStoreBufferDrain, h]

variable {s : State} {c : CoreRef} {e : StEnt} {j : Nat} {u : AccUnit}

theorem execFarStoreDrain_performs (hfind : (coreAt s c).fq.find? (fun x => x.id = e.id) = some e) (hu : e.units[j]? = some u)
    (hrem : isRemote s (whoAs s (slotOf c 0) e.pkey e.supv) u.va = false) :
    exec (.farStoreDrain c e.id j) s = .next (performStore s c e j) := by
  show execFarStoreDrain c e.id j s = _
  simp [execFarStoreDrain, hfind, hu, hrem]

theorem execRemoteAccessArrival_performs (hfind : (coreAt s c).fq.find? (fun x => x.id = e.id) = some e) (hu : e.units[j]? = some u)
    (hflush : e.flush = none) (hrem : isRemote s (whoAs s (slotOf c 0) e.pkey e.supv) u.va = true)
    (hturn : isDirect s (whoAs s (slotOf c 0) e.pkey e.supv) u.va = true → lineTurn s (slotOf c 0) e.id u.va = true) :
    exec (.remoteAccessArrival (.far c e.id) j) s = .next (performStore s c e j) := by
  show execRemoteAccessArrival (.far c e.id) j s = _
  cases hdir : isDirect s (whoAs s (slotOf c 0) e.pkey e.supv) u.va with
  | false => simp [execRemoteAccessArrival, hfind, hu, hflush, hrem, hdir]
  | true => simp [execRemoteAccessArrival, hfind, hu, hflush, hrem, hdir, hturn hdir]

theorem execLogMerge_merges {n : Nat} (hcnt : (coreAt s c).log.cnt ≠ 0)
    (hhalf : logSize (coreAt s c).log ≤ 2 * (coreAt s c).log.cnt) : exec (.logMerge c n) s = .next (mergeLog s c n) := by
  show execLogMerge c n s = _
  simp [execLogMerge, hcnt, hhalf]

end Sys2Proof.Machine

namespace Sys2Proof

open Sys2Proof.Machine

/-- A store to a page whose access waits for nothing is in memory, and has left the far store queue of its core (R208, R365). -/
theorem farStore_leaves {s : State} {c : CoreRef} {e : StEnt} {j : Nat} {u : AccUnit} {d : BitVec 128} {f : Nat} {l : LineRef} {le : Word}
    {a own : Nat} {unc : Bool} (hm : MemOk s) (hstop : dieStopped (modAt s c.m) c.d = false) (hu : e.units[j]? = some u)
    (hd : u.val = some d) (hflush : e.flush = none) (horder : storeOrder s (slotOf c 0) e u = true)
    (hready : groupReady s (slotOf c 0) e = true) (hmeet : unitsMeet (slotOf c 0) (e.units.take j) [u] = false)
    (hr : resolve s (whoAs s (slotOf c 0) e.pkey e.supv) u.va true = .line f l le a own unc)
    (hb : lineBlocked s (lineAt s l) (whoAs s (slotOf c 0) e.pkey e.supv) unc true = false)
    (hn : noteWrite s (whoAs s (slotOf c 0) e.pkey e.supv) u.va l a own unc ≠ none) :
    memRead (performStore s c e j).mem f u.n = d.toNat % 256 ^ u.n ∧
      (coreAt (performStore s c e j) c).fq = putEntry ((coreAt s c).fq.map (begunWith e)) { dropUnit e j with begun := true } := by
  obtain ⟨t, htry, hk, hmem⟩ := tryStore_ok (w := slotOf c 0) (e := e) (P := fun m => memRead m f u.n = d.toNat % 256 ^ u.n) hd
    fun veils => by
      refine perfWrite_line (s := { s with veils := veils }) (w := whoAs s { slotOf c 0 with k := e.k } e.pkey e.supv) hm hr hb ?_
      rw [ne_eq, noteWrite_eq_none] at hn ⊢
      exact hn
  obtain ⟨hpm, -, hq⟩ := performStore_leaves hstop hu hflush horder hmeet hready htry hk
  exact ⟨by rw [hpm]; exact hmem, hq⟩

/-- A store to a local store is in memory, and has left the store buffer that it headed (R208). -/
theorem nearStore_leaves {s : State} {c : CoreRef} {e : StEnt} {r : List StEnt} {va : Word} {n off : Nat} {d : BitVec 128}
    (hstop : dieStopped (modAt s c.m) c.d = false) (hsbuf : (coreAt s c).sbuf = e :: r) (hunits : e.units = [⟨va, n, off, some d⟩])
    (hflush : e.flush = none) (hva : va.toNat < 2 ^ 20) (horder : storeOrder s (slotOf c 0) e ⟨va, n, off, some d⟩ = true)
    (hready : groupReady s (slotOf c 0) e = true) :
    (performStore s c e 0).mem = memWrite s.mem (localFlat c va.toNat) n d.toNat ∧
      (coreAt (performStore s c e 0) c).sbuf = (r.filter fun x => x.id != e.id).map (begunWith e) := by
  have hu : e.units[0]? = some ⟨va, n, off, some d⟩ := by rw [hunits]; rfl
  have hr : resolve s (whoAs s { slotOf c 0 with k := e.k } e.pkey e.supv) va true = .lstore c (localFlat c va.toNat) := by
    have hp : placeOf (whoAs s { slotOf c 0 with k := e.k } e.pkey e.supv).asid va = .lcl va.toNat := if_pos hva
    rw [resolve, hp]
    rfl
  obtain ⟨t, htry, hk, hmem⟩ := tryStore_ok (w := slotOf c 0) (e := e) (u := ⟨va, n, off, some d⟩)
    (P := fun m => m = memWrite s.mem (localFlat c va.toNat) n d.toNat) rfl
    fun veils => perfWrite_local (s := { s with veils := veils }) hr
  obtain ⟨hpm, hb, -⟩ := performStore_leaves hstop hu hflush horder rfl hready htry hk
  exact ⟨hpm.trans hmem, by rw [hb, hsbuf, putEntry_head (by rw [dropUnit, hunits]; rfl)]⟩

/-- Settles O39: a drained store by its one access and what stays in its buffer; a merge by the entry that it reads. -/
theorem bufferedStoresReachMemory : Obligations.BufferedStoresReachMemory := by
  refine ⟨fun s c e r va n off d => ?_, fun s c e j u d f l le a own unc => ?_, fun s c n => ?_⟩
  · intro begun hstop hsbuf hunits hflush hva horder hready
    exact ⟨_, execStoreBufferDrain_head hsbuf, nearStore_leaves hstop hsbuf hunits hflush hva horder hready⟩
  · intro who begun hm hstop hfind hu hd hflush horder hready hmeet hr hb hn Done
    have hleaves := farStore_leaves hm hstop hu hd hflush horder hready hmeet hr hb hn
    exact ⟨fun hrem => ⟨_, execFarStoreDrain_performs hfind hu hrem, hleaves⟩,
      fun hrem hturn => ⟨_, execRemoteAccessArrival_performs hfind hu hflush hrem hturn, hleaves⟩⟩
  · intro d hcnt hhalf
    obtain ⟨hslots, hlog⟩ := mergeLog_leaves s c n
    refine ⟨mergeLog s c n, execLogMerge_merges hcnt hhalf, hlog, hslots, ?_⟩
    rintro rfl e page
    have hpage : loggedPage (readFlat s (localFlat c (logAddr d 0)) 8).2 c.m e = page := loggedPage_readFlat ..
    rw [mergeLog_one hcnt]
    refine ⟨fun hm le a hp => ?_, fun hp => ?_⟩
    · rw [mergeEntry_mapped (hpage ▸ hp)]
      exact setLeafBits_bitD_testBit a (readFlat_memOk hm)
    · rw [mergeEntry_unmapped (hpage.trans hp)]
      exact (readFlat_quiet ..).mem

end Sys2Proof
end

section
/-!
PROOFS. The register writes with an effect of their own (O41; R151, R203, R258, R287, R290).
-/

namespace Sys2Proof.Machine

variable {s : State} {w : SlotRef} {x : Word} {c : CoreRef}

/-! ### Error injections -/

@[simp] theorem slotAt_flipWord (s : State) (i : Nat) (bits : BitVec 64) (w : SlotRef) :
    slotAt (flipWord s i bits) w = slotAt s w := rfl

/-- The slot with another `EINJ`. -/
def withEinj (y : Slot) (e : Einj) : Slot := { y with trap := { y.trap with einj := e } }

/-- An event of a kind of injection makes the write that names that kind. -/
theorem armEinj_eq {k : Nat} (ha : (einjOf x).arm = true) (hk : (einjOf x).kind.toNat = k) :
    armEinj k w x s = writeEinj s w x := by simp [armEinj, ha, hk]

theorem writeEinj_result (ha : (einjOf x).arm = true) (hk : (einjOf x).kind = 1) :
    writeEinj s w x = setSlot s w (withEinj (slotAt s w) (einjOf x)) := by
  simp [writeEinj, ha, hk, withEinj]

theorem writeEinj_single (ha : (einjOf x).arm = true) (hk : (einjOf x).kind = 2) :
    writeEinj s w x = setSlot (flipWord s (localWord (coreRefOf w) (einjOf x).word.toNat) (1#64 <<< (einjOf x).bit.toNat)) w
      (withEinj (slotAt s w) { einjOf x with arm := false }) := by
  simp [writeEinj, ha, hk, withEinj]

theorem writeEinj_double (ha : (einjOf x).arm = true) (hk : (einjOf x).kind = 3) :
    writeEinj s w x = setSlot (flipWord s (localWord (coreRefOf w) (einjOf x).word.toNat)
      ((1#64 <<< (einjOf x).bit.toNat) ||| (1#64 <<< (((einjOf x).bit.toNat + 1) % 64)))) w
      (withEinj (slotAt s w) { einjOf x with arm := false }) := by
  simp [writeEinj, ha, hk, withEinj]

theorem writeEinj_accumulator (ha : (einjOf x).arm = true) (hk : (einjOf x).kind = 4) :
    writeEinj s w x = setSlot (enqueueFlip s w (einjOf x)) w (withEinj (slotAt s w) { einjOf x with arm := false }) := by
  simp only [writeEinj, ha, hk]
  rfl

/-! ### The dirty log -/

/-- After a write of `DLOGHEAD` or `DLOGLIM` the log has the fields that were written, and no entry when one of them changed (R203). -/
theorem writeLog_log (s : State) (c : CoreRef) (lim : Bool) (v : Word) :
    let d := (coreAt s c).log
    let h := if lim then d.head else v.extractLsb' 3 17
    let l := if lim then v.extractLsb' 3 17 else d.lim
    let b := if lim then v.extractLsb' 23 17 else d.base
    let e := (coreAt (writeLog s c lim v) c).log
    e.head = h ∧ e.lim = l ∧ e.base = b ∧ (¬ (h = d.head ∧ l = d.lim) → e.cnt = 0) := by
  intro d h l b e
  by_cases hsame : (h = d.head && l = d.lim && b = d.base) = true
  · have he : e = d := congrArg (fun t => (coreAt t c).log) (if_pos hsame)
    simp only [Bool.and_eq_true, decide_eq_true_eq] at hsame
    obtain ⟨⟨hh, hl⟩, hb⟩ := hsame
    rw [he]
    exact ⟨hh.symm, hl.symm, hb.symm, fun hne => absurd ⟨hh, hl⟩ hne⟩
  · have he : e = { (coreAt (mergeLog s c d.cnt) c).log with head := h, lim := l, base := b } := by
      have hw : writeLog s c lim v = setCore (mergeLog s c d.cnt) c { coreAt (mergeLog s c d.cnt) c with
          log := { (coreAt (mergeLog s c d.cnt) c).log with head := h, lim := l, base := b } } := if_neg hsame
      show (coreAt (writeLog s c lim v) c).log = _
      rw [hw, coreAt_setCore]
    rw [he, (mergeLog_all s c).2.2]
    exact ⟨rfl, rfl, rfl, fun _ => rfl⟩

/-! ### The spill ring -/

theorem writeSpill_empty {base : BitVec 41} {size : BitVec 3} {lost : Bool} (h : (coreAt s c).spill.bound = []) :
    writeSpill s c base size lost = setCore s c { coreAt s c with spill := { (coreAt s c).spill with
      base := base, size := size, lost := (coreAt s c).spill.lost && !lost, head := 0, next := none } } := by
  simp [writeSpill, h]

theorem writeSpill_waits {base : BitVec 41} {size : BitVec 3} {lost : Bool} (h : (coreAt s c).spill.bound ≠ [])
    (hne : (base, size) ≠ ((coreAt s c).spill.base, (coreAt s c).spill.size)) :
    writeSpill s c base size lost = setCore s c { coreAt s c with spill := { (coreAt s c).spill with
      lost := (coreAt s c).spill.lost && !lost, next := some (base, size) } } := by
  rw [ne_eq, Prod.mk.injEq] at hne
  simp [writeSpill, h, hne]

end Sys2Proof.Machine

namespace Sys2Proof

open Sys2Proof.Machine

/-- Settles O41: each injection by the case of its kind, the log by what a merge of all its entries leaves, the ring by whether it is
empty. -/
theorem registerWriteEvents : Obligations.RegisterWriteEvents := by
  refine ⟨?_, ?_⟩
  · intro s w x e word y off ha
    have arms : ∀ {k : Nat}, e.kind.toNat = k → (.next (armEinj k w x s) : Out_) = .next (writeEinj s w x) :=
      fun hk => congrArg Host.Outcome.next (armEinj_eq ha hk)
    refine ⟨fun hk => ?_, fun hk => ?_, fun hk => ?_, fun hk => ?_⟩
    · exact (arms (congrArg BitVec.toNat hk)).trans (congrArg _ (writeEinj_result ha hk))
    · exact (arms (congrArg BitVec.toNat hk)).trans (congrArg _ (writeEinj_single ha hk))
    · exact (arms (congrArg BitVec.toNat hk)).trans (congrArg _ (writeEinj_double ha hk))
    · exact ⟨_, (arms (congrArg BitVec.toNat hk)).trans (congrArg _ (writeEinj_accumulator ha hk)), slotAt_setSlot .., rfl,
        _, rfl, rfl, rfl, rfl, rfl, rfl⟩
  · intro s c x d p
    refine ⟨?_, ?_, fun h => ?_, fun h hne => ?_, rfl⟩
    · obtain ⟨hh, hl, hb, hc⟩ := writeLog_log s c false x
      exact ⟨_, rfl, hh, hl, hb, fun hne => hc fun ⟨he, _⟩ => hne he⟩
    · obtain ⟨hh, hl, hb, hc⟩ := writeLog_log s c true x
      exact ⟨_, rfl, hh, hl, hb, fun hne => hc fun ⟨_, he⟩ => hne he⟩
    · exact congrArg Host.Outcome.next (writeSpill_empty h)
    · exact congrArg Host.Outcome.next (writeSpill_waits h hne)

end Sys2Proof
end

section
/-!
PROOFS. The message instructions (O28; R149, R170-R172, R174): what SEND leaves outstanding, and what RECV claims.
-/

namespace Sys2Proof.Machine

variable {s : State} {g : Guard}

/-! ### SEND and WAKE -/

/-- The message of a SEND (R149, R170). -/
def sendMsg (s : State) (e : EForm) : Msg :=
  let epa := eEpa (curSlot s) e
  ⟨s.cur, epaMod s.cur.m epa, epa, mkEntry (epaOf s.cur (epaMod s.cur.m epa != s.cur.m)) 0 (epaSlot epa)
    (eBlock (curSlot s) e (e.sub.toNat + 1)), (coreOf s s.cur).launch, !(curSlot s).supv, .send s.cur s.nextId, none⟩

/-- An outstanding result of the current slot, as an instruction leaves it that makes no access (R17, R18). -/
def plainOut (s : State) (k : OutKind) (d : Dst) : Out :=
  ⟨s.nextId, (curSlot s).pc, k, [], d, [], none, (curSlot s).csr.pkey, (curSlot s).supv⟩

/-- An instruction whose effect adds such a result defers it. -/
theorem defersAs_of_plainOut {uses : List Use} {body : State → Eff} {accs : State → List Acc} {base : State} {k : OutKind}
    {d : Dst} (h : Ready s g uses true (accs s))
    (hb : body s = .done (addOut { base with nextId := s.nextId + 1 } (plainOut s k d))) (hc : base.cur = s.cur)
    (hs : base.slots = s.slots) : DefersAs (retired g (curSlot s).pc) s base (issue g uses true body s accs) d k []
      (fun y => y = curSlot s) := by
  refine ⟨curSlot s, plainOut s k d, rfl, rfl, rfl, rfl, rfl, rfl, rfl, rfl, (issue_done h hb).trans ?_⟩
  have hx : slotAt base s.cur = curSlot s := by rw [slotAt, hs]; rfl
  have he : addOut { base with nextId := s.nextId + 1 } (plainOut s k d) = setSlot { base with nextId := s.nextId + 1 } s.cur
      { markDst (curSlot s) d with outs := (curSlot s).outs ++ [plainOut s k d] } := by
    rw [← hx, ← hc]
    rfl
  rw [he, setSlot_setSlot, slotAt_setSlot]

theorem sendBody_bad {e : EForm} (h : epaBadSend (eEpa (curSlot s) e) = true) :
    sendBody e s = .fault .engineCmd ((eEpa (curSlot s) e).setWidth 64) := if_pos h

theorem sendBody_sends {e : EForm} (h : epaBadSend (eEpa (curSlot s) e) = false) :
    sendBody e s = .done (addOut { s with nextId := s.nextId + 1, net := s.net ++ [sendMsg s e] }
      (plainOut s (.send none) (sDst e.d))) := if_neg (by rw [h]; exact Bool.false_ne_true)

theorem wakeBody_bad {f : RForm} (h : epaBadSend ((sGet (curSlot s) f.a).setWidth 32) = true ∨
    epaPv ((sGet (curSlot s) f.a).setWidth 32) = true) :
    wakeBody f s = .fault .engineCmd (((sGet (curSlot s) f.a).setWidth 32).setWidth 64) := by
  unfold wakeBody
  dsimp only
  rw [← BitVec.setWidth_eq_extractLsb' (by decide)]
  exact if_pos (by rwa [Bool.or_eq_true])

theorem wakeBody_sends {f : RForm} (h : epaBadSend ((sGet (curSlot s) f.a).setWidth 32) = false)
    (hp : epaPv ((sGet (curSlot s) f.a).setWidth 32) = false) :
    wakeBody f s = .done { s with wakes := s.wakes ++ [⟨s.cur.m, epaFixed s.cur ((sGet (curSlot s) f.a).setWidth 32),
      (coreOf s s.cur).launch, (curSlot s).supv, 0, 0⟩] } := by
  unfold wakeBody
  dsimp only
  rw [← BitVec.setWidth_eq_extractLsb' (by decide)]
  exact if_neg (by simp [h, hp])

/-! ### RECV -/

/-- The state in which a RECV's result is outstanding and has claimed nothing yet. -/
def recvIssued (s : State) (d : RegIx) : State :=
  addOut { s with nextId := s.nextId + 1 } (plainOut s (.recv none) (.vreg d))

theorem recvBody_eq (f : RForm) : recvBody f s = .done (claimEntry (recvIssued s f.d) s.cur) := rfl

theorem slotAt_recvIssued (d : RegIx) : slotAt (recvIssued s d) s.cur =
    { markV (curSlot s) d with outs := (curSlot s).outs ++ [plainOut s (.recv none) (.vreg d)] } :=
  slotAt_setSlot ..

/-- With no entry for the slot nothing is claimed. -/
theorem claimEntry_none {w : SlotRef} (h : takeEntry w.k (coreOf s w).inbox = none) : claimEntry s w = s := by
  unfold claimEntry
  dsimp only
  rw [h]
  cases (slotAt s w).outs.find? waitingRecv <;> rfl

/-- The oldest waiting RECV takes the oldest entry for its slot, when it leaves none to the ring (R171, R197). -/
theorem claimEntry_takes {w : SlotRef} {o : Out} {raw : VWord} {rest : List InEntry}
    (ho : (slotAt s w).outs.find? waitingRecv = some o) (h : takeEntry w.k (coreOf s w).inbox = some (raw, rest))
    (hl : leavesRest s w o = false) : claimEntry s w =
      putOut (setCoreOf s w { coreOf s w with inbox := rest }) w { o with kind := .recv (some raw) } := by
  unfold claimEntry
  simp [ho, h, hl]

/-- A RECV just issued is the one that waits, when no other of its slot does. -/
theorem find_waitingRecv_issued (d : RegIx) (h : ∀ o ∈ (curSlot s).outs, waitingRecv o = false) :
    (slotAt (recvIssued s d) s.cur).outs.find? waitingRecv = some (plainOut s (.recv none) (.vreg d)) := by
  have hnone : (curSlot s).outs.find? waitingRecv = none := List.find?_eq_none.mpr fun o ho => by simp [h o ho]
  rw [slotAt_recvIssued, List.find?_append, hnone]
  rfl

/-- A context that came back before the RECV was issued holds back nothing from it (R197). -/
theorem leavesRest_issued (d : RegIx) (o : Out) (ho : o.id = s.nextId) (h : ∀ i, (curSlot s).bindId = some i → i ≤ s.nextId) :
    leavesRest (recvIssued s d) s.cur o = false := by
  have hb : (slotAt (recvIssued s d) s.cur).bindId = (curSlot s).bindId := by
    rw [slotAt_recvIssued]
    rfl
  unfold leavesRest
  dsimp only
  rw [hb]
  split
  · next i hi => simp [ho, h i hi]
  · rfl

/-- The slot once a RECV that it has just issued has claimed an entry: it goes on at the next cell, its register pending. -/
theorem recv_claims {d : RegIx} {raw : VWord} {t : State} (x : Core)
    (ht : t = putOut (setCoreOf (recvIssued s d) s.cur x) s.cur (plainOut s (.recv (some raw)) (.vreg d))) :
    let u := setSlot t s.cur (retired g (curSlot s).pc (slotAt t s.cur))
    (slotAt u s.cur).pc = nextCell (curSlot s).pc ∧ vPend (slotAt u s.cur) d = vPend (markV (curSlot s) d) d ∧
      coreOf u s.cur = x ∧ plainOut s (.recv (some raw)) (.vreg d) ∈ (slotAt u s.cur).outs ∧ u.mem = s.mem := by
  intro u
  have hslot : slotAt t s.cur = { markV (curSlot s) d with
      outs := ((curSlot s).outs ++ [plainOut s (.recv none) (.vreg d)]).map fun p =>
        if p.id = s.nextId then plainOut s (.recv (some raw)) (.vreg d) else p } := by
    rw [ht]
    refine (slotAt_setSlot ..).trans ?_
    rw [slotAt_setCoreOf, slotAt_recvIssued]
    rfl
  have hu : slotAt u s.cur = retired g (curSlot s).pc (slotAt t s.cur) := slotAt_setSlot ..
  refine ⟨by rw [hu]; rfl, by rw [hu, hslot]; rfl, ?_, ?_, ?_⟩
  · rw [coreOf_setSlot, ht]
    exact coreOf_setCoreOf ..
  · rw [hu, hslot]
    exact List.mem_map.mpr ⟨plainOut s (.recv none) (.vreg d), by simp, if_pos rfl⟩
  · rw [setSlot_mem, ht]
    rfl

/-! ### PEEK -/

/-- What PEEK reads: how many entries are for the slot, whether the ring holds more, and the kind of the first (R172). -/
theorem peekVal_eq (s : State) (w : SlotRef) :
    let mine := (coreOf s w).inbox.filter (entryFor w.k)
    peekVal s w = BitVec.ofNat 64 (mine.length + (if (coreOf s w).spill.bound = [] then 0 else 128) +
      256 * (match mine with | e :: _ => entryKind e.raw | [] => 255)) := by
  unfold peekVal
  simp only [List.isEmpty_iff, Nat.mul_comm 256]
  rfl

end Sys2Proof.Machine

namespace Sys2Proof

open Sys2Proof.Machine

/-- Settles O28: SEND by the result that it leaves; RECV by whether the inbox has an entry for the slot, which the RECV just issued
takes. -/
theorem messageResults : Obligations.MessageResults := by
  intro s g f e x c n dest mine peer
  refine ⟨fun h => ⟨fun hb => ?_, fun hb => ?_⟩, fun h => ⟨fun hn => ?_, fun raw rest ht hw hi => ?_⟩, fun h => ?_,
    fun h => ⟨fun hb => ?_, fun hb hp => ?_⟩⟩
  · exact issue_fault (accs := fun _ => []) h (sendBody_bad hb)
  · exact ⟨sendMsg s e, rfl, rfl, rfl, rfl, rfl, by simp [sendMsg, x], rfl,
      defersAs_of_plainOut (accs := fun _ => []) (base := { s with net := s.net ++ [sendMsg s e] }) h (sendBody_sends hb) rfl rfl⟩
  · have hbody := (recvBody_eq f).trans (congrArg Eff.done (claimEntry_none hn))
    exact defersAs_of_plainOut (accs := fun _ => []) (base := s) h hbody rfl rfl
  · refine ⟨_, issue_done (accs := fun _ => []) h (recvBody_eq f), ?_⟩
    have hcl := claimEntry_takes (find_waitingRecv_issued f.d hw) ht (leavesRest_issued f.d _ rfl hi)
    obtain ⟨hpc, hv, hc, ho, hm⟩ := recv_claims (g := g) _ hcl
    exact ⟨hpc, hv, hc, ⟨_, ho, rfl, rfl, rfl⟩, hm⟩
  · have hw := writesS_sPut x f.d (peekVal s s.cur) 0
    rw [raiseFl_zero] at hw
    exact runs_of_withCur s g [.ds f.d] false (fun t => .done (withCur t fun y => sPut y f.d (peekVal t t.cur))) (fun _ => [])
      (fun y => sPut y f.d (peekVal s s.cur)) _ h rfl ⟨_, hw, peekVal_eq s s.cur⟩
  · exact issue_fault (accs := fun _ => []) h (wakeBody_bad hb)
  · exact ⟨_, rfl, rfl, rfl, rfl, issue_done (accs := fun _ => []) h (wakeBody_sends hb hp)⟩

end Sys2Proof
end

section
/-!
PROOFS. Messages, ring entries and wakes that arrive (O40; R149-R151, R170, R174, R197).
-/

namespace Sys2Proof.Machine

/-! ### What a read leaves -/

theorem OnlyRead.sameCores {s t : State} (h : OnlyRead s t) : SameCores s t := by
  rw [h]
  exact ⟨rfl, rfl, rfl⟩

theorem askHome_sameCores (s : State) (w : Who) (va : Word) (l : LineRef) (a own : Nat) (unc write : Bool) :
    SameCores s (askHome s w va l a own unc write) := by
  unfold askHome
  split
  · exact ⟨rfl, rfl, rfl⟩
  · exact (translate_reads s w va l a own).sameCores

/-- A read that answers changes no slot and no core. -/
theorem perfRead_sameCores {s t : State} {w : Who} {va : Word} {n v : Nat} (h : perfRead s w va n = .ok t v) : SameCores s t := by
  unfold perfRead readAt at h
  split at h
  · cases h
  split at h
  -- a local store, a line, host memory
  · split at h
    · cases h
    · cases h
      exact readFlat_sameCores ⟨rfl, rfl, rfl⟩
  · split at h
    · cases h
    split at h
    · cases h
    · cases h
      refine readFlat_sameCores ?_
      split <;> exact askHome_sameCores ..
  · split at h <;> cases h
    · exact readFlat_sameCores (touchPage_reads ..).sameCores
    · exact readFlat_sameCores ⟨rfl, rfl, rfl⟩
  -- no answer
  · cases h
  · cases h
  · cases h

theorem slotAt_sameCores {s t : State} (h : SameCores s t) (w : SlotRef) : slotAt t w = slotAt s w := by rw [slotAt, h.1, slotAt]

theorem coreAt_sameCores {s t : State} (h : SameCores s t) (c : CoreRef) : coreAt t c = coreAt s c := by rw [coreAt, h.2.1, coreAt]

/-! ### Claims -/

/-- Without a waiting RECV nothing is claimed. -/
theorem claimAll_none {s : State} {w : SlotRef} (h : (slotAt s w).outs.any waitingRecv = false) : claimAll s w = s := by
  have hf : (slotAt s w).outs.filter waitingRecv = [] := List.filter_eq_nil_iff.mpr (List.any_eq_false.mp h)
  rw [claimAll, hf, List.foldl_nil]

/-! ### Messages -/

/-- What a write of one core keeps of that core it keeps of every core. -/
theorem coreAt_setCore_keeps {α : Type} (g : Core → α) {s : State} {c : CoreRef} {x : Core} (h : g x = g (coreAt s c)) (d : CoreRef) :
    g (coreAt (setCore s c x) d) = g (coreAt s d) := by
  by_cases hk : coreKey d.m d.d d.c = coreKey c.m c.d c.c
  · simp only [coreAt, setCore, hk, tget_tput_same]
    exact h
  · simp only [coreAt, setCore, tget_tput_other _ _ _ _ _ hk]

/-- The slot with a status for its outstanding results of identity `id`. -/
def answered (id : Nat) (f : OutKind → OutKind) (x : Slot) : Slot :=
  { x with outs := x.outs.map fun o => if o.id = id then { o with kind := f o.kind } else o }

theorem answered_kind {id : Nat} {f : OutKind → OutKind} {x : Slot} {o : Out} (ho : o ∈ (answered id f x).outs) (hid : o.id = id) :
    ∃ k, o.kind = f k := by
  obtain ⟨p, -, rfl⟩ := List.mem_map.mp ho
  by_cases hp : p.id = id
  · exact ⟨p.kind, by rw [if_pos hp]⟩
  · rw [if_neg hp] at hid
    exact absurd hid hp

/-- A status reaches outstanding results alone, those of its slot with its identity among them: nothing in flight, no byte of memory
and no inbox changes. -/
theorem answerOut_leaves (s : State) (w : SlotRef) (id : Nat) (f : OutKind → OutKind) :
    (answerOut s w id f).net = s.net ∧ (answerOut s w id f).mem = s.mem ∧
      (∀ c, (coreAt (answerOut s w id f) c).inbox = (coreAt s c).inbox) ∧
      ∀ o ∈ (slotAt (answerOut s w id f) w).outs, o.id = id → ∃ k, o.kind = f k := by
  unfold answerOut
  extract_lets upd s1 c
  have h1 : s1.net = s.net ∧ s1.mem = s.mem ∧ s1.cores = s.cores ∧ ∀ o ∈ (slotAt s1 w).outs, o.id = id → ∃ k, o.kind = f k := by
    unfold s1
    split
    · refine ⟨rfl, rfl, rfl, fun o ho => ?_⟩
      rw [slotAt_setSlot] at ho
      exact answered_kind ho
    · next hno => exact ⟨rfl, rfl, rfl, fun o ho hid => absurd (List.any_eq_true.mpr ⟨o, ho, by simp [hid]⟩) hno⟩
  obtain ⟨hn, hm, hc, ho⟩ := h1
  have hin : ∀ d, (coreAt s1 d).inbox = (coreAt s d).inbox := fun d => by rw [coreAt, hc, coreAt]
  split
  · exact ⟨hn, hm, hin, ho⟩
  · exact ⟨hn, hm, fun d => (coreAt_setCore_keeps Core.inbox (c := coreRefOf w) (by rfl) d).trans (hin d), ho⟩

/-- What a sender hears that only waits for a status, or hears of an arrival (R170). -/
theorem answerMsg_heard (s : State) (m : Msg) {st : Nat} (h : st < 2 ∨ m.why = .none ∨ ∃ w id, m.why = .send w id) :
    (answerMsg s m st).net = s.net ∧ (answerMsg s m st).mem = s.mem ∧
      (∀ c, (coreAt (answerMsg s m st) c).inbox = (coreAt s c).inbox) ∧
      ∀ w id, m.why = .send w id → ∀ o ∈ (slotAt (answerMsg s m st) w).outs, o.id = id →
        o.kind = .send (some (BitVec.ofNat 64 st)) := by
  cases hw : m.why with
  | send w id =>
    have he : answerMsg s m st = answerOut s w id fun _ => .send (some (BitVec.ofNat 64 st)) := by rw [answerMsg, hw]
    obtain ⟨hn, hm, hc, ho⟩ := answerOut_leaves s w id fun _ => .send (some (BitVec.ofNat 64 st))
    rw [he]
    refine ⟨hn, hm, hc, ?_⟩
    rintro _ _ ⟨⟩ o hmem hid
    obtain ⟨-, hk⟩ := ho o hmem hid
    exact hk
  | none =>
    have he : answerMsg s m st = s := by rw [answerMsg, hw]
    rw [he]
    exact ⟨rfl, rfl, fun _ => rfl, nofun⟩
  | fault w second =>
    have hst : st < 2 := h.resolve_right (by simp [hw])
    have he : answerMsg s m st = s := by rw [answerMsg, hw]; exact if_pos hst
    rw [he]
    exact ⟨rfl, rfl, fun _ => rfl, nofun⟩
  | event ep1 =>
    have hst : st < 2 := h.resolve_right (by simp [hw])
    have he : answerMsg s m st = s := by rw [answerMsg, hw]; exact if_pos (by simp [hst])
    rw [he]
    exact ⟨rfl, rfl, fun _ => rfl, nofun⟩

section
variable {s : State} {i : Nat} {m : Msg} (hi : s.net[i]? = some m) (ho : (s.net.take i).any (fun a => msgOrdered s a m) = false)
  (hup : modUp s m.dest = true → (modAt s m.dest).fenced = false ∧ dieStopped (modAt s (msgSlot m).m) (msgSlot m).d = false)
include hi ho hup

/-- A message that nothing holds back, and that its core does not take, is answered with 3. -/
theorem messageArrival_refused (hr : noReceiver s m (msgSlot m) = true) :
    exec (.messageArrival i) s = .next (answerMsg { s with net := dropAt s.net i } m 3) := by
  show execMessageArrival i s = _
  cases hu : modUp s m.dest <;> simp_all [execMessageArrival]

/-- One that its core takes, with room in the inbox and an empty ring, joins the inbox (R150). -/
theorem messageArrival_joins (hr : noReceiver s m (msgSlot m) = false)
    (hroom : (coreOf s (msgSlot m)).inbox.length + claimedCount s (coreRefOf (msgSlot m)) < 64)
    (hring : (coreOf s (msgSlot m)).spill.bound = []) (hw : (slotAt s (msgSlot m)).outs.any waitingRecv = false) :
    exec (.messageArrival i) s = .next (answerMsg (setCoreOf { s with net := dropAt s.net i } (msgSlot m)
      { coreOf s (msgSlot m) with inbox := (coreOf s (msgSlot m)).inbox ++ [⟨m.raw, bindFor s (msgSlot m) m.ctx⟩] }) m 0) := by
  have hclaim := claimAll_none (s := setCoreOf { s with net := dropAt s.net i } (msgSlot m)
    { coreOf s (msgSlot m) with inbox := (coreOf s (msgSlot m)).inbox ++ [⟨m.raw, bindFor s (msgSlot m) m.ctx⟩] }) hw
  have hp : placeMsg { s with net := dropAt s.net i } (msgSlot m) m.raw m.ctx = (setCoreOf { s with net := dropAt s.net i } (msgSlot m)
      { coreOf s (msgSlot m) with inbox := (coreOf s (msgSlot m)).inbox ++ [⟨m.raw, bindFor s (msgSlot m) m.ctx⟩] }, some 0) := by
    rw [← hclaim]
    refine if_pos ?_
    rw [Bool.and_eq_true, decide_eq_true_eq]
    exact ⟨hroom, by rw [List.isEmpty_iff]; exact hring⟩
  show execMessageArrival i s = _
  cases hu : modUp s m.dest <;> simp_all [execMessageArrival]

end

/-! ### The spill ring -/

theorem ringPast_bound (p : Spill) : (ringPast p).bound = p.bound.drop 1 := by
  unfold ringPast
  dsimp only
  split <;> rfl

/-- The entry that leaves the ring joins the inbox, when its slot has no RECV that waits (R150, R197). -/
theorem fromRing_joins {s : State} {c : CoreRef} {raw : VWord} {b : Option Nat}
    (hno : ∀ i, b = some i → ∀ w ∈ slotsOf c, (slotAt s w).bindId ≠ some i)
    (hw : (slotAt s (slotOf c (entrySlot raw))).outs.any waitingRecv = false) :
    fromRing s c raw b = setCore s c { coreAt s c with inbox := (coreAt s c).inbox ++
      [⟨raw, b.bind fun i => if (coreAt s c).swapped.any (fun t => t.id = i) then b else none⟩] } := by
  have hmine : (b.bind fun i => (slotsOf c).find? fun w => (slotAt s w).bindId = some i) = none := by
    cases b with
    | none => rfl
    | some i => exact List.find?_eq_none.mpr fun w hw => by simpa using hno i rfl w hw
  unfold fromRing
  dsimp only
  rw [hmine]
  exact claimAll_none (by rw [slotAt_setCore]; exact hw)

/-- The entry joins the inbox for the slot that its context came back into (R197). -/
theorem fromRing_comes_back {s : State} {c : CoreRef} {raw : VWord} {i : Nat} {w : SlotRef} (hmem : w ∈ slotsOf c)
    (hone : ∀ v ∈ slotsOf c, (slotAt s v).bindId = some i ↔ v = w) (hw : (slotAt s w).outs.any waitingRecv = false) :
    fromRing s c raw (some i) =
      setCore s c { coreAt s c with inbox := (coreAt s c).inbox ++ [⟨readdress raw w.k, none⟩] } := by
  have hmine : ((slotsOf c).find? fun v => (slotAt s v).bindId = some i) = some w := by
    cases hf : (slotsOf c).find? fun v => (slotAt s v).bindId = some i with
    | none => exact absurd ((hone w hmem).mpr rfl) (by simpa using List.find?_eq_none.mp hf w hmem)
    | some v => rw [(hone v (List.mem_of_find?_eq_some hf)).mp (by simpa using List.find?_some hf)]
  have hnone : (slotAt s w).outs.find? waitingRecv = none := List.find?_eq_none.mpr (List.any_eq_false.mp hw)
  unfold fromRing
  simp only [Option.bind_some, hmine, hnone]

section
variable {s s' : State} {c : CoreRef} {b : Option Nat} {r : List (Option Nat)} {v : Nat}

/-- The ring hands over the entry that is read at its head (R150). -/
theorem spillRingMove_hands (hb : (coreAt s c).spill.bound = b :: r) (hroom : (coreAt s c).inbox.length + claimedCount s c < 64)
    (hd : dieStopped (modAt s c.m) c.d = false)
    (hv : perfRead s (deviceOf s (slotOf c 0)) (ringAddr (coreAt s c).spill 0) 64 = .ok s' v) :
    exec (.spillRingMove c) s = .next (fromRing (setCore s' c { coreAt s c with spill := ringPast (coreAt s c).spill }) c
      (BitVec.ofNat 512 (devOver s' (deviceOf s (slotOf c 0)) (ringAddr (coreAt s c).spill 0) 64 v)) b) := by
  have hc := coreAt_sameCores (perfRead_sameCores hv) c
  show execSpillRingMove c s = _
  simp [execSpillRingMove, hb, hd, hv, hc, Nat.not_le.mpr hroom]

end

/-! ### Wakes -/

section
variable (s : State) (wakes : List Poke) (w : SlotRef)

theorem immatureIn_wakes (es : List StEnt) (n : Nat) (e : StEnt) :
    immatureIn { s with wakes := wakes } w es n e = immatureIn s w es n e := by
  induction n generalizing e with
  | zero => rfl
  | succ n ih =>
    simp only [immatureIn, ih]
    rfl

/-- What the buffers hold for a byte does not depend on the wakes in flight. -/
theorem youngest_wakes (id a : Nat) : youngest { s with wakes := wakes } w id a = youngest s w id a := by
  have himm : ∀ e, immature { s with wakes := wakes } w e = immature s w e := fun e => immatureIn_wakes s wakes w _ _ e
  simp only [youngest, hidden, himm]
  rfl

theorem seenBy_wakes (a : Word) (n : Nat) : seenBy { s with wakes := wakes } w a n = seenBy s w a n := by
  simp only [seenBy, forward, youngest_wakes]

theorem wordsBad_wakes (id flat : Nat) (va : Word) (n : Nat) :
    wordsBad { s with wakes := wakes } w id flat va n = wordsBad s w id flat va n := by
  simp only [wordsBad, allForwarded, youngest_wakes]
  rfl

end

/-- The slot that a wake takes out of its WAITA, with the word that it sees (R173). -/
def wokenSlot (x : Slot) (d : RegIx) (v : Word) : Slot := endPark (sPut { x with pendingWake := false } d v) false

theorem wokenSlot_goes (x : Slot) (d : RegIx) (v : Word) : (wokenSlot x d v).st = .ready ∧ (wokenSlot x d v).pc = nextCell x.pc ∧
    sGet (wokenSlot x d v) d = if d = 0 then 0 else v :=
  ⟨rfl, congrArg nextCell (sPut_pc ..), sGet_sPut_same ..⟩

/-- A wake ends a WAITA whose word can be read. -/
theorem recheckWait_woken {s : State} {w : SlotRef} {a v : Word} {d : RegIx} (hst : (slotAt s w).st = .parked (.waita a v d) false)
    (hv : s.veils = []) (hgood : wordsBad s w s.nextId (localFlat (coreRefOf w) a.toNat) a 8 = false) :
    recheckWait s w true = setSlot (readFlat s (localFlat (coreRefOf w) a.toNat) 8).2 w
      (wokenSlot (slotAt s w) d (BitVec.ofNat 64 (seenBy s w a 8))) := by
  have hveil : veiled s (whoOf s w) (.lstore (coreRefOf w) (localFlat (coreRefOf w) a.toNat)) a 8 = false := by
    simp [veiled, veilsAt, hv]
  unfold recheckWait wokenSlot
  simp only [hst, hveil, hgood, Bool.true_or, Bool.or_true, Bool.false_eq_true, if_false, if_true]
  rfl

section
variable {s : State} {i : Nat} {p : Poke} (hi : s.wakes[i]? = some p)
  (hp : corePresent (modAt s (pokeSlot p).m) (pokeSlot p).d (pokeSlot p).c = true)
  (hl : (coreOf s (pokeSlot p)).launch.isSome = true) (hlp : (coreOf s (pokeSlot p)).launch = p.launch)
  (hd : dieStopped (modAt s (pokeSlot p).m) (pokeSlot p).d = false)
include hi hp hl hlp hd

/-- A wake of its sender's launch is kept by a slot that runs, for its next WAITA; a slot parked in WAITA compares anew. -/
theorem wakeDelivery_reaches :
    ((slotAt s (pokeSlot p)).st = .ready → exec (.wakeDelivery i) s =
      .next (setSlot { s with wakes := dropAt s.wakes i } (pokeSlot p) { slotAt s (pokeSlot p) with pendingWake := true })) ∧
    ∀ a v d sw, (slotAt s (pokeSlot p)).st = .parked (.waita a v d) sw → exec (.wakeDelivery i) s =
      .next (recheckWait { s with wakes := dropAt s.wakes i } (pokeSlot p) true) := by
  have hno : (!corePresent (modAt s (pokeSlot p).m) (pokeSlot p).d (pokeSlot p).c || (coreOf s (pokeSlot p)).launch.isNone ||
      (coreOf s (pokeSlot p)).launch != p.launch) = false := by simp [hp, ← hlp, Option.isNone_eq_false_iff, hl]
  refine ⟨fun hst => ?_, fun a v d sw hst => ?_⟩ <;>
  · show execWakeDelivery i s = _
    unfold execWakeDelivery
    rw [hi]
    dsimp only
    rw [if_neg (by rw [hd]; exact Bool.false_ne_true)]
    refine (if_neg (by rw [Bool.not_eq_true]; exact hno)).trans ?_
    dsimp only [slotAt] at hst ⊢
    rw [hst]

end

end Sys2Proof.Machine

namespace Sys2Proof

open Sys2Proof.Machine

/-- Settles O40: a message by whether its core takes it, a ring entry by the slot that its context came back into, a wake by the state
of its slot. -/
theorem messagesAndWakesArrive : Obligations.MessagesAndWakesArrive := by
  refine ⟨?_, ?_, ?_⟩
  · intro s i m w Heard hi ho hup
    refine ⟨fun hr hwhy => ?_, fun hr hroom hring hw => ?_⟩
    · obtain ⟨hn, hm, -, hk⟩ := answerMsg_heard { s with net := dropAt s.net i } m (st := 3) (.inr hwhy)
      exact ⟨_, messageArrival_refused hi ho hup hr, hn, hm, hk⟩
    · obtain ⟨hn, hm, hc, hk⟩ := answerMsg_heard (setCoreOf { s with net := dropAt s.net i } (msgSlot m)
        { coreOf s (msgSlot m) with inbox := (coreOf s (msgSlot m)).inbox ++ [⟨m.raw, bindFor s (msgSlot m) m.ctx⟩] }) m (st := 0)
        (.inl (by decide))
      refine ⟨_, messageArrival_joins hi ho hup hr hroom hring hw, ⟨hn, hm, hk⟩, (hc (coreRefOf w)).trans ?_⟩
      exact congrArg Core.inbox (coreOf_setCoreOf ..)
  · intro s c b r s' v x d raw Joins hb hroom hd hv
    have hsame := perfRead_sameCores hv
    have hx : coreAt (setCore s' c { x with spill := ringPast x.spill }) c = { x with spill := ringPast x.spill } := coreAt_setCore ..
    have hslot : ∀ w, slotAt (setCore s' c { x with spill := ringPast x.spill }) w = slotAt s w := fun w => slotAt_sameCores hsame w
    have joins : ∀ e : InEntry, fromRing (setCore s' c { x with spill := ringPast x.spill }) c raw b =
        setCore (setCore s' c { x with spill := ringPast x.spill }) c { x with spill := ringPast x.spill, inbox := x.inbox ++ [e] } →
        Joins e := fun e he => ⟨_, (spillRingMove_hands hb hroom hd hv).trans (congrArg _ he), by rw [coreAt_setCore], by
          rw [coreAt_setCore, ringPast_bound, hb, List.drop_one, List.tail_cons]⟩
    refine ⟨fun hno hw => ?_, fun i w hbi hmem hone hw => ?_⟩
    · have hjoin := fromRing_joins (s := setCore s' c { x with spill := ringPast x.spill }) (c := c) (raw := raw) (b := b)
        (fun i hi w hw => by rw [hslot]; exact hno i hi w hw) (by rw [hslot]; exact hw)
      rw [hx] at hjoin
      refine ⟨fun hn => ?_, fun i hi => ⟨fun hsw => ?_, fun hsw => ?_⟩⟩
      · subst hn
        exact joins _ hjoin
      · subst hi
        have hany : x.swapped.any (fun q => q.id = i) = true := by simpa using hsw
        exact joins _ (hjoin.trans (by simp only [Option.bind_some, hany, if_true]))
      · subst hi
        have hany : x.swapped.any (fun q => q.id = i) = false := by simpa using hsw
        exact joins _ (hjoin.trans (by simp only [Option.bind_some, hany, Bool.false_eq_true, if_false]))
    · subst hbi
      have hjoin := fromRing_comes_back (s := setCore s' c { x with spill := ringPast x.spill }) (raw := raw) hmem
        (fun v hv => by rw [hslot]; exact hone v hv) (by rw [hslot]; exact hw)
      rw [hx] at hjoin
      exact joins _ hjoin
  · intro s i p w x s1 hi hp hl hlp hd
    obtain ⟨hkept, hwakes⟩ := wakeDelivery_reaches hi hp hl hlp hd
    refine ⟨hkept, fun a v d hst hv hgood => ?_⟩
    have hwoken := recheckWait_woken (s := s1) hst hv ((wordsBad_wakes ..).trans hgood)
    rw [seenBy_wakes] at hwoken
    refine ⟨_, (hwakes a v d false hst).trans (congrArg _ hwoken), (readFlat_quiet ..).mem, ?_⟩
    rw [slotAt_setSlot]
    exact wokenSlot_goes x d _

end Sys2Proof
end

section
/-!
PROOFS. Tasks, supersteps and barriers (O42; R142, R143, R146, R148, R155, R156).
-/

namespace Sys2Proof.Machine

/-! ### How a slot starts -/

/-- The check of a target reads of the state the slot's instruction buffer and, when that is empty, the line in the local store. -/
theorem checkTarget_of_freshLine {s t : State} {w : SlotRef} {pc : Word} (hs : (slotAt s w).ibuf = []) (ht : (slotAt t w).ibuf = [])
    (hf : freshLine t (coreRefOf w) (lineOfPc pc) = freshLine s (coreRefOf w) (lineOfPc pc)) :
    checkTarget t w pc = checkTarget s w pc := by
  have hv : lineView t w (lineOfPc pc) = lineView s w (lineOfPc pc) := by
    simp only [lineView, hs, ht, List.find?_nil]
    exact hf
  simp only [checkTarget, checkLine, hv, hf]

theorem tget_tdel_other {α : Type} (t : Tbl α) (d : α) {i j : Nat} (h : j ≠ i) : tget (tdel t i) d j = tget t d j := by
  induction t with
  | nil => rfl
  | cons p r ih =>
    obtain ⟨k, x⟩ := p
    by_cases hk : k = i
    · simp [tdel, tget, hk, Ne.symm h]
    · simp [tdel, tget, hk, ih]

theorem tget_eccCorrect_other {t : Tbl Ecc} {i n j : Nat} (h : j < i ∨ i + n ≤ j) :
    tget (eccCorrect t i n) Ecc.reset j = tget t Ecc.reset j := by
  induction n generalizing t i with
  | zero => rfl
  | succ n ih =>
    rw [eccCorrect, ih (by omega)]
    split
    · rfl
    · exact tget_tdel_other t _ (by omega)

/-- The line of a legal PC lies in the local store. -/
theorem lineOfPc_local {pc : Word} (h : checkPc pc = none) : lineOfPc pc + 64 ≤ 2 ^ 20 := by
  unfold checkPc at h
  split at h
  · cases h
  · split at h
    · cases h
    · next ha =>
      have h0 := congrArg BitVec.toNat (of_not_not (mt bne_iff_ne.mpr ha))
      have hlt := pc.isLt
      rw [BitVec.extractLsb'_toNat, Nat.shiftRight_eq_div_pow, show (0 : BitVec 44).toNat = 0 from rfl] at h0
      unfold lineOfPc
      omega

/-- A fetch corrects words of its core's local store, and changes nothing else (R27). -/
theorem fixFetch_leaves (s : State) (w : SlotRef) (pc : Word) :
    fixFetch s w pc = { s with ecc := (fixFetch s w pc).ecc } ∧
      ∀ c a, coreKey c.m c.d c.c ≠ coreKey w.m w.d w.c → a + 64 ≤ 2 ^ 20 →
        freshLine (fixFetch s w pc) c a = freshLine s c a := by
  unfold fixFetch
  split
  · exact ⟨rfl, fun _ _ _ _ => rfl⟩
  · next hg =>
    have hpc : checkPc pc = none := by
      cases h : checkPc pc with
      | none => rfl
      | some _ => simp [h] at hg
    have hl := lineOfPc_local hpc
    unfold fixLine readFlat
    dsimp only
    split
    · exact ⟨rfl, fun _ _ _ _ => rfl⟩
    · refine ⟨rfl, fun c a hc ha => ?_⟩
      have he : ∀ i < 8, tget (eccCorrect s.ecc (localFlat (coreRefOf w) (lineOfPc pc) / 8)
          (wordSpan (localFlat (coreRefOf w) (lineOfPc pc)) 64).2) Ecc.reset (localFlat c a / 8 + i) =
          tget s.ecc Ecc.reset (localFlat c a / 8 + i) := fun i hi => by
        apply tget_eccCorrect_other
        simp only [localFlat, coreRefOf, wordSpan]
        omega
      simp only [freshLine, eccAt]
      congr 1
      exact List.map_congr_left fun i hi => by rw [he i (List.mem_range.mp hi)]

/-- A slot whose PC passes its checks starts as it is given (R14, R135). -/
theorem startSlot_starts {s : State} {w : SlotRef} {x : Slot} (hi : x.ibuf = [])
    (h : checkTarget (setSlot s w Slot.reset) w x.pc = none) : startSlot s w x = fixFetch (setSlot s w x) w x.pc := by
  have hc : checkTarget (setSlot s w x) w x.pc = none := by
    rw [← h]
    exact checkTarget_of_freshLine (by rw [slotAt_setSlot]; rfl) (by rw [slotAt_setSlot, hi]) rfl
  rw [startSlot, hc]

theorem startSlot_leaves {s : State} {w : SlotRef} {x : Slot} (hi : x.ibuf = [])
    (h : checkTarget (setSlot s w Slot.reset) w x.pc = none) : ∃ e, startSlot s w x = { setSlot s w x with ecc := e } :=
  ⟨_, (startSlot_starts hi h).trans (fixFetch_leaves ..).1⟩

/-! ### Tasks (R155, R156) -/

/-- The slot differs from another in its scalar registers alone, which all read zero. -/
def ZeroRegs (x y : Slot) : Prop := y = { x with sreg := y.sreg } ∧ ∀ i, sGet y i = 0

theorem sPut_zeroRegs {x y : Slot} (r : RegIx) (h : ZeroRegs x y) : ZeroRegs x (sPut y r 0) := by
  obtain ⟨hy, h0⟩ := h
  refine ⟨?_, fun i => ?_⟩
  · unfold sPut
    split
    · exact hy
    · rw [hy]
  · by_cases hi : i = r
    · rw [hi, sGet_sPut_same, ite_self]
    · rw [sGet_sPut_other _ _ _ _ hi, h0]

theorem newSlot_zeroRegs (s : State) (w : SlotRef) (pc : Word) : ZeroRegs (newSlot s w pc) (newSlot s w pc) :=
  ⟨rfl, fun i => by unfold sGet; split <;> rfl⟩

/-- The slot of a task whose walk takes no buffers: registers zero, the task's number and its tile. -/
theorem walkedSlot_bare (s : State) (w : SlotRef) (k : Walk) (tile : List Nat) (buf : Option Nat) (pins : List PageRef)
    (h : ∀ f ∈ k.fps, f.mode = 0) : ∃ y, ZeroRegs (newSlot s w k.body) y ∧
      walkedSlot s w k tile buf pins = { y with
        csr := { y.csr with taskid := BitVec.ofNat 32 k.issued.length,
                            tidx := (List.range tile.length).map fun i => (i, BitVec.ofNat 32 (tile.getD i 0)) }
        task := .walked tile buf pins none } := by
  refine ⟨_, foldl_inv (P := ZeroRegs (newSlot s w k.body)) (fun y i hy => ?_) (newSlot_zeroRegs s w k.body), rfl⟩
  split
  · next f hf =>
    rw [if_pos (h f (List.mem_of_getElem? hf))]
    exact sPut_zeroRegs _ hy
  · exact sPut_zeroRegs _ hy

theorem tget_range_map {α : Type} (f : Nat → α) (d : α) {n i : Nat} (h : i < n) :
    tget ((List.range n).map fun j => (j, f j)) d i = f i := by
  have gen : ∀ (l : List Nat), i ∈ l → tget (l.map fun j => (j, f j)) d i = f i := fun l => by
    induction l with
    | nil => exact nofun
    | cons j l ih =>
      intro hm
      by_cases hj : j = i
      · simp [tget, hj]
      · rw [List.map_cons, tget, if_neg hj]
        exact ih ((List.mem_cons.mp hm).resolve_left (Ne.symm hj))
  exact gen _ (List.mem_range.mpr h)

/-- A walk whose footprints are all of MODE 0 takes no buffer and reads no row. -/
theorem bareWalk {k : Walk} (h : ∀ f ∈ k.fps, f.mode = 0) (clk : Nat) :
    nextBuffer clk k = some none ∧ (k.fps.mapIdx fun i f => (i, f)).filter (fun p => p.2.mode = 1 || p.2.mode = 3) = [] := by
  constructor
  · have hu : usesBuffer k = [] := List.filter_eq_nil_iff.mpr fun f hf => by simp [h f hf]
    rw [nextBuffer, hu]
  · refine List.filter_eq_nil_iff.mpr fun p hp => ?_
    obtain ⟨i, hi, rfl⟩ := List.mem_mapIdx.mp hp
    simp [h _ (List.getElem_mem hi)]

theorem walkTaskDispatch_starts {s : State} {c : CoreRef} {k : Walk} {w : SlotRef} {tile : List Nat}
    (hk : (coreAt s c).walk = some k) (hw : anyFree s c = some w) (hr : coreRuns s c = true) (hx : ctxWaiting s c = false)
    (ht : tileOpen k tile = true) (hrr : (coreAt s c).rrTask = false ∨ (coreAt s c).tasks = []) (hf : ∀ f ∈ k.fps, f.mode = 0)
    (hp : pinCount (coreAt s c) ≤ 184) (hc : checkTarget (setSlot s w Slot.reset) w k.body = none) :
    Goes (exec (.walkTaskDispatch c tile) s) (fun t =>
      let y := slotAt t w
      t.mem = s.mem ∧ y.st = .ready ∧ y.pc = k.body ∧ (∀ i, sGet y i = 0) ∧ y.csr.taskid = BitVec.ofNat 32 k.issued.length ∧
      (∀ i, i < tile.length → tget y.csr.tidx 0 i = BitVec.ofNat 32 (tile.getD i 0)) ∧ y.task = .walked tile none [] none ∧
      (coreAt t c).walk = some { k with issued := k.issued ++ [tile] } ∧ (coreAt t c).rrTask = true) := by
  obtain ⟨hb, hin⟩ := bareWalk hf s.clk
  have hg : (!coreRuns s c || ctxWaiting s c || !tileOpen k tile ||
      ((coreAt s c).rrTask && !(coreAt s c).tasks.isEmpty)) = false := by
    rcases hrr with h | h <;> simp [hr, hx, ht, h]
  have h184 : ¬ 184 < pinCount (coreAt s c) + 0 := by omega
  let s1 := setCore s c { coreAt s c with walk := some { k with issued := k.issued ++ [tile] }, rrTask := true }
  obtain ⟨y, ⟨hy, h0⟩, he⟩ := walkedSlot_bare s1 w k tile none [] hf
  have hgo : exec (.walkTaskDispatch c tile) s = .next (startSlot s1 w (walkedSlot s1 w k tile none [])) := by
    show execWalkTaskDispatch c tile s = _
    unfold execWalkTaskDispatch
    dsimp only
    rw [hk, hw]
    simp [hg, hb, hin, rowPages, readFootprints, hp, s1]
  obtain ⟨e, hs⟩ := startSlot_leaves (s := s1) (w := w) (x := walkedSlot s1 w k tile none []) (by rw [he, hy]; rfl)
    (by rw [he, hy]
        refine Eq.trans ?_ hc
        exact checkTarget_of_freshLine (by rw [slotAt_setSlot]; rfl) (by rw [slotAt_setSlot]; rfl) rfl)
  refine ⟨_, hgo.trans (by rw [hs]), ?_⟩
  have hsl : slotAt { setSlot s1 w (walkedSlot s1 w k tile none []) with ecc := e } w = walkedSlot s1 w k tile none [] :=
    slotAt_setSlot ..
  have hcore : coreAt { setSlot s1 w (walkedSlot s1 w k tile none []) with ecc := e } c = coreAt s1 c := rfl
  dsimp only
  rw [hsl, hcore, he]
  refine ⟨rfl, by rw [hy]; rfl, by rw [hy]; rfl, h0, rfl, fun i hi => tget_range_map _ _ hi, rfl, ?_, ?_⟩
  · simp [s1]
  · simp [s1]

theorem queuedTaskDispatch_starts {s : State} {c : CoreRef} {q : QTask} {r : List QTask} {w : SlotRef}
    (hq : (coreAt s c).tasks = q :: r) (hw : anyFree s c = some w) (hr : coreRuns s c = true) (hx : ctxWaiting s c = false)
    (hrr : (coreAt s c).rrTask = true ∨ walkHas s c = false) (hc : checkTarget (setSlot s w Slot.reset) w q.pc = none) :
    Goes (exec (.queuedTaskDispatch c) s) (fun t =>
      let y := slotAt t w
      t.mem = s.mem ∧ y.st = .ready ∧ y.pc = q.pc ∧ sGet y 1 = q.a1 ∧ sGet y 2 = q.a2 ∧ y.csr.taskid = q.id ∧
      y.task = .queued ∧ (coreAt t c).tasks = r) := by
  let s1 := setCore s c { coreAt s c with tasks := r, rrTask := false }
  let y := sPut (sPut (newSlot s w q.pc) 1 q.a1) 2 q.a2
  let x : Slot := { y with csr := { y.csr with taskid := q.id }, task := .queued }
  have hgo : exec (.queuedTaskDispatch c) s = .next (startSlot s1 w x) := by
    show execQueuedTaskDispatch c s = _
    unfold execQueuedTaskDispatch
    dsimp only
    rw [hq, hw]
    rcases hrr with h | h <;> simp [hr, hx, h, s1, x, y]
  have hpc : x.pc = q.pc := (sPut_pc ..).trans (sPut_pc ..)
  obtain ⟨e, hs⟩ := startSlot_leaves (s := s1) (w := w) (x := x) ((sPut_ibuf ..).trans (sPut_ibuf ..))
    (by rw [hpc]
        refine Eq.trans ?_ hc
        exact checkTarget_of_freshLine (by rw [slotAt_setSlot]; rfl) (by rw [slotAt_setSlot]; rfl) rfl)
  refine ⟨_, hgo.trans (by rw [hs]), ?_⟩
  have hsl : slotAt { setSlot s1 w x with ecc := e } w = x := slotAt_setSlot ..
  have hcore : coreAt { setSlot s1 w x with ecc := e } c = coreAt s1 c := rfl
  dsimp only
  rw [hsl, hcore]
  refine ⟨rfl, (sPut_st ..).trans (sPut_st ..), hpc, ?_, ?_, rfl, rfl, by simp [s1]⟩
  · exact (sGet_sPut_other _ _ _ _ (by decide)).trans (sGet_sPut_same ..)
  · exact sGet_sPut_same ..

/-- A walked task that has ended leaves its slot FREE, and no byte of memory changes. -/
theorem endWalked_leaves (s : State) (w : SlotRef) : (endWalked s w).mem = s.mem ∧ slotAt (endWalked s w) w = Slot.reset := by
  unfold endWalked freeSlot
  dsimp only
  refine ⟨?_, slotAt_setSlot ..⟩
  rw [setSlot_mem, setCoreOf_mem]
  split <;> rfl

theorem footprintWriteOut_ends {s : State} {w : SlotRef} {k : Walk} {tile : List Nat} {buf : Option Nat} {pins : List PageRef}
    {left : Option (List (Word × Nat × Nat))} {r : WroteRows} (hst : (slotAt s w).st = .ending true)
    (htask : (slotAt s w).task = .walked tile buf pins left) (hk : (coreOf s w).walk = some k) (ho : (slotAt s w).outs = [])
    (hstop : (slotAt s w).stop = none) (hh : (slotAt s w).held = []) (hd : localDrained s w = true)
    (hr : writeRows s (walkWho s (coreRefOf w) k) (left.getD ((k.fps.filter (fun f => f.mode = 2 || f.mode = 3)).map
      (fun f => fpRows f tile (buf.getD 0))).flatten) = r)
    (hy : r.why = none) (hwait : r.waiting = []) (ha : r.absent = none) :
    Goes (exec (.footprintWriteOut w) s) (fun t => t.mem = r.s.mem ∧ slotAt t w = Slot.reset) := by
  let s2 := setSlot r.s w { slotAt r.s w with task := .walked tile buf pins (some r.waiting) }
  have hgo : exec (.footprintWriteOut w) s = .next (endWalked s2 w) := by
    show execFootprintWriteOut w s = _
    unfold execFootprintWriteOut
    dsimp only
    rw [hst, htask, hk]
    simp [ho, hstop, hh, hd, hr, hy, hwait, ha, s2]
  exact ⟨_, hgo, endWalked_leaves s2 w⟩

/-! ### Supersteps (R142, R143, R146) -/

theorem getLsbD_foldl_or {α : Type} {n : Nat} (f : α → BitVec n) (l : List α) (a : BitVec n) (i : Nat) :
    (l.foldl (fun a c => a ||| f c) a).getLsbD i = true ↔ a.getLsbD i = true ∨ ∃ c ∈ l, (f c).getLsbD i = true := by
  induction l generalizing a with
  | nil => simp
  | cons c l ih => simp [ih, or_assoc]

theorem getLsbD_foldl_and {α : Type} {n : Nat} (f : α → BitVec n) (l : List α) (a : BitVec n) (i : Nat) :
    (l.foldl (fun a c => a &&& f c) a).getLsbD i = true ↔ a.getLsbD i = true ∧ ∀ c ∈ l, (f c).getLsbD i = true := by
  induction l generalizing a with
  | nil => simp
  | cons c l ih => simp [ih, and_assoc]

theorem syncDomainComplete_begins {s : State} {l : LaunchRef} {z : Launch} {level x y : Nat} (hl : launchAt s l = some z)
    (hr : launchRuns s (some l) = true) (hw : launchWhole s l z = true) (he : exchangeOf z level x y = none)
    (hn : level ≤ z.record.nlev) (ha : (domainCores s l z.record level x y).all (coreArrived s level) = true)
    (hs : (domainCores s l z.record level x y).any (hasSync s level) = true) :
    let cs := domainCores s l z.record level x y
    ∃ e : Exchange, exec (.syncDomainComplete l level x y) s = .next (setLaunch s l { z with exch := z.exch ++ [e] }) ∧
      e.level = level ∧ e.x = (domainAt z.record level x y).1 ∧ e.y = (domainAt z.record level x y).2.1 ∧
      (∀ i, e.vor.getLsbD i = true ↔ ∃ c ∈ cs, (coreAt s c).corvote.getLsbD i = true) ∧
      (∀ i, i < 16 → (e.vand.getLsbD i = true ↔ ∀ c ∈ cs, (coreAt s c).candvote.getLsbD i = true)) := by
  intro cs
  refine ⟨⟨level, (domainAt z.record level x y).1, (domainAt z.record level x y).2.1,
    cs.foldl (fun a c => a ||| (coreAt s c).corvote) 0, cs.foldl (fun a c => a &&& (coreAt s c).candvote) 0xFFFF⟩,
    ?_, rfl, rfl, rfl, fun i => ?_, fun i hi => ?_⟩
  · show execSyncDomainComplete l level x y s = _
    have hlt : ¬ z.record.nlev < level := by omega
    unfold execSyncDomainComplete
    rw [hl]
    dsimp only
    rw [if_neg (by simp [hr, hw, he, hn]), if_pos (by rw [ha, hs]; rfl)]
  · rw [getLsbD_foldl_or]
    simp
  · have h1 : (0xFFFF#16).getLsbD i = true := by
      have h : ∀ j : Fin 16, (0xFFFF#16).getLsbD j = true := by decide
      exact h ⟨i, hi⟩
    rw [getLsbD_foldl_and]
    exact and_iff_right h1

theorem syncTimeout_fails {s : State} {w : SlotRef} {r : Rec} (hr : recOf s w = some r) (hn : r.syncto ≠ 0) :
    (∀ k sw, (slotAt s w).st = .parked (.sync k) sw → syncWaits s w k = true →
      exec (.syncTimeout w) s = .next (raisePrecise s w .barrier 5)) ∧
    ∀ b n sw, (slotAt s w).st = .parked (.barrier b n) sw →
      exec (.syncTimeout w) s = .next (raisePrecise s w .barrier 5) := by
  constructor
  · intro k sw hst hw
    show execSyncTimeout w s = _
    simp [execSyncTimeout, hst, hr, hn, hw]
  · intro b n sw hst
    show execSyncTimeout w s = _
    simp [execSyncTimeout, hst, hr, hn]

/-! ### Folds over cores and slots -/

/-- A fold whose steps each leave what has another key leaves what no element names. -/
theorem foldl_at_other {α β σ : Type} {f : σ → α → σ} {get : σ → α → β} {key : α → Nat} {s : σ} {l : List α} {b : α}
    (hother : ∀ t a b, key b ≠ key a → get (f t a) b = get t b) (hb : ∀ a ∈ l, key b ≠ key a) : get (l.foldl f s) b = get s b := by
  induction l generalizing s with
  | nil => rfl
  | cons a l ih =>
    rw [List.foldl_cons, ih fun c hc => hb c (List.mem_cons_of_mem _ hc), hother _ _ _ (hb a List.mem_cons_self)]

/-- A fold whose steps each change what they name, and leave what has another key, changes each of its elements once. -/
theorem foldl_at {α β σ : Type} {f : σ → α → σ} {get : σ → α → β} {g : β → β} {key : α → Nat} {s : σ} {l : List α}
    (hown : ∀ t a, get (f t a) a = g (get t a)) (hother : ∀ t a b, key b ≠ key a → get (f t a) b = get t b)
    (hn : (l.map key).Nodup) {a : α} (ha : a ∈ l) : get (l.foldl f s) a = g (get s a) := by
  induction l generalizing s with
  | nil => cases ha
  | cons b l ih =>
    obtain ⟨hb, hn⟩ := List.nodup_cons.mp hn
    rcases List.mem_cons.mp ha with rfl | ha
    · rw [List.foldl_cons, foldl_at_other hother fun c hc h => hb (h ▸ List.mem_map_of_mem hc), hown]
    · have hne : key a ≠ key b := fun h => hb (h ▸ List.mem_map_of_mem ha)
      rw [List.foldl_cons, ih hn ha, hother _ _ _ hne]

/-- A fold reaches what the step of one of its elements reaches and every step keeps. -/
theorem foldl_reaches {α σ : Type} {P Q : σ → Prop} {f : σ → α → σ} {s : σ} {l : List α} {a : α} (ha : a ∈ l)
    (hP : ∀ t b, P t → P (f t b)) (hQ : ∀ t b, Q t → Q (f t b)) (hreach : ∀ t, P t → Q (f t a)) (h : P s) : Q (l.foldl f s) := by
  induction l generalizing s with
  | nil => cases ha
  | cons b l ih =>
    rcases List.mem_cons.mp ha with rfl | ha
    · exact foldl_inv (b := f s a) hQ (hreach s h)
    · exact ih ha (hP s b h)

/-- The slots of two cores of different keys have different keys. -/
theorem slotKey_ne {c d : CoreRef} {v w : SlotRef} (hv : v ∈ slotsOf c) (hw : w ∈ slotsOf d)
    (h : coreKey d.m d.d d.c ≠ coreKey c.m c.d c.c) : slotKey w ≠ slotKey v := by
  simp only [slotsOf, List.mem_cons, List.not_mem_nil, or_false] at hv hw
  have hv' : ∃ k < 4, v = slotOf c k := by rcases hv with rfl | rfl | rfl | rfl <;> exact ⟨_, by decide, rfl⟩
  have hw' : ∃ k < 4, w = slotOf d k := by rcases hw with rfl | rfl | rfl | rfl <;> exact ⟨_, by decide, rfl⟩
  obtain ⟨i, hi, rfl⟩ := hv'
  obtain ⟨j, hj, rfl⟩ := hw'
  simp only [slotKey, slotOf]
  omega

theorem slotsOf_keys (c : CoreRef) : ((slotsOf c).map slotKey).Nodup := by
  simp [slotsOf, slotKey, slotOf]

theorem coresIn_bounds {s : State} {m : Nat} {r : Rec} {q : Nat × Nat × Nat × Nat} {c : CoreRef} (h : c ∈ coresIn s m r q) :
    c.m = m ∧ c.d < 16 ∧ c.c < 384 := by
  obtain ⟨hm, hp⟩ := List.mem_filter.mp h
  have hcm : c.m = m := by
    obtain ⟨row, hrow, hc⟩ := List.mem_flatten.mp hm
    obtain ⟨j, -, rfl⟩ := List.mem_map.mp hrow
    obtain ⟨i, -, rfl⟩ := List.mem_map.mp hc
    rfl
  simp only [corePresent, dieMapped, Bool.and_eq_true, decide_eq_true_eq] at hp
  exact ⟨hcm, by tauto, by tauto⟩

/-- Cores of one module have a key of their own each. -/
theorem nodup_coreKeys {m : Nat} {l : List CoreRef} (hl : ∀ c ∈ l, c.m = m ∧ c.d < 16 ∧ c.c < 384) (h : l.Nodup) :
    (l.map fun c => coreKey c.m c.d c.c).Nodup := by
  refine List.Nodup.map_on (fun a ha b hb hab => ?_) h
  obtain ⟨hma, hda, hca⟩ := hl a ha
  obtain ⟨hmb, hdb, hcb⟩ := hl b hb
  obtain ⟨m1, d1, c1⟩ := a
  obtain ⟨m2, d2, c2⟩ := b
  simp only [coreKey] at hma hda hca hmb hdb hcb hab
  rw [CoreRef.mk.injEq]
  omega

/-! ### The end of an exchange (R142, R146) -/

/-- A core's registers after a completed SYNC. -/
def syncedCore (e : Exchange) (x : Core) : Core :=
  { x with cnt := tput x.cnt e.level (tget x.cnt 0 e.level + 1), vor := e.vor, vand := e.vand, corvote := 0, candvote := 0xFFFF }

/-- A slot after a completed SYNC of a level. -/
def syncedSlot (level : Nat) (y : Slot) : Slot :=
  if !isLive y then y
  else match y.st with
    | .parked (.sync k) sw => if k = level then { endPark y sw with ibuf := [] } else { y with ibuf := [] }
    | _ => { y with ibuf := [] }

/-- One slot's step of a completed SYNC. -/
def syncStep (e : Exchange) (s : State) (w : SlotRef) : State :=
  if isLive (slotAt s w) then setSlot s w (syncedSlot e.level (slotAt s w)) else s

theorem syncCore_eq (s : State) (e : Exchange) (c : CoreRef) :
    syncCore s e c = (slotsOf c).foldl (syncStep e) (clearConst (setCore s c (syncedCore e (coreAt s c))) c) := by
  unfold syncCore
  dsimp only
  refine congrArg (fun f => (slotsOf c).foldl f _) (funext fun t => funext fun w => ?_)
  unfold syncStep syncedSlot
  by_cases hl : isLive (slotAt t w) = true
  · rw [hl]
    cases hst : (slotAt t w).st with
    | parked p sw =>
      cases p with
      | sync k => by_cases hk : k = e.level <;> simp [hk]
      | _ => simp
    | _ => simp
  · simp [hl]

theorem syncStep_own (e : Exchange) (s : State) (w : SlotRef) : slotAt (syncStep e s w) w = syncedSlot e.level (slotAt s w) := by
  unfold syncStep
  split
  · exact slotAt_setSlot ..
  · next hl => simp [syncedSlot, hl]

theorem syncStep_other (e : Exchange) (s : State) (w v : SlotRef) (h : slotKey v ≠ slotKey w) :
    slotAt (syncStep e s w) v = slotAt s v := by
  unfold syncStep
  split
  · exact slotAt_setSlot_other _ _ _ _ h
  · rfl

theorem coreAt_of_cores {s t : State} (h : t.cores = s.cores) (c : CoreRef) : coreAt t c = coreAt s c := by rw [coreAt, h, coreAt]

/-- A completed SYNC writes slots, cores and constant caches. -/
theorem syncCore_leaves (s : State) (e : Exchange) (c : CoreRef) :
    (syncCore s e c).mem = s.mem ∧ (syncCore s e c).cores = (setCore s c (syncedCore e (coreAt s c))).cores := by
  rw [syncCore_eq]
  refine foldl_inv (P := fun t : State => t.mem = s.mem ∧ t.cores = (setCore s c (syncedCore e (coreAt s c))).cores)
    (fun t w ht => ?_) ⟨rfl, rfl⟩
  unfold syncStep
  split <;> exact ht

theorem syncCore_own (s : State) (e : Exchange) (c : CoreRef) : coreAt (syncCore s e c) c = syncedCore e (coreAt s c) := by
  rw [coreAt_of_cores (syncCore_leaves s e c).2, coreAt_setCore]

theorem syncCore_other {s : State} {e : Exchange} {c d : CoreRef} (h : coreKey d.m d.d d.c ≠ coreKey c.m c.d c.c) :
    coreAt (syncCore s e c) d = coreAt s d := by
  rw [coreAt_of_cores (syncCore_leaves s e c).2]
  exact tget_tput_other _ _ _ _ _ h

theorem syncCore_slots (s : State) (e : Exchange) (c : CoreRef) :
    (slotsOf c).map (slotAt (syncCore s e c)) = ((slotsOf c).map (slotAt s)).map (syncedSlot e.level) := by
  rw [syncCore_eq, List.map_map]
  exact List.map_congr_left fun w hw => foldl_at (syncStep_own e) (syncStep_other e) (slotsOf_keys c) hw

theorem syncCore_slots_other {s : State} {e : Exchange} {c d : CoreRef} (h : coreKey d.m d.d d.c ≠ coreKey c.m c.d c.c) :
    (slotsOf d).map (slotAt (syncCore s e c)) = (slotsOf d).map (slotAt s) := by
  rw [syncCore_eq]
  exact List.map_congr_left fun w hw =>
    foldl_at_other (syncStep_other e) fun v hv => slotKey_ne hv hw h

/-- What the cores of a domain hold after their exchange, begun in a state whose copies have left `s`. -/
def DomainResumed (e : Exchange) (cs : List CoreRef) (s t : State) : Prop :=
  ∀ c ∈ cs, (coreAt t c).vor = e.vor ∧ (coreAt t c).vand = e.vand ∧ (coreAt t c).corvote = 0 ∧
    (coreAt t c).candvote = 0xFFFF ∧ tget (coreAt t c).cnt 0 e.level = tget (coreAt s c).cnt 0 e.level + 1 ∧
    ∀ w ∈ slotsOf c, (slotAt s w).st = .parked (.sync e.level) false →
      (slotAt t w).st = .ready ∧ (slotAt t w).pc = nextCell (slotAt s w).pc ∧ (slotAt t w).ibuf = []

theorem syncedSlot_parked {y : Slot} {level : Nat} (h : y.st = .parked (.sync level) false) :
    (syncedSlot level y).st = .ready ∧ (syncedSlot level y).pc = nextCell y.pc ∧ (syncedSlot level y).ibuf = [] := by
  simp [syncedSlot, isLive, h, endPark]

theorem syncCores_resume {s : State} {e : Exchange} {cs : List CoreRef} (hn : (cs.map fun c => coreKey c.m c.d c.c).Nodup) :
    (cs.foldl (fun s c => syncCore s e c) s).mem = s.mem ∧ DomainResumed e cs s (cs.foldl (fun s c => syncCore s e c) s) := by
  refine ⟨foldl_inv (P := fun t : State => t.mem = s.mem) (fun t c ht => (syncCore_leaves t e c).1.trans ht) rfl, fun c hc => ?_⟩
  have hcore : coreAt (cs.foldl (fun s c => syncCore s e c) s) c = syncedCore e (coreAt s c) :=
    foldl_at (get := coreAt) (fun t c => syncCore_own t e c) (fun t c d => syncCore_other) hn hc
  have hslots := foldl_at (get := fun t c => (slotsOf c).map (slotAt t)) (g := List.map (syncedSlot e.level)) (s := s)
    (fun t c => syncCore_slots t e c) (fun t c d => syncCore_slots_other) hn hc
  rw [List.map_map] at hslots
  rw [hcore]
  refine ⟨rfl, rfl, rfl, rfl, tget_tput_same .., fun w hw hst => ?_⟩
  rw [List.map_inj_left.mp hslots w hw]
  exact syncedSlot_parked hst

theorem exchangeComplete_resumes {s s' : State} {l : LaunchRef} {z : Launch} {level x y : Nat} {order : List Nat} {e : Exchange}
    (hl : launchAt s l = some z) (hh : holdsCores z = true) (he : exchangeOf z level x y = some e)
    (hn : (domainCores s l z.record level x y).Nodup)
    (hp : runPlan s s l.m z.record (permuted (z.plan.filter fun p : PlanEntry => p.v = e.vor.toNat % 4 && p.level = level &&
      ((domainAt z.record level p.x p.y).1 = e.x && (domainAt z.record level p.x p.y).2.1 = e.y)) order) [] = (s', some [])) :
    Goes (exec (.exchangeComplete l level x y order) s) (fun t => t.mem = s'.mem ∧
      DomainResumed e (domainCores s l z.record level x y) s' t ∧
      ∀ z2, launchAt t l = some z2 → ∀ d ∈ z2.exch, ¬ (d.level = e.level ∧ d.x = e.x ∧ d.y = e.y)) := by
  obtain ⟨hmem, hres⟩ := syncCores_resume (s := s') (e := e) (nodup_coreKeys (fun _ => coresIn_bounds) hn)
  show Goes (execExchangeComplete l level x y order s) _
  unfold execExchangeComplete
  rw [hl]
  dsimp only
  rw [he]
  dsimp only
  rw [if_neg (by simp [hh]), hp]
  dsimp only [List.foldl_nil]
  split
  · next hnone =>
    exact ⟨_, rfl, hmem, hres, fun z2 h => nomatch hnone.symm.trans h⟩
  · next z2 _ =>
    refine ⟨_, rfl, hmem, hres, fun z3 h d hd hde => ?_⟩
    have hz : z3.exch = z2.exch.filter fun d => !(d.level = e.level && d.x = e.x && d.y = e.y) := by
      have h' := (tfind_tput_same ..).symm.trans h
      rw [← Option.some.inj h']
      exact (apply_ite Launch.exch ..).trans (ite_self _)
    rw [hz] at hd
    have := (List.mem_filter.mp hd).2
    simp [hde] at this

/-! ### The release of a barrier (R148, R169) -/

/-- One slot's step of a release. -/
def releaseStep (b r : Nat) (s : State) (w : SlotRef) : State :=
  match (slotAt s w).st with
  | .parked (.barrier i n) sw => if i = b && decide (n.toNat ≤ r) then setSlot s w (endPark (slotAt s w) sw) else s
  | _ => s

theorem releaseWaiters_eq (s : State) (c : CoreRef) (b r : Nat) :
    releaseWaiters s c b r = (slotsOf c).foldl (releaseStep b r) s := rfl

theorem releaseStep_leaves (b r : Nat) (s : State) (w : SlotRef) :
    releaseStep b r s w = { s with slots := (releaseStep b r s w).slots } := by
  unfold releaseStep
  split
  · split <;> rfl
  · rfl

theorem releaseStep_other {b r : Nat} {s : State} {v w : SlotRef} (h : slotKey w ≠ slotKey v) :
    slotAt (releaseStep b r s v) w = slotAt s w := by
  unfold releaseStep
  split
  · split
    · exact slotAt_setSlot_other _ _ _ _ h
    · rfl
  · rfl

/-- A slot that is READY stays as it is. -/
theorem releaseStep_ready {b r : Nat} {s : State} {v w : SlotRef} (h : (slotAt s w).st = .ready) :
    slotAt (releaseStep b r s v) w = slotAt s w := by
  by_cases hk : slotKey w = slotKey v
  · have hv : (slotAt s v).st = .ready := by rw [slotAt, ← hk]; exact h
    rw [releaseStep, hv]
  · exact releaseStep_other hk

theorem releaseStep_own {b r : Nat} {s : State} {w : SlotRef} {n : Word} (h : (slotAt s w).st = .parked (.barrier b n) false)
    (hn : n.toNat ≤ r) : slotAt (releaseStep b r s w) w = endPark (slotAt s w) false := by
  rw [releaseStep, h]
  simp [hn]

/-- A release writes slots alone. -/
theorem releaseWaiters_leaves (s : State) (c : CoreRef) (b r : Nat) :
    releaseWaiters s c b r = { s with slots := (releaseWaiters s c b r).slots } := by
  rw [releaseWaiters_eq]
  refine foldl_inv (P := fun t : State => t = { s with slots := t.slots }) (fun t w ht => ?_) rfl
  rw [ht]
  exact releaseStep_leaves b r _ w

/-- A slot that waits for a release goes on at it: it is READY past its BARW, and no later step changes it. -/
theorem releaseWaiters_all {s t : State} {cs : List CoreRef} {b r : Nat} {c : CoreRef} {w : SlotRef} {n : Word} (hc : c ∈ cs)
    (hw : w ∈ slotsOf c) (hst : (slotAt s w).st = .parked (.barrier b n) false) (hn : n.toNat ≤ r) (ht : t.slots = s.slots) :
    slotAt (cs.foldl (fun s c => releaseWaiters s c b r) t) w = endPark (slotAt s w) false := by
  let Over := fun u => slotAt u w = endPark (slotAt s w) false
  let Open := fun u => slotAt u w = slotAt s w ∨ Over u
  have hover : ∀ u v, Over u → Over (releaseStep b r u v) := fun u v h =>
    (releaseStep_ready (by rw [h]; rfl)).trans h
  have hopen : ∀ u v, Open u → Open (releaseStep b r u v) := fun u v h => by
    rcases h with h | h
    · by_cases hk : slotKey w = slotKey v
      · refine .inr ?_
        have hv : ∀ u', slotAt u' v = slotAt u' w := fun u' => by rw [slotAt, ← hk, slotAt]
        show slotAt _ w = _
        rw [← hv, releaseStep_own (by rw [hv, h]; exact hst) hn, hv, h]
      · exact .inl ((releaseStep_other hk).trans h)
    · exact .inr (hover u v h)
  have hstart : Open t := .inl (by rw [slotAt, ht, slotAt])
  refine foldl_reaches (P := Open) (Q := Over) hc (fun u d h => ?_) (fun u d h => ?_) (fun u h => ?_) hstart
  · exact foldl_inv (P := Open) hopen h
  · exact foldl_inv (P := Over) hover h
  · refine foldl_reaches (P := Open) (Q := Over) hw hopen hover (fun u h => ?_) h
    rcases h with h | h
    · exact (releaseStep_own (by rw [h]; exact hst) hn).trans (by rw [h])
    · exact hover u w h

theorem barrierRelease_releases {s : State} {l : LaunchRef} {z : Launch} {b : Nat} {q : Nat × Nat × Nat × Nat}
    (hl : launchAt s l = some z) (hh : holdsCores z = true) (hw : launchWhole s l z = true) (hq : z.record.bars[b]? = some q)
    (hb : b < z.record.nbar) (hne : coresIn s l.m z.record q ≠ [])
    (hk : (tget z.bars Bar.reset b).c0 = (coresIn s l.m z.record q).length) :
    let k := tget z.bars Bar.reset b
    Goes (exec (.barrierRelease l b) s) (fun t => t.mem = s.mem ∧
      launchAt t l = some { z with bars := tput z.bars b ⟨!k.phase, k.c1, 0, k.r + 1⟩ } ∧
      ∀ c ∈ coresIn s l.m z.record q, ∀ w ∈ slotsOf c, ∀ n, (slotAt s w).st = .parked (.barrier b n) false → n.toNat ≤ k.r + 1 →
        (slotAt t w).st = .ready ∧ (slotAt t w).pc = nextCell (slotAt s w).pc) := by
  intro k
  let s1 := setLaunch s l { z with bars := tput z.bars b ⟨!k.phase, k.c1, 0, k.r + 1⟩ }
  let t := (coresIn s l.m z.record q).foldl (fun s c => releaseWaiters s c b (k.r + 1)) s1
  have hgo : exec (.barrierRelease l b) s = .next t := by
    show execBarrierRelease l b s = _
    unfold execBarrierRelease
    rw [hl]
    dsimp only
    rw [hq]
    have hlen : (coresIn s l.m z.record q).length ≠ 0 := mt List.length_eq_zero_iff.mp hne
    exact if_pos (by simp [hh, hw, hb, hk, hlen])
  have ht : t = { s1 with slots := t.slots } := foldl_inv (P := fun u : State => u = { s1 with slots := u.slots }) (fun u c hu => by
    rw [hu]
    exact releaseWaiters_leaves _ c b (k.r + 1)) rfl
  refine ⟨t, hgo, by rw [ht]; rfl, ?_, fun c hc w hw n hst hn => ?_⟩
  · rw [ht]
    exact tfind_tput_same ..
  · rw [releaseWaiters_all (t := s1) hc hw hst hn rfl]
    exact ⟨rfl, rfl⟩

end Sys2Proof.Machine

namespace Sys2Proof

open Sys2Proof.Machine

/-- Settles O42: starts are of slots whose PC passes its checks, and the exchange and the release are folds over cores that each change
their own slots. -/
theorem tasksAndSupersteps : Obligations.TasksAndSupersteps := by
  refine ⟨?_, ?_, ?_, ?_, ?_, fun s w r hr hn => syncTimeout_fails hr hn, ?_⟩
  · intro s c k w tile x
    exact walkTaskDispatch_starts
  · intro s c q r w x
    exact queuedTaskDispatch_starts
  · intro s w k tile buf pins left r x
    exact footprintWriteOut_ends
  · intro s l z level x y cs
    exact syncDomainComplete_begins
  · intro s l z level x y order e s' cs inDom
    exact exchangeComplete_resumes
  · intro s l z b q k cs
    exact barrierRelease_releases

end Sys2Proof
end

section
/-!
PROOFS. Launches that are registered, started and ended (O43; R138, R139, R159-R161, R219, R383).
-/

namespace Sys2Proof.Machine

/-! ### What leaves launches and their claims

The launch unit writes memory as it starts or ends a launch, and a write to memory may wake slots, append to dirty logs and ask for
pages. None of that changes a launch, or which launch holds a core. -/

/-- From `s` to `t` no launch and no core's launch has changed. -/
structure KeepsClaims (s t : State) : Prop where
  launches : t.launches = s.launches
  held : ∀ c, (coreAt t c).launch = (coreAt s c).launch

theorem KeepsClaims.refl (s : State) : KeepsClaims s s := ⟨rfl, fun _ => rfl⟩

theorem KeepsClaims.trans {s t u : State} (h : KeepsClaims s t) (k : KeepsClaims t u) : KeepsClaims s u where
  launches := k.launches.trans h.launches
  held c := (k.held c).trans (h.held c)

theorem setCore_keepsClaims {s : State} {c : CoreRef} {x : Core} (h : x.launch = (coreAt s c).launch) :
    KeepsClaims s (setCore s c x) :=
  ⟨rfl, fun d => coreAt_setCore_keeps Core.launch h d⟩

theorem setSlot_keepsClaims (s : State) (w : SlotRef) (x : Slot) : KeepsClaims s (setSlot s w x) := ⟨rfl, fun _ => rfl⟩

theorem setLine_keepsClaims (s : State) (l : LineRef) (x : Line) : KeepsClaims s (setLine s l x) := ⟨rfl, fun _ => rfl⟩

theorem setMod_keepsClaims (s : State) (m : Nat) (x : Mod) : KeepsClaims s (setMod s m x) := ⟨rfl, fun _ => rfl⟩

theorem setLeafBits_keepsClaims (s : State) (a bits : Nat) : KeepsClaims s (setLeafBits s a bits) := ⟨rfl, fun _ => rfl⟩

theorem writeFlat_keepsClaims (s : State) (a n x : Nat) : KeepsClaims s (writeFlat s a n x) := ⟨rfl, fun _ => rfl⟩

theorem foldl_keepsClaims {α : Type} {f : State → α → State} {s : State} {l : List α} (hf : ∀ t a, KeepsClaims t (f t a)) :
    KeepsClaims s (l.foldl f s) :=
  foldl_inv (P := KeepsClaims s) (fun t a h => h.trans (hf t a)) (.refl s)

theorem OnlyRead.keepsClaims {s t : State} (h : OnlyRead s t) : KeepsClaims s t := by
  rw [h]
  exact ⟨rfl, fun _ => rfl⟩

/-! ### Writes -/

theorem withdraw_keepsClaims (s : State) (w : SlotRef) : KeepsClaims s (withdraw s w) := by
  unfold withdraw
  dsimp only
  split
  · exact setSlot_keepsClaims ..
  · exact (setSlot_keepsClaims ..).trans (setCore_keepsClaims (c := coreRefOf w) rfl)

theorem stopWait_keepsClaims (s : State) (w : SlotRef) (a : Word) : KeepsClaims s (stopWait s w a) := by
  unfold stopWait
  dsimp only
  split
  · exact setSlot_keepsClaims ..
  · exact (withdraw_keepsClaims s w).trans (setSlot_keepsClaims ..)

theorem recheckWait_keepsClaims (s : State) (w : SlotRef) (woken : Bool) : KeepsClaims s (recheckWait s w woken) := by
  have hread : ∀ a n, KeepsClaims s (readFlat s a n).2 := fun a n => (readFlat_reads s a n).keepsClaims
  unfold recheckWait
  dsimp only
  split
  · split
    · exact setSlot_keepsClaims ..
    split
    · exact stopWait_keepsClaims ..
    split
    · exact (hread _ _).trans (setSlot_keepsClaims ..)
    · exact hread _ _
  · exact .refl s

theorem writeLocal_keepsClaims (s : State) (c : CoreRef) (f n x : Nat) : KeepsClaims s (writeLocal s c f n x) := by
  refine (writeFlat_keepsClaims s f n x).trans (foldl_keepsClaims fun t w => ?_)
  split
  · exact recheckWait_keepsClaims ..
  · exact .refl t

theorem logStore_keepsClaims {s : State} {w : Who} {tag va : Nat} : ∀ t ∈ logStore s w tag va, KeepsClaims s t := by
  unfold logStore
  dsimp only
  split
  · rintro _ ⟨⟩
    exact .refl s
  split
  · exact nofun
  · rintro _ ⟨⟩
    refine (writeLocal_keepsClaims ..).trans (setCore_keepsClaims ?_)
    rfl

theorem askHome_keepsClaims (s : State) (w : Who) (va : Word) (l : LineRef) (a own : Nat) (unc write : Bool) :
    KeepsClaims s (askHome s w va l a own unc write) := by
  unfold askHome
  split
  · exact ⟨rfl, fun _ => rfl⟩
  · exact (translate_reads s w va l a own).keepsClaims

theorem settleD_keepsClaims (s : State) (ln : Line) (a : Nat) : KeepsClaims s (settleD s ln a) := by
  unfold settleD
  dsimp only
  split <;> split <;> exact ⟨rfl, fun _ => rfl⟩

theorem noteWrite_keepsClaims {s : State} {w : Who} {va : Word} {l : LineRef} {a own : Nat} {unc : Bool} :
    ∀ t ∈ noteWrite s w va l a own unc, KeepsClaims s t := by
  unfold noteWrite
  extract_lets s1 ln noLog home atHome taken s3
  have h1 : KeepsClaims s s1 := askHome_keepsClaims ..
  have hh : KeepsClaims s home :=
    ((h1.trans (settleD_keepsClaims s1 ln a)).trans (setLine_keepsClaims ..)).trans (setLeafBits_keepsClaims ..)
  have h3 : KeepsClaims s s3 := by
    unfold s3
    split
    · split
      · exact hh.trans (setLeafBits_keepsClaims ..)
      · exact hh
    · exact h1.trans (setLine_keepsClaims ..)
  clear_value s3 home
  split
  · rintro _ ⟨⟩
    exact hh.trans (setLeafBits_keepsClaims ..)
  split
  · exact fun t ht => h3.trans (logStore_keepsClaims t ht)
  · rintro _ ⟨⟩
    exact h3

theorem noteHost_keepsClaims {s : State} {w : Who} {va : Word} {own : Nat} : ∀ t ∈ noteHost s w va own, KeepsClaims s t := by
  unfold noteHost
  split
  · next tag a _ =>
    have ht := (touchPage_reads s (pageOf w.c.m tag a) own).keepsClaims
    dsimp only
    split
    · rintro _ ⟨⟩
      exact ht.trans (setLeafBits_keepsClaims ..)
    · refine fun t h => (ht.trans ?_).trans (logStore_keepsClaims t h)
      split
      · exact setLeafBits_keepsClaims ..
      · exact .refl _
  · rintro _ ⟨⟩
    exact .refl s

theorem noteTail_keepsClaims (s : State) (l : LineRef) (va : Word) (n : Nat) : KeepsClaims s (noteTail s l va n) := by
  unfold noteTail
  dsimp only
  split <;> exact ⟨rfl, fun _ => rfl⟩

theorem perfWrite_keepsClaims {s t : State} {w : Who} {va : Word} {n x : Nat} {u : Unit} (h : perfWrite s w va n x = .ok t u) :
    KeepsClaims s t := by
  unfold perfWrite at h
  split at h
  · cases h
    exact writeLocal_keepsClaims ..
  · split at h
    · cases h
    split at h
    · cases h
    · next s' hn =>
      cases h
      exact ((noteWrite_keepsClaims s' hn).trans (noteTail_keepsClaims ..)).trans (writeFlat_keepsClaims ..)
  · split at h
    · cases h
    · next s' hn =>
      cases h
      exact (noteHost_keepsClaims s' hn).trans (writeFlat_keepsClaims ..)
  all_goals cases h

theorem devPut_keepsClaims (s : State) (d : Who) (a : Word) (n x : Nat) : KeepsClaims s (devPut s d a n x) := by
  unfold devPut
  dsimp only
  split
  · exact ⟨rfl, fun _ => rfl⟩
  split
  · next h => exact perfWrite_keepsClaims h
  all_goals exact ⟨rfl, fun _ => rfl⟩

theorem devWrite_keepsClaims (s : State) (d : Who) (a : Word) (n x : Nat) : KeepsClaims s (devWrite s d a n x) := by
  unfold devWrite
  dsimp only
  split
  · exact (devPut_keepsClaims ..).trans (devPut_keepsClaims ..)
  · exact devPut_keepsClaims ..

theorem devPuts_keepsClaims (s : State) (d : Who) (a : Word) (ws : List Word) : KeepsClaims s (devPuts s d a ws) := by
  induction ws generalizing s a with
  | nil => exact .refl s
  | cons v r ih => exact (devWrite_keepsClaims ..).trans (ih ..)

theorem devWords_keepsClaims (s : State) (d : Who) (a : Word) (ws : List Word) : KeepsClaims s (devWords s d a ws) := by
  refine (devPuts_keepsClaims s d a ws).trans (foldl_keepsClaims fun t q => ?_)
  split <;> exact ⟨rfl, fun _ => rfl⟩

/-! ### What a launch that ends leaves -/

theorem recallLines_keepsClaims (s : State) (f : LineRef → Bool) : KeepsClaims s (recallLines s f) := by
  refine foldl_keepsClaims fun t p => ?_
  split
  · unfold recallLine
    dsimp only
    split
    · exact .refl t
    split
    · exact (settleD_keepsClaims ..).trans (setLine_keepsClaims ..)
    · exact setLine_keepsClaims ..
  · exact .refl t

theorem unstall_keepsClaims (s : State) (c : CoreRef) : KeepsClaims s (unstall s c) := by
  refine foldl_keepsClaims fun t w => ?_
  split
  · exact setSlot_keepsClaims ..
  · exact .refl t

theorem withIssuer_keepsClaims (s : State) (c : Cmd) (f : Slot → Slot) : KeepsClaims s (withIssuer s c f) := by
  unfold withIssuer
  split
  · exact setSlot_keepsClaims ..
  · exact setCore_keepsClaims (c := coreRefOf c.w) rfl

theorem retireBatch_keepsClaims (s : State) (c : Cmd) : KeepsClaims s (retireBatch s c) := by
  unfold retireBatch
  extract_lets r x gone closed s1
  have h1 : KeepsClaims s s1 := setCore_keepsClaims rfl
  refine (h1.trans (foldl_keepsClaims fun t w => ?_)).trans (unstall_keepsClaims ..)
  split
  · split
    · exact setSlot_keepsClaims ..
    · exact .refl t
  · exact .refl t

theorem notifyCmd_keepsClaims (s : State) (c : Cmd) : KeepsClaims s (notifyCmd s c) := by
  unfold notifyCmd
  dsimp only
  split <;> exact ⟨rfl, fun _ => rfl⟩

/-- A command that is discarded marks a containment frame at most: it raises nothing (R295). -/
theorem containCmd_keepsClaims {s : State} {c : Cmd} (h : c.code = 1) : KeepsClaims s (containCmd s c) := by
  unfold containCmd
  extract_lets pol v s1
  have h1 : KeepsClaims s s1 := by
    unfold s1
    split
    · exact withIssuer_keepsClaims ..
    · exact .refl s
  clear_value s1
  split
  · exact h1
  · rw [if_neg (by simp [h]), if_neg (by simp [h])]
    exact h1

theorem completeCmd_keepsClaims {s : State} {c : Cmd} (h : c.code = 1) : KeepsClaims s (completeCmd s c) := by
  unfold completeCmd
  extract_lets s1
  have h1 : KeepsClaims s s1 := ⟨rfl, fun _ => rfl⟩
  clear_value s1
  split
  · exact h1
  · exact (h1.trans (withIssuer_keepsClaims ..)).trans (unstall_keepsClaims ..)
  · exact (((h1.trans (withIssuer_keepsClaims ..)).trans (notifyCmd_keepsClaims ..)).trans (retireBatch_keepsClaims ..)).trans
      (containCmd_keepsClaims h)

theorem endCmds_keepsClaims (s : State) (l : LaunchRef) (f : Cmd → Bool) : KeepsClaims s (endCmds s l 1 f) :=
  foldl_keepsClaims fun _ _ => completeCmd_keepsClaims rfl

theorem mergeEntry_keepsClaims (s : State) (m e : Nat) : KeepsClaims s (mergeEntry s m e) := by
  unfold mergeEntry
  dsimp only
  split <;> exact ⟨rfl, fun _ => rfl⟩

theorem mergeLog_keepsClaims (s : State) (c : CoreRef) (n : Nat) : KeepsClaims s (mergeLog s c n) :=
  (foldl_keepsClaims fun _ _ => (readFlat_reads ..).keepsClaims.trans (mergeEntry_keepsClaims ..)).trans
    (setCore_keepsClaims (by rfl))

theorem mergeLogs_keepsClaims (s : State) (l : LaunchRef) (x : Launch) : KeepsClaims s (mergeLogs s l x) := by
  refine foldl_keepsClaims fun t c => ?_
  split
  · exact foldl_keepsClaims fun _ _ => mergeEntry_keepsClaims ..
  split
  · exact mergeLog_keepsClaims ..
  · exact .refl t

theorem dropLayouts_keepsClaims (s : State) (l : LaunchRef) (x : Launch) : KeepsClaims s (dropLayouts s l x) :=
  (recallLines_keepsClaims ..).trans (setMod_keepsClaims ..)

theorem advanceDone_keepsClaims (s : State) (m q : Nat) : KeepsClaims s (advanceDone s m q) := by
  unfold advanceDone
  split
  · exact .refl s
  split
  · unfold askAny
    split <;> exact ⟨rfl, fun _ => rfl⟩
  · dsimp only
    split
    · exact .refl s
    · exact (devWrite_keepsClaims ..).trans (devWrite_keepsClaims ..)

/-! ### Registration and patience (R159, R161, R383) -/

theorem queueRegistration_registers {s : State} {m q : Nat} {desc ring : Word} {log2n : Nat} {supv : Bool} {save : Word}
    (hm : modUp s m = true) (hq : q < 16) (hd : desc.toNat % 64 = 0) (hrd : regionOf desc.toNat = some 2)
    (hrr : regionOf ring.toNat = some 2) (h1 : 1 ≤ log2n) (h16 : log2n ≤ 16) :
    Goes (exec (.queueRegistration m q desc ring log2n supv save) s) (fun t =>
      tfind (modAt t m).queues q = some ⟨desc, supv, false, false⟩) := by
  have hn : ¬ 16 ≤ q := by omega
  have h0 : log2n ≠ 0 := by omega
  have h17 : ¬ 16 < log2n := by omega
  show Goes (execQueueRegistration m q desc ring log2n supv save s) _
  unfold execQueueRegistration
  dsimp only
  rw [if_neg (by simp [hm, hn, hd, hrd, hrr, h0, h17])]
  refine ⟨_, rfl, ?_⟩
  beta_reduce
  rw [modAt_setMod]
  exact tfind_tput_same ..

theorem patienceExpiry_asks {s : State} {m q : Nat} {u : Queue} {v : Valid} (hu : tfind (modAt s m).queues q = some u)
    (hd : descHeld s m u = none) (ht : headOf s m u < tailOf s m u) (hs : savedOf s m q = none)
    (hr : headRecord s m q u (headOf s m u) = .ok v) (hp : v.r.patience ≠ 0)
    (hdone : predsDone (headSeen s m u (headOf s m u) 12) m v.r = true) :
    Goes (exec (.patienceExpiry m q) s) (fun t => tfind (modAt t m).queues q = some { u with patienceDue := true } ∧
      (modAt t m).passDue = true) := by
  have hle : ¬ tailOf s m u ≤ headOf s m u := Nat.not_le.mpr ht
  show Goes (execPatienceExpiry m q s) _
  unfold execPatienceExpiry
  rw [hu]
  dsimp only
  rw [hd]
  dsimp only
  rw [if_neg (by simp [hle, hs]), hr]
  dsimp only
  rw [if_pos (by simp [hp, hdone])]
  refine ⟨_, rfl, ?_⟩
  beta_reduce
  rw [askPass, modAt_setMod, modAt_setMod]
  exact ⟨tfind_tput_same .., rfl⟩

/-! ### The end of a launch (R219) -/

theorem releaseCore_cores (s : State) (d : CoreRef) :
    ∃ x : Core, x.launch = none ∧ (releaseCore s d).cores = (setCore s d x).cores := by
  refine ⟨_, ?_, foldl_inv (P := fun t : State => t.cores = (setCore s d _).cores) (fun t w h => h) rfl⟩
  rfl

/-- A core given up has no launch; the others keep theirs. -/
theorem releaseCore_held (s : State) (d c : CoreRef) :
    (coreAt (releaseCore s d) c).launch = if coreKey c.m c.d c.c = coreKey d.m d.d d.c then none else (coreAt s c).launch := by
  obtain ⟨x, hx, hc⟩ := releaseCore_cores s d
  rw [coreAt_of_cores hc]
  split
  · next h => rw [coreAt, setCore, h, tget_tput_same, hx]
  · next h => rw [coreAt, setCore, tget_tput_other _ _ _ _ _ h, coreAt]

theorem releaseCores_frees {s : State} {l : LaunchRef} {r : Rec} {c : CoreRef} (hc : c ∈ claimedCores l.m r)
    (h : (coreAt s c).launch = some l) : (coreAt (releaseCores s l r) c).launch = none := by
  let Free := fun t => (coreAt t c).launch = none
  have hfree : ∀ t d, Free t → Free (if (coreAt t d).launch = some l then releaseCore t d else t) := fun t d ht => by
    split
    · exact (releaseCore_held t d c).trans (by rw [ht, ite_self])
    · exact ht
  refine foldl_reaches (P := fun t => (coreAt t c).launch = some l ∨ Free t) (Q := Free) hc (fun t d ht => ?_) hfree (fun t ht => ?_)
    (.inl h)
  · rcases ht with ht | ht
    · split
      · rw [releaseCore_held]
        split
        · next hk => exact .inr ((releaseCore_held t d c).trans (if_pos hk))
        · exact .inl ht
      · exact .inl ht
    · exact .inr (hfree t d ht)
  · rcases ht with ht | ht
    · rw [if_pos ht]
      exact (releaseCore_held t c c).trans (if_pos rfl)
    · exact hfree t c ht

/-- A launch that has ended in its queue: its status stands, and the cores are held as before. -/
theorem ended_leaves (s : State) (l : LaunchRef) (x : Launch) (n ferr : Nat) :
    (∃ z, launchAt (ended s l x n ferr) l = some z ∧ z.phase = .ended ∧ z.kill = some n) ∧
      ∀ c, (coreAt (ended s l x n ferr) c).launch = (coreAt s c).launch := by
  have h : ∀ y, KeepsClaims (setLaunch s l y) (askPass (advanceDone (setLaunch s l y) l.m l.q) l.m) := fun y =>
    (advanceDone_keepsClaims ..).trans (setMod_keepsClaims ..)
  exact ⟨⟨_, (congrArg (tfind · (launchKey l)) (h _).launches).trans (tfind_tput_same ..), rfl, rfl⟩, fun c => (h _).held c⟩

theorem endLaunch_ends (s : State) (l : LaunchRef) (x : Launch) (n : Nat) :
    (∃ z, launchAt (endLaunch s l x n) l = some z ∧ z.phase = .ended ∧ z.kill = some n) ∧
      ∀ c ∈ claimedCores l.m x.record, (coreAt s c).launch = some l → (coreAt (endLaunch s l x n) c).launch = none := by
  unfold endLaunch
  refine ⟨(ended_leaves ..).1, fun c hc h => ?_⟩
  rw [(ended_leaves ..).2, (dropLayouts_keepsClaims ..).held]
  refine releaseCores_frees hc ?_
  rw [(mergeLogs_keepsClaims ..).held, (endCmds_keepsClaims ..).held, h]

theorem execLaunchEnd_ends {s : State} {l : LaunchRef} {x : Launch} (hl : launchAt s l = some x)
    (hd : (launchCores s l.m x.record).all (coreDrained s) = true) (hw : launchWhole s l x = true) (hy : layoutsWait s l x = false)
    (hc : s.cmds.any (fun c => c.launch = some l && !guardWaits c) = false) :
    (x.phase = .running → x.kill = none → x.exch = [] → (launchCores s l.m x.record).all (coreIdle s) = true →
      exec (.launchEnd l) s = .next (endLaunch s l x 0)) ∧
    ∀ n, x.phase = .running ∨ x.phase = .halted → x.kill = some n → exec (.launchEnd l) s = .next (endLaunch s l x n) := by
  have he : x.phase = .running ∨ x.phase = .halted → exec (.launchEnd l) s = match x.kill with
      | some k => .next (endLaunch s l x k)
      | none =>
        if (x.phase = .running || x.phase = .draining) && x.exch.isEmpty && (launchCores s l.m x.record).all (coreIdle s) then
          .next (endLaunch s l x 0)
        else .next s := fun hp => by
    show execLaunchEnd l s = _
    unfold execLaunchEnd
    rw [hl]
    dsimp only
    rw [hw, hy, hd, hc]
    rcases hp with hp | hp <;> rw [hp] <;> rfl
  refine ⟨fun hp hk hx hi => ?_, fun n hp hk => ?_⟩
  · rw [he (.inl hp), hk]
    exact if_pos (by simp [hp, hx, hi])
  · rw [he hp, hk]

/-! ### The entry (R139) -/

theorem claimedCores_module {m : Nat} {r : Rec} {c : CoreRef} (h : c ∈ claimedCores m r) : c.m = m := by
  obtain ⟨row, hrow, hc⟩ := List.mem_flatten.mp h
  obtain ⟨y, -, rfl⟩ := List.mem_map.mp hrow
  obtain ⟨x, -, rfl⟩ := List.mem_map.mp hc
  rfl

/-- The core that a launch has at a die and a number there, if it has it. -/
theorem launchCores_entry {cs : List CoreRef} {d k : Nat} {c : CoreRef} (h : cs.find? (fun q => q.d = d && q.c = k) = some c) :
    c ∈ cs ∧ c.d = d ∧ c.c = k := by
  have := List.find?_some h
  simp only [Bool.and_eq_true, decide_eq_true_eq] at this
  exact ⟨List.mem_of_find?_eq_some h, this⟩

theorem launchCores_bounds {s : State} {m : Nat} {r : Rec} {c : CoreRef} (h : c ∈ launchCores s m r) :
    c.m = m ∧ c.d < 16 ∧ c.c < 384 := by
  obtain ⟨die, hdie, hc⟩ := List.mem_flatten.mp h
  obtain ⟨d, hd, rfl⟩ := List.mem_map.mp hdie
  obtain ⟨k, hk, hf⟩ := List.mem_filterMap.mp hc
  obtain ⟨hmem, rfl, rfl⟩ := launchCores_entry hf
  exact ⟨claimedCores_module (List.mem_of_mem_filter hmem), List.mem_range.mp hd, List.mem_range.mp hk⟩

theorem launchCores_nodup (s : State) (m : Nat) (r : Rec) : (launchCores s m r).Nodup := by
  refine List.nodup_flatten.mpr ⟨fun die hdie => ?_, ?_⟩
  · obtain ⟨d, -, rfl⟩ := List.mem_map.mp hdie
    refine List.Nodup.filterMap (fun i j c hi hj => ?_) List.nodup_range
    exact (launchCores_entry hi).2.2.symm.trans (launchCores_entry hj).2.2
  · refine List.pairwise_map.mpr (List.nodup_range.imp fun {d e} hde c hc hc' => ?_)
    obtain ⟨i, -, hi⟩ := List.mem_filterMap.mp hc
    obtain ⟨j, -, hj⟩ := List.mem_filterMap.mp hc'
    exact hde ((launchCores_entry hi).2.1.symm.trans (launchCores_entry hj).2.1)

theorem checkPc_of_checkTarget {s : State} {w : SlotRef} {pc : Word} (h : checkTarget s w pc = none) : checkPc pc = none := by
  unfold checkTarget at h
  split at h
  · cases h
  · next hp => exact hp

/-- The start of one core. -/
def enterCore (entry : Word) (s : State) (c : CoreRef) : State :=
  startSlot (clearConst s c) (slotOf c 0) (newSlot s (slotOf c 0) entry)

/-- Slot 0 of a core after its start. -/
def SlotEntered (entry : Word) (t : State) (c : CoreRef) : Prop :=
  (slotAt t (slotOf c 0)).st = .ready ∧ (slotAt t (slotOf c 0)).pc = entry ∧ ∀ r, sGet (slotAt t (slotOf c 0)) r = 0

/-- The line at the entry reads in every core of `l` as it does in `s`. -/
def SameEntry (entry : Word) (l : List CoreRef) (s t : State) : Prop :=
  ∀ c ∈ l, freshLine t c (lineOfPc entry) = freshLine s c (lineOfPc entry)

/-- The start of one core makes its slot 0 READY, and leaves memory, launches, the other slots, and the lines of the other cores. -/
theorem enterCore_starts {s u : State} {c : CoreRef} {entry : Word}
    (hc : checkTarget (setSlot s (slotOf c 0) Slot.reset) (slotOf c 0) entry = none)
    (hf : freshLine u c (lineOfPc entry) = freshLine s c (lineOfPc entry)) :
    (enterCore entry u c).mem = u.mem ∧ (enterCore entry u c).launches = u.launches ∧ SlotEntered entry (enterCore entry u c) c ∧
    (∀ v, slotKey v ≠ slotKey (slotOf c 0) → slotAt (enterCore entry u c) v = slotAt u v) ∧
    ∀ d, coreKey d.m d.d d.c ≠ coreKey c.m c.d c.c →
      freshLine (enterCore entry u c) d (lineOfPc entry) = freshLine u d (lineOfPc entry) := by
  have hstart : enterCore entry u c =
      fixFetch (setSlot (clearConst u c) (slotOf c 0) (newSlot u (slotOf c 0) entry)) (slotOf c 0) entry :=
    startSlot_starts (x := newSlot u (slotOf c 0) entry) rfl (by
      refine Eq.trans ?_ hc
      exact checkTarget_of_freshLine (by rw [slotAt_setSlot]; rfl) (by rw [slotAt_setSlot]; rfl) hf)
  obtain ⟨he, hlines⟩ := fixFetch_leaves (setSlot (clearConst u c) (slotOf c 0) (newSlot u (slotOf c 0) entry)) (slotOf c 0) entry
  have hslots : (enterCore entry u c).slots = (setSlot u (slotOf c 0) (newSlot u (slotOf c 0) entry)).slots := by
    rw [hstart, he]
    rfl
  have hown : slotAt (enterCore entry u c) (slotOf c 0) = newSlot u (slotOf c 0) entry := by
    rw [slotAt, hslots]
    exact tget_tput_same ..
  refine ⟨by rw [hstart, he]; rfl, by rw [hstart, he]; rfl, ?_, fun v hv => ?_, fun d hd => ?_⟩
  · rw [SlotEntered, hown]
    exact ⟨rfl, rfl, (newSlot_zeroRegs u (slotOf c 0) entry).2⟩
  · rw [slotAt, hslots]
    exact slotAt_setSlot_other u _ _ _ hv
  · rw [hstart]
    exact hlines d _ hd (lineOfPc_local (checkPc_of_checkTarget hc))

/-- The starts of cores with keys of their own do not disturb each other. -/
theorem enterCores_start {s u : State} {entry : Word} {l : List CoreRef} (hn : (l.map fun c => coreKey c.m c.d c.c).Nodup)
    (hc : ∀ c ∈ l, checkTarget (setSlot s (slotOf c 0) Slot.reset) (slotOf c 0) entry = none) (hf : SameEntry entry l s u) :
    (l.foldl (enterCore entry) u).mem = u.mem ∧ (l.foldl (enterCore entry) u).launches = u.launches ∧
    (∀ c ∈ l, SlotEntered entry (l.foldl (enterCore entry) u) c) ∧
    ∀ v, (∀ c ∈ l, slotKey v ≠ slotKey (slotOf c 0)) → slotAt (l.foldl (enterCore entry) u) v = slotAt u v := by
  induction l generalizing u with
  | nil => exact ⟨rfl, rfl, nofun, fun _ _ => rfl⟩
  | cons c l ih =>
    obtain ⟨hout, hn⟩ := List.nodup_cons.mp hn
    have hne : ∀ d ∈ l, coreKey d.m d.d d.c ≠ coreKey c.m c.d c.c := fun d hd h => hout (List.mem_map.mpr ⟨d, hd, h⟩)
    obtain ⟨hm, hl, hown, hother, hline⟩ := enterCore_starts (hc c List.mem_cons_self) (hf c List.mem_cons_self)
    obtain ⟨hm', hl', hall, hkeep⟩ := ih (u := enterCore entry u c) hn (fun d hd => hc d (List.mem_cons_of_mem _ hd)) fun d hd =>
      (hline d (hne d hd)).trans (hf d (List.mem_cons_of_mem _ hd))
    refine ⟨hm'.trans hm, hl'.trans hl, fun d hd => ?_, fun v hv => ?_⟩
    · rcases List.mem_cons.mp hd with rfl | hd
      · have hs : slotAt (l.foldl (enterCore entry) (enterCore entry u d)) (slotOf d 0) =
            slotAt (enterCore entry u d) (slotOf d 0) :=
          hkeep _ fun e he => (slotKey_ne (c := d) (d := e) List.mem_cons_self List.mem_cons_self (hne e he)).symm
        rw [List.foldl_cons, SlotEntered, hs]
        exact hown
      · exact hall d hd
    · rw [List.foldl_cons, hkeep v fun d hd => hv d (List.mem_cons_of_mem _ hd), hother v (hv c List.mem_cons_self)]

theorem launchEntry_starts {s : State} {l : LaunchRef} {x : Launch} (hl : launchAt s l = some x) (hp : x.phase = .starting)
    (hd : x.dieLost = false) (hs : stopsHere s l x = false)
    (hc : ∀ c ∈ launchCores s l.m x.record, checkTarget (setSlot s (slotOf c 0) Slot.reset) (slotOf c 0) x.record.entry = none) :
    Goes (exec (.launchEntry l) s) (fun t => launchAt t l = some { x with phase := .running } ∧ t.mem = s.mem ∧
      ∀ c ∈ launchCores s l.m x.record, SlotEntered x.record.entry t c) := by
  let s1 := setLaunch s l { x with phase := .running }
  have hgo : exec (.launchEntry l) s = .next ((launchCores s l.m x.record).foldl (enterCore x.record.entry) s1) := by
    show execLaunchEntry l s = _
    unfold execLaunchEntry
    rw [hl]
    dsimp only
    rw [if_neg (by simp [hp, hd]), if_pos (by simp [hs])]
    rfl
  have hn := nodup_coreKeys (m := l.m) (fun c => launchCores_bounds) (launchCores_nodup s l.m x.record)
  obtain ⟨hm, hla, hall, -⟩ := enterCores_start (s := s) (u := s1) hn hc fun _ _ => rfl
  refine ⟨_, hgo, ?_, hm, hall⟩
  rw [launchAt, hla]
  exact tfind_tput_same ..

/-! ### The start of a launch (R139) -/

/-- The launch unit knows the launch as `x`, and the launch holds the cores. -/
structure Holds (l : LaunchRef) (x : Launch) (cs : List CoreRef) (t : State) : Prop where
  known : launchAt t l = some x
  held : ∀ c ∈ cs, (coreAt t c).launch = some l

section
variable {l : LaunchRef} {x : Launch} {cs : List CoreRef} {s t : State}

theorem Holds.keeps (h : Holds l x cs s) (k : KeepsClaims s t) : Holds l x cs t where
  known := (congrArg (tfind · (launchKey l)) k.launches).trans h.known
  held c hc := (k.held c).trans (h.held c hc)

/-- A write of a core that gives it to the launch takes no core from it. -/
theorem setCore_launch {d c : CoreRef} {y : Core} (hy : y.launch = some l)
    (h : coreKey c.m c.d c.c = coreKey d.m d.d d.c ∨ (coreAt s c).launch = some l) : (coreAt (setCore s d y) c).launch = some l := by
  by_cases hk : coreKey c.m c.d c.c = coreKey d.m d.d d.c
  · rw [coreAt, setCore, hk, tget_tput_same, hy]
  · rw [coreAt, setCore, tget_tput_other _ _ _ _ _ hk]
    exact h.resolve_left hk

theorem Holds.setCore {d : CoreRef} {y : Core} (h : Holds l x cs s) (hy : y.launch = some l) : Holds l x cs (setCore s d y) where
  known := h.known
  held c hc := setCore_launch hy (.inr (h.held c hc))

theorem claimCores_holds {r : Rec} (h : launchAt s l = some x) : Holds l x (claimedCores l.m r) (claimCores s l r) where
  known := foldl_inv (P := fun t => launchAt t l = some x) (fun _ _ ht => ht) h
  held c hc := foldl_reaches (P := fun _ => True) (Q := fun t => (coreAt t c).launch = some l) hc (fun _ _ _ => trivial)
    (fun _ _ ht => setCore_launch rfl (.inr ht)) (fun _ _ => setCore_launch rfl (.inl rfl)) trivial

theorem startCore_holds {r : Rec} {ident : Option Layout} {q : Nat × Nat × CoreRef} (h : Holds l x cs s) :
    Holds l x cs (startCore s l r ident q) := by
  unfold startCore
  extract_lets c d e o p ring s1
  have h1 : Holds l x cs s1 := h.setCore rfl
  clear_value s1
  exact foldl_inv (P := Holds l x cs) (fun t w ht => ht.keeps (setSlot_keepsClaims ..)) h1

end

theorem placeImages_keepsClaims (s : State) (c : CoreRef) (imgs : List (Nat × Nat × Nat)) : KeepsClaims s (placeImages s c imgs) :=
  foldl_keepsClaims fun _ _ => writeFlat_keepsClaims ..

theorem startMill_keepsClaims (s : State) (h : HamRef) : KeepsClaims s (startMill s h) :=
  KeepsClaims.trans (t := setHam s h _) ⟨rfl, fun _ => rfl⟩ (foldl_keepsClaims fun _ _ => setCore_keepsClaims (by rfl))

/-- A record whose layouts fit starts: its launch is known, and holds its cores (R139 steps 1 to 3). -/
theorem startLaunch_holds {s : State} {m q h : Nat} {u : Queue} {v : Valid} {y : Mod}
    (hy : addLayouts (modAt s m) v.r.asid v.lays = some y) :
    ∃ x : Launch, (x.phase = .starting ∧ x.record = v.r ∧ x.plan = v.plan ∧ x.supv = u.supv ∧ x.kill = none) ∧
      Holds ⟨m, q, h⟩ x (claimedCores m v.r) (startLaunch s m q u h v) := by
  unfold startLaunch
  extract_lets l
  split
  · next hn => exact nomatch hn.symm.trans hy
  extract_lets s1 y1 s2 i x imgs s3 s4 s5
  refine ⟨x, ⟨rfl, rfl, rfl, rfl, rfl⟩, ?_⟩
  have h3 : Holds l x (claimedCores m v.r) s3 := claimCores_holds (l := l) (tfind_tput_same ..)
  clear_value s3 x
  have h4 : Holds l x (claimedCores m v.r) s4 := foldl_inv (P := Holds l x (claimedCores m v.r)) (fun t c ht => by
    split
    · exact (startCore_holds ht).keeps (placeImages_keepsClaims ..)
    · exact ht) h3
  clear_value s4
  have h5 : Holds l x (claimedCores m v.r) s5 := h4.keeps (foldl_keepsClaims startMill_keepsClaims)
  exact h5.keeps (devWords_keepsClaims ..)

/-! ### A pass with one candidate (R161) -/

/-- A fold that only one element moves. -/
theorem foldl_only {α β : Type} {f : β → α → β} {b : β} {l : List α} {k : α} (hk : k ∈ l) (hn : l.Nodup)
    (hid : ∀ b, ∀ a ∈ l, a ≠ k → f b a = b) : l.foldl f b = f b k := by
  have hrest : ∀ (l : List α) (b : β), (∀ b, ∀ a ∈ l, f b a = b) → l.foldl f b = b := fun l b h => by
    induction l generalizing b with
    | nil => rfl
    | cons a l ih => rw [List.foldl_cons, h b a List.mem_cons_self, ih b fun b c hc => h b c (List.mem_cons_of_mem _ hc)]
  induction l generalizing b with
  | nil => cases hk
  | cons a l ih =>
    obtain ⟨ha, hn⟩ := List.nodup_cons.mp hn
    rw [List.foldl_cons]
    rcases List.mem_cons.mp hk with rfl | hk
    · exact hrest l _ fun b c hc => hid b c (List.mem_cons_of_mem _ hc) fun h => ha (h ▸ hc)
    · rw [hid b a List.mem_cons_self fun h => ha (h ▸ hk)]
      exact ih hk hn fun b c hc => hid b c (List.mem_cons_of_mem _ hc)

/-- One candidate is met at its priority, whichever queue started last. -/
theorem candsAt_one (m : Nat) (s : State) (q : Nat) (c : Cand) (p : Nat) :
    candsAt m s [(q, c)] p = if c.record.prio = p then [(q, c)] else [] := by
  unfold candsAt
  by_cases hp : c.record.prio = p
  · by_cases hq : tget (modAt s m).lastQ 15 p < q
    · simp [hp, hq]
    · simp [hp, hq, Nat.not_lt.mp hq]
  · simp [hp]

/-- One candidate of a pass, and whether a record has failed so far. -/
def passTurn (m : Nat) (g : State × Bool) (c : Nat × Cand) : State × Bool := ((passCand g.1 m c).1, g.2 || (passCand g.1 m c).2)

/-- The candidates of a pass by priority, with one of them. -/
theorem passTurns_one {m q : Nat} {c : Cand} {g : State × Bool} (hp : c.record.prio < 8) :
    (List.range 8).foldl (fun g i => (candsAt m g.1 [(q, c)] (7 - i)).foldl (passTurn m) g) g = passTurn m g (q, c) := by
  have hstep : ∀ (g : State × Bool) (i : Nat), (candsAt m g.1 [(q, c)] (7 - i)).foldl (passTurn m) g =
      if c.record.prio = 7 - i then passTurn m g (q, c) else g := fun g i => by
    rw [candsAt_one]
    split <;> rfl
  simp only [hstep]
  refine (foldl_only (k := 7 - c.record.prio) ?_ List.nodup_range fun b i hi hne => ?_).trans ?_
  · exact List.mem_range.mpr (by omega)
  · have := List.mem_range.mp hi
    rw [if_neg (by omega)]
  · rw [if_pos (by omega)]

section
variable {s : State} {m q h : Nat} {u : Queue} {v : Valid} {y : Mod}

/-- The head record of a queue without a saved launch, and without predecessors, is the candidate of its queue. -/
theorem passHeads_one (hs : savedOf s m q = none) (hd : descHeld s m u = none) (ht : headOf s m u < tailOf s m u)
    (hr : headRecord s m q u (headOf s m u) = .ok v) (hpre : v.r.preds = []) :
    passHeads s m [(q, u)] [] false = (headSeen s m u (headOf s m u) 12, [(q, .head (headOf s m u) u v)], false) := by
  have hle : ¬ tailOf s m u ≤ headOf s m u := Nat.not_le.mpr ht
  have hpf : (predsDone s m v.r && predFailed s m v.r) = false := by rw [predFailed, hpre, List.any_nil, Bool.and_false]
  unfold passHeads
  rw [hs]
  dsimp only
  rw [hd]
  dsimp only
  rw [if_neg hle, hr]
  dsimp only
  rw [if_neg (ne_true_of_eq_false hpf), List.nil_append]
  unfold passHeads
  rfl

/-- A candidate whose cores are free and whose layouts fit starts. -/
theorem passTurn_starts (hpre : v.r.preds = []) (hfree : ∀ c ∈ claimedCores m v.r, (coreAt s c).launch = none)
    (hdies : ∀ k ∈ v.r.dies, dieMapped (modAt s m).dmap k = true ∧ (dieSt (modAt s m) k).evacuating = false)
    (hy : addLayouts (modAt s m) v.r.asid v.lays = some y) (hlay : layFrozen s m v.r.asid v.lays = false) :
    ∃ z, passTurn m (s, false) (q, .head h u v) = (setMod (startLaunch s m q u h v) m z, false) := by
  have hpd : predsDone s m v.r = true := by simp [predsDone, hpre]
  have hfr : ((claimedCores m v.r).all (fun k => (coreAt s k).launch.isNone) &&
      v.r.dies.all (fun k => dieMapped (modAt s m).dmap k && !(dieSt (modAt s m) k).evacuating)) = true := by
    rw [Bool.and_eq_true, List.all_eq_true, List.all_eq_true]
    exact ⟨fun c hc => by rw [hfree c hc]; rfl, fun k hk => by simp [hdies k hk]⟩
  have hfit : layoutsFit s m v = true := by rw [layoutsFit, hy]; rfl
  have hcand : passCand s m (q, .head h u v) = (setMod (startLaunch s m q u h v) m { modAt (startLaunch s m q u h v) m with
      lastQ := tput (modAt (startLaunch s m q u h v) m).lastQ v.r.prio q }, false) := by
    unfold passCand
    dsimp only [Cand.record]
    rw [if_neg (by simp [hpd]), if_pos hfr, if_neg (by simp [hfit]), if_neg (by simp [hlay])]
  exact ⟨_, by rw [passTurn, hcand]; rfl⟩

end

theorem launchUnitPass_starts {s : State} {m q : Nat} {u : Queue} {v : Valid} {y : Mod} {s1 : State}
    (hs1 : s1 = setMod (seeTails s m) m { modAt (seeTails s m) m with passDue := false })
    (hm : modUp s m = true) (hp : (modAt s m).passDue = true) (hq : (modAt s1 m).queues = [(q, u)]) (hs : savedOf s1 m q = none)
    (ha : advanceDone s1 m q = s1) (hd : descHeld s1 m u = none) (ht : headOf s1 m u < tailOf s1 m u)
    (hr : headRecord s1 m q u (headOf s1 m u) = .ok v) (hpre : v.r.preds = []) (hprio : v.r.prio < 8)
    (hfree : ∀ c ∈ claimedCores m v.r, (coreAt (headSeen s1 m u (headOf s1 m u) 12) c).launch = none)
    (hdies : ∀ k ∈ v.r.dies, dieMapped (modAt (headSeen s1 m u (headOf s1 m u) 12) m).dmap k = true ∧
      (dieSt (modAt (headSeen s1 m u (headOf s1 m u) 12) m) k).evacuating = false)
    (hy : addLayouts (modAt (headSeen s1 m u (headOf s1 m u) 12) m) v.r.asid v.lays = some y)
    (hlay : layFrozen (headSeen s1 m u (headOf s1 m u) 12) m v.r.asid v.lays = false) :
    Goes (exec (.launchUnitPass m) s) (fun t => (∃ x, launchAt t ⟨m, q, headOf s1 m u⟩ = some x ∧ x.phase = .starting ∧
      x.record = v.r ∧ x.plan = v.plan ∧ x.supv = u.supv ∧ x.kill = none) ∧
      ∀ c ∈ claimedCores m v.r, (coreAt t c).launch = some ⟨m, q, headOf s1 m u⟩) := by
  obtain ⟨z, hturn⟩ := passTurn_starts (q := q) (h := headOf s1 m u) (u := u) hpre hfree hdies hy hlay
  obtain ⟨x, hx, hheld⟩ := startLaunch_holds (q := q) (h := headOf s1 m u) (u := u) hy
  have hloop : ∀ n, passLoop (seeTails s m) m (n + 1) =
      setMod (startLaunch (headSeen s1 m u (headOf s1 m u) 12) m q u (headOf s1 m u) v) m z := fun n => by
    unfold passLoop
    extract_lets x0 sA sB g cs g'
    have hA : sA = s1 := hs1.symm
    have hB : sB = s1 := by
      show (modAt sA m).queues.foldl (fun s q => advanceDone s m q.1) sA = s1
      rw [hA, hq]
      exact ha
    have hg : g = (headSeen s1 m u (headOf s1 m u) 12, [(q, .head (headOf s1 m u) u v)], false) := by
      show passHeads sB m (modAt sB m).queues [] false = _
      rw [hB, hq, passHeads_one hs hd ht hr hpre]
    have hg' : g' = (setMod (startLaunch (headSeen s1 m u (headOf s1 m u) 12) m q u (headOf s1 m u) v) m z, false) := by
      show (List.range 8).foldl (fun b i => (candsAt m b.1 g.2.1 (7 - i)).foldl (passTurn m) b) (g.1, g.2.2) = _
      rw [hg]
      exact (passTurns_one (c := .head (headOf s1 m u) u v) hprio).trans hturn
    rw [hg']
    rfl
  have hgo : exec (.launchUnitPass m) s = .next (passLoop (seeTails s m) m (65535 + 1)) := by
    show execLaunchUnitPass m s = _
    exact if_neg (by simp [hm, hp])
  have hall := hheld.keeps (setMod_keepsClaims _ m z)
  exact ⟨_, hgo.trans (congrArg _ (hloop _)), ⟨x, hall.known, hx⟩, hall.held⟩

end Sys2Proof.Machine

namespace Sys2Proof

open Sys2Proof.Machine

/-- Settles O43: what follows a claim of cores, or the end of a launch, changes no launch and no claim. -/
theorem launchesStartAndEnd : Obligations.LaunchesStartAndEnd := by
  refine ⟨?_, ?_, ?_, ?_⟩
  · intro s m q desc ring log2n supv save
    exact queueRegistration_registers
  · intro s m q u v y s1 h l hm hp hq hs ha hd ht hr hpre hprio s2
    exact launchUnitPass_starts rfl hm hp hq hs ha hd ht hr hpre hprio
  · intro s l x hl cs
    refine ⟨launchEntry_starts hl, ?_⟩
    intro hd hw hy hc Ends
    obtain ⟨hrun, hkill⟩ := execLaunchEnd_ends hl hd hw hy hc
    exact ⟨fun hp hk hx hi => ⟨_, hrun hp hk hx hi, endLaunch_ends s l x 0⟩,
      fun n hp hk => ⟨_, hkill n hp hk, endLaunch_ends s l x n⟩⟩
  · intro s m q u v
    exact patienceExpiry_asks

end Sys2Proof
end

section
/-!
PROOFS. SYNC, VOTE, DOMSET and the barriers (O26; R143, R164-R168, R294): what each leaves of its core and its launch, and the faults that
it answers first.
-/

namespace Sys2Proof.Machine

variable {s t : State} {g : Guard} {uses : List Use} {deferred : Bool} {body : State → Eff} {accs : State → List Acc}

/-! ### How these instructions end -/

/-- An instruction that parks its slot at itself. -/
theorem issue_park {p : Park} (h : Ready s g uses deferred (accs s)) (hb : body s = .park t p) :
    issue g uses deferred body s accs =
      .next (setSlot t s.cur { slotAt t s.cur with st := .parked p g.sw, stalled := false }) := by
  rw [issue_ready _ _ _ _ _ _ h, hb]
  rfl

/-- An instruction that goes on with what `t` says of the machine and `f` of its slot. -/
theorem issue_doneWith {f : Slot → Slot} (h : Ready s g uses deferred (accs s)) (hb : body s = .done (withCur t f))
    (hc : t.cur = s.cur) : issue g uses deferred body s accs =
      .next (setSlot t s.cur (retired g (curSlot s).pc (f (slotAt t s.cur)))) := by
  rw [issue_done h hb, withCur, hc, slotAt_setSlot, setSlot_setSlot]

theorem onlyCore_self (s : State) : OnlyCore s s.cores (coreOf s s.cur) := ⟨rfl, fun _ _ => rfl⟩

theorem onlyCore_setCoreOf (s : State) (c : Core) : OnlyCore s (setCoreOf s s.cur c).cores c :=
  ⟨tget_tput_same .., fun _ hk => tget_tput_other _ _ _ _ _ hk⟩

/-- An instruction that may not run in a containment frame is a violation of kind 5 there (R294). -/
theorem faults_inFrame (h : Ready s g uses deferred (accs s)) (hx : (curSlot s).frames ≠ [])
    (hb : kind5 (curSlot s) = true → body s = .fault .containment viol5) :
    Faults s (issue g uses deferred body s accs) .containment (5#64 <<< 60) :=
  issue_fault h (hb (by simpa [kind5] using hx))

theorem kind5_outside (hx : (curSlot s).frames = []) : kind5 (curSlot s) = false := by rw [kind5, hx]; rfl

/-! ### SYNC (R143, R165) -/

/-- Another slot of the current core waits in SYNC at a level that is not the core's (R143, code 3). -/
def OtherLevel (s : State) : Prop :=
  ∃ v ∈ slotsOf (coreRefOf s.cur), v.k ≠ s.cur.k ∧ ∃ k sw, (slotAt s v).st = .parked (.sync k) sw ∧ k ≠ (coreOf s s.cur).level

/-- The code of SYNC by the two conditions that it tests: `b` is the first one. -/
theorem syncCode_eq (s : State) : ∃ b : Bool, (b = true ↔ OtherLevel s) ∧
    syncCode s s.cur = if b && (curSlot s).task != .none then some (3 + Config.freePick s.clk % 2) else if b then some 3
      else if (curSlot s).task != .none then some 4 else none := by
  refine ⟨_, ?_, rfl⟩
  rw [List.any_eq_true]
  refine exists_congr fun v => and_congr_right fun _ => ?_
  rw [Bool.and_eq_true, bne_iff_ne]
  refine and_congr_right fun _ => ⟨fun h => ?_, fun ⟨k, sw, hst, hk⟩ => ?_⟩
  · split at h
    · next k sw hst => exact ⟨k, sw, hst, bne_iff_ne.mp h⟩
    · cases h
  · rw [hst]
    exact bne_iff_ne.mpr hk

theorem syncCode_none (h : ¬ OtherLevel s) (ht : (curSlot s).task = .none) : syncCode s s.cur = none := by
  obtain ⟨b, hb, he⟩ := syncCode_eq s
  rw [he, Bool.eq_false_iff.mpr (mt hb.mp h), ht]
  rfl

theorem syncCode_level (h : OtherLevel s) (ht : (curSlot s).task = .none) : syncCode s s.cur = some 3 := by
  obtain ⟨b, hb, he⟩ := syncCode_eq s
  rw [he, hb.mpr h, ht]
  rfl

theorem syncCode_task (h : ¬ OtherLevel s) (ht : (curSlot s).task ≠ .none) : syncCode s s.cur = some 4 := by
  obtain ⟨b, hb, he⟩ := syncCode_eq s
  rw [he, Bool.eq_false_iff.mpr (mt hb.mp h), bne_iff_ne.mpr ht]
  rfl

/-- The core with its open batch closed. -/
def batchClosed (c : Core) : Core := if c.openB = [] then c else { c with closed := c.closed ++ [c.openB], openB := [] }

theorem batchClosed_level (c : Core) : (batchClosed c).level = c.level := by unfold batchClosed; split <;> rfl

theorem closeBatch_closes {c : Core} (h : c.openB = [] ∨ c.closed.length < 16) : closeBatch c = some (batchClosed c) := by
  unfold closeBatch batchClosed
  by_cases ho : c.openB = []
  · simp [ho]
  · have hlt := h.resolve_left ho
    simp [ho, hlt]

/-- SYNC parks its slot at the core's level, its open batch closed. -/
theorem sync_parks {f : RForm} (h : Ready s g [] false) (hx : (curSlot s).frames = []) (hcode : syncCode s s.cur = none)
    (hroom : (coreOf s s.cur).openB = [] ∨ (coreOf s s.cur).closed.length < 16) :
    ∃ cores, OnlyCore s cores (batchClosed (coreOf s s.cur)) ∧
      Parks s { s with cores := cores } g (exec (.sync g f) s) (.sync (coreOf s s.cur).level) := by
  have hb : syncBody s = .park (setCoreOf s s.cur (batchClosed (coreOf s s.cur))) (.sync (coreOf s s.cur).level) := by
    simp [syncBody, kind5_outside hx, hcode, closeBatch_closes hroom, batchClosed_level]
  exact ⟨_, onlyCore_setCoreOf .., issue_park (accs := fun _ => []) h hb⟩

theorem sync_faults {f : RForm} {n : Nat} (h : Ready s g [] false) (hx : (curSlot s).frames = [])
    (hcode : syncCode s s.cur = some n) : Faults s (exec (.sync g f) s) .barrier (BitVec.ofNat 64 n) :=
  issue_fault (accs := fun _ => []) (body := syncBody) h (by simp [syncBody, kind5_outside hx, hcode])

/-! ### VOTE and DOMSET (R166, R167) -/

theorem vote_runs {f : RForm} (h : Ready s g [.s f.a] false) :
    RunsCore s g (exec (.vote g f) s)
      { coreOf s s.cur with corvote := (coreOf s s.cur).corvote ||| (opAI (curSlot s) f).setWidth 16,
                            candvote := (coreOf s s.cur).candvote &&& (opAI (curSlot s) f).setWidth 16 } (fun y => y = curSlot s) := by
  have hb : voteBody f s = .done (setCoreOf s s.cur
      { coreOf s s.cur with corvote := (coreOf s s.cur).corvote ||| (opAI (curSlot s) f).setWidth 16,
                            candvote := (coreOf s s.cur).candvote &&& (opAI (curSlot s) f).setWidth 16 }) := by
    rw [BitVec.setWidth_eq_extractLsb' (by decide)]
    rfl
  exact ⟨curSlot s, _, onlyCore_setCoreOf .., issue_done (accs := fun _ => []) h hb, rfl⟩

/-- A write of the level changes the core alone, and only when the launch has the level (R141). -/
theorem setLevel_onlyCore (s : State) (l : Nat) : ∃ cores, setLevel s s.cur l = { s with cores := cores } ∧
    OnlyCore s cores (if l ≤ nlevOf s s.cur then { coreOf s s.cur with level := l } else coreOf s s.cur) := by
  unfold setLevel
  split
  · exact ⟨_, rfl, onlyCore_setCoreOf ..⟩
  · exact ⟨_, rfl, onlyCore_self s⟩

theorem domset_runs {f : RForm} (h : Ready s g [.s f.a, .ds f.d] false) :
    RunsCore s g (exec (.domset g f) s) (if (opAI (curSlot s) f).toNat ≤ nlevOf s s.cur then
        { coreOf s s.cur with level := (opAI (curSlot s) f).toNat } else coreOf s s.cur)
      (fun y => WritesS (curSlot s) y f.d (BitVec.ofNat 64 (coreOf s s.cur).level) 0) := by
  obtain ⟨cores, ht, hc⟩ := setLevel_onlyCore s (opAI (curSlot s) f).toNat
  have hb : domsetBody f s = .done (withCur { s with cores := cores } fun x =>
      sPut x f.d (BitVec.ofNat 64 (coreOf s s.cur).level)) := by rw [← ht]; rfl
  exact ⟨_, _, hc, issue_doneWith (accs := fun _ => []) h hb rfl, writesS_sPut_quiet ..⟩

/-! ### BARA and BARW (R143, R148, R168) -/

/-- What arrivals that are sent leave as it was: which slot is next, memory, and the counts of arrivals made. -/
structure SendsArrivals (s t : State) : Prop where
  cur : t.cur = s.cur
  mem : t.mem = s.mem
  arrived : ∀ c, (coreAt t c).arrived = (coreAt s c).arrived

theorem countArrival_sends {w : SlotRef} (a : Arrival) (h : SendsArrivals s t) : SendsArrivals s (countArrival t w a) := by
  unfold countArrival
  split
  · exact h
  · exact ⟨h.cur, h.mem, h.arrived⟩

theorem settleArrivals_sends (s : State) (c : CoreRef) : SendsArrivals s (settleArrivals s c) := by
  unfold settleArrivals
  dsimp only
  split
  · exact ⟨rfl, rfl, fun _ => rfl⟩
  · exact foldl_inv (P := SendsArrivals s) (fun _ a h => countArrival_sends a h)
      ⟨rfl, rfl, coreAt_setCore_keeps (·.arrived) rfl⟩

/-- A core's only arrival that follows nothing is sent at once. -/
theorem settleArrivals_one {c : CoreRef} {a : Arrival} (h : (coreAt s c).arrivals = [a]) (ha : a.after = []) :
    settleArrivals s c = countArrival (setCore s c { coreAt s c with arrivals := [] }) (slotOf c 0) a := by
  have hm : orderMet s (slotOf c 0) true a.after = true := by rw [ha]; rfl
  unfold settleArrivals
  simp [h, List.partition_eq_filter_filter, hm]

/-- Whether a slot's core is a member of a barrier depends on its core's launch and place, and on the launches. -/
theorem barOf_congr {w v : SlotRef} {b : Nat} (hl : t.launches = s.launches) (hc : (coreOf t v).launch = (coreOf s w).launch)
    (hi : (coreOf t v).ident = (coreOf s w).ident) : barOf t v b = barOf s w b := by
  simp only [barOf, launchOf, launchAt, hl, hc, hi]

/-- The barrier with one more arrival of number `n` (R148). -/
def Bar.counted (bar : Bar) (n : Nat) : Bar := if n = bar.r + 1 then { bar with c0 := bar.c0 + 1 } else { bar with c1 := bar.c1 + 1 }

theorem countArrival_counts {w : SlotRef} {a : Arrival} {l : LaunchRef} {r : Launch} {bar : Bar}
    (h : barOf s w a.b = some (l, r, bar)) :
    launchAt (countArrival s w a) l = some { r with bars := tput r.bars a.b (bar.counted a.n) } := by
  rw [countArrival, h]
  exact tfind_tput_same ..

/-- The core of a BARA with its arrival numbered, which waits for what it must follow. -/
def arriving (s : State) (b n : Nat) : Core :=
  { coreOf s s.cur with arrived := tput (coreOf s s.cur).arrived b (BitVec.ofNat 64 n),
                        arrivals := (coreOf s s.cur).arrivals ++ [⟨b, n, releaseAfter s s.cur 3⟩] }

/-- An arrival that follows nothing is counted at once. -/
theorem arriving_counts {b n : Nat} {l : LaunchRef} {r : Launch} {bar : Bar} (h : barOf s s.cur b = some (l, r, bar))
    (ha : releaseAfter s s.cur 3 = []) (hn : (coreOf s s.cur).arrivals = []) :
    launchAt (settleArrivals (setCoreOf s s.cur (arriving s b n)) (coreRefOf s.cur)) l =
      some { r with bars := tput r.bars b (bar.counted n) } := by
  have hcore : coreAt (setCoreOf s s.cur (arriving s b n)) (coreRefOf s.cur) = arriving s b n := coreOf_setCoreOf ..
  have hone : (coreAt (setCoreOf s s.cur (arriving s b n)) (coreRefOf s.cur)).arrivals = [⟨b, n, releaseAfter s s.cur 3⟩] := by
    rw [hcore, arriving, hn]
    rfl
  rw [settleArrivals_one hone ha, hcore]
  have hset : ∀ u x, coreOf (setCore u (coreRefOf s.cur) x) (slotOf (coreRefOf s.cur) 0) = x := fun u x => coreAt_setCore u _ x
  have hbar : barOf (setCore (setCoreOf s s.cur (arriving s b n)) (coreRefOf s.cur) { arriving s b n with arrivals := [] })
      (slotOf (coreRefOf s.cur) 0) b = some (l, r, bar) := by
    rw [← h]
    refine barOf_congr rfl ?_ ?_
    · rw [hset]; rfl
    · rw [hset]; rfl
  exact countArrival_counts (a := ⟨b, n, releaseAfter s s.cur 3⟩) hbar

/-- BARA outside a frame, on a barrier that its core is a member of. -/
theorem bara_arrives {f : RForm} {l : LaunchRef} {r : Launch} {bar : Bar} {n : Nat} (h : Ready s g [.ds f.d] false)
    (hx : (curSlot s).frames = []) (hbar : barOf s s.cur f.a.toNat = some (l, r, bar))
    (hn : n = (tget (coreOf s s.cur).arrived 0 f.a.toNat).toNat + 1) (hlt : n < bar.r + 3) :
    ∃ t y, exec (.bara g f) s = .next t ∧ slotAt t s.cur = retired g (curSlot s).pc y ∧
      WritesS (curSlot s) y f.d (BitVec.ofNat 64 n) 0 ∧
      tget (coreOf t s.cur).arrived 0 f.a.toNat = BitVec.ofNat 64 n ∧ t.mem = s.mem ∧
      (releaseAfter s s.cur 3 = [] → (coreOf s s.cur).arrivals = [] →
        launchAt t l = some { r with bars := tput r.bars f.a.toNat (bar.counted n) }) := by
  let u := settleArrivals (setCoreOf s s.cur (arriving s f.a.toNat n)) (coreRefOf s.cur)
  obtain ⟨hcur, hmem, harr⟩ := settleArrivals_sends (setCoreOf s s.cur (arriving s f.a.toNat n)) (coreRefOf s.cur)
  have hb : baraBody f s = .done (withCur u fun x => sPut x f.d (BitVec.ofNat 64 n)) := by
    subst hn
    simp only [baraBody, kind5_outside hx, hbar, Bool.false_eq_true, if_false, if_neg (Nat.not_le.mpr hlt)]
    rfl
  have hslot : slotAt u s.cur = curSlot s := slotAt_settleArrivals ..
  have hw := writesS_sPut_quiet (curSlot s) f.d (BitVec.ofNat 64 n)
  rw [← hslot] at hw
  refine ⟨_, _, issue_doneWith (accs := fun _ => []) h hb hcur, slotAt_setSlot .., hslot ▸ hw, ?_, hmem,
    fun ha he => arriving_counts hbar ha he⟩
  have hc : (coreOf u s.cur).arrived = (arriving s f.a.toNat n).arrived :=
    (harr (coreRefOf s.cur)).trans (congrArg Core.arrived (coreOf_setCoreOf s s.cur _))
  rw [coreOf_setSlot, hc]
  exact tget_tput_same ..

theorem bara_notMember {f : RForm} (h : Ready s g [.ds f.d] false) (hx : (curSlot s).frames = [])
    (hbar : barOf s s.cur f.a.toNat = none) : Faults s (exec (.bara g f) s) .barrier 2 :=
  issue_fault (accs := fun _ => []) (body := baraBody f) h (by simp [baraBody, kind5_outside hx, hbar])

theorem bara_tooFar {f : RForm} {l : LaunchRef} {r : Launch} {bar : Bar} (h : Ready s g [.ds f.d] false)
    (hx : (curSlot s).frames = []) (hbar : barOf s s.cur f.a.toNat = some (l, r, bar))
    (hn : bar.r + 3 ≤ (tget (coreOf s s.cur).arrived 0 f.a.toNat).toNat + 1) : Faults s (exec (.bara g f) s) .barrier 1 :=
  issue_fault (accs := fun _ => []) (body := baraBody f) h (by
    simp only [baraBody, kind5_outside hx, hbar, Bool.false_eq_true, if_false, if_pos hn])

theorem barw_notMember {f : RForm} (h : Ready s g [.s f.b] false) (hbar : barOf s s.cur f.a.toNat = none) :
    Faults s (exec (.barw g f) s) .barrier 2 :=
  issue_fault (accs := fun _ => []) (body := barwBody f) h (by simp [barwBody, hbar])

end Sys2Proof.Machine

namespace Sys2Proof

open Sys2Proof.Machine

/-- Settles O26: SYNC by the two conditions that its code tests, BARA by the arrivals that it sends, and each violation of kind 5 by the
first check of its instruction. -/
theorem syncAndBarrierResultsAndFaults : Obligations.SyncAndBarrierResultsAndFaults := by
  refine ⟨fun s g f => ?_, fun s g f => ?_⟩
  · refine ⟨fun h hx ht hlv hroom => ?_, vote_runs, domset_runs, ?_⟩
    · exact sync_parks h hx (syncCode_none (fun ⟨v, hv, _, k, sw, hst, hne⟩ => hne (hlv v hv k sw hst)) ht) hroom
    · intro h hx l r bar hbar n hlt
      exact bara_arrives h hx hbar rfl hlt
  · refine ⟨fun h hx => ⟨fun ho ht => ?_, fun ho ht => ?_⟩, fun h hx => ⟨bara_notMember h hx, fun l r bar => bara_tooFar h hx⟩,
      barw_notMember, ?_⟩
    · exact sync_faults h hx (syncCode_level ho ht)
    · exact sync_faults h hx (syncCode_task ho ht)
    intro hx Kind5
    have violates : ∀ {uses : List Use} {body : State → Eff}, Ready s g uses false →
        (kind5 (curSlot s) = true → body s = .fault .containment viol5) →
        Faults s (issue g uses false body s) .containment (5#64 <<< 60) :=
      fun h hb => faults_inFrame (accs := fun _ => []) h hx hb
    exact ⟨fun h => ⟨violates h fun hk => if_pos hk, violates h fun hk => if_pos hk, violates h fun hk => if_pos hk⟩,
      fun h => violates h fun hk => if_pos hk, fun h => faults_inFrame (accs := walkAccs f) h hx fun hk => if_pos hk,
      fun h => violates h fun hk => if_pos hk, fun h => violates h fun hk => if_pos hk⟩

end Sys2Proof
end

section
/-!
PROOFS. WAITA where a word's errors are listed twice (O27; R27, R173): as for a load (O20), the read of its word drops the first entry, and
the second one shows.
-/

namespace Sys2Proof.Machine

/-- The form of a WAITA on the word at LOCAL address 0 until it is not 1. -/
def waitWord0 : RForm := ⟨.s64, true, 0, 1, 0, 0, 0, 1⟩

theorem twiceListed_readyWaita (accs : List Acc) :
    Ready twiceListed always [.s waitWord0.a, .s waitWord0.b, .ds waitWord0.d] false accs :=
  ⟨⟨by decide, by decide, by decide, nofun⟩, fun _ hp => absurd hp List.not_mem_nil⟩

/-- The comparison drops the first entry of word 0 and leaves the second. -/
theorem eccAfter_waita_twiceListed : eccAfter (exec (.waita always waitWord0) twiceListed) = [(0, ⟨3, false⟩)] := by decide +kernel

end Sys2Proof.Machine

namespace Sys2Proof

open Sys2Proof.Machine

/-- Refutes O27: a WAITA that goes on at a word whose errors are listed twice leaves the second entry, with its two flipped bits. -/
theorem not_waitResults : ¬ Obligations.WaitResults := by
  intro h
  obtain ⟨-, hwaita⟩ := h twiceListed always waitWord0
  obtain ⟨-, -, -, -, hgood⟩ := hwaita (twiceListed_readyWaita _)
  obtain ⟨hloads, -⟩ := hgood (by decide) (by decide) (by decide +kernel) (by unfold localGood; decide +kernel)
  have hc := correctsOnly_eccAfter (hloads (.inl (by decide +kernel)))
  rw [eccAfter_waita_twiceListed] at hc
  exact not_correctsOnly_second hc

end Sys2Proof
end

section
/-!
PROOFS. Walks, tasks and slots (O29; R175-R179): what WALK, TASKADD, SPAWN and YIELD leave, and how EXIT and TEND end their slot.
-/

namespace Sys2Proof.Machine

variable {s t : State} {g : Guard} {f : RForm}

/-! ### WALK (R175) -/

theorem observe_cur (s : State) (w : SlotRef) (ids : List Nat) : (observe s w ids).cur = s.cur := by
  unfold observe
  split <;> rfl

theorem localRead_cur {w : SlotRef} {va : Word} {n v : Nat} {acq : Bool} (h : localRead s w va n acq = some (v, t)) :
    t.cur = s.cur := by
  unfold localRead at h
  dsimp only at h
  split at h
  · cases h
  · cases h
    exact (observe_cur ..).trans (readFlat_sameCores ⟨rfl, rfl, rfl⟩).2.2

/-- A load that an instruction makes while it stalls leaves its slot the next one. -/
theorem loadNow_cur {w : SlotRef} {va : Word} {ws : List Word} (h : loadNow s w va = .ok t ws) : t.cur = s.cur := by
  unfold loadNow at h
  dsimp only at h
  split at h
  · cases h
  split at h
  · cases h
  split at h
  -- in the LOCAL window, and beyond it
  · split at h
    · cases h
    split at h
    · cases h
    · next hr =>
      cases h
      exact localRead_cur hr
  · split at h
    · next hr =>
      cases h
      exact (observe_cur ..).trans (perfRead_sameCores hr).2.2
    all_goals cases h

theorem loadWords_cur {w : SlotRef} {va : Word} {n : Nat} {ws : List Word} (h : loadWords s w va n = .ok t ws) :
    t.cur = s.cur := by
  induction n generalizing s va ws with
  | zero =>
    cases h
    rfl
  | succ n ih =>
    unfold loadWords at h
    split at h
    · next s' _ hnow =>
      split at h
      · next hrest =>
        cases h
        exact (ih hrest).trans (loadNow_cur hnow)
      · next hrest => exact absurd h (hrest _ _)
    · next hnow => exact absurd h (hnow _ _)

theorem walk_running (h : Ready s g [.s f.a, .ds f.d] false (walkAccs f s)) (hx : (curSlot s).frames = [])
    (ha : checkEa (coreOf s s.cur).ident.asid (sGet (curSlot s) f.a) 64 = none) (hw : (coreOf s s.cur).walk ≠ none) :
    Runs s g (exec (.walk g f) s) (fun y => WritesS (curSlot s) y f.d 1 0) := by
  have hb : walkBody f s = .done (withCur s fun x => sPut x f.d 1) := by
    simp [walkBody, kind5_outside hx, ha, Option.isSome_iff_ne_none.mpr hw]
  exact runs_of_withCur s g _ false _ (walkAccs f) _ _ h hb (writesS_sPut_quiet ..)

section

variable {s' : State} {ws : List Word} (h : Ready s g [.s f.a, .ds f.d] false (walkAccs f s)) (hx : (curSlot s).frames = [])
  (ha : checkEa (coreOf s s.cur).ident.asid (sGet (curSlot s) f.a) 64 = none) (hw : (coreOf s s.cur).walk = none)
  (hl : loadWords s s.cur (sGet (curSlot s) f.a) 32 = .ok s' ws)

include h hx ha hw hl

theorem walk_illFormed (hr : readWalk ws (curSlot s).csr.pkey = none) :
    Faults s (exec (.walk g f) s) .format (sGet (curSlot s) f.a) :=
  issue_fault (accs := walkAccs f) (body := walkBody f) h (by simp [walkBody, kind5_outside hx, ha, hw, hl, hr])

theorem walk_starts {k : Walk} (hr : readWalk ws (curSlot s).csr.pkey = some k) :
    ∃ t y, exec (.walk g f) s = .next t ∧ (coreOf t s.cur).walk = some k ∧ slotAt t s.cur = retired g (curSlot s).pc y ∧
      WritesS (slotAt s' s.cur) y f.d 0 0 := by
  have hb : walkBody f s = .done (withCur (setCoreOf s' s.cur { coreOf s' s.cur with walk := some k }) fun x => sPut x f.d 0) := by
    simp [walkBody, kind5_outside hx, ha, hw, hl, hr]
  have hcur : s'.cur = s.cur := loadWords_cur hl
  refine ⟨_, _, issue_doneWith (accs := walkAccs f) h hb hcur, ?_, slotAt_setSlot .., writesS_sPut_quiet ..⟩
  rw [coreOf_setSlot, coreOf_setCoreOf]

end

/-! ### TASKADD (R176) -/

theorem taskadd_full (h : Ready s g (usesR f) false) (hx : (curSlot s).frames = []) (hn : 32 ≤ (coreOf s s.cur).tasks.length) :
    Runs s g (exec (.taskadd g f) s) (fun y => WritesS (curSlot s) y f.d 1 0) := by
  have hb : taskaddBody f s = .done (withCur s fun x => sPut x f.d 1) := by simp [taskaddBody, kind5_outside hx, hn]
  exact runs_of_withCur s g _ false _ (fun _ => []) _ _ h hb (writesS_sPut_quiet ..)

theorem taskadd_queues (h : Ready s g (usesR f) false) (hx : (curSlot s).frames = []) (hn : (coreOf s s.cur).tasks.length < 32) :
    let c := coreOf s s.cur
    RunsCore s g (exec (.taskadd g f) s)
      { c with tasks := c.tasks ++ [⟨sGet (curSlot s) f.a, sGet (curSlot s) f.b, sGet (curSlot s) f.c, BitVec.ofNat 32 c.taskCount⟩],
               taskCount := c.taskCount + 1 }
      (fun y => WritesS (curSlot s) y f.d 0 0) := by
  intro c
  have hb : taskaddBody f s = .done (withCur (setCoreOf s s.cur
      { c with tasks := c.tasks ++ [⟨sGet (curSlot s) f.a, sGet (curSlot s) f.b, sGet (curSlot s) f.c, BitVec.ofNat 32 c.taskCount⟩],
               taskCount := c.taskCount + 1 }) fun x => sPut x f.d 0) := by
    simp only [taskaddBody, kind5_outside hx, if_neg (Nat.not_le.mpr hn), Bool.false_eq_true, if_false]
    rfl
  exact ⟨_, _, onlyCore_setCoreOf .., issue_doneWith (accs := fun _ => []) h hb rfl, writesS_sPut_quiet ..⟩

/-! ### SPAWN (R178) -/

theorem spawn_noSlot (h : Ready s g [.s f.a, .s f.b, .ds f.d] false) (hx : (curSlot s).frames = [])
    (hv : freeSlotOf s (coreRefOf s.cur) = none) :
    Runs s g (exec (.spawn g f) s) (fun y => WritesS (curSlot s) y f.d (BitVec.allOnes 64) 0) := by
  have hb : spawnBody f s = .done (withCur s fun x => sPut x f.d (BitVec.allOnes 64)) := by
    simp [spawnBody, kind5_outside hx, hv]
  exact runs_of_withCur s g _ false _ (fun _ => []) _ _ h hb (writesS_sPut_quiet ..)

/-- The slot of an instruction that issues is READY, and nothing stops it. -/
theorem ready_slot {uses : List Use} {deferred : Bool} {accs : List Acc} (h : Ready s g uses deferred accs) :
    (curSlot s).st = .ready ∧ (curSlot s).stop = none := by
  obtain ⟨⟨hc, -⟩, -⟩ := h
  simp only [canIssue, Bool.and_eq_true, decide_eq_true_eq, Option.isNone_iff_eq_none] at hc
  obtain ⟨⟨⟨hst, hstop⟩, -⟩, -⟩ := hc
  exact ⟨hst, hstop⟩

/-- The lowest free slot is not the one that issues. -/
theorem freeSlotOf_other {c : CoreRef} {v : SlotRef} (hs : (curSlot s).st = .ready) (hv : freeSlotOf s c = some v) :
    slotKey s.cur ≠ slotKey v := by
  intro hk
  have hfree : (slotAt s v).st = .free := by simpa using List.find?_some hv
  rw [slotAt, ← hk] at hfree
  exact absurd (hs.symm.trans hfree) (by decide)

/-- The slot as SPAWN starts it: at `pc`, its registers zero but for `s1` (R178). -/
theorem spawnedSlot (s : State) (v : SlotRef) (pc b : Word) :
    let z := sPut (newSlot s v pc) 1 b
    z.st = .ready ∧ z.pc = pc ∧ sGet z 1 = b ∧ (∀ r, r ≠ 1 → sGet z r = 0) ∧ (∀ r, vGet z r = 0) ∧ z.frames = [] ∧
      z.outs = [] :=
  ⟨rfl, rfl, sGet_sPut_same .., fun r hr => (sGet_sPut_other _ _ _ _ hr).trans ((newSlot_zeroRegs s v pc).2 r), fun _ => rfl,
    rfl, rfl⟩

theorem spawn_starts {v : SlotRef} (h : Ready s g [.s f.a, .s f.b, .ds f.d] false) (hx : (curSlot s).frames = [])
    (hv : freeSlotOf s (coreRefOf s.cur) = some v) (hc : checkTarget (setSlot s v Slot.reset) v (sGet (curSlot s) f.a) = none) :
    ∃ t y z, exec (.spawn g f) s = .next t ∧ slotAt t s.cur = retired g (curSlot s).pc y ∧
      WritesS (curSlot s) y f.d (BitVec.ofNat 64 v.k) 0 ∧ slotAt t v = z ∧ z.st = .ready ∧ z.pc = sGet (curSlot s) f.a ∧
      sGet z 1 = sGet (curSlot s) f.b ∧ (∀ r, r ≠ 1 → sGet z r = 0) ∧ (∀ r, vGet z r = 0) ∧ z.frames = [] ∧ z.outs = [] := by
  let s1 := withCur s fun x => sPut x f.d (BitVec.ofNat 64 v.k)
  let z := sPut (newSlot s1 v (sGet (curSlot s) f.a)) 1 (sGet (curSlot s) f.b)
  have hother := freeSlotOf_other (ready_slot h).1 hv
  have hb : spawnBody f s = .done (startSlot s1 v z) := by
    simp only [spawnBody, kind5_outside hx, hv, Bool.false_eq_true, if_false]
    rfl
  have hc1 : checkTarget (setSlot s1 v Slot.reset) v z.pc = none := by
    refine Eq.trans ?_ hc
    exact checkTarget_of_freshLine (by rw [slotAt_setSlot]; rfl) (by rw [slotAt_setSlot]; rfl) rfl
  obtain ⟨e, hs⟩ := startSlot_leaves (s := s1) (w := v) (x := z) rfl hc1
  have hcur : slotAt { setSlot s1 v z with ecc := e } s.cur = sPut (curSlot s) f.d (BitVec.ofNat 64 v.k) :=
    (slotAt_setSlot_other s1 v s.cur z hother).trans (curSlot_withCur ..)
  have hnew : slotAt { setSlot s1 v z with ecc := e } v = z := slotAt_setSlot ..
  refine ⟨_, _, z, (issue_done (accs := fun _ => []) h hb).trans (by rw [hs, hcur]), slotAt_setSlot .., writesS_sPut_quiet ..,
    (slotAt_setSlot_other _ _ _ _ hother.symm).trans hnew, ?_⟩
  exact spawnedSlot s1 v _ _

/-! ### EXIT and TEND (R177) -/

/-- The result is a RECV's. -/
def isRecv (o : Out) : Bool := match o.kind with | .recv _ => true | _ => false

/-- The entries that a slot's RECVs have claimed. -/
def claimedEntries (x : Slot) : List InEntry :=
  x.outs.filterMap fun o => match o.kind with | .recv (some e) => some ⟨e, none⟩ | _ => none

/-- The current core with the entries that its slot has claimed the oldest of the inbox again (R177). -/
def withdrawnCore (s : State) : Core := { coreOf s s.cur with inbox := claimedEntries (curSlot s) ++ (coreOf s s.cur).inbox }

/-- Clearing the pending marks of destinations changes nothing else of a slot. -/
theorem unmarkAll_eq (x : Slot) (l : List Out) :
    ∃ pS pV, l.foldl (fun y o => unmarkDst y o.dst) x = { x with pendS := pS, pendV := pV } :=
  foldl_inv (P := fun y : Slot => ∃ pS pV, y = { x with pendS := pS, pendV := pV })
    (fun y o ⟨pS, pV, hy⟩ => by rw [hy]; cases o.dst <;> exact ⟨_, _, rfl⟩) ⟨_, _, rfl⟩

/-- Of the slot that withdraws its RECVs only results and pending marks change. -/
theorem withdrawRecvs_eq (x : Slot) :
    ∃ pS pV, withdrawRecvs x = { x with pendS := pS, pendV := pV, outs := x.outs.filter fun o => !isRecv o } := by
  obtain ⟨pS, pV, hy⟩ := unmarkAll_eq x (x.outs.filter isRecv)
  refine ⟨pS, pV, ?_⟩
  unfold withdrawRecvs
  extract_lets gone y
  have hgone : gone = x.outs.filter isRecv := List.filter_congr fun o _ => by unfold isRecv; cases o.kind <;> rfl
  have hy' : y = { x with pendS := pS, pendV := pV } := by rw [← hy, ← hgone]
  rw [hy']
  congr 1
  exact List.filter_congr fun o _ => by unfold isRecv; cases o.kind <;> rfl

/-- A withdrawal changes the slot and its core's inbox. -/
theorem withdraw_eq (s : State) : ∃ cores, OnlyCore s cores (withdrawnCore s) ∧
    withdraw s s.cur = setSlot { s with cores := cores } s.cur (withdrawRecvs (curSlot s)) := by
  cases hb : claimedEntries (curSlot s) with
  | nil =>
    have hc : withdrawnCore s = coreOf s s.cur := by rw [withdrawnCore, hb]; rfl
    exact ⟨s.cores, hc ▸ onlyCore_self s, if_pos (List.isEmpty_iff.mpr hb)⟩
  | cons e r => exact ⟨_, onlyCore_setCoreOf .., if_neg fun he =>
      List.cons_ne_nil e r (hb.symm.trans (List.isEmpty_iff.mp he))⟩

/-- The slot of an EXIT or TEND: its RECVs are withdrawn, and it ends. -/
def endingSlot (x : Slot) (tend : Bool) : Slot := { withdrawRecvs x with st := .ending tend }

theorem endingSlot_eq (x : Slot) (tend : Bool) : ∃ pS pV, endingSlot x tend =
    { x with st := .ending tend, pendS := pS, pendV := pV, outs := x.outs.filter fun o => !isRecv o } := by
  obtain ⟨pS, pV, h⟩ := withdrawRecvs_eq x
  exact ⟨pS, pV, by rw [endingSlot, h]⟩

/-- EXIT or TEND outside a frame leaves its slot ending, and ends it when nothing holds it. -/
theorem end_runs (tend : Bool) (h : Ready s g [] false) (hx : (curSlot s).frames = []) :
    ∃ cores, OnlyCore s cores (withdrawnCore s) ∧ exec (if tend then .tend g f else .exit g f) s =
      .next (slotEnd (setSlot { s with cores := cores } s.cur (endingSlot (curSlot s) tend)) s.cur) := by
  obtain ⟨cores, hc, hw⟩ := withdraw_eq s
  have hb : endBody tend s = .stay (slotEnd (setSlot { s with cores := cores } s.cur (endingSlot (curSlot s) tend)) s.cur) := by
    simp only [endBody, kind5_outside hx, Bool.false_eq_true, if_false, hw, withCur, setSlot_cur, slotAt_setSlot, setSlot_setSlot]
    rfl
  have hgo : issue g [] false (endBody tend) s = _ := issue_ready _ _ _ _ _ (fun _ => []) h
  rw [hb] at hgo
  refine ⟨cores, hc, ?_⟩
  cases tend <;> exact hgo

theorem slotEnd_waits {w : SlotRef} {tend : Bool} (hst : (slotAt s w).st = .ending tend) (ho : (slotAt s w).outs ≠ []) :
    slotEnd s w = s := by
  simp [slotEnd, hst, ho]

/-- A walked task that TEND ends writes its rows out first (R155). -/
theorem slotEnd_walked {w : SlotRef} {a : List Nat} {b : Option Nat} {c : List PageRef} {d : Option (List (Word × Nat × Nat))}
    (hst : (slotAt s w).st = .ending true) (hh : (slotAt s w).held = []) (ht : (slotAt s w).task = .walked a b c d) :
    slotEnd s w = s := by
  simp [slotEnd, hst, hh, ht]

theorem slotEnd_frees {w : SlotRef} {tend : Bool} (hst : (slotAt s w).st = .ending tend) (ho : (slotAt s w).outs = [])
    (hp : (slotAt s w).stop = none) (hh : (slotAt s w).held = [])
    (ht : tend = true → ∀ a b c d, (slotAt s w).task ≠ .walked a b c d) : slotEnd s w = freeSlot s w := by
  cases tend with
  | false =>
    simp only [slotEnd, hst, ho, hp, hh]
    cases (slotAt s w).task <;> rfl
  | true =>
    simp only [slotEnd, hst, ho, hp, hh]
    cases hk : (slotAt s w).task with
    | walked a b c d => exact absurd hk (ht rfl a b c d)
    | none => rfl
    | queued => rfl

theorem freeSlot_leaves (s : State) (w : SlotRef) : slotAt (freeSlot s w) w = Slot.reset ∧ (freeSlot s w).mem = s.mem ∧
    (coreOf (freeSlot s w) w).inbox = (coreOf s w).inbox :=
  ⟨slotAt_setSlot .., rfl, by rw [freeSlot, coreOf_setSlot, coreOf_setCoreOf]⟩

section

variable (h : Ready s g [] false) (hx : (curSlot s).frames = [])

include h hx

/-- A slot with no results but RECVs ends at once, unless it writes the rows of a walked task out. -/
theorem end_frees (tend : Bool) (ho : (curSlot s).outs.all isRecv = true) (hh : (curSlot s).held = [])
    (ht : tend = true → ∀ a b c d, (curSlot s).task ≠ .walked a b c d) :
    ∃ t, exec (if tend then .tend g f else .exit g f) s = .next t ∧ slotAt t s.cur = Slot.reset ∧ t.mem = s.mem ∧
      (coreOf t s.cur).inbox = (withdrawnCore s).inbox := by
  obtain ⟨cores, ⟨hc, -⟩, hgo⟩ := end_runs (f := f) tend h hx
  obtain ⟨pS, pV, he⟩ := endingSlot_eq (curSlot s) tend
  have hnone : (curSlot s).outs.filter (fun o => !isRecv o) = [] :=
    List.filter_eq_nil_iff.mpr fun o hm => by simp [List.all_eq_true.mp ho o hm]
  rw [slotEnd_frees (tend := tend) (by rw [slotAt_setSlot]; rfl) (by rw [slotAt_setSlot, he]; exact hnone)
    (by rw [slotAt_setSlot, he]; exact (ready_slot h).2) (by rw [slotAt_setSlot, he]; exact hh)
    (by rw [slotAt_setSlot, he]; exact ht)] at hgo
  obtain ⟨hslot, hmem, hin⟩ := freeSlot_leaves (setSlot { s with cores := cores } s.cur (endingSlot (curSlot s) tend)) s.cur
  exact ⟨_, hgo, hslot, hmem, hin.trans (congrArg Core.inbox hc)⟩

/-- TEND of a walked task with no results but RECVs leaves its slot to write the rows out. -/
theorem tend_walked {a : List Nat} {b : Option Nat} {c : List PageRef} {d : Option (List (Word × Nat × Nat))}
    (ho : (curSlot s).outs.all isRecv = true) (hh : (curSlot s).held = []) (ht : (curSlot s).task = .walked a b c d) :
    ∃ y cores, OnlyCore s cores (withdrawnCore s) ∧
      exec (.tend g f) s = .next (setSlot { s with cores := cores } s.cur y) ∧ y.st = .ending true ∧ y.outs = [] := by
  obtain ⟨cores, hc, hgo⟩ := end_runs (f := f) true h hx
  obtain ⟨pS, pV, he⟩ := endingSlot_eq (curSlot s) true
  rw [slotEnd_walked (by rw [slotAt_setSlot]; rfl) (by rw [slotAt_setSlot, he]; exact hh)
    (by rw [slotAt_setSlot, he]; exact ht)] at hgo
  refine ⟨_, cores, hc, hgo, rfl, ?_⟩
  rw [he]
  exact List.filter_eq_nil_iff.mpr fun o hm => by simp [List.all_eq_true.mp ho o hm]

/-- A slot with other results waits for them, its RECVs withdrawn. -/
theorem end_waits (tend : Bool) (ho : (curSlot s).outs.all isRecv = false) :
    ∃ y cores, OnlyCore s cores (withdrawnCore s) ∧
      exec (if tend then .tend g f else .exit g f) s = .next (setSlot { s with cores := cores } s.cur y) ∧
      y.st = .ending tend ∧ y.outs = (curSlot s).outs.filter (fun o => !isRecv o) ∧ y.sreg = (curSlot s).sreg := by
  obtain ⟨cores, hc, hgo⟩ := end_runs (f := f) tend h hx
  obtain ⟨pS, pV, he⟩ := endingSlot_eq (curSlot s) tend
  have hsome : (curSlot s).outs.filter (fun o => !isRecv o) ≠ [] := fun hn =>
    Bool.eq_false_iff.mp ho (List.all_eq_true.mpr fun o hm => by simpa using List.filter_eq_nil_iff.mp hn o hm)
  rw [slotEnd_waits (tend := tend) (by rw [slotAt_setSlot]; rfl) (by rw [slotAt_setSlot, he]; exact hsome)] at hgo
  exact ⟨_, cores, hc, hgo, rfl, by rw [he], by rw [he]⟩

end

end Sys2Proof.Machine

namespace Sys2Proof

open Sys2Proof.Machine

/-- Settles O29: WALK by the words that it loads, SPAWN by the slot that it finds, and EXIT and TEND by what holds the ending slot. -/
theorem taskResults : Obligations.TaskResults := by
  intro s g f hx x c a recv back c'
  refine ⟨fun h ha => ⟨walk_running h hx ha, fun s' ws hw hl => ⟨walk_illFormed h hx ha hw hl, fun k => walk_starts h hx ha hw hl⟩⟩,
    fun h => ⟨taskadd_full h hx, taskadd_queues h hx⟩, fun h => ⟨spawn_noSlot h hx, fun v => spawn_starts h hx⟩,
    fun h => ⟨?_, fun ho hh => ?_, fun ho tend => end_waits h hx tend ho⟩⟩
  · exact runs_of_withCur s g [] false (fun t => .done (withCur t fun y => { y with yielded := some [] })) (fun _ => []) _ _ h rfl rfl
  · intro Ends
    exact ⟨end_frees h hx false ho hh nofun, fun ht => end_frees h hx true ho hh fun _ => ht,
      fun _ _ _ _ => tend_walked h hx ho hh⟩

end Sys2Proof
end

section
/-!
PROOFS. The address checks of memory instructions (O19; R104, R183, R222, R230): the causes that the two orders of checks find, and the
instructions that report them.
-/

namespace Sys2Proof.Machine

/-! ### The checks -/

/-- The address lies in or above the CORE window, where it names a core number from 384 up (R184). -/
def NoCore (ea : Word) : Prop := 0x100000000000000 ≤ ea.toNat ∧ 384 ≤ ea.toNat / 2 ^ 20 % 512

section
variable {asid : BitVec 16} {ea : Word} {n : Nat}

theorem placeOf_beyond (h : 0x100000200000000 ≤ ea.toNat) : placeOf asid ea = .bad := by
  have h0 : ¬ ea.toNat < 0x100000 := by omega
  have h1 : ¬ ea.toNat < 0x80000000000000 := by omega
  have h2 : ¬ ea.toNat < 0x100000000000000 := by omega
  have h3 : ¬ ea.toNat < 0x100000200000000 := by omega
  simp only [placeOf, h0, h1, h2, h3, if_false]

theorem placeOf_coreWindow (hl : 0x100000000000000 ≤ ea.toNat) (hu : ea.toNat < 0x100000200000000) :
    placeOf asid ea = .core (ea.toNat / 2 ^ 29 % 16) (ea.toNat / 2 ^ 20 % 512) (ea.toNat % 2 ^ 20) := by
  have h0 : ¬ ea.toNat < 0x100000 := by omega
  have h1 : ¬ ea.toNat < 0x80000000000000 := by omega
  have h2 : ¬ ea.toNat < 0x100000000000000 := by omega
  simp only [placeOf, h0, h1, h2, hu, if_false, if_true]

/-- Below the CORE window an address is LOCAL or one of a page. -/
theorem placeOf_belowCores (h : ea.toNat < 0x100000000000000) :
    placeOf asid ea = .lcl ea.toNat ∨ ∃ tag, placeOf asid ea = .page tag ea.toNat := by
  unfold placeOf
  dsimp only
  split
  · exact .inl rfl
  split
  · exact .inr ⟨_, rfl⟩
  · exact .inr ⟨_, rfl⟩

/-- ACCESS by the address alone: no region, or no core. -/
theorem addrBad_iff : addrBad asid ea = true ↔ 0x100000200000000 ≤ ea.toNat ∨ NoCore ea := by
  unfold addrBad NoCore
  rcases lt_or_ge ea.toNat 0x100000000000000 with hb | hl
  · rcases placeOf_belowCores (asid := asid) hb with h | ⟨tag, h⟩ <;> rw [h] <;> simp <;> omega
  rcases lt_or_ge ea.toNat 0x100000200000000 with hu | hu
  · rw [placeOf_coreWindow hl hu]
    simp only [decide_eq_true_eq]
    omega
  · simp [placeOf_beyond hu, hu]

theorem checkEa_beyond (h : 0x100000200000000 ≤ ea.toNat) : checkEa asid ea n = some .access := by
  rw [checkEa, placeOf_beyond h]

/-- In a region the alignment is checked before the core number (R222). -/
theorem checkEa_inRegion (h : ea.toNat < 0x100000200000000) : checkEa asid ea n =
    if ea.toNat % n ≠ 0 then some .dataAlign else if addrBad asid ea then some .access else none := by
  unfold checkEa addrBad
  rcases lt_or_ge ea.toNat 0x100000000000000 with hb | hl
  · rcases placeOf_belowCores (asid := asid) hb with h | ⟨tag, h⟩ <;> simp [h]
  · simp [placeOf_coreWindow hl h]

theorem topBits_iff : ea.extractLsb' 57 7 ≠ 0#7 ↔ 2 ^ 57 ≤ ea.toNat := by
  rw [ne_eq, ← BitVec.toNat_inj, BitVec.extractLsb'_toNat, Nat.shiftRight_eq_div_pow, BitVec.toNat_ofNat]
  have := ea.isLt
  omega

theorem checkEaPlain_above (h : 2 ^ 57 ≤ ea.toNat) : checkEaPlain asid ea n = some .access := by
  simp [checkEaPlain, topBits_iff.mpr h]

/-- Below bit 57 the alignment is checked before the region (R104). -/
theorem checkEaPlain_below (h : ea.toNat < 2 ^ 57) : checkEaPlain asid ea n =
    if ea.toNat % n ≠ 0 then some .dataAlign else if addrBad asid ea then some .access else none := by
  have ht : ea.extractLsb' 57 7 = 0#7 := not_not.mp fun hn => absurd (topBits_iff.mp hn) (by omega)
  simp [checkEaPlain, ht]

end

/-! ### The instructions -/

section
variable {s : State} {f : MForm} {n : Nat} {c : Cause} (hl : ldaOut (curSlot s) = false)
include hl

theorem loadBody_fault {check : BitVec 16 → Word → Nat → Option Cause} {kind : OutKind} {d : Dst} {fin : Nat → VWord}
    (hc : check (coreOf s s.cur).ident.asid (eaOf (curSlot s) f) n = some c) :
    loadBody check f n kind d fin s = .fault c (eaOf (curSlot s) f) := by
  simp [loadBody, hl, hc]

theorem storeBody_fault {check : BitVec 16 → Word → Nat → Option Cause} {data : Slot → Nat} {rel : Option Nat}
    (hc : check (coreOf s s.cur).ident.asid (eaOf (curSlot s) f) n = some c) :
    storeBody check f n data rel s = .fault c (eaOf (curSlot s) f) := by
  simp [storeBody, hl, hc]

theorem atomicBody_fault {kind : Slot → OutKind} {d : Dst}
    (hc : checkEa (coreOf s s.cur).ident.asid (eaOf (curSlot s) f) n = some c) :
    atomicBody f n kind d s = .fault c (eaOf (curSlot s) f) := by
  simp [atomicBody, hl, hc]

theorem ldcBody_fault (hc : checkEa (coreOf s s.cur).ident.asid (eaOf (curSlot s) f) (tyBytes f.ty) = some c) :
    ldcBody f s = .fault c (eaOf (curSlot s) f) := by
  simp [ldcBody, hl, hc]

/-- LDC at an address that is not one of a page (R230). -/
theorem ldcBody_noPage (hc : checkEa (coreOf s s.cur).ident.asid (eaOf (curSlot s) f) (tyBytes f.ty) = none)
    (hp : ∀ tag va, placeOf (coreOf s s.cur).ident.asid (eaOf (curSlot s) f) ≠ .page tag va) :
    ldcBody f s = .fault .access (eaOf (curSlot s) f) := by
  unfold ldcBody
  dsimp only
  rw [hl, hc]
  cases h : placeOf (coreOf s s.cur).ident.asid (eaOf (curSlot s) f) with
  | page tag va => exact absurd h (hp tag va)
  | lcl off => rfl
  | core d c off => rfl
  | bad => rfl

theorem pinBody_fault (hc : checkEa (coreOf s s.cur).ident.asid (eaOf (curSlot s) f) 1 = some c) :
    pinBody f s = .fault c (eaOf (curSlot s) f) := by
  simp [pinBody, hl, hc]

end

end Sys2Proof.Machine

namespace Sys2Proof

open Sys2Proof.Machine

/-- Settles O19: the two checks by the order of their conditions; each instruction reports what its check finds. -/
theorem addressFaults : Obligations.AddressFaults := by
  refine ⟨fun asid ea n => ⟨⟨checkEa_beyond, fun hr ha => ?_, fun hr ha => ⟨fun hw => ?_, fun hw => ?_⟩⟩,
    checkEaPlain_above, fun hr ha => ?_, fun hr ha => ⟨fun hw => ?_, fun hu hw => ?_⟩⟩, ?_⟩
  · rw [checkEa_inRegion hr, if_pos ha]
  · rw [checkEa_inRegion hr, if_neg (not_not.mpr ha), if_pos (addrBad_iff.mpr (.inr hw))]
  · rw [checkEa_inRegion hr, if_neg (not_not.mpr ha), if_neg (fun hb => (addrBad_iff.mp hb).elim (by omega) hw)]
  · rw [checkEaPlain_below hr, if_pos ha]
  · rw [checkEaPlain_below hr, if_neg (not_not.mpr ha), if_pos (addrBad_iff.mpr hw)]
  · rw [checkEaPlain_below hr, if_neg (not_not.mpr ha), if_neg (fun hb => (addrBad_iff.mp hb).elim (by omega) hw)]
  · intro s g f c hl
    exact ⟨fun h => ⟨fun hc => issue_fault h (loadBody_fault hl hc), fun hc => issue_fault h (loadBody_fault hl hc)⟩,
      fun h hc => issue_fault h (loadBody_fault hl hc),
      fun h => ⟨fun hc => issue_fault h (ldcBody_fault hl hc),
        fun hc hp ha => ha ▸ issue_fault h (ldcBody_noPage hl hc hp)⟩,
      fun h => ⟨fun hc => issue_fault h (storeBody_fault hl hc), fun hc => issue_fault h (storeBody_fault hl hc)⟩,
      fun h hc => issue_fault h (storeBody_fault hl hc),
      fun h hc => ⟨issue_fault h (atomicBody_fault hl hc), issue_fault h (atomicBody_fault hl hc)⟩,
      fun h hc => issue_fault h (atomicBody_fault hl hc),
      fun h hc => issue_fault (accs := fun _ => []) h (pinBody_fault hl hc)⟩

end Sys2Proof
end

section
/-!
PROOFS. Contexts and pages (O38; R192, R196, R199, R204, R355, R356): a context leaves its slot and comes back, firmware installs a leaf
or changes an entry of a page table, and a page that has reached its threshold moves to the near tier.
-/

namespace Sys2Proof.Machine

/-! ### A context leaves -/

/-- A READY slot that waits for pages is saved with its core and becomes FREE (R196). -/
theorem contextSwapOut_saves {s : State} {w : SlotRef} (hst : (slotAt s w).st = .ready) (hreq : (slotAt s w).swapReq ≠ [])
    (hstop : (slotAt s w).stop = none) (houts : (slotAt s w).outs.all (canSwap s w) = true) :
    Goes (exec (.contextSwapOut w) s) (fun t => slotAt t w = Slot.reset ∧ t.mem = s.mem ∧
      (coreOf t w).swapped = (coreOf s w).swapped ++ [⟨s.nextId, slotAt s w, w.k⟩]) := by
  have hcore : ∀ id v, (coreOf (bindEntries { s with nextId := v } w id) w).swapped = (coreOf s w).swapped := fun id v => by
    rw [bindEntries, coreOf_setCoreOf]
    rfl
  have hne : (slotAt s w).swapReq.isEmpty = false := by simpa using hreq
  refine ⟨_, if_neg (by simp [hst, hne, hstop, houts]), slotAt_setSlot .., rfl, ?_⟩
  exact (congrArg Core.swapped (coreOf_setCoreOf ..)).trans (congrArg (· ++ _) (hcore ..))

/-! ### A context comes back -/

/-- Of slot `w` only results have changed, of its core not the saved contexts, and no byte of memory. -/
structure OnlyResults (w : SlotRef) (s t : State) : Prop where
  mem : t.mem = s.mem
  swapped : (coreOf t w).swapped = (coreOf s w).swapped
  slot : ∃ outs, slotAt t w = { slotAt s w with outs := outs }

section
variable {w : SlotRef} {s t u : State}

theorem OnlyResults.refl (w : SlotRef) (s : State) : OnlyResults w s s := ⟨rfl, rfl, _, rfl⟩

theorem OnlyResults.trans (h : OnlyResults w s t) (k : OnlyResults w t u) : OnlyResults w s u where
  mem := k.mem.trans h.mem
  swapped := k.swapped.trans h.swapped
  slot := by
    obtain ⟨a, ha⟩ := h.slot
    obtain ⟨b, hb⟩ := k.slot
    exact ⟨b, by rw [hb, ha]⟩

theorem putOut_onlyResults (s : State) (w : SlotRef) (o : Out) : OnlyResults w s (putOut s w o) :=
  ⟨rfl, rfl, _, slotAt_setSlot ..⟩

theorem setCoreOf_onlyResults {x : Core} (h : x.swapped = (coreOf s w).swapped) : OnlyResults w s (setCoreOf s w x) :=
  ⟨rfl, (congrArg Core.swapped (coreOf_setCoreOf ..)).trans h, _, rfl⟩

/-- A result that takes an entry of the inbox. -/
theorem claim_onlyResults (s : State) (w : SlotRef) (inbox : List InEntry) (o : Out) :
    OnlyResults w s (putOut (setCoreOf s w { coreOf s w with inbox := inbox }) w o) := by
  refine (setCoreOf_onlyResults ?_).trans (putOut_onlyResults _ w o)
  rfl

theorem claimEntry_onlyResults (s : State) (w : SlotRef) : OnlyResults w s (claimEntry s w) := by
  unfold claimEntry
  dsimp only
  split
  · split
    · exact .refl w s
    · exact claim_onlyResults ..
  · exact .refl w s

theorem claimAll_onlyResults (s : State) (w : SlotRef) : OnlyResults w s (claimAll s w) :=
  foldl_inv (fun t _ h => h.trans (claimEntry_onlyResults t w)) (.refl w s)

theorem claimBound_onlyResults (s : State) (w : SlotRef) (id n : Nat) : OnlyResults w s (claimBound s w id n) := by
  induction n generalizing s with
  | zero => exact .refl w s
  | succ n ih =>
    unfold claimBound
    dsimp only
    split
    · split
      · exact (claim_onlyResults ..).trans (ih _)
      · exact .refl w s
    · exact .refl w s

/-- With nothing of the ring bound to a context no entry is readdressed. -/
theorem readdressRing_onlyResults (id : Nat) (h : (coreOf s w).spill.bound = []) : OnlyResults w s (readdressRing s w id) := by
  unfold readdressRing
  dsimp only
  rw [h]
  exact setCoreOf_onlyResults rfl

theorem recheckPark_ready (h : (slotAt s w).st = .ready) : recheckPark s w = s := by
  unfold recheckPark
  dsimp only
  rw [h]

/-- A READY context comes back with all it had but what it waited for (R196, R197). -/
theorem restoreCtx_ready {q : Ctx} (hst : q.slot.st = .ready) (hring : (coreOf s w).spill.bound = []) :
    (restoreCtx s w q).mem = s.mem ∧
      (coreOf (restoreCtx s w q) w).swapped = (coreOf s w).swapped.filter (fun u => u.id != q.id) ∧
      ∃ outs bindId waitFor, slotAt (restoreCtx s w q) w =
        { q.slot with swapReq := [], stalled := false, outs := outs, bindId := bindId, waitFor := waitFor } := by
  have hr : OnlyResults w s (readdressRing s w q.id) := readdressRing_onlyResults q.id hring
  unfold restoreCtx
  extract_lets s1 c1 own s2 cmds src s3 s4 c4 s5 s6
  have h5 : OnlyResults w s3 s5 := (claimBound_onlyResults s3 w _ _).trans (setCoreOf_onlyResults rfl)
  have h6 : OnlyResults w s3 (claimAll s5 w) := h5.trans (claimAll_onlyResults s5 w)
  have h3 : slotAt s3 w = _ := slotAt_setSlot ..
  obtain ⟨outs, hslot⟩ := h6.slot
  have hs6 : s6 = claimAll s5 w := recheckPark_ready (by rw [hslot, h3]; exact hst)
  have hheld : (q.slot.st != .ready && !q.slot.held.isEmpty && !q.slot.trap.inh) = false := by simp [hst]
  rw [hheld, if_neg Bool.false_ne_true, hs6]
  refine ⟨h6.mem.trans hr.mem, ?_, outs, _, _, by rw [hslot, h3]⟩
  rw [h6.swapped, ← hr.swapped]
  exact congrArg Core.swapped (coreOf_setCoreOf s1 w _)

end

/-- A slot that is picked is one of the core's. -/
theorem anyFree_core {s : State} {c : CoreRef} {w : SlotRef} (h : anyFree s c = some w) : ∃ k, w = slotOf c k := by
  have hmem : w ∈ slotsOf c := by
    unfold anyFree at h
    split at h
    · cases h
    · exact (List.mem_filter.mp (List.mem_of_getElem? h)).1
  simp only [slotsOf, List.mem_cons, List.not_mem_nil, or_false] at hmem
  rcases hmem with rfl | rfl | rfl | rfl <;> exact ⟨_, rfl⟩

theorem contextRestore_restores {s : State} {c : CoreRef} {q : Ctx} {w : SlotRef}
    (hq : (coreAt s c).swapped.find? (fun t => t.id = q.id) = some q) (hw : anyFree s c = some w) (hr : ctxReady s c q = true) :
    exec (.contextRestore c q.id) s = .next (restoreCtx s w q) := by
  show execContextRestore c q.id s = _
  rw [execContextRestore, hq, hw]
  dsimp only
  rw [if_pos hr]

/-! ### What installs and changes of leaves leave unchanged -/

/-- LDCs that take their values are results of the slots (R205). -/
theorem slotAt_fillSnaps (s : State) (w : SlotRef) : ∃ outs, slotAt (fillSnaps s) w = { slotAt s w with outs := outs } := by
  have gen : ∀ (g : Nat → Out → Out) (t : Tbl Slot), ∃ outs,
      tget (t.map fun q => (q.1, { q.2 with outs := q.2.outs.map (g q.1) })) Slot.reset (slotKey w) =
        { tget t Slot.reset (slotKey w) with outs := outs } := by
    intro g t
    induction t with
    | nil => exact ⟨_, rfl⟩
    | cons q r ih =>
      obtain ⟨k, x⟩ := q
      by_cases hk : k = slotKey w
      · simp only [List.map_cons, tget, if_pos hk]
        exact ⟨_, rfl⟩
      · simpa only [List.map_cons, tget, if_neg hk] using ih
  exact gen (fun k => fillSnap s (slotOf ⟨k / 4 / 512 / 16, k / 4 / 512 % 16, k / 4 % 512⟩ (k % 4))) s.slots

theorem numberPage_mods (s : State) (p : PageRef) (e : Word) : ∃ mods, numberPage s p e = { s with mods := mods } := by
  unfold numberPage
  dsimp only
  split <;> exact ⟨_, rfl⟩

/-- A number for a page is kept with its module. -/
theorem numberPages_mods (s : State) (p : PageRef) (e : Word) : ∃ mods, numberPages s p e = { s with mods := mods } := by
  unfold numberPages
  split
  · split
    · refine foldl_inv (P := fun t => ∃ mods, t = { s with mods := mods }) (fun t i ⟨m, ht⟩ => ?_) ⟨s.mods, rfl⟩
      obtain ⟨m', h'⟩ := numberPage_mods t { p with pn := p.pn + i } e
      exact ⟨m', by rw [h', ht]⟩
    · exact ⟨s.mods, rfl⟩
  · exact numberPage_mods s p e

/-- A page of which firmware holds nothing, and that was not resident, gives it nothing to keep. -/
theorem keepPage_nothing {s : State} {p : PageRef} {leaf : Word} (h : (pageAt s p).saved = none) : keepPage s p 0 leaf = s := by
  have h0 : leafV 0#64 = false := by decide
  simp [keepPage, h, h0]

/-! ### Installs (R196, R199) -/

section
variable {s : State} {p : PageRef} {leaf : Word} {a : Nat} (hw : walkPage s p.m p.tag (p.pn * 65536) = .absent a)
  (hasked : (pageAt s p).asked = true)
include hw hasked

/-- An answer to a request whose frame no other page has is installed. -/
theorem pageMadeResident_installs
    (hleaf : leaf = 0 ∨ (leafV leaf = true ∧ leafPs leaf = 0 ∧ leafOk (modAt s p.m) (p.pn * 65536) leaf = true))
    (hsaved : (pageAt s p).saved = none) (hframe : leaf ≠ 0 → leafLocal leaf = true → inFrame s p.m leaf = []) :
    Goes (exec (.pageMadeResident p leaf) s) (fun t => t.mem = memWrite s.mem a 8 leaf.toNat ∧
      (pageAt t p).asked = false ∧ (pageAt t p).noRoom = none ∧ ∀ w, ∃ outs, slotAt t w = { slotAt s w with outs := outs }) := by
  have hl : (leaf = 0 || (leafV leaf && leafPs leaf = 0 && leafOk (modAt s p.m) (p.pn * 65536) leaf)) = true := by
    rcases hleaf with h | ⟨hv, hps, hok⟩
    · simp [h]
    · simp [hv, hps, hok]
  have hheld : (if leaf != 0 && leafLocal leaf then inFrame s p.m leaf else []) = [] := by
    split
    · next h =>
      obtain ⟨h0, hloc⟩ := Bool.and_eq_true_iff.mp h
      exact hframe (bne_iff_ne.mp h0) hloc
    · rfl
  obtain ⟨mods, hnum⟩ := numberPages_mods s p leaf
  have hkeep : keepPage { s with mods := mods } p 0 leaf = { s with mods := mods } := keepPage_nothing hsaved
  have hgo : exec (.pageMadeResident p leaf) s = .next (fillSnaps (setPage { s with mods := mods, mem := memWrite s.mem a 8 leaf.toNat } p
      { pageAt s p with asked := false, tlb := false, noRoom := none })) := by
    show execPageMadeResident p leaf s = _
    unfold execPageMadeResident
    dsimp only
    rw [hw]
    dsimp only
    rw [hasked, hl, hheld]
    simp only [List.all_nil, List.foldl_nil, Bool.not_true, Bool.false_eq_true, if_false, if_true, hnum, hkeep]
    rfl
  refine ⟨_, hgo, rfl, congrArg Page.asked (pageAt_setPage ..), congrArg Page.noRoom (pageAt_setPage ..), slotAt_fillSnaps _⟩

/-- A frame of a page that is of another launch, pinned or needed is not taken (R199). -/
theorem pageMadeResident_frameKept (hv : leafV leaf = true) (hps : leafPs leaf = 0)
    (hok : leafOk (modAt s p.m) (p.pn * 65536) leaf = true) (hloc : leafLocal leaf = true)
    (hq : ∃ q ∈ inFrame s p.m leaf, q ∉ launchPages s p ∨ evictable s q = false ∨ q.1 ∈ neededPages s p) :
    exec (.pageMadeResident p leaf) s = .next s := by
  have h0 : leaf ≠ 0 := fun h => by simp [h, leafV] at hv
  have hkept : (inFrame s p.m leaf).all
      (fun q => (launchPages s p).contains q && evictable s q && !(neededPages s p).contains q.1) = false := by
    obtain ⟨q, hmem, hbar⟩ := hq
    refine List.all_eq_false.mpr ⟨q, hmem, fun hall => ?_⟩
    simp only [Bool.and_eq_true, Bool.not_eq_true', List.contains_eq_mem, decide_eq_true_eq, decide_eq_false_iff_not] at hall
    obtain ⟨⟨hin, hev⟩, hneed⟩ := hall
    rcases hbar with h | h | h
    · exact h hin
    · rw [hev] at h
      cases h
    · exact hneed h
  show execPageMadeResident p leaf s = _
  unfold execPageMadeResident
  dsimp only
  rw [hw]
  dsimp only
  simp only [hasked, hv, hps, hok, hloc, bne_iff_ne.mpr h0, hkept, Bool.not_true, Bool.false_eq_true, Bool.and_self,
    decide_true, Bool.or_true, if_false, if_true, Bool.not_false]

/-- The answer that no frame can be freed (R199). -/
theorem pageMadeResident_noFrame (h0 : leaf ≠ 0) (hv : leafV leaf = false) (hps : leafPs leaf = 0) (hno : noFrame s p = true) :
    exec (.pageMadeResident p leaf) s = .next (setPage s p { pageAt s p with asked := false, noRoom := some s.nextId }) := by
  show execPageMadeResident p leaf s = _
  unfold execPageMadeResident
  dsimp only
  rw [hw]
  have hn : ¬ leaf = 0#64 := h0
  simp [hasked, hn, hv, hps, hno]

end

/-- A word written is the word read. -/
theorem ofNat_memRead_write {mem : Memory} (a : Nat) (e : Word) (h : mem.wf = true) :
    BitVec.ofNat 64 (memRead (memWrite mem a 8 e.toNat) a 8) = e := by
  rw [memRead_write_same a 8 e.toNat h, show (256 : Nat) ^ 8 = 2 ^ 64 by norm_num, Nat.mod_eq_of_lt e.isLt, BitVec.ofNat_toNat,
    BitVec.setWidth_eq]

/-! ### Changes of page tables (R192) -/

section
variable {s : State} {p : PageRef} {level : Nat} {entry : Word} (hpres : (modAt s p.m).present = true)
include hpres

/-- A root changes after the recall of all lines under it. -/
theorem pageTableChange_root (hf : rangeFrozen s p (2 ^ 41) = false) :
    (p.tag = globalTag → Goes (exec (.pageTableChange p 4 entry) s) (fun t => (modAt t p.m).groot = entry.toNat)) ∧
      (p.tag < 65536 → Goes (exec (.pageTableChange p 4 entry) s) (fun t => tget (modAt t p.m).asidDir 0 p.tag = entry.toNat)) := by
  have hgo : exec (.pageTableChange p 4 entry) s =
      let t := recallRange s p (2 ^ 41)
      if p.tag = globalTag then .next (setMod t p.m { modAt t p.m with groot := entry.toNat })
      else if p.tag < 65536 then .next (setMod t p.m { modAt t p.m with asidDir := tput (modAt t p.m).asidDir p.tag entry.toNat })
      else .next t := by
    show execPageTableChange p 4 entry s = _
    unfold execPageTableChange
    simp only [hpres, hf, Bool.not_true, Bool.false_eq_true, if_false, le_refl, if_true]
  constructor
  · intro htag
    exact ⟨_, hgo.trans (if_pos htag), congrArg Mod.groot (modAt_setMod ..)⟩
  · intro htag
    have hne : p.tag ≠ globalTag := fun h => absurd (h ▸ htag) (by decide)
    exact ⟨_, hgo.trans ((if_neg hne).trans (if_pos htag)),
      (congrArg (fun y => tget (Mod.asidDir y) 0 p.tag) (modAt_setMod ..)).trans (tget_tput_same ..)⟩

variable {a : Nat} (hm : MemOk s) (ha : entryAt s p level = some a)
include hm ha

/-- A pointer entry changes after the recall of all lines under it. -/
theorem pageTableChange_pointer (h1 : 1 ≤ level) (h3 : level ≤ 3) (hf : rangeFrozen s p (2 ^ (13 * level)) = false) :
    Goes (exec (.pageTableChange p level entry) s) (fun t => BitVec.ofNat 64 (memRead t.mem a 8) = entry) := by
  have h4 : ¬ 4 ≤ level := by omega
  have h0 : level ≠ 0 := by omega
  have hgo : exec (.pageTableChange p level entry) s =
      .next { recallRange s p (2 ^ (13 * level)) with mem := memWrite (recallRange s p (2 ^ (13 * level))).mem a 8 entry.toNat } := by
    show execPageTableChange p level entry s = _
    unfold execPageTableChange
    simp [hpres, h4, ha, h0, hf, entryPages]
  exact ⟨_, hgo, ofNat_memRead_write _ _ (recallRange_memOk hm)⟩

/-- A leaf changes after the recall of the lines of its pages. -/
theorem pageTableChange_leaf (h0 : level = 0)
    (hf : rangeFrozen s p (entryPages 0 (BitVec.ofNat 64 (memRead s.mem a 8)) entry) = false)
    (hb : changeBarred s p (BitVec.ofNat 64 (memRead s.mem a 8)) entry = false) :
    Goes (exec (.pageTableChange p level entry) s) (fun t => BitVec.ofNat 64 (memRead t.mem a 8) = entry) := by
  subst h0
  let old : Word := BitVec.ofNat 64 (memRead s.mem a 8)
  let kept := keepPage (recallRange s p (entryPages 0 old entry)) p old entry
  have hgo : exec (.pageTableChange p 0 entry) s =
      .next (fillSnaps (numberPages { kept with mem := memWrite kept.mem a 8 entry.toNat } p entry)) := by
    show execPageTableChange p 0 entry s = _
    unfold execPageTableChange
    simp [hpres, ha, hf, hb, kept, old]
  refine ⟨_, hgo, ?_⟩
  show BitVec.ofNat 64 (memRead (numberPages _ p entry).mem a 8) = entry
  rw [numberPages_mem]
  exact ofNat_memRead_write _ _ (keepPage_memOk (recallRange_memOk hm))

end

/-! ### Frames of the near tier (R356) -/

section
variable {x : Mod} {used : List Nat} {k f : Nat}

/-- A run of one frame is a free frame of its zone. -/
theorem freeRun_one {z : Zone} (h : freeRun x used 1 k z = some f) : frameFree x used f = true ∧ z.1 ≤ f ∧ f < z.1 + z.2 := by
  have hmem := List.mem_of_find?_eq_some h
  have hfree := List.find?_some h
  obtain ⟨i, hi, rfl⟩ := List.mem_map.mp hmem
  have hlt : (k + i) % z.2 < z.2 := Nat.mod_lt _ (by have := List.mem_range.mp hi; omega)
  refine ⟨by simpa using hfree, ?_⟩
  simp only [Nat.div_one, Nat.mul_one]
  omega

/-- The frame picked among equally good zones is free and of one of them. -/
theorem freeIn_one {g : List Zone} (h : freeIn x used 1 k g = some f) :
    frameFree x used f = true ∧ ∃ z ∈ g, z.1 ≤ f ∧ f < z.1 + z.2 := by
  obtain ⟨z, hz, hrun⟩ := List.exists_of_findSome?_eq_some h
  obtain ⟨hfree, hin⟩ := freeRun_one hrun
  refine ⟨hfree, z, ?_, hin⟩
  rcases List.mem_append.mp hz with hz | hz
  · exact List.mem_of_mem_drop hz
  · exact List.mem_of_mem_take hz

theorem stack_of_mem_zone (h : (stackZone k).1 ≤ f ∧ f < (stackZone k).1 + (stackZone k).2) : f / 2 ^ 20 = k := by
  simp only [stackZone] at h
  omega

/-- A fold of `max` is at least every value that it passes, and where it starts. -/
theorem le_foldl_max {α : Type} (v : α → Nat) (l : List α) (b : Nat) :
    b ≤ l.foldl (fun b k => max b (v k)) b ∧ ∀ j ∈ l, v j ≤ l.foldl (fun b k => max b (v k)) b := by
  induction l generalizing b with
  | nil => exact ⟨le_rfl, nofun⟩
  | cons a l ih =>
    obtain ⟨hb, hl⟩ := ih (max b (v a))
    exact ⟨(le_max_left ..).trans hb, List.forall_mem_cons.mpr ⟨(le_max_right ..).trans hb, hl⟩⟩

end

/-- A frame picked in the near tier is free, and in the home's stacks or in a stack with most free frames (R356). -/
theorem pickFrame_near {s : State} {m slice n : Nat} (h : pickFrame s m .near slice = some n) :
    frameFree (modAt s m) (usedFrames s m) n = true ∧
      (n / 2 ^ 20 = 2 * slice ∨ n / 2 ^ 20 = 2 * slice + 1 ∨
        ∀ j, j < 24 → stackFree (modAt s m) (usedFrames s m) j ≤ stackFree (modAt s m) (usedFrames s m) (n / 2 ^ 20)) := by
  obtain ⟨g, hg, hin⟩ := List.exists_of_findSome?_eq_some h
  obtain ⟨hfree, z, hz, hzone⟩ := freeIn_one hin
  refine ⟨hfree, ?_⟩
  rcases List.mem_cons.mp hg with rfl | hg
  · simp only [List.mem_cons, List.not_mem_nil, or_false] at hz
    rcases hz with rfl | rfl
    · exact .inl (stack_of_mem_zone hzone)
    · exact .inr (.inl (stack_of_mem_zone hzone))
  · obtain rfl := List.mem_singleton.mp hg
    obtain ⟨k, hk, rfl⟩ := List.mem_map.mp hz
    obtain ⟨-, hmost⟩ := List.mem_filter.mp hk
    refine .inr (.inr fun j hj => ?_)
    rw [stack_of_mem_zone hzone, of_decide_eq_true hmost]
    exact (le_foldl_max _ _ 0).2 j (List.mem_range.mpr hj)

/-! ### Threshold migration (R355) -/

/-- The leaf of a moved page names its new frame and has D set (R204). -/
theorem movedLeaf_bits (e : Word) (f : Nat) :
    leafFrame (leafWithFrame e f ||| BitVec.ofNat 64 bitD) = f % 2 ^ 36 ∧
      (leafWithFrame e f ||| BitVec.ofNat 64 bitD).getLsbD 4 = true := by
  constructor
  · have hlow : (0xFFFFFFF#64).extractLsb' 28 36 = 0#36 := by decide
    have hd : (BitVec.ofNat 64 bitD).extractLsb' 28 36 = 0#36 := by decide
    have hshift : (BitVec.ofNat 64 f <<< 28).extractLsb' 28 36 = BitVec.ofNat 36 f := by
      apply BitVec.eq_of_toNat_eq
      simp only [BitVec.extractLsb'_toNat, BitVec.toNat_shiftLeft, BitVec.toNat_ofNat, Nat.shiftLeft_eq, Nat.shiftRight_eq_div_pow]
      omega
    rw [leafFrame, leafWithFrame, BitVec.extractLsb'_or, BitVec.extractLsb'_or, BitVec.extractLsb'_and, hlow, hd, hshift]
    simp
  · have hd : (BitVec.ofNat 64 bitD).getLsbD 4 = true := by decide
    rw [BitVec.getLsbD_or, hd, Bool.or_true]

/-- An installed leaf stands in its place, and the home's TLB has no entry of the page. -/
theorem installLeaf_leaves {s : State} (p : PageRef) (a : Nat) (e : Word) (h : MemOk s) :
    memRead (installLeaf s p a e).mem a 8 = e.toNat ∧ (pageAt (installLeaf s p a e) p).count = 0 ∧
      (pageAt (installLeaf s p a e) p).tlb = false := by
  refine ⟨?_, congrArg Page.count (pageAt_setPage ..), congrArg Page.tlb (pageAt_setPage ..)⟩
  exact (memRead_write_same a 8 e.toNat (recallPage_memOk h)).trans (Nat.mod_eq_of_lt e.isLt)

theorem movePage_leaves {s : State} (p : PageRef) (a src f : Nat) (h : MemOk s) :
    (pageAt (movePage s p a src f) p).count = 0 ∧ (pageAt (movePage s p a src f) p).tlb = false ∧
      ∃ e : Word, leafFrame e = f % 2 ^ 36 ∧ e.getLsbD 4 = true ∧ memRead (movePage s p a src f).mem a 8 = e.toNat := by
  obtain ⟨hmem, hcount, htlb⟩ := installLeaf_leaves p a _ (copyFrame_memOk (recallPage_memOk h))
  obtain ⟨hframe, hd⟩ := movedLeaf_bits _ f
  exact ⟨hcount, htlb, _, hframe, hd, hmem⟩

section
variable {s : State} {p : PageRef} {e : Word} {a : Nat} (hw : walkPage s p.m p.tag (p.pn * 65536) = .leaf e a)
  (hmode : leafMode e = 3) (hmay : mayMove s p e = true) (htier : tierOf (modAt s p.m) (leafFrame e * 65536) ≠ some .near)
  (hheld : pageHeld s p false = false)
  (hstop : tierStopped (modAt s p.m) p.tag (p.pn * 65536) (leafPa e (p.pn * 65536)) = false) (hstuck : pageStuck s p = false)
include hw hmode hmay htier hheld hstop hstuck

/-- Nothing holds back a page that may move to the near tier but the want of a frame. -/
theorem migratePage_near : migratePage s p .near =
    match pickFrame s p.m .near (liveSlice (modAt s p.m) (homeOf (modAt s p.m) p.tag (p.pn * 65536)).1) with
    | some f => .moved (movePage s p a (physFlat p.m (leafPa e (p.pn * 65536))) f)
    | none => .skip := by
  have hloc : leafLocal e = true := by simp [leafLocal, hmode]
  have hsrc : pageSource s p e a false = .hostMem (physFlat p.m (leafPa e (p.pn * 65536))) a := by
    simp [pageSource, hheld, hloc, hstop]
  unfold migratePage
  dsimp only
  rw [hw]
  dsimp only
  rw [hsrc]
  simp only [hmay, hloc, htier, hstuck, Bool.not_true, decide_false, Bool.and_false, Bool.or_self, Bool.false_eq_true, if_false]
  cases pickFrame s p.m .near (liveSlice (modAt s p.m) (homeOf (modAt s p.m) p.tag (p.pn * 65536)).1) <;> rfl

variable (htlb : (pageAt s p).tlb = true) (hcount : 2 ^ (leafThresh e + 4) ≤ (pageAt s p).count)
  (hfar : 0x18000000000 ≤ leafFrame e * 65536) (hpois : pagePoisoned s p.m e = false)
  (hlost : lostPa (modAt s p.m) (leafFrame e * 65536) = false)
include htlb hcount hfar hpois hlost

/-- A page that has reached its threshold moves where a frame is found, and else has its count cleared. -/
theorem thresholdMigration_moves : exec (.thresholdMigration p) s =
    match pickFrame s p.m .near (liveSlice (modAt s p.m) (homeOf (modAt s p.m) p.tag (p.pn * 65536)).1) with
    | some f => .next (movePage s p a (physFlat p.m (leafPa e (p.pn * 65536))) f)
    | none => .next (setPage s p { pageAt s p with count := 0 }) := by
  have hc : ¬ (pageAt s p).count < 2 ^ (leafThresh e + 4) := not_lt.mpr hcount
  have hn : ¬ leafFrame e * 65536 < 0x18000000000 := not_lt.mpr hfar
  show execThresholdMigration p s = _
  unfold execThresholdMigration
  rw [hw]
  dsimp only
  rw [migratePage_near hw hmode hmay htier hheld hstop hstuck]
  simp only [hmode, htlb, hc, hn, hmay, hpois, hlost, bne_self_eq_false, Bool.not_true, decide_false, Bool.or_self, Bool.false_eq_true,
    if_false]
  cases pickFrame s p.m .near (liveSlice (modAt s p.m) (homeOf (modAt s p.m) p.tag (p.pn * 65536)).1) <;> rfl

end

end Sys2Proof.Machine

namespace Sys2Proof

open Sys2Proof.Machine

/-- Settles O38: a context by the slot that it leaves and the one that it comes back into; an entry by the write that follows the
recall; a move by the frame that is picked. -/
theorem contextsAndPages : Obligations.ContextsAndPages := by
  refine ⟨fun s w => contextSwapOut_saves, fun s c q w hq hw hr hst hring => ?_, fun s p leaf a hw hasked => ?_,
    fun s p level entry hpres => ?_, ?_⟩
  · obtain ⟨k, rfl⟩ := anyFree_core hw
    obtain ⟨hmem, hswap, outs, bindId, waitFor, hslot⟩ := restoreCtx_ready (w := slotOf c k) hst hring
    refine ⟨_, contextRestore_restores hq hw hr, ?_⟩
    dsimp only
    rw [hslot]
    exact ⟨hmem, hst, rfl, rfl, rfl, rfl, rfl, rfl, rfl, rfl, rfl, rfl, hswap⟩
  · exact ⟨pageMadeResident_installs hw hasked, pageMadeResident_frameKept hw hasked, pageMadeResident_noFrame hw hasked⟩
  · refine ⟨fun hl hf => ?_, fun hl hf => ?_, fun hm h1 h3 hf a ha => pageTableChange_pointer hpres hm ha h1 h3 hf,
      fun hm h0 a ha hf hb => pageTableChange_leaf hpres hm (h0 ▸ ha) h0 hf hb⟩
    · subst hl
      exact (pageTableChange_root hpres hf).1
    · subst hl
      exact (pageTableChange_root hpres hf).2
  · intro s p e a hm hw hmode htlb hcount hfar hmay hpois hlost htier hheld hstop hstuck
    have hgo := thresholdMigration_moves hw hmode hmay htier hheld hstop hstuck htlb hcount hfar hpois hlost
    refine ⟨fun hf => ?_, fun n hf => ?_⟩
    · rw [hgo, hf]
    · obtain ⟨hfree, hstack⟩ := pickFrame_near hf
      exact ⟨hfree, hstack, _, by rw [hgo, hf], movePage_leaves p a _ n hm⟩

end Sys2Proof
end

section
/-!
PROOFS. Memory instructions that wait (O22; R208, R223): while an LDA of the slot is outstanding, and while the buffer that a store
enters is full.
-/

namespace Sys2Proof.Machine

/-! ### Behind an outstanding LDA (R223) -/

section
variable {s : State} {f : MForm} {n : Nat} (hl : ldaOut (curSlot s) = true)
include hl

theorem loadBody_stall {check : BitVec 16 → Word → Nat → Option Cause} {kind : OutKind} {d : Dst} {fin : Nat → VWord} :
    loadBody check f n kind d fin s = .stall s := if_pos hl

theorem ldcBody_stall : ldcBody f s = .stall s := if_pos hl

theorem storeBody_stall {check : BitVec 16 → Word → Nat → Option Cause} {data : Slot → Nat} {rel : Option Nat} :
    storeBody check f n data rel s = .stall s := if_pos hl

theorem atomicBody_stall {kind : Slot → OutKind} {d : Dst} : atomicBody f n kind d s = .stall s := if_pos hl

theorem pinBody_stall : pinBody f s = .stall s := if_pos hl

theorem unpinBody_stall : unpinBody f s = .stall s := if_pos hl

theorem flushBody_stall : flushBody f s = .stall s := if_pos hl

end

/-! ### Before a full buffer (R208) -/

section
variable {s : State} {rel : Option Nat} {flush : Option Bool}

/-- The buffer that an access at `va` enters has no room. -/
def BufferFull (s : State) (va : Word) : Prop :=
  if isNear s (whoOf s s.cur) va then 16 ≤ (coreOf s s.cur).sbuf.length else 16 ≤ (coreOf s s.cur).fq.length

/-- A single unit enters the buffer of its own place and leaves the other alone. -/
theorem bufferBoth_one (u : AccUnit) :
    bufferBoth s [u] rel flush = bufferStore s (isNear s (whoOf s s.cur) u.va) s.nextId [u] rel flush := by
  unfold bufferBoth
  dsimp only
  rw [List.partition_eq_filter_filter]
  cases h : isNear s (whoOf s s.cur) u.va with
  | true =>
    have hu : unitNear s s.cur u = true := h
    simp only [List.filter, Function.comp, hu, Bool.not_true]
    exact Option.bind_fun_some _
  | false =>
    have hu : unitNear s s.cur u = false := h
    simp only [List.filter, Function.comp, hu, Bool.not_false]
    rfl

theorem bufferBoth_full {u : AccUnit} (h : BufferFull s u.va) : bufferBoth s [u] rel flush = none := by
  rw [bufferBoth_one]
  unfold BufferFull at h
  cases hn : isNear s (whoOf s s.cur) u.va with
  | true =>
    rw [if_pos hn] at h
    exact if_pos h
  | false =>
    rw [hn] at h
    exact if_pos h

/-- A store whose checks pass waits while its buffer is full. -/
theorem storeBody_full {check : BitVec 16 → Word → Nat → Option Cause} {f : MForm} {n : Nat} {data : Slot → Nat}
    (hl : ldaOut (curSlot s) = false) (hfull : BufferFull s (eaOf (curSlot s) f))
    (hk : confine s.cur (curSlot s) [(eaOf (curSlot s) f, n)] = none)
    (hc : check (coreOf s s.cur).ident.asid (eaOf (curSlot s) f) n = none) : storeBody check f n data rel s = .stall s := by
  unfold storeBody oneUnit
  dsimp only
  rw [hl, hc, hk, bufferBoth_full hfull]
  rfl

end

end Sys2Proof.Machine

namespace Sys2Proof

open Sys2Proof.Machine

/-- Settles O22: each instruction's body stalls before its address checks while an LDA is outstanding, and a store's after them while
its one unit finds its buffer full. -/
theorem memoryInstructionsWait : Obligations.MemoryInstructionsWait := by
  intro s g f
  refine ⟨fun hl => ⟨fun h => ⟨?_, ?_⟩, fun h => ?_, fun h => ⟨?_, ?_⟩, fun h => ⟨?_, ?_⟩, fun h => ⟨?_, ?_⟩, fun h => ?_⟩,
    fun hl hfull h hk => ⟨fun hc => ?_, fun hc => ?_⟩⟩
  · exact issue_stall h (loadBody_stall hl)
  · exact issue_stall h (loadBody_stall hl)
  · exact issue_stall h (ldcBody_stall hl)
  · exact issue_stall h (storeBody_stall hl)
  · exact issue_stall h (storeBody_stall hl)
  · exact issue_stall h (atomicBody_stall hl)
  · exact issue_stall h (atomicBody_stall hl)
  · exact issue_stall (accs := fun _ => []) h (pinBody_stall hl)
  · exact issue_stall (accs := fun _ => []) h (unpinBody_stall hl)
  · exact issue_stall (accs := fun _ => []) h (flushBody_stall hl)
  · exact issue_stall h (storeBody_full hl hfull hk hc)
  · exact issue_stall h (storeBody_full hl hfull hk hc)

end Sys2Proof
end

section
/-!
PROOFS. Atomics (O24; R226-R229): an atomic whose checks pass leaves its one unit outstanding, and what it stores for the old value is
the sum, the logical combination, the lesser, the greater or the new value as patterns of its type.
-/

namespace Sys2Proof.Machine

/-! ### Issue -/

section
variable {s : State} {g : Guard} {uses : List Use} {body : State → Eff} {accs : State → List Acc} {k : OutKind}
  {us : List AccUnit} {d : Dst}

/-- An access adds one outstanding result, with the PC, the PKEY and the mode of its issue. -/
theorem sendAccess_eq_addOut (s : State) (k : OutKind) (us : List AccUnit) (d : Dst) :
    ∃ o : Out, o.kind = k ∧ o.dst = d ∧ o.units = us ∧ o.id = s.nextId ∧ o.pc = (curSlot s).pc ∧
      o.pkey = (curSlot s).csr.pkey ∧ o.supv = (curSlot s).supv ∧
      sendAccess s k us d = addOut { s with nextId := s.nextId + 1 } o :=
  ⟨_, rfl, rfl, rfl, rfl, rfl, rfl, rfl, rfl⟩

/-- An instruction whose effect is an access defers it. -/
theorem defers_of_sendAccess (h : Ready s g uses true (accs s)) (hb : body s = .done (sendAccess s k us d)) :
    Defers s g (issue g uses true body s accs) d k us (fun y => y = curSlot s) := by
  obtain ⟨o, hk, hd, hu, hid, hpc, hkey, hv, ho⟩ := sendAccess_eq_addOut s k us d
  refine ⟨curSlot s, o, rfl, hk, hd, hu, hid, hpc, hkey, hv, (issue_done h hb).trans ?_⟩
  have he : sendAccess s k us d = setSlot { s with nextId := s.nextId + 1 } s.cur
      { markDst (curSlot s) d with outs := (curSlot s).outs ++ [o] } := by rw [ho, ← hd]; rfl
  rw [he, setSlot_setSlot, slotAt_setSlot]

theorem atomicBody_sends {f : MForm} {n : Nat} {kind : Slot → OutKind} (hl : ldaOut (curSlot s) = false)
    (hc : checkEa (coreOf s s.cur).ident.asid (eaOf (curSlot s) f) n = none)
    (hk : confine s.cur (curSlot s) [(eaOf (curSlot s) f, n)] = none) :
    atomicBody f n kind d s = .done (sendAccess s (kind (curSlot s)) [⟨eaOf (curSlot s) f, n, 0, none⟩] d) := by
  unfold atomicBody
  dsimp only
  rw [hl, hc, hk]
  rfl

end

/-! ### What an atomic stores -/

/-- The low bits of a register, as an atomic takes them. -/
theorem mod_eq_setWidth (v : Word) (n : Nat) : v.toNat % 2 ^ n = (v.setWidth n).toNat := (BitVec.toNat_setWidth n v).symm

section
variable {t : Ty} {o w : BitVec (tyBits t)}

theorem intOf_toNat_signed (h : tySigned t = true) : intOf t o.toNat = o.toInt := by
  rw [intOf, if_pos h, sintOf_toNat]

theorem intOf_toNat_unsigned (h : tySigned t = false) : intOf t o.toNat = o.toNat := by
  rw [intOf, h, if_neg Bool.false_ne_true, Nat.mod_eq_of_lt o.isLt]

/-- MIN and MAX by a strict order of the patterns that agrees with their values; equal values are one pattern. -/
theorem amoNew_min_max {less : Bool} (hl : less = true ↔ intOf t o.toNat < intOf t w.toNat)
    (he : intOf t o.toNat = intOf t w.toNat → o = w) :
    amoNew 4 t o.toNat w.toNat = (if less then o else w).toNat ∧ amoNew 5 t o.toNat w.toNat = (if less then w else o).toNat := by
  show (if intOf t o.toNat ≤ intOf t w.toNat then o.toNat else w.toNat) = _ ∧
    (if intOf t o.toNat ≤ intOf t w.toNat then w.toNat else o.toNat) = _
  by_cases hlt : intOf t o.toNat < intOf t w.toNat
  · rw [hl.mpr hlt, if_pos hlt.le, if_pos hlt.le]
    exact ⟨rfl, rfl⟩
  · rw [Bool.eq_false_iff.mpr (mt hl.mp hlt)]
    by_cases heq : intOf t o.toNat = intOf t w.toNat
    · obtain rfl := he heq
      exact ⟨ite_self _, ite_self _⟩
    · have hgt : ¬ intOf t o.toNat ≤ intOf t w.toNat := fun hle => hlt (lt_of_le_of_ne hle heq)
      rw [if_neg hgt, if_neg hgt]
      exact ⟨rfl, rfl⟩

theorem amoNew_signed (h : tySigned t = true) :
    amoNew 4 t o.toNat w.toNat = (if o.slt w then o else w).toNat ∧ amoNew 5 t o.toNat w.toNat = (if o.slt w then w else o).toNat :=
  amoNew_min_max (by rw [intOf_toNat_signed h, intOf_toNat_signed h, BitVec.slt_iff_toInt_lt])
    fun e => BitVec.eq_of_toInt_eq (by rwa [intOf_toNat_signed h, intOf_toNat_signed h] at e)

theorem amoNew_unsigned (h : tySigned t = false) :
    amoNew 4 t o.toNat w.toNat = (if o.ult w then o else w).toNat ∧ amoNew 5 t o.toNat w.toNat = (if o.ult w then w else o).toNat :=
  amoNew_min_max (by rw [intOf_toNat_unsigned h, intOf_toNat_unsigned h, BitVec.ult_iff_toNat_lt, Nat.cast_lt])
    fun e => BitVec.eq_of_toNat_eq (by rwa [intOf_toNat_unsigned h, intOf_toNat_unsigned h, Nat.cast_inj] at e)

end

/-- What an AMO stores for the old pattern `o`: what its operation gives on the patterns. -/
theorem amo_stores {t : Ty} {op : BitVec 3} {v : Word} {sc r : Nat} {o : BitVec (tyBits t)}
    (h : amoNew op.toNat t o.toNat (v.setWidth (tyBits t)).toNat = r) :
    ∃ f hostOk, atomicOf (.amo op t v sc) = some (f, tyBits t / 8, hostOk) ∧ f o.toNat = some r :=
  ⟨_, _, rfl, by rw [← h, ← mod_eq_setWidth]⟩

/-- The old value at a location, as a pattern. -/
theorem exists_pattern {n old : Nat} (h : old < 2 ^ n) : ∃ o : BitVec n, old = o.toNat :=
  ⟨BitVec.ofNat n old, (Nat.mod_eq_of_lt h).symm⟩

/-! ### What an atomic answers -/

section
variable {x : Slot} {o : Out} {u : AccUnit} {b : BitVec 128} {t : Ty} (hu : o.units = [u]) (hb : u.val = some b)
include hu hb

theorem outValue_atomic (hk : (∃ op v sc, o.kind = .amo op t v sc) ∨ ∃ c v sc, o.kind = .cas t c v sc) :
    outValue x o = some ((extendTo t b.toNat).setWidth 512) := by
  rcases hk with ⟨op, v, sc, hk⟩ | ⟨c, v, sc, hk⟩
  · simp [outValue, loadVal, hu, hb, hk]
  · simp [outValue, loadVal, hu, hb, hk]

theorem outValue_cas2 {c v : BitVec 128} {sc : Nat} (hk : o.kind = .cas2 c v sc) : outValue x o = some (b.setWidth 512) := by
  simp [outValue, hu, hb, hk]

end

end Sys2Proof.Machine

namespace Sys2Proof

open Sys2Proof.Machine

/-- Settles O24: the checks of each atomic pass, so that it sends its access; what it stores and answers by the operation on patterns. -/
theorem atomicResults : Obligations.AtomicResults := by
  refine ⟨fun s g f hl => ⟨fun h hc hk => ⟨?_, ?_⟩, fun h hc hk => ?_⟩, fun t v sc old _ ho => ?_, fun x o u b t hu hb => ⟨?_, ?_⟩,
    fun t c new sc old _ ho => ?_, fun c new sc old ho => ?_⟩
  · exact defers_of_sendAccess h (atomicBody_sends hl hc hk)
  · exact defers_of_sendAccess h (atomicBody_sends hl hc hk)
  · exact defers_of_sendAccess h (atomicBody_sends hl hc hk)
  · obtain ⟨o, rfl⟩ := exists_pattern ho
    dsimp only
    rw [BitVec.ofNat_toNat, BitVec.setWidth_eq]
    exact ⟨amo_stores (BitVec.toNat_add ..).symm, amo_stores (BitVec.toNat_and ..).symm, amo_stores (BitVec.toNat_or ..).symm,
      amo_stores (BitVec.toNat_xor ..).symm,
      fun hs => ⟨amo_stores (amoNew_signed hs).1, amo_stores (amoNew_signed hs).2⟩,
      fun hz => have hs : tySigned t = false := by rcases hz with rfl | rfl <;> rfl
        ⟨amo_stores (amoNew_unsigned hs).1, amo_stores (amoNew_unsigned hs).2⟩,
      amo_stores rfl, fun _ => amo_stores rfl⟩
  · exact fun hk => ⟨extendTo t b.toNat, patResult_extendTo t _ _ rfl, outValue_atomic hu hb hk⟩
  · exact fun c v sc hk => outValue_cas2 hu hb hk
  · obtain ⟨o, rfl⟩ := exists_pattern ho
    rw [BitVec.ofNat_toNat, BitVec.setWidth_eq]
    refine ⟨_, _, rfl, ?_⟩
    simp only [mod_eq_setWidth, BitVec.toNat_inj]
  · obtain ⟨o, rfl⟩ := exists_pattern ho
    rw [BitVec.ofNat_toNat, BitVec.setWidth_eq]
    refine ⟨_, rfl, ?_⟩
    simp only [BitVec.toNat_inj]

end Sys2Proof
end

section
/-!
PROOFS. FENCE, PREF, PIN and UNPIN (O25; R199, R200, R225, R231, R233, R234): what FENCE's test says, what PREF may touch, and each
answer of PIN and UNPIN from what its page's walk finds.
-/

namespace Sys2Proof.Machine

/-! ### FENCE -/

/-- A scope other than the core holds the core's neighbour in its hamlet. -/
theorem beyondCore_iff (w : SlotRef) (scope : Nat) : beyondCore w scope = true ↔ scope ≠ 0 := by
  have hc : w.c / 8 * 8 + (w.c + 1) % 8 ≠ w.c := by omega
  have hd : (w.c / 8 * 8 + (w.c + 1) % 8) / 8 = w.c / 8 := by omega
  match scope with
  | 0 => simp [beyondCore, inScope, coreRefOf, hc]
  | 1 => simp [beyondCore, inScope, coreRefOf, hd]
  | 2 => simp [beyondCore, inScope]
  | 3 => simp [beyondCore, inScope, coreRefOf]
  | k + 4 => simp [beyondCore, inScope]

/-- What FENCE waits for, store by store of the core's buffers. -/
theorem fenceMet_iff (s : State) (w : SlotRef) (scope : BitVec 3) :
    let stores := (coreOf s w).sbuf ++ (coreOf s w).fq
    fenceMet s w scope.toNat = true ↔ (∀ o ∈ (slotAt s w).outs, o.units = []) ∧ (∀ e ∈ stores, e.k = w.k → e.flush = none) ∧
      ownVeil s (coreRefOf w) w.k = false ∧
      (∀ e ∈ stores, e.k = w.k → e.rel.isSome = true → immature s w e = false) ∧
      (scope = 0 ∨ ((∀ e ∈ stores, e.k ≠ w.k) ∧ ∀ i ∈ (slotAt s w).obs, ∀ e ∈ stores, e.id ≠ i)) := by
  have houts : (!(slotAt s w).outs.any isAccess) = true ↔ ∀ o ∈ (slotAt s w).outs, o.units = [] := by
    simp [isAccess]
  have hflush : (!flushOut s w) = true ↔ ∀ e ∈ (coreOf s w).sbuf ++ (coreOf s w).fq, e.k = w.k → e.flush = none := by
    rw [Bool.not_eq_true', flushOut, List.any_eq_false]
    simp
  have hrel : (!((coreOf s w).sbuf ++ (coreOf s w).fq).any (fun e => e.k = w.k && e.rel.isSome && immature s w e)) = true ↔
      ∀ e ∈ (coreOf s w).sbuf ++ (coreOf s w).fq, e.k = w.k → e.rel.isSome = true → immature s w e = false := by
    rw [Bool.not_eq_true', List.any_eq_false]
    simp
  have hbeyond : (!beyondCore w scope.toNat) = true ↔ scope = 0 := by
    rw [Bool.not_eq_true', ← Bool.not_eq_true, beyondCore_iff, not_not, ← BitVec.toNat_inj]
    rfl
  have hown : (ownStores s w).isEmpty = true ↔ ∀ e ∈ (coreOf s w).sbuf ++ (coreOf s w).fq, e.k ≠ w.k := by
    rw [List.isEmpty_iff, ownStores, List.map_eq_nil_iff, List.filter_eq_nil_iff]
    simp
  have hobs : (slotAt s w).obs.all (fun i => !storePending s w i) = true ↔
      ∀ i ∈ (slotAt s w).obs, ∀ e ∈ (coreOf s w).sbuf ++ (coreOf s w).fq, e.id ≠ i := by
    rw [List.all_eq_true]
    refine forall₂_congr fun i _ => ?_
    rw [Bool.not_eq_true', storePending, List.any_eq_false]
    simp
  intro stores
  unfold fenceMet
  dsimp only
  rw [Bool.and_eq_true, Bool.and_eq_true, Bool.and_eq_true, Bool.and_eq_true, Bool.or_eq_true, Bool.and_eq_true, houts, hflush,
    hrel, hbeyond, hown, hobs, Bool.not_eq_true', and_assoc, and_assoc, and_assoc]

/-- What a FENCE does once it may issue. -/
def fenceBody (f : MForm) (s : State) : Eff := if fenceMet s s.cur f.scope.toNat then .done s else .stall s

theorem exec_fence (g : Guard) (f : MForm) (s : State) : exec (.fence g f) s = issue g [] false (fenceBody f) s := rfl

/-! ### PREF -/

/-- The two states differ at most in memory and page entries. -/
def OnlyTouched (s t : State) : Prop := t = { s with mem := t.mem, pages := t.pages }

theorem OnlyTouched.refl (s : State) : OnlyTouched s s := rfl

theorem OnlyTouched.trans {s t u : State} (h : OnlyTouched s t) (k : OnlyTouched t u) : OnlyTouched s u := by
  unfold OnlyTouched at *
  rw [k, h]

theorem touchPage_touched (s : State) (p : PageRef) (a : Nat) : OnlyTouched s (touchPage s p a) := by
  unfold touchPage
  dsimp only
  split <;> rfl

theorem missTouch_touched (s : State) (p : PageRef) (a : Nat) : OnlyTouched s (missTouch s p a) := by
  unfold missTouch
  split
  · exact touchPage_touched s p a
  · exact .refl s

theorem translate_touched (s : State) (w : Who) (va : Word) (l : LineRef) (a own : Nat) :
    OnlyTouched s (translate s w va l a own) := by
  have h := missTouch_touched s (pageOfLine l) a
  unfold translate
  dsimp only
  split
  · split
    · exact h.trans (missTouch_touched _ _ _)
    · exact h
  · exact h

/-- What asking a line's home for it changes: at most what its translation touches. -/
theorem askHome_cases (s : State) (w : Who) (va : Word) (l : LineRef) (a own : Nat) (unc write : Bool) :
    askHome s w va l a own unc write = s ∨ askHome s w va l a own unc write = translate s w va l a own := by
  unfold askHome
  split
  · exact .inl rfl
  · exact .inr rfl

/-- What a PREF of the current slot may change: nothing, or what the translation of the line that it finds touches, and the tokens of
that line. -/
def Prefetched (s : State) (ea : Word) (t : State) : Prop :=
  t.slots = s.slots ∧ t.cores = s.cores ∧ t.ecc = s.ecc ∧
    (t.mem = s.mem ∨ ∃ write fl l leaf at_ own unc, resolve s (whoOf s s.cur) ea write = .line fl l leaf at_ own unc ∧
      t.mem = (translate s (whoOf s s.cur) ea l at_ own).mem)

theorem prefetched_self (s : State) (ea : Word) : Prefetched s ea s := ⟨rfl, rfl, rfl, .inl rfl⟩

theorem prefetched_askHome {s : State} {ea : Word} {write unc ask : Bool} {fl at_ own : Nat} {l : LineRef} {leaf : Word}
    (h : resolve s (whoOf s s.cur) ea write = .line fl l leaf at_ own unc) :
    Prefetched s ea (askHome s (whoOf s s.cur) ea l at_ own unc ask) := by
  rcases askHome_cases s (whoOf s s.cur) ea l at_ own unc ask with e | e
  · rw [e]
    exact prefetched_self s ea
  · have ht := translate_touched s (whoOf s s.cur) ea l at_ own
    rw [e]
    exact ⟨by rw [ht], by rw [ht], by rw [ht], .inr ⟨_, _, _, _, _, _, _, h, rfl⟩⟩

theorem prefBody_prefetches (f : MForm) (s : State) : ∃ t, prefBody f s = .done t ∧ Prefetched s (eaOf (curSlot s) f) t := by
  unfold prefBody
  extract_lets w who ea wi lvl
  split
  · split
    · next hr =>
      dsimp only
      split
      · exact ⟨s, rfl, prefetched_self _ _⟩
      · split
        · exact ⟨_, rfl, prefetched_askHome hr⟩
        · exact ⟨_, rfl, prefetched_askHome hr⟩
    · exact ⟨s, rfl, prefetched_self _ _⟩
  · exact ⟨s, rfl, prefetched_self _ _⟩

/-! ### What PIN and UNPIN answer -/

section
variable {s : State} {f : MForm} {tag va : Nat} (hl : ldaOut (curSlot s) = false)
include hl

theorem pinBody_elsewhere (hc : checkEa (coreOf s s.cur).ident.asid (eaOf (curSlot s) f) 1 = none)
    (hp : ∀ tag a, placeOf (coreOf s s.cur).ident.asid (eaOf (curSlot s) f) ≠ .page tag a) :
    pinBody f s = .done (withCur s (fun x => sPut x f.d 2)) := by
  unfold pinBody
  dsimp only
  rw [hl, hc]
  cases h : placeOf (coreOf s s.cur).ident.asid (eaOf (curSlot s) f) with
  | page tag a => exact absurd h (hp tag a)
  | bad => rfl
  | lcl a => rfl
  | core d c off => rfl

theorem unpinBody_elsewhere (hc : checkEa (coreOf s s.cur).ident.asid (eaOf (curSlot s) f) 1 = none)
    (hp : ∀ tag a, placeOf (coreOf s s.cur).ident.asid (eaOf (curSlot s) f) ≠ .page tag a) :
    unpinBody f s = .done (withCur s (fun x => sPut x f.d 1)) := by
  unfold unpinBody
  dsimp only
  rw [hl]
  cases h : placeOf (coreOf s s.cur).ident.asid (eaOf (curSlot s) f) with
  | page tag a => exact absurd h (hp tag a)
  | bad => simp [checkEa, h] at hc
  | lcl a => rfl
  | core d c off => rfl

section
variable (hp : placeOf (coreOf s s.cur).ident.asid (eaOf (curSlot s) f) = .page tag va)
include hp

omit hl in
/-- The address of a page passes the checks of a byte. -/
theorem checkEa_page : checkEa (coreOf s s.cur).ident.asid (eaOf (curSlot s) f) 1 = none := by
  simp [checkEa, hp, Nat.mod_one]

theorem pinBody_unmapped (hw : walkPage s s.cur.m tag va = .unmapped) : pinBody f s = .fault .access (eaOf (curSlot s) f) := by
  unfold pinBody
  dsimp only
  rw [hl, checkEa_page hp, hp]
  dsimp only
  rw [hw]
  rfl

theorem pinBody_absent {a : Nat} (hw : walkPage s s.cur.m tag va = .absent a) :
    pinBody f s = if roomGone s s.cur (pageOf s.cur.m tag va) then
        .faultIn (withCur s (fun x => { x with waitFor := none })) .residency (eaOf (curSlot s) f) none
      else .stay (withCur (askFor s s.cur (pageOf s.cur.m tag va)) (fun x => { x with swapReq := pageOf s.cur.m tag va :: x.swapReq })) := by
  unfold pinBody
  dsimp only
  rw [hl, checkEa_page hp, hp]
  dsimp only
  rw [hw]
  rfl

section
variable {e : Word} {a : Nat} (hw : walkPage s s.cur.m tag va = .leaf e a)
include hw

theorem pinBody_held (hh : pageHeld s (pageOf s.cur.m tag va) false = true) : pinBody f s = .stall s := by
  unfold pinBody
  dsimp only
  rw [hl, checkEa_page hp, hp]
  dsimp only
  rw [hw]
  exact if_pos hh

variable (hh : pageHeld s (pageOf s.cur.m tag va) false = false)
include hh

theorem pinBody_refused (hk : keyRefuses (some (curSlot s).csr.pkey) tag e false = true) :
    pinBody f s = .faultIn (missTouch s (pageOf s.cur.m tag va) a) .access (eaOf (curSlot s) f) none := by
  unfold pinBody
  dsimp only
  rw [hl, checkEa_page hp, hp]
  dsimp only
  rw [hw]
  dsimp only
  rw [hh, hk]
  rfl

theorem pinBody_mapped (hk : keyRefuses (some (curSlot s).csr.pkey) tag e false = false) :
    let b := missTouch s (pageOf s.cur.m tag va) a
    let c := coreOf s s.cur
    pinBody f s = if leafMode e = 1 || leafMode e = 2 then .done (withCur b (fun x => sPut x f.d 2))
      else if leafPs e = 1 then .done (withCur b (fun x => sPut x f.d 0))
      else if 184 ≤ pinCount c then .done (withCur b (fun x => sPut x f.d 1))
      else .done (withCur (setCoreOf b s.cur { c with pins := addPin c.pins (pageOf s.cur.m tag va) 1 0 })
        (fun x => sPut x f.d 0)) := by
  unfold pinBody
  dsimp only
  rw [hl, checkEa_page hp, hp]
  dsimp only
  rw [hw]
  dsimp only
  rw [hh, hk]
  rfl

end

theorem unpinBody_page :
    let c := coreOf s s.cur
    unpinBody f s = if c.pins.any (fun q => q.page = pageOf s.cur.m tag va && q.prog != 0) then
        .done (withCur (setCoreOf s s.cur { c with pins := dropPin c.pins (pageOf s.cur.m tag va) 1 0 }) (fun x => sPut x f.d 0))
      else .done (withCur s (fun x => sPut x f.d 1)) := by
  unfold unpinBody
  dsimp only
  rw [hl, hp]
  rfl

end

end

/-! ### How they end -/

section
variable {s b : State} {g : Guard} {uses : List Use} {body : State → Eff} {accs : State → List Acc} {d : RegIx} {v : Word}

/-- An instruction that answers `v` in the machine as `b` left it. -/
theorem issue_answers (h : Ready s g uses false (accs s)) (hb : body s = .done (withCur b (fun x => sPut x d v)))
    (hs : b.slots = s.slots) (hc : b.cur = s.cur) :
    ∃ y, WritesS (curSlot s) y d v 0 ∧
      issue g uses false body s accs = .next (setSlot b s.cur (retired g (curSlot s).pc y)) := by
  have hx : slotAt b s.cur = curSlot s := by rw [slotAt, hs]; rfl
  exact ⟨_, writesS_sPut_quiet .., by rw [issue_doneWith h hb hc, hx]⟩

theorem runs_answers (h : Ready s g uses false (accs s)) (hb : body s = .done (withCur s (fun x => sPut x d v))) :
    Runs s g (issue g uses false body s accs) (fun y => WritesS (curSlot s) y d v 0) := by
  obtain ⟨y, hy, he⟩ := issue_answers h hb rfl rfl
  exact ⟨y, he, hy⟩

/-- An instruction that faults in the machine as `b` left it. -/
theorem issue_faultIn {c : Cause} {z : Option Slot} (h : Ready s g uses false (accs s)) (hb : body s = .faultIn b c v z) :
    issue g uses false body s accs = .next (raisePrecise b s.cur c v) := by
  rw [issue_ready _ _ _ _ _ _ h, hb]
  rfl

/-- An instruction that stays where it is, in the machine as `b` left it. -/
theorem issue_stay (h : Ready s g uses false (accs s)) (hb : body s = .stay b) : issue g uses false body s accs = .next b := by
  rw [issue_ready _ _ _ _ _ _ h, hb]
  rfl

end

/-- What a slot's request for a page leaves (R199): the page asked for, and the slot noting at most which request it waits for. -/
def Asked (s : State) (w : SlotRef) (p : PageRef) (t : State) : Prop :=
  (pageAt t p).asked = true ∧ t.mem = s.mem ∧ t.cur = s.cur ∧ ∃ r, slotAt t w = { slotAt s w with waitFor := r }

theorem asked_askPage (s : State) (w : SlotRef) (p : PageRef) :
    Asked s w p (setSlot (askPage (freshId s).2 p) w { slotAt s w with waitFor := some (p, (freshId s).1) }) := by
  refine ⟨?_, rfl, rfl, _, slotAt_setSlot ..⟩
  show (pageAt (askPage (freshId s).2 p) p).asked = true
  rw [askPage, pageAt_setPage]

theorem askFor_asked (s : State) (w : SlotRef) (p : PageRef) : Asked s w p (askFor s w p) := by
  unfold askFor
  extract_lets x i
  split
  · split
    · next hold =>
      obtain ⟨hqa, -⟩ := Bool.and_eq_true_iff.mp hold
      obtain ⟨-, ha⟩ := Bool.and_eq_true_iff.mp hqa
      exact ⟨ha, rfl, rfl, _, rfl⟩
    · exact asked_askPage s w p
  · exact asked_askPage s w p

end Sys2Proof.Machine

namespace Sys2Proof

open Sys2Proof.Machine

/-- Settles O25: FENCE by its test, PREF by what its body may touch, PIN and UNPIN by the page that their address names. -/
theorem fencePrefetchAndPinResults : Obligations.FencePrefetchAndPinResults := by
  refine ⟨fun s g f => ⟨fun h => ⟨fun hm => ?_, fun hm => ?_⟩, fun h => ?_⟩, fun s g f h hl => ⟨fun hp hc => ⟨?_, ?_⟩,
    fun tag va hp => ⟨fun hw => ?_, fun a hw => ⟨fun hr => ?_, fun hr => ?_⟩, fun e a hw => ?_, fun hq => ?_, fun hq => ?_⟩⟩⟩
  -- FENCE
  · rw [exec_fence]
    exact ⟨_, issue_done (accs := fun _ => []) h (if_pos ((fenceMet_iff s s.cur f.scope).mpr hm)), rfl⟩
  · rw [exec_fence]
    exact issue_stall (accs := fun _ => []) h (if_neg (mt (fenceMet_iff s s.cur f.scope).mp hm))
  -- PREF
  · obtain ⟨t, ht, hslots, hcores, hecc, hmem⟩ := prefBody_prefetches f s
    have hx : ∀ v, slotAt t v = slotAt s v := fun v => by rw [slotAt, hslots]; rfl
    refine ⟨_, issue_done (accs := fun _ => []) h ht, ?_, hcores, hecc, fun v hv => ?_, hmem⟩
    · rw [slotAt_setSlot, hx]
      rfl
    · rw [slotAt_setSlot_other _ _ _ _ hv, hx]
  -- PIN and UNPIN outside the pages
  · exact runs_answers (accs := fun _ => []) h (pinBody_elsewhere hl hc hp)
  · exact runs_answers (accs := fun _ => []) h (unpinBody_elsewhere hl hc hp)
  -- PIN of a page
  · exact issue_fault (accs := fun _ => []) h (pinBody_unmapped hl hp hw)
  · exact issue_faultIn (accs := fun _ => []) h ((pinBody_absent hl hp hw).trans (if_pos hr))
  · obtain ⟨ha, hmem, hcur, r, hx⟩ := askFor_asked s s.cur (pageOf s.cur.m tag va)
    refine ⟨_, issue_stay (accs := fun _ => []) h ((pinBody_absent hl hp hw).trans (if_neg (by simp [hr]))), ha, hmem, ?_⟩
    rw [withCur, hcur, slotAt_setSlot, hx]
    rfl
  · have hs := missTouch_touched s (pageOf s.cur.m tag va) a
    have hslots : (missTouch s (pageOf s.cur.m tag va) a).slots = s.slots := by rw [hs]
    have hcur : (missTouch s (pageOf s.cur.m tag va) a).cur = s.cur := by rw [hs]
    refine ⟨fun hh => ?_, fun hh hk => ?_, fun hh hk => ⟨fun hm => ?_, fun hm1 hm2 => ⟨fun hps => ?_, fun hps hn => ?_,
      fun hps hn => ?_⟩⟩⟩
    · exact issue_stall (accs := fun _ => []) h (pinBody_held hl hp hw hh)
    · rw [Faults, hcur]
      exact issue_faultIn (accs := fun _ => []) h (pinBody_refused hl hp hw hh hk)
    · refine issue_answers (accs := fun _ => []) h ((pinBody_mapped hl hp hw hh hk).trans (if_pos ?_)) hslots hcur
      simpa using hm
    all_goals have hb := (pinBody_mapped hl hp hw hh hk).trans (if_neg (by simp [hm1, hm2]))
    · exact issue_answers (accs := fun _ => []) h (hb.trans (if_pos hps)) hslots hcur
    · exact issue_answers (accs := fun _ => []) h (hb.trans ((if_neg hps).trans (if_pos hn))) hslots hcur
    · exact issue_answers (accs := fun _ => []) h (hb.trans ((if_neg hps).trans (if_neg (Nat.not_le.mpr hn)))) hslots hcur
  -- UNPIN of a page
  · refine issue_answers (accs := fun _ => []) h ((unpinBody_page hl hp).trans (if_pos ?_)) rfl rfl
    simpa [List.any_eq_true] using hq
  · refine runs_answers (accs := fun _ => []) h ((unpinBody_page hl hp).trans (if_neg ?_))
    simpa [List.any_eq_true] using hq

end Sys2Proof
end

section
/-!
PROOFS. Leases and rebuilt rows (O50; R235, R369-R373, R376, R378, R385): each lease event by what it makes of the lender's table, the
switch of a borrowed page by the write of its leaf, the rebuild of a lost block by what it leaves of its row, and the inverses of the
code's field.
-/

namespace Sys2Proof.Machine

/-! ### Tables of leases -/

/-- The lease found is the active one with the number. -/
theorem leaseAt_some {ls : List Lease} {id : Nat} {l : Lease} (h : leaseAt ls id = some l) : l.id = id ∧ l.revoked = false := by
  simpa using List.find?_some h

theorem leaseAt_eq_none_iff {ls : List Lease} {id : Nat} : leaseAt ls id = none ↔ ∀ l ∈ ls, l.id = id → l.revoked = true := by
  simp [leaseAt]

/-- A lease with the number that is active. -/
def activeAs (id : Nat) (l : Lease) : Bool := l.id = id && !l.revoked

theorem leaseAt_cons_active {id : Nat} {k : Lease} (ks : List Lease) (h : activeAs id k = true) : leaseAt (k :: ks) id = some k :=
  List.find?_cons_of_pos (p := activeAs id) h

theorem leaseAt_cons_other {id : Nat} {k : Lease} (ks : List Lease) (h : ¬ activeAs id k = true) :
    leaseAt (k :: ks) id = leaseAt ks id := List.find?_cons_of_neg (p := activeAs id) h

theorem onLease_cons (k : Lease) (ks : List Lease) (id : Nat) (f : Lease → Lease) :
    onLease (k :: ks) id f = (if activeAs id k then f k else k) :: onLease ks id f := rfl

/-- An update that leaves number and revocation alone is found in place. -/
theorem leaseAt_onLease {ls : List Lease} {id : Nat} {l : Lease} {f : Lease → Lease} (h : leaseAt ls id = some l)
    (hid : (f l).id = l.id) (hrev : (f l).revoked = l.revoked) : leaseAt (onLease ls id f) id = some (f l) := by
  induction ls with
  | nil => cases h
  | cons k ks ih =>
    rw [onLease_cons]
    by_cases hk : activeAs id k = true
    · rw [leaseAt_cons_active ks hk] at h
      obtain rfl := Option.some.inj h
      rw [if_pos hk]
      exact leaseAt_cons_active _ (by rwa [activeAs, hid, hrev])
    · rw [leaseAt_cons_other ks hk] at h
      rw [if_neg hk, leaseAt_cons_other _ hk]
      exact ih h

/-- Once it is marked revoked, no lease of the number is active. -/
theorem leaseAt_onLease_revoked (ls : List Lease) (id : Nat) {f : Lease → Lease} (hrev : ∀ l, (f l).revoked = true) :
    leaseAt (onLease ls id f) id = none := by
  refine leaseAt_eq_none_iff.mpr fun k hk hid => ?_
  obtain ⟨l, -, rfl⟩ := List.mem_map.mp hk
  split
  · exact hrev l
  · next hl =>
    rw [if_neg hl] at hid
    simpa [hid] using hl

theorem leaseAt_append_new {ls : List Lease} {l : Lease} (hold : leaseAt ls l.id = none) (hrev : l.revoked = false) :
    leaseAt (ls ++ [l]) l.id = some l := by
  rw [leaseAt, List.find?_append, show ls.find? (fun k => k.id = l.id && !k.revoked) = none from hold]
  simp [hrev]

/-! ### The lender's table and the borrower's -/

theorem modAt_of_mods {s t : State} (h : t.mods = s.mods) (m : Nat) : modAt t m = modAt s m := by rw [modAt, h]; rfl

theorem putLend_lend (s : State) (m id : Nat) (f : Lease → Lease) :
    (modAt (putLend s m id f) m).lend = onLease (modAt s m).lend id f := by rw [putLend, modAt_setMod]

/-- What a borrower keeps changes no lender's table. -/
theorem setBorrow_lend (s : State) (b m : Nat) (ls : List Lease) :
    (modAt (setMod s b { modAt s b with borrow := ls }) m).lend = (modAt s m).lend := by
  by_cases h : m = b
  · rw [h, modAt_setMod]
  · rw [modAt_setMod_other _ _ _ _ h]

theorem putBorrow_lend (s : State) (b lender id : Nat) (host : Bool) (f : Lease → Lease) (m : Nat) :
    (modAt (putBorrow s b lender id host f) m).lend = (modAt s m).lend := setBorrow_lend ..

@[simp] theorem putLend_cores (s : State) (m id : Nat) (f : Lease → Lease) : (putLend s m id f).cores = s.cores := rfl

@[simp] theorem putBorrow_cores (s : State) (b lender id : Nat) (host : Bool) (f : Lease → Lease) :
    (putBorrow s b lender id host f).cores = s.cores := rfl

/-! ### Grants (R369, R385) -/

section
variable {s : State} {m i : Nat} {e : LeaseArg}

/-- The lease that a grant makes of its entry. -/
def grantedLease (m i : Nat) (e : LeaseArg) : Lease :=
  ⟨i, e.id, m, if e.host then m else e.borrower, e.window, false, false, e.size, e.pbase, e.lva, e.expiry, 0, e.host, true, []⟩

/-- The leases of a table without the revoked one whose entry a grant takes. -/
def otherLeases (m i : Nat) (e : LeaseArg) (ls : List Lease) : List Lease :=
  ls.filter (fun k => !(k.ix = i && k.lender = m && k.host = e.host && k.revoked))

/-- The lender's side of a grant: the region erased, and the lease in its table. -/
def lendRegion (s : State) (m i : Nat) (e : LeaseArg) : State :=
  let t := zeroRegion s m e.pbase e.size
  setMod t m { modAt t m with lend := otherLeases m i e (modAt t m).lend ++ [grantedLease m i e] }

/-- The borrower's side of a grant. -/
def enterLease (s : State) (b m i : Nat) (e : LeaseArg) : State :=
  setMod s b { modAt s b with borrow := otherLeases m i e (modAt s b).borrow ++ [grantedLease m i e] }

theorem leaseGrant_refused (h : leaseLegal s m e = false ∨ entryUsed (modAt s m) i e.host = true) :
    exec (.leaseGrant m i e) s = .next s := by
  refine if_pos ?_
  rcases h with h | h
  · simp [h]
  · simp [h]

/-- A legal loan has another borrower, and a number that no active lease has. -/
theorem leaseLegal_lent (h : leaseLegal s m e = true) (hh : e.host = false) :
    m ≠ e.borrower ∧ leaseAt (modAt s m).lend e.id = none := by
  unfold leaseLegal at h
  extract_lets x n lent outward free at h
  rw [hh] at h
  simp only [Bool.and_eq_true, Bool.false_eq_true, if_false, bne_iff_ne, List.all_eq_true] at h
  obtain ⟨⟨-, hids⟩, ⟨⟨⟨⟨⟨-, hb⟩, -⟩, -⟩, -⟩, -⟩, -⟩ := h
  refine ⟨Ne.symm hb, leaseAt_eq_none_iff.mpr fun k hk hid => ?_⟩
  by_contra hrev
  exact hids k (List.mem_append_left _ (List.mem_filter.mpr ⟨hk, by simpa using hrev⟩)) hid

/-- A region reads as zero once it is erased. -/
theorem memRead_zeroRegion {pbase size a : Nat} (hlo : physFlat m pbase ≤ a) (hhi : a < physFlat m pbase + size * 2 ^ 30) :
    memRead (zeroRegion s m pbase size).mem a 1 = 0 := by
  have hout : memGet (zeroRegion s m pbase size).mem a = unlisted :=
    memGet_filter_out (fun _ => by simp only [Nat.div_one, hlo, hhi]; rfl) s.mem
  rw [memRead_one, hout]
  rfl

section
variable (hup : modUp s m = true) (hi : i < 256) (hused : entryUsed (modAt s m) i e.host = false) (hlegal : leaseLegal s m e = true)
include hup hi hused hlegal

theorem leaseGrant_enters : exec (.leaseGrant m i e) s =
    .next (enterLease (if e.host then s else lendRegion s m i e) (grantedLease m i e).borrower m i e) :=
  if_neg (by simp [hup, hi, hused, hlegal])

theorem leaseGrant_host (hh : e.host = true) : exec (.leaseGrant m i e) s = .next (enterLease s m m i e) := by
  rw [leaseGrant_enters hup hi hused hlegal, if_pos hh, show (grantedLease m i e).borrower = m from if_pos hh]

theorem leaseGrant_lends (hh : e.host = false) : Goes (exec (.leaseGrant m i e) s) (fun t =>
    leaseAt (modAt t m).lend e.id = some (grantedLease m i e) ∧
    (modAt t e.borrower).borrow = otherLeases m i e (modAt s e.borrower).borrow ++ [grantedLease m i e] ∧
    ∀ a, physFlat m e.pbase ≤ a → a < physFlat m e.pbase + e.size * 2 ^ 30 → memRead t.mem a 1 = 0) := by
  obtain ⟨hne, hfree⟩ := leaseLegal_lent hlegal hh
  have hh' : ¬ e.host = true := by simp [hh]
  have hold : leaseAt (otherLeases m i e (modAt s m).lend) e.id = none :=
    leaseAt_eq_none_iff.mpr fun k hk => leaseAt_eq_none_iff.mp hfree k (List.mem_of_mem_filter hk)
  refine ⟨_, leaseGrant_enters hup hi hused hlegal, ?_, ?_, fun a hlo hhi => ?_⟩
  · rw [enterLease, setBorrow_lend, if_neg hh', lendRegion, modAt_setMod]
    exact leaseAt_append_new (l := grantedLease m i e) hold rfl
  · rw [show (grantedLease m i e).borrower = e.borrower from if_neg hh', enterLease, modAt_setMod, if_neg hh', lendRegion,
      modAt_setMod_other _ _ _ _ hne.symm]
    rfl
  · rw [if_neg hh']
    exact memRead_zeroRegion hlo hhi

end

end

/-! ### Renewal, expiry and revocation (R370, R373) -/

section
variable {s : State} {m id : Nat} {l : Lease} (hl : leaseAt (modAt s m).lend id = some l)
include hl

theorem leaseRenewal_eq (x : Word) : exec (.leaseRenewal m id x) s =
    .next (if modUp s m && !l.reclaiming && decide (l.expiry < x) && decide (s.tick < l.expiry) then
      putBorrow (putLend s m id (fun k => { k with expiry := x })) l.borrower m id false (fun k => { k with expiry := x })
      else s) := by
  show execLeaseRenewal m id x s = _
  unfold execLeaseRenewal
  dsimp only
  rw [hl]

theorem renewed_lend (x : Word) (b : Nat) : leaseAt (modAt (putBorrow (putLend s m id (fun k => { k with expiry := x })) b m id false
    (fun k => { k with expiry := x })) m).lend id = some { l with expiry := x } := by
  rw [putBorrow_lend, putLend_lend]
  exact leaseAt_onLease hl rfl rfl

theorem sendReclaim_lend :
    leaseAt (modAt (sendReclaim s m l) m).lend id = some { l with reclaiming := true, t0 := s.tick.toNat } := by
  obtain ⟨rfl, -⟩ := leaseAt_some hl
  rw [sendReclaim, putBorrow_lend, putLend_lend]
  exact leaseAt_onLease hl rfl rfl

theorem leaseExpiry_lend (hup : modUp s m = true) (hw : l.window = false) : exec (.leaseExpiry m id) s =
    .next (if l.reclaiming || s.tick < l.expiry then s else sendReclaim s m l) := by
  show execLeaseExpiry m id s = _
  simp [execLeaseExpiry, hup, hl, hw, Option.filter]

theorem windowAt_lend (hw : l.window = true) : windowAt s m id = some l := by
  simp [windowAt, hl, hw, Option.filter]

theorem leaseExpiry_window (hup : modUp s m = true) (hw : l.window = true) (hx : l.expiry ≤ s.tick) :
    exec (.leaseExpiry m id) s = .next (revokeWindow s l 2) := by
  show execLeaseExpiry m id s = _
  simp [execLeaseExpiry, hup, hl, hw, Option.filter, windowAt_lend hl hw, BitVec.not_lt.mpr hx]

theorem windowRevocation_window (hup : modUp s m = true) (hw : l.window = true) :
    exec (.windowRevocation m id) s = .next (revokeWindow s l 2) := by
  show execWindowRevocation m id s = _
  simp [execWindowRevocation, windowAt_lend hl hw, hup]

end

theorem leaseEvents_cores (s : State) (b kind : Nat) (l : Lease) (tags : Tbl Moved) :
    (leaseEvents s b kind l tags).cores = s.cores := by
  unfold leaseEvents
  refine foldl_inv (P := fun t : State => t.cores = s.cores) (fun t q ht => ?_) rfl
  refine foldl_inv (P := fun t : State => t.cores = s.cores) (fun u r hu => ?_) ht
  split
  · exact hu
  · exact hu

/-- No core keeps a pin of a page whose pins are dropped. -/
theorem dropPins_pins {s : State} {ps : List PageRef} {q : PageRef} (hq : q ∈ ps) {c : Nat × Core} (hc : c ∈ (dropPins s ps).cores)
    {p : Pin} (hp : p ∈ c.2.pins) : p.page ≠ q := by
  rintro rfl
  have hne : ps.isEmpty = false := by
    cases ps with
    | nil => cases hq
    | cons => rfl
  unfold dropPins at hc
  dsimp only at hc
  rw [hne] at hc
  obtain ⟨d, -, rfl⟩ := List.mem_map.mp hc
  simpa [hq] using (List.mem_filter.mp hp).2

section
variable {s : State} {l : Lease} (hh : l.host = false) (kind : Nat)
include hh

/-- A revoked lease as the lender, the borrower and the launches come to know it. -/
theorem revokeWindow_eq : ∃ tags mark, (∀ k : Lease, (mark k).revoked = true) ∧ revokeWindow s l kind =
    leaseEvents (putBorrow (putLend (dropPins s ((leasePages s l.borrower l).map (·.1))) l.lender l.id mark) l.borrower l.lender l.id
      l.host mark) l.borrower kind l tags := by
  refine ⟨regionTags (leasePages s l.borrower l), fun k => { k with revoked := true }, fun _ => rfl, ?_⟩
  unfold revokeWindow
  dsimp only
  rw [hh]
  rfl

theorem revokeWindow_lend : leaseAt (modAt (revokeWindow s l kind) l.lender).lend l.id = none := by
  obtain ⟨tags, mark, hmark, he⟩ := revokeWindow_eq (s := s) hh kind
  rw [he, modAt_of_mods (leaseEvents_mods ..), putBorrow_lend, putLend_lend]
  exact leaseAt_onLease_revoked _ _ hmark

theorem revokeWindow_pins : ∀ c ∈ (revokeWindow s l kind).cores, ∀ p ∈ c.2.pins, ∀ q ∈ leasePages s l.borrower l, p.page ≠ q.1 := by
  obtain ⟨tags, mark, -, he⟩ := revokeWindow_eq (s := s) hh kind
  intro c hc p hp q hq
  rw [he, leaseEvents_cores, putBorrow_cores, putLend_cores] at hc
  exact dropPins_pins (List.mem_map_of_mem hq) hc hp

end

/-! ### States without lines -/

section
variable {s : State}

theorem recallLines_noLines (h : s.lines = []) (f : LineRef → Bool) : recallLines s f = s := by rw [recallLines, h]; rfl

theorem returnLines_noLines (h : s.lines = []) (m : Nat) (f : LineRef → Bool) : returnLines s m f = s := by
  rw [returnLines, h]; rfl

theorem recallPage_noLines (h : s.lines = []) (p : PageRef) : recallPage s p = s := by
  rw [recallPage, recallLines_noLines h, returnLines_noLines h]

/-- What the recall of a range without lines makes of a page entry. -/
def forgotten (p : PageRef) (n k : Nat) (x : Page) : Page :=
  if underEntry p n (pageOfKey k) then { x with tlb := false, count := 0, revoked := false } else x

theorem recallRange_noLines (h : s.lines = []) (p : PageRef) (n : Nat) :
    recallRange s p n = { s with pages := s.pages.map (fun q => (q.1, forgotten p n q.1 q.2)) } := by
  have hret : ∀ l : List (PageRef × Word × Nat), l.foldl (fun s q => returnLines s p.m (lentLine s q.1)) s = s := fun l =>
    foldl_inv (P := fun t : State => t = s) (fun t q ht => by rw [ht, returnLines_noLines h]) rfl
  unfold recallRange
  dsimp only
  rw [hret, recallLines_noLines h]
  congr 1
  refine List.map_congr_left fun q _ => ?_
  unfold forgotten
  split <;> rfl

theorem tget_forgotten (p : PageRef) (n : Nat) (t : Tbl Page) (k : Nat) :
    (tget (t.map (fun q => (q.1, forgotten p n q.1 q.2))) Page.reset k).rebuild = (tget t Page.reset k).rebuild := by
  induction t with
  | nil => rfl
  | cons q r ih =>
    rw [List.map_cons, tget, tget]
    by_cases hk : q.1 = k
    · rw [if_pos hk, if_pos hk, forgotten]
      split <;> rfl
    · rw [if_neg hk, if_neg hk, ih]

/-- What a leaf written and the recall of its range leave: the modules, whether a page waits to be rebuilt, and the leaf. -/
theorem recallRange_leaf (hmem : MemOk s) (h : s.lines = []) (a : Nat) (e : Word) (p : PageRef) (n : Nat) :
    let u := recallRange { s with mem := memWrite s.mem a 8 e.toNat } p n
    u.mods = s.mods ∧ (∀ q, (pageAt u q).rebuild = (pageAt s q).rebuild) ∧ memRead u.mem a 8 = e.toNat := by
  dsimp only
  rw [recallRange_noLines (s := { s with mem := memWrite s.mem a 8 e.toNat }) h]
  refine ⟨rfl, fun q => tget_forgotten .., ?_⟩
  exact (memRead_write_same a 8 _ hmem).trans (Nat.mod_eq_of_lt e.isLt)

theorem copyFrame_lines (s : State) (a b : Nat) : (copyFrame s a b).lines = s.lines := by
  have hput : ∀ (t : State) (ecc : Tbl Ecc) (poison : Tbl Bool), t.lines = s.lines →
      { t with ecc := ecc, poison := poison }.lines = s.lines :=
    fun _ _ _ ht => ht
  exact hput _ _ _ (foldl_inv (P := fun t : State => t.lines = s.lines) (fun _ _ ht => ht) rfl)

theorem fillFrame_lines (s : State) (a : Nat) (bytes : Memory) : (fillFrame s a bytes).lines = s.lines := by
  unfold fillFrame
  refine foldl_inv (P := fun t : State => t.lines = s.lines) (fun _ _ ht => ht) ?_
  exact foldl_inv (P := fun t : State => t.lines = s.lines) (fun _ _ ht => ht) rfl

end

/-! ### Reclaims (R371, R372) -/

section
variable {s : State} {m id : Nat} {l : Lease} (hl : leaseAt (modAt s m).lend id = some l)

/-- The frames of a switched page filled by copies. -/
theorem fillSwitched_copy_lines (s : State) (l : Lease) (p : PageRef) (e : Word) (f : Nat) :
    (fillSwitched s l p e f .copy).1.lines = s.lines :=
  foldl_inv (P := fun t : State => t.lines = s.lines) (fun _ _ ht => (copyFrame_lines ..).trans ht) rfl

/-- A page switched to a chosen frame has the switched leaf (R371 step 4). -/
theorem switchPage_copies {p : PageRef} {a f : Nat} {fs : List Nat} (hmem : MemOk s) (hlines : s.lines = [])
    (hf : chooseFrame s p (BitVec.ofNat 64 (memRead s.mem a 8)) fs false = some f) :
    ∃ t b, switchPage s l p a fs false .copy = some (t, b) ∧
      memRead t.mem a 8 = (switchedLeaf (BitVec.ofNat 64 (memRead s.mem a 8)) f).toNat := by
  unfold switchPage
  dsimp only
  rw [hf, recallPage_noLines hlines]
  obtain ⟨-, -, hread⟩ := recallRange_leaf (fillSwitched_memOk hmem) ((fillSwitched_copy_lines s l p _ f).trans hlines) a
    (switchedLeaf (BitVec.ofNat 64 (memRead s.mem a 8)) f) p (leafFrames (BitVec.ofNat 64 (memRead s.mem a 8)))
  exact ⟨_, _, rfl, hread⟩

theorem recoverLine_mods (s : State) (l : LineRef) (lost : List Nat) : (recoverLine s l lost).mods = s.mods := by
  unfold recoverLine
  extract_lets ln gone back returned home s1
  split
  · next at_ _ =>
    extract_lets s2
    have hs2 : s2.mods = s.mods := by
      show (if returned then settleD s1 ln at_ else s1).mods = s.mods
      split
      · exact settleD_mods ..
      · rfl
    split
    · exact hs2
    · exact hs2
  · rfl

theorem recoverRegion_mods (s : State) (l : Lease) : (recoverRegion s l).mods = s.mods := by
  unfold recoverRegion
  refine foldl_mods (fun t p => ?_) _ _
  dsimp only
  split
  · rfl
  · exact foldl_mods (fun _ _ => recoverLine_mods ..) _ _

section
include hl
variable (hw : l.window = false) (hup : modUp s m = true)
include hw hup

theorem reclaim_begins (hr : l.reclaiming = false) (hb : modUp s l.borrower = true) (fs : List Nat) :
    exec (.reclaim m id fs) s = .next (sendReclaim s m l) := by
  show execReclaim m id fs s = _
  simp [execReclaim, hl, hw, hup, hr, hb]

variable (hr : l.reclaiming = true)
include hr

theorem reclaim_switches (hb : modUp s l.borrower = true) {p : PageRef} {e : Word} {a f : Nat} {fs : List Nat} (hmem : MemOk s)
    (hlines : s.lines = []) (hleaf : leavesOf (leasePages s l.borrower l) = [(p, e, a)]) (hwait : copyWaits s l p e = false)
    (hf : chooseFrame s p (BitVec.ofNat 64 (memRead s.mem a 8)) fs false = some f) :
    Goes (exec (.reclaim m id fs) s) (fun t =>
      memRead t.mem a 8 = (switchedLeaf (BitVec.ofNat 64 (memRead s.mem a 8)) f).toNat) := by
  obtain ⟨t, b, ht, hread⟩ := switchPage_copies (l := l) hmem hlines hf
  have he : ∃ g, exec (.reclaim m id fs) s = .next (putBorrow t l.borrower m id false g) := by
    show ∃ g, execReclaim m id fs s = _
    simp [execReclaim, hl, hw, hup, hr, hb, returnLines_noLines hlines, hleaf, hwait, ht]
  obtain ⟨g, he⟩ := he
  exact ⟨_, he, hread⟩

theorem release_empties (hb : modUp s l.borrower = true) (hpages : leasePages s l.borrower l = [])
    (ht : s.tick.toNat ≤ l.t0 + reclaimTime l) : Goes (exec (.release m id) s) (fun t => leaseAt (modAt t m).lend id = none) := by
  show Goes (execRelease m id s) _
  unfold execRelease
  rw [hl]
  dsimp only
  rw [if_neg (by simp [hr, hw, hup, hb, hpages, ht])]
  refine ⟨_, rfl, ?_⟩
  show leaseAt (modAt _ m).lend id = none
  rw [modAt_of_mods (leaseEvents_mods ..), setBorrow_lend, modAt_setMod]
  refine leaseAt_eq_none_iff.mpr fun k hk hid => ?_
  simpa [hid] using (List.mem_filter.mp hk).2

theorem reclaimDeadline_revokes (ht : l.t0 + reclaimTime l ≤ s.tick.toNat) (fs : List Nat) :
    Goes (exec (.reclaimDeadline m id fs) s) (fun t => leaseAt (modAt t m).lend id = none) := by
  show Goes (execReclaimDeadline m id fs s) _
  unfold execReclaimDeadline
  rw [hl]
  dsimp only
  rw [if_neg (by simp [hr, hw, hup, ht])]
  refine ⟨_, rfl, ?_⟩
  show leaseAt (modAt _ m).lend id = none
  rw [modAt_of_mods (leaseEvents_mods ..), putBorrow_lend, modAt_of_mods (endPages_mods ..), modAt_of_mods (dropPins_mods ..),
    modAt_of_mods (recoverRegion_mods ..), putLend_lend]
  exact leaseAt_onLease_revoked _ _ fun _ => rfl

end

end

/-! ### Rows (R378) -/

theorem mem_nubStep (acc : List Nat) (x u : Nat) : u ∈ (if acc.contains x then acc else acc ++ [x]) ↔ u ∈ acc ∨ u = x := by
  split
  · next h => exact ⟨.inl, fun hu => hu.elim id fun hx => hx ▸ List.contains_iff_mem.mp h⟩
  · rw [List.mem_append, List.mem_singleton]

theorem mem_nubNat {l : List Nat} {u : Nat} : u ∈ nubNat l ↔ u ∈ l := by
  have hfold : ∀ acc, u ∈ l.foldl (fun acc x => if acc.contains x then acc else acc ++ [x]) acc ↔ u ∈ acc ∨ u ∈ l := by
    induction l with
    | nil => simp
    | cons x l ih => intro acc; rw [List.foldl_cons, ih, mem_nubStep, or_assoc, List.mem_cons]
  exact (hfold []).trans (by simp)

/-- A row with one block no longer lost. -/
def withoutMember (t : Nat) (r : RowSt) : RowSt :=
  { r with lost := r.lost.filter (fun u => u != t), gone := r.gone.filter (fun u => u != t) }

/-- A row whose only lost block is rebuilt has none left. -/
theorem withoutMember_clean {r : RowSt} {t : Nat} (h : nubNat (r.lost ++ r.gone) = [t]) :
    (withoutMember t r).lost = [] ∧ (withoutMember t r).gone = [] := by
  have honly : ∀ u ∈ r.lost ++ r.gone, u = t := fun u hu => by
    rwa [← mem_nubNat, h, List.mem_singleton] at hu
  constructor
  · exact List.filter_eq_nil_iff.mpr fun u hu => by simp [honly u (List.mem_append_left _ hu)]
  · exact List.filter_eq_nil_iff.mpr fun u hu => by simp [honly u (List.mem_append_right _ hu)]

theorem rowAt_putRow (s : State) (j n : Nat) (f : RowSt → RowSt) : rowAt (putRow s j n f) j n = f (rowAt s j n) := by
  rw [putRow, rowAt, modAt_setMod]
  exact tget_tput_same ..

theorem rowAt_stepDone (s : State) (m j n : Nat) : rowAt (stepDone s m) j n = rowAt s j n := by
  unfold rowAt stepDone putService
  by_cases h : j = m
  · rw [h, modAt_setMod]
  · rw [modAt_setMod_other _ _ _ _ h]

theorem rowAt_of_mods {s u : State} (h : u.mods = s.mods) (j n : Nat) : rowAt u j n = rowAt s j n := by
  rw [rowAt, modAt_of_mods h]
  rfl

/-- What becomes of the lost block of a row's tray: none when it cannot be rebuilt. -/
def rebuildBlock (s : State) (set row t : Nat) : Option State :=
  if parTray row 0 = t || parTray row 1 = t then rebuildParity s set row t else rebuildData s (4 * t + set) row

theorem rebuildBlock_data (s : State) (set : Nat) {row t : Nat} (h0 : parTray row 0 ≠ t) (h1 : parTray row 1 ≠ t) :
    rebuildBlock s set row t = rebuildData s (4 * t + set) row := if_neg (by simp [h0, h1])

theorem rebuildBlock_parity (s : State) (set : Nat) {row t p : Nat} (hp : p < 2) (h : parTray row p = t) :
    rebuildBlock s set row t = rebuildParity s set row t := by
  refine if_pos ?_
  obtain rfl | rfl : p = 0 ∨ p = 1 := by omega
  · simp [h]
  · simp [h]

section
variable {s : State} {set row t : Nat} (hset : set < 4)
  (hlost : nubNat ((rowAt s set row).lost ++ (rowAt s set row).gone) = [t])
include hset hlost

theorem rowRebuild_stale (h : rowCurrent s set row = false ∨ modUp s (4 * t + set) = false ∨ (modAt s (4 * t + set)).sp.work ≠ []) :
    exec (.rowRebuild set row) s = .next s := by
  show execRowRebuild set row s = _
  unfold execRowRebuild
  by_cases hcur : rowCurrent s set row = false
  · exact if_pos (by simp [hcur])
  · rw [if_neg (by simp [hcur, hset]), hlost]
    refine congrArg _ (if_pos ?_)
    simpa [hcur] using h

variable (hcur : rowCurrent s set row = true) (hup : modUp s (4 * t + set) = true) (hwork : (modAt s (4 * t + set)).sp.work = [])
include hcur hup hwork

/-- A block that can be rebuilt is, and its row notes it. -/
theorem rowRebuild_eq {u : State} (hr : rebuildBlock s set row t = some u) :
    exec (.rowRebuild set row) s = .next (stepDone (putRow u set row (withoutMember t)) (4 * t + set)) := by
  show execRowRebuild set row s = _
  unfold execRowRebuild
  rw [if_neg (by simp [hcur, hset]), hlost]
  show Host.Outcome.next (rebuildMember set row s t) = _
  unfold rebuildMember
  rw [rebuildBlock] at hr
  rw [if_neg (by simp [hup, hwork]), hr]
  rfl

/-- What follows of the rebuilt state, whose row is that of `u` without the lost block. -/
theorem rowRebuild_goes {u : State} {P : State → Prop} (hr : rebuildBlock s set row t = some u)
    (hP : rowAt (stepDone (putRow u set row (withoutMember t)) (4 * t + set)) set row = withoutMember t (rowAt u set row) →
      P (stepDone (putRow u set row (withoutMember t)) (4 * t + set))) : Goes (exec (.rowRebuild set row) s) P :=
  ⟨_, rowRebuild_eq hset hlost hcur hup hwork hr, hP (by rw [rowAt_stepDone, rowAt_putRow])⟩

end

/-! ### Data blocks -/

section
variable {s : State} {p : PageRef}

theorem rebuildInto_mods (s : State) (p : PageRef) (old new : Nat) : (rebuildInto s p old new).mods = s.mods := by
  unfold rebuildInto
  split
  · exact fillFrame_mods ..
  · exact copyFrame_mods ..

theorem rebuildInto_lines (s : State) (p : PageRef) (old new : Nat) : (rebuildInto s p old new).lines = s.lines := by
  unfold rebuildInto
  split
  · exact fillFrame_lines ..
  · exact copyFrame_lines ..

/-- A page of 64 KiB rebuilt in a new frame waits no more, and its leaf names the frame. -/
theorem rebuildLeaf_leaves {e : Word} {a f : Nat} (hmem : MemOk s) (hlines : s.lines = []) (hps : leafPs e = 0) :
    ∃ u, rebuildLeaf s p e a (some f) = some u ∧ u.mods = s.mods ∧ (pageAt u p).rebuild = false ∧
      memRead u.mem a 8 = (leafWithFrame e f).toNat := by
  have hone : leafFrames e = 1 := if_neg (by simp [hps])
  have hpage : leafPage e p = p := if_neg (by simp [hps])
  let t := rebuildInto s p (leafFrame e + 0) (f + 0)
  have hlines' : t.lines = [] := (rebuildInto_lines ..).trans hlines
  obtain ⟨hmods, hrebuild, hread⟩ := recallRange_leaf (s := setPage t p { pageAt t p with rebuild := false })
    (rebuildInto_memOk hmem) hlines' a (leafWithFrame e f) p 1
  unfold rebuildLeaf
  rw [hone, hpage, recallPage_noLines hlines, Option.map_some]
  simp only [List.range_one, List.foldl_cons, List.foldl_nil]
  exact ⟨_, rfl, hmods.trans (rebuildInto_mods ..), (hrebuild p).trans (by rw [pageAt_setPage]), hread⟩

variable {m n : Nat}

theorem rebuildData_unused (h : pageInRow s m n = none) : rebuildData s m n = some s := by rw [rebuildData, h]

theorem rebuildData_page {va : Word} {bs : List Nat} {e : Word} {a : Nat} (hpage : pageInRow s m n = some p)
    (hva : committedVa s p false = some va) (hbs : committedBlock s p = some bs) (hcopy : (memberBlock s (m % 4) n (m / 4)).isSome = true)
    (hwait : (pageAt s p).rebuild = true) (hw : walkPage s m p.tag (p.pn * 65536) = .leaf e a) :
    rebuildData s m n = rebuildLeaf s p e a (spareFrame s m e) := by
  unfold rebuildData
  rw [hpage]
  dsimp only
  rw [hva, hbs]
  dsimp only
  rw [if_pos hcopy]
  dsimp only [Option.bind_some]
  rw [hwait, hw]

end

/-! ### Parity blocks -/

/-- The row with a parity block computed anew. -/
def withParity (p : Nat) (b : Memory) (r : RowSt) : RowSt := if p = 0 then { r with par0 := b } else { r with par1 := b }

theorem withParity_clean {r : RowSt} {t p : Nat} {b : Memory} (h : nubNat (r.lost ++ r.gone) = [t]) :
    (withoutMember t (withParity p b r)).lost = [] ∧ (withoutMember t (withParity p b r)).gone = [] ∧
      (if p = 0 then (withoutMember t (withParity p b r)).par0 else (withoutMember t (withParity p b r)).par1) = b := by
  obtain ⟨hlost, hgone⟩ := withoutMember_clean h
  unfold withParity
  by_cases hp : p = 0
  · rw [if_pos hp, if_pos hp]
    exact ⟨hlost, hgone, rfl⟩
  · rw [if_neg hp, if_neg hp]
    exact ⟨hlost, hgone, rfl⟩

theorem rebuildParity_computes {s : State} {set row t p : Nat} {ds : List (Nat × List Nat)} (hp : p < 2) (ht : parTray row p = t)
    (h0 : p = 1 → parTray row 0 ≠ t) (hfar : farUp s (4 * t + set) = true) (hlen : ds.length = 6)
    (hds : (dataTrays row).map (fun u => (u, rowBlock s set row u)) = ds.map (fun d => (d.1, some d.2))) :
    rebuildParity s set row t = some (putRow s set row (withParity p (blockMem (rowSum row p ds)))) := by
  have hwhich : (if parTray row 0 = t then 0 else 1) = p := by
    obtain rfl | rfl : p = 0 ∨ p = 1 := by omega
    · exact if_pos ht
    · exact if_neg (h0 rfl)
  have hall : (dataTrays row).filterMap (fun u => (rowBlock s set row u).map (fun b => (u, b))) = ds := by
    have h := congrArg (List.filterMap (fun q : Nat × Option (List Nat) => q.2.map (fun b => (q.1, b)))) hds
    rw [List.filterMap_map, List.filterMap_map] at h
    exact h.trans (List.filterMap_some ..)
  unfold rebuildParity
  rw [hwhich, hall]
  exact if_neg (by simp [hlen, hfar])

/-! ### The field of the code (R376) -/

/-- One bit of the second factor chooses whether `a` is added. -/
theorem gfMul_succ (a k : Nat) :
    ∃ a2, ∀ b, gfMul a b (k + 1) = (if b % 2 = 1 then a else 0) ^^^ gfMul a2 (b / 2) k :=
  ⟨_, fun _ => rfl⟩

/-- Multiplication is linear in its second factor. -/
theorem gfMul_xor (a x y k : Nat) : gfMul a (x ^^^ y) k = gfMul a x k ^^^ gfMul a y k := by
  induction k generalizing a x y with
  | zero => exact (Nat.xor_self 0).symm
  | succ k ih =>
    have hmod : (x ^^^ y) % 2 = (x % 2) ^^^ (y % 2) := Nat.xor_mod_two_pow (n := 1)
    have hdiv : (x ^^^ y) / 2 = (x / 2) ^^^ (y / 2) := Nat.xor_div_two
    obtain ⟨a2, h⟩ := gfMul_succ a k
    have hbit : (if (x ^^^ y) % 2 = 1 then a else 0) = (if x % 2 = 1 then a else 0) ^^^ (if y % 2 = 1 then a else 0) := by
      rw [hmod]
      rcases Nat.mod_two_eq_zero_or_one x with hx | hx <;> rcases Nat.mod_two_eq_zero_or_one y with hy | hy <;> simp [hx, hy]
    rw [h, h, h, hdiv, ih, hbit]
    ac_rfl

/-- A number's highest bit and the rest of it. -/
theorem eq_xor_of_high_bit {n d : Nat} (hle : 2 ^ n ≤ d) (hlt : d < 2 ^ (n + 1)) : d = 2 ^ n ^^^ (d - 2 ^ n) := by
  obtain ⟨e, rfl⟩ := Nat.exists_eq_add_of_le hle
  rw [Nat.add_sub_cancel_left]
  have he : e < 2 ^ n := by omega
  refine Nat.eq_of_testBit_eq fun j => ?_
  rw [Nat.testBit_xor, Nat.testBit_two_pow]
  rcases Nat.lt_trichotomy j n with h | rfl | h
  · rw [Nat.testBit_two_pow_add_gt h, decide_eq_false (by omega), Bool.false_xor]
  · rw [Nat.testBit_two_pow_add_eq, decide_eq_true rfl, Bool.true_xor]
  · have hp : 2 ^ (n + 1) ≤ 2 ^ j := Nat.pow_le_pow_right (by decide) h
    rw [Nat.testBit_lt_two_pow (hlt.trans_le hp), Nat.testBit_lt_two_pow (by omega), decide_eq_false (by omega), Bool.false_xor]

/-- A linear map that keeps the first `n` powers of 2 keeps every number of `n` bits. -/
theorem eq_of_linear {F : Nat → Nat} (hadd : ∀ x y, F (x ^^^ y) = F x ^^^ F y) {n : Nat} (hpow : ∀ b, b < n → F (2 ^ b) = 2 ^ b)
    {d : Nat} (hd : d < 2 ^ n) : F d = d := by
  induction n generalizing d with
  | zero =>
    obtain rfl : d = 0 := by omega
    have h := hadd 0 0
    rwa [Nat.xor_self, Nat.xor_self] at h
  | succ n ih =>
    have hlow : ∀ {e}, e < 2 ^ n → F e = e := ih fun b hb => hpow b (by omega)
    by_cases hb : d < 2 ^ n
    · exact hlow hb
    · have hsplit := eq_xor_of_high_bit (Nat.not_lt.mp hb) hd
      calc F d = F (2 ^ n) ^^^ F (d - 2 ^ n) := by rw [← hadd, ← hsplit]
        _ = 2 ^ n ^^^ (d - 2 ^ n) := by rw [hpow n (by omega), hlow (by omega)]
        _ = d := hsplit.symm

/-- Division by `c` undoes multiplication by it where it does so for the powers of 2. -/
theorem solveOne_gfMul {c d : Nat} (hpow : ∀ b, b < 8 → solveOne c (gfMul c (2 ^ b) 8) = 2 ^ b) (hd : d < 256) :
    solveOne c (gfMul c d 8) = d :=
  eq_of_linear (F := fun d => solveOne c (gfMul c d 8)) (fun x y => by unfold solveOne; rw [gfMul_xor, gfMul_xor]) hpow hd

/-- The inverses of one coefficient, and of the sum of two, undo the products of the powers of 2. -/
theorem solveOne_parity_powers : ∀ i, i < 6 → ∀ b, b < 8 → solveOne (parCoef 1 i) (gfMul (parCoef 1 i) (2 ^ b) 8) = 2 ^ b := by
  decide +kernel

theorem solveOne_parities_powers : ∀ i, i < 6 → ∀ j, j < 6 → i ≠ j → ∀ b, b < 8 →
    solveOne (Nat.xor (parCoef 1 i) (parCoef 1 j)) (gfMul (Nat.xor (parCoef 1 i) (parCoef 1 j)) (2 ^ b) 8) = 2 ^ b := by
  decide +kernel
end Sys2Proof.Machine

namespace Sys2Proof

open Sys2Proof.Machine

/-- Settles O50: each event by the tables and pages that it leaves, the rebuild of a row by its one lost block, and the code's inverses on
the powers of 2. -/
theorem leasesRun : Obligations.LeasesRun := by
  refine ⟨fun s m i e => ⟨leaseGrant_refused, fun hup hi hused hlegal =>
      ⟨leaseGrant_host hup hi hused hlegal, leaseGrant_lends hup hi hused hlegal⟩⟩,
    fun s m id l hl hm hh hup => ⟨fun x hr hx ht => ?_, fun hw hr ht => ?_, fun hw hr => ⟨?_, fun x => ?_⟩,
      fun hw => ⟨fun ht => ?_, ?_, ?_⟩, fun hw hr hb fs => ?_, fun hw hr => ⟨fun hb => ⟨fun p e a f fs hmem hlines hleaf hwait hf => ?_,
        fun hpages ht => ?_⟩, fun fs ht => ?_⟩⟩,
    fun s set row t hset hlost => ⟨rowRebuild_stale hset hlost, fun hcur hup hwork => ⟨fun h0 h1 => ⟨fun hpage => ?_, ?_⟩,
      fun p ds hp ht h0 hfar hlen hds => ?_⟩⟩,
    fun i j d hi hj hd => ⟨solveOne_gfMul (solveOne_parity_powers i hi) hd,
      fun hij => solveOne_gfMul (solveOne_parities_powers i hi j hj hij) hd⟩⟩
  -- renewal and expiry
  · exact ⟨_, (leaseRenewal_eq hl x).trans (congrArg _ (if_pos (by simp [hup, hr, hx, ht]))), renewed_lend hl x l.borrower⟩
  · exact ⟨_, (leaseExpiry_lend hl hup hw).trans (congrArg _ (if_neg (by simp [hr, BitVec.not_lt.mpr ht]))), sendReclaim_lend hl⟩
  · exact (leaseExpiry_lend hl hup hw).trans (congrArg _ (if_pos (by simp [hr])))
  · exact (leaseRenewal_eq hl x).trans (congrArg _ (if_neg (by simp [hr])))
  -- revocation
  · obtain ⟨rfl, -⟩ := leaseAt_some hl
    exact ⟨_, leaseExpiry_window hl hup hw ht, hm ▸ revokeWindow_lend hh 2⟩
  · obtain ⟨rfl, -⟩ := leaseAt_some hl
    exact ⟨_, windowRevocation_window hl hup hw, hm ▸ revokeWindow_lend hh 2⟩
  · exact ⟨_, windowRevocation_window hl hup hw, revokeWindow_pins hh 2⟩
  -- reclaim, release and the deadline
  · exact ⟨_, reclaim_begins hl hw hup hr hb fs, sendReclaim_lend hl⟩
  · exact reclaim_switches hl hw hup hr hb hmem hlines hleaf hwait hf
  · exact release_empties hl hw hup hr hb hpages ht
  · exact reclaimDeadline_revokes hl hw hup hr ht fs
  -- rows
  · have hr := (rebuildBlock_data s set h0 h1).trans (rebuildData_unused hpage)
    refine rowRebuild_goes hset hlost hcur hup hwork hr fun hrow => ?_
    rw [hrow]
    exact withoutMember_clean hlost
  · intro p va bs e a f hpage hva hbs hcopy hwait hmem hlines hw hps hf
    obtain ⟨u, hu, hmods, hrebuild, hread⟩ := rebuildLeaf_leaves (p := p) (a := a) (f := f) hmem hlines hps
    have hr := (rebuildBlock_data s set h0 h1).trans ((rebuildData_page hpage hva hbs hcopy hwait hw).trans (hf ▸ hu))
    refine ⟨rowRebuild_goes hset hlost hcur hup hwork hr fun hrow => ?_,
      rowRebuild_goes hset hlost hcur hup hwork hr fun _ => ⟨hrebuild, hread⟩⟩
    rw [hrow, rowAt_of_mods hmods]
    exact withoutMember_clean hlost
  · have hr := (rebuildBlock_parity s set hp ht).trans (rebuildParity_computes hp ht h0 hfar hlen hds)
    refine rowRebuild_goes hset hlost hcur hup hwork hr fun hrow => ?_
    rw [hrow, rowAt_putRow]
    exact withParity_clean hlost

end Sys2Proof
end
